-- ==== Sys2Proof/Word.lean ====
section
/-! DEFINITION. The word types of the HJX-640M (R3): a byte is 8 bits, a half 16, a word 32 and a dword 64. -/
namespace Sys2Proof

/-- A dword (R3): the width of x registers, CSRs, PCs and addresses while they are computed. -/
abbrev Word := BitVec 64

/-- A byte (R3). -/
abbrev Byte := BitVec 8

end Sys2Proof
end

