-- ==== Sys2Proof/Syntax.lean ====
section
/-! DEFINITION. The abstract syntax of every row of the opcode table: the table lists the part's steps, so a row is
an instruction of a thread or a step of another agent (98_reader.md, 95_what_each_step_holds.md). -/
namespace Sys2Proof

/-- The fields of the 64-bit long format (R275), each as the word holds it; the opcode class decides how D, A, B
and X are read (R276-R280). -/
structure Long where
  /-- destination field, bits 31:20 -/
  d : BitVec 12
  /-- source A field, bits 43:32 -/
  a : BitVec 12
  /-- source B field or immediate, bits 55:44 -/
  b : BitVec 12
  /-- modifier byte, bits 63:56 -/
  x : BitVec 8
  /-- group field, bits 19:16 -/
  g : BitVec 4
  /-- uniform bit, bit 7 -/
  u : Bool
  deriving DecidableEq, Repr

/-- The floating formats (R256). -/
inductive Fmt where
  | fp64 | fp32 | fp16 | bf16 | e4m3 | e5m2
  deriving DecidableEq, Repr

/-- The operations of atomics (R70, R334). -/
inductive AtomicOp where
  | add | and | or | xor | min | max | minu | maxu | xchg | cas
  | fadd (f : Fmt) | fmin (f : Fmt) | fmax (f : Fmt)
  deriving DecidableEq, Repr

/-- The agents that the directory tracks (R69), and a CXL device that caches package memory (R38). -/
inductive Agent where
  | cdie (d : Nat) | ldie (l : Nat) | pkg (p : Nat) | cxl (l : Nat)
  deriving DecidableEq, Repr

/-- Who evicts a line (R65, R69). -/
inductive Holder where
  | core (c : Nat) | agent (a : Agent) | icache (c : Nat)
  deriving DecidableEq, Repr

/-- What a request to a home asks (R69, R70). -/
inductive ReqOp where
  | read
  | write (data : List Byte)
  | atomic (op : AtomicOp) (width operand compare : Nat)
  deriving DecidableEq, Repr

/-- A request to a home: the requester agent and its sequence number identify it (R75). -/
structure Request where
  agent : Agent
  seq : BitVec 32
  addr : Word
  op : ReqOp
  deriving DecidableEq, Repr

/-- What a patrol scrub finds (R19). -/
inductive ScrubResult where
  | clean | corrected | uncorrectable
  deriving DecidableEq, Repr

/-- A call about a grid or a task that its own package answers (R168, R178, R359-R362). -/
inductive PodCall where
  | gcancel (how : Word) | gstat (which : Word) | tcomm | tabort
  deriving DecidableEq, Repr

/-- What one package asks of another, or answers (R151-R170, R178, R187): the bodies of Denid messages, whose format is internal
(R30). A handle is that of R153; a descriptor, a context and a fault report are the bytes of their records (R110, R151, R166). -/
inductive PodBody where
  | none
  /-- the broadcast of a descriptor, with the spawner's identity and spawn sequence number (R158) -/
  | offer (handle : Nat) (desc ctx : List Byte) (spawner seq : Nat)
  /-- free capacity in units (R158) -/
  | capacity (handle units : Nat)
  /-- indices dealt or moved to the package; an empty range where it has no share (R158, R160) -/
  | share (handle lo hi : Nat)
  /-- what the package has not dealt (R160) -/
  | undealt (handle : Nat) (ranges : List (Nat × Nat))
  /-- a package whose dies are exhausted asks the head (R160) -/
  | ask (handle : Nat)
  /-- the head takes half of what the package has not dealt, for another one; and what that is (R160) -/
  | giveUp (handle thief : Nat)
  | gave (handle thief lo hi : Nat)
  /-- the sluice asks for a commit; the answer; the start or the release (R162) -/
  | commit (handle : Nat)
  | committed (handle : Nat) (yes : Bool)
  | begin_ (handle : Nat)
  | release (handle : Nat)
  /-- every block of a gang grid is saved (R163) -/
  | save (handle : Nat)
  /-- retired blocks: 0 completed, 1 faulted, 2 cancelled, 3 never started (R165, R168) -/
  | retired (handle lo hi outcome : Nat)
  /-- a fault, counted and reported; whether it reached grid policy (R167, R228) -/
  | fault (handle : Nat) (report : List Byte) (policy : Bool)
  /-- a fenced C-die held blocks (R170) -/
  | dieFenced (handle : Nat)
  /-- a cancellation reaches a package (R168) -/
  | cancel (handle : Nat) (hard : Bool)
  /-- the grid is complete (R159) -/
  | finished (handle : Nat)
  /-- a call with the caller's context, and its answer (R178, R359) -/
  | call (handle : Nat) (what : PodCall) (ctx : List Byte)
  | answer (value : Word)
  /-- a ring request, with its number at the sender and its job: operation 0-5 in the order ticket, fill, push, pop, kpush, kpop
  (R187, R188) -/
  | ring (req op : Nat) (noWait : Bool) (header key : Nat) (payload : List Byte) (buffer room job : Option Nat)
  /-- the answer to a ring request: status 7 for one that was withdrawn, 31 for one that the queue does not take (R187, R190, R365) -/
  | ringAnswer (req status value seq : Nat) (payload : List Byte) (poison : Bool)
  /-- a ring request is withdrawn (R365) -/
  | ringGone (req : Nat)
  deriving DecidableEq, Repr

/-- A message of the Denid link (R30, R33): its format is internal, these are what the rules name. -/
structure LinkMsg where
  source : Nat
  dest : Nat
  hop : Nat
  ident : Nat
  cls : Nat
  /-- slots beyond its first -/
  more : Nat := 0
  /-- the route it follows: the ports of successive packages -/
  route : List Nat := []
  body : PodBody := .none
  deriving DecidableEq, Repr

/-- A 256-byte flit (R30): header, payload and CRC, and the messages that end in its payload. -/
structure Flit where
  header : Word
  /-- bytes 247:8 -/
  payload : List Byte
  crc : Word
  msgs : List LinkMsg
  deriving DecidableEq, Repr

/-- Why a port retrains (R34). -/
inductive RetrainCause where
  | sixteenRetries | blockLockLost | firmware
  deriving DecidableEq, Repr

/-- The range of a remote fence (R89): a start address and a size in bytes. -/
structure FenceRange where
  start : Word
  size : Word
  deriving DecidableEq, Repr

/-- The two issue ports of a quarter (R194). -/
inductive IssuePort where
  | perLane | uniform
  deriving DecidableEq, Repr

/-- One constructor per row of the opcode table: rows with operands in the table's order, then rows without. Each
docstring names the row and its rule; a step of another agent that concerns one numbered object takes that number from
State.subject. -/
inductive Instr where
  /-- BOOT_STAGE_1 (R54). -/
  | bootStage1 (agree : Bool)
  /-- BOOT_STAGE_3 (R54). -/
  | bootStage3 (trained : Bool)
  /-- BOOT_STAGE_4 (R54). -/
  | bootStage4 (stacksOk : BitVec 16) (channelsOk : BitVec 32)
  /-- BOOT_STAGE_6 (R54). -/
  | bootStage6 (portsUp : BitVec 8)
  /-- MGATTREQ (R50). -/
  | mgattreq (addr : Word)
  /-- MGDBGNONCE (R45). -/
  | mgdbgnonce (addr : Word)
  /-- MGDBGREC (R45). -/
  | mgdbgrec (addr : Word)
  /-- REGISTER_WRITE (R4). -/
  | registerWrite (addr v : Word)
  /-- STACK_TEMPERATURE_CHANGE (R18). -/
  | stackTemperatureChange (stack celsius : Nat)
  /-- PATROL_SCRUB (R19). -/
  | patrolScrub (addr : Word) (found : ScrubResult)
  /-- UCIE_LANE_REPAIR (R13). -/
  | ucieLaneRepair (a b : Nat)
  /-- DIE_LINK_FENCED (R15). -/
  | dieLinkFenced (a b : Nat)
  /-- LPDDR_CHANNEL_FAILED (R22). -/
  | lpddrChannelFailed (ldie channel : Nat)
  /-- IDLE_FLIT (R30). -/
  | idleFlit (port : Nat) (flit : Flit)
  /-- DATA_FLIT (R31). -/
  | dataFlit (port : Nat) (flit : Flit)
  /-- RETRY_REQUEST (R31). -/
  | retryRequest (port : Nat) (flit : Flit) (expected : BitVec 16)
  /-- RETRAIN_MARKER (R34). -/
  | retrainMarker (port : Nat) (flit : Flit)
  /-- TIMEBASE_FLIT (R36). -/
  | timebaseFlit (port : Nat) (flit : Flit) (leaderTick : Nat)
  /-- RETRAIN (R34). -/
  | retrain (port : Nat) (cause : RetrainCause)
  /-- FORMATION_CLAIM (R55). -/
  | formationClaim (from_ round : Nat)
  /-- ACKNOWLEDGEMENT (R55). -/
  | acknowledgement (from_ round : Nat)
  /-- MEMBER_REPLY (R55). -/
  | memberReply (from_ round leader : Nat)
  /-- IMAGE (R55). -/
  | image (from_ round : Nat) (bytes : List Byte) (last : Bool)
  /-- FORMATION_DONE (R55). -/
  | formationDone (from_ round : Nat)
  /-- FORMED (R55). -/
  | formed (from_ round : Nat)
  /-- OWNERSHIP_NOTICE (R65). -/
  | ownershipNotice (core line : Nat)
  /-- DIRTY_AGE_WRITEBACK (R65). -/
  | dirtyAgeWriteback (core line : Nat)
  /-- LINE_EVICTION (R65). -/
  | lineEviction (by_ : Holder) (line : Nat)
  /-- DIRECTORY_READ (R69). -/
  | directoryRead (req : Request)
  /-- DIRECTORY_WRITE (R69). -/
  | directoryWrite (req : Request)
  /-- HOME_ATOMIC (R70). -/
  | homeAtomic (req : Request)
  /-- FAULT_QUEUE_REPLAY (R76). -/
  | faultQueueReplay (index : Nat) (repaired : Bool)
  /-- FRRESUME_RETRY (R99). -/
  | frresumeRetry (unit record : Nat)
  /-- FRRESUME_MIGRATE (R99). -/
  | frresumeMigrate (unit record : Nat)
  /-- TRGEN (R87). -/
  | trgen (v : Word)
  /-- REMOTE_SFENCE_VMA (R89). -/
  | remoteSfenceVma (die : Nat) (range : FenceRange)
  /-- REMOTE_SFENCE_VMA_ASID (R89). -/
  | remoteSfenceVmaAsid (die : Nat) (range : FenceRange) (asid : BitVec 16)
  /-- REMOTE_HFENCE_GVMA_VMID (R89). -/
  | remoteHfenceGvmaVmid (die : Nat) (range : FenceRange) (vmid : BitVec 14)
  /-- REMOTE_HFENCE_GVMA (R89). -/
  | remoteHfenceGvma (die : Nat) (range : FenceRange)
  /-- REMOTE_HFENCE_VVMA_ASID (R89). -/
  | remoteHfenceVvmaAsid (die : Nat) (range : FenceRange) (vmid : BitVec 14) (asid : BitVec 16)
  /-- REMOTE_HFENCE_VVMA (R89). -/
  | remoteHfenceVvma (die : Nat) (range : FenceRange) (vmid : BitVec 14)
  /-- RECALL (R114). -/
  | recall (id : Word)
  /-- SERVICE_COMPLETION (R118). -/
  | serviceCompletion (thread : Nat) (a0 a1 : Word)
  /-- GRUPLOAD (R125). -/
  | grupload (v : Word)
  /-- GRKICK (R126). -/
  | grkick (v : Word)
  /-- CAPACITY_REPORT (R158). -/
  | capacityReport (slot : Nat) (capacities : List (Nat × Nat))
  /-- SLUICE_COMMIT (R162). -/
  | sluiceCommit (slot : Nat) (answers : List Bool)
  /-- TAILRACE_REFILL (R188). -/
  | tailraceRefill (queue die job : Nat)
  /-- ISSUE (R194). -/
  | issue (core quarter : Nat) (port : IssuePort)
  /-- ISSUE_GROUP_SWAP (R198). -/
  | issueGroupSwap (core quarter active pending : Nat)
  /-- SLICE_GRANT (R212). -/
  | sliceGrant (core quarter lane : Nat)
  /-- SLICE_STARVATION (R212). -/
  | sliceStarvation (core quarter lane : Nat)
  /-- PREEMPT (R225). -/
  | preempt (handle : Word)
  /-- MOV_S (R301). -/
  | movS (f : Long)
  /-- MOV_Z (R301). -/
  | movZ (f : Long)
  /-- MOVI (R301). -/
  | movi (f : Long)
  /-- AND (R301). -/
  | and (f : Long)
  /-- OR (R301). -/
  | or (f : Long)
  /-- XOR (R301). -/
  | xor (f : Long)
  /-- ANDN (R301). -/
  | andn (f : Long)
  /-- BFI (R302). -/
  | bfi (f : Long)
  /-- CLZ (R301). -/
  | clz (f : Long)
  /-- CTZ (R301). -/
  | ctz (f : Long)
  /-- POPC (R301). -/
  | popc (f : Long)
  /-- BREV (R301). -/
  | brev (f : Long)
  /-- BFX_S (R302). -/
  | bfxS (f : Long)
  /-- BFX_Z (R302). -/
  | bfxZ (f : Long)
  /-- SEL (R301). -/
  | sel (f : Long)
  /-- SHI (R303). -/
  | shi (f : Long)
  /-- ADD_S (R304). -/
  | addS (f : Long)
  /-- ADD_Z (R304). -/
  | addZ (f : Long)
  /-- ADDS_S (R304). -/
  | addsS (f : Long)
  /-- ADDS_Z (R304). -/
  | addsZ (f : Long)
  /-- SUB_S (R304). -/
  | subS (f : Long)
  /-- SUB_Z (R304). -/
  | subZ (f : Long)
  /-- SUBS_S (R304). -/
  | subsS (f : Long)
  /-- SUBS_Z (R304). -/
  | subsZ (f : Long)
  /-- MIN_S (R304). -/
  | minS (f : Long)
  /-- MIN_Z (R304). -/
  | minZ (f : Long)
  /-- MAX_S (R304). -/
  | maxS (f : Long)
  /-- MAX_Z (R304). -/
  | maxZ (f : Long)
  /-- ADDMIN_S (R304). -/
  | addminS (f : Long)
  /-- ADDMIN_Z (R304). -/
  | addminZ (f : Long)
  /-- ADDMAX_S (R304). -/
  | addmaxS (f : Long)
  /-- ADDMAX_Z (R304). -/
  | addmaxZ (f : Long)
  /-- MUL_S (R305). -/
  | mulS (f : Long)
  /-- MUL_Z (R305). -/
  | mulZ (f : Long)
  /-- MULH_S (R305). -/
  | mulhS (f : Long)
  /-- MULH_Z (R305). -/
  | mulhZ (f : Long)
  /-- MAD_S (R305). -/
  | madS (f : Long)
  /-- MAD_Z (R305). -/
  | madZ (f : Long)
  /-- ABSD_S (R305). -/
  | absdS (f : Long)
  /-- ABSD_Z (R305). -/
  | absdZ (f : Long)
  /-- CLT_S (R306). -/
  | cltS (f : Long)
  /-- CLT_Z (R306). -/
  | cltZ (f : Long)
  /-- CLE_S (R306). -/
  | cleS (f : Long)
  /-- CLE_Z (R306). -/
  | cleZ (f : Long)
  /-- CEQ (R306). -/
  | ceq (f : Long)
  /-- SLL (R307). -/
  | sll (f : Long)
  /-- SRL (R307). -/
  | srl (f : Long)
  /-- SRA (R307). -/
  | sra (f : Long)
  /-- PADD (R308). -/
  | padd (f : Long)
  /-- PSUB (R308). -/
  | psub (f : Long)
  /-- PADDS (R308). -/
  | padds (f : Long)
  /-- PSUBS (R308). -/
  | psubs (f : Long)
  /-- PMIN (R308). -/
  | pmin (f : Long)
  /-- PMAX (R308). -/
  | pmax (f : Long)
  /-- PADDMIN (R308). -/
  | paddmin (f : Long)
  /-- PADDMAX (R308). -/
  | paddmax (f : Long)
  /-- PABSD (R308). -/
  | pabsd (f : Long)
  /-- PMUL (R308). -/
  | pmul (f : Long)
  /-- PMAD (R308). -/
  | pmad (f : Long)
  /-- PCEQ (R308). -/
  | pceq (f : Long)
  /-- PCLT (R308). -/
  | pclt (f : Long)
  /-- PSLL (R308). -/
  | psll (f : Long)
  /-- PSRL (R308). -/
  | psrl (f : Long)
  /-- PSRA (R308). -/
  | psra (f : Long)
  /-- FADD (R316). -/
  | fadd (f : Long)
  /-- FSUB (R316). -/
  | fsub (f : Long)
  /-- FMUL (R316). -/
  | fmul (f : Long)
  /-- FMAD (R316). -/
  | fmad (f : Long)
  /-- FMSB (R316). -/
  | fmsb (f : Long)
  /-- FMIN (R317). -/
  | fmin (f : Long)
  /-- FMAX (R317). -/
  | fmax (f : Long)
  /-- FABS (R317). -/
  | fabs (f : Long)
  /-- FCEQ (R318). -/
  | fceq (f : Long)
  /-- FCLT (R318). -/
  | fclt (f : Long)
  /-- FCLE (R318). -/
  | fcle (f : Long)
  /-- FCLASS (R319). -/
  | fclass (f : Long)
  /-- FRCP (R320). -/
  | frcp (f : Long)
  /-- FRSQ (R320). -/
  | frsq (f : Long)
  /-- FEXP2 (R320). -/
  | fexp2 (f : Long)
  /-- FLOG2 (R320). -/
  | flog2 (f : Long)
  /-- CVT (R321). -/
  | cvt (f : Long)
  /-- CVTFS (R321). -/
  | cvtfs (f : Long)
  /-- CVTFZ (R321). -/
  | cvtfz (f : Long)
  /-- CVTSF (R321). -/
  | cvtsf (f : Long)
  /-- CVTZF (R321). -/
  | cvtzf (f : Long)
  /-- BXPK (R323). -/
  | bxpk (f : Long)
  /-- BXUNP (R324). -/
  | bxunp (f : Long)
  /-- TRPK (R323). -/
  | trpk (f : Long)
  /-- TRUNP (R324). -/
  | trunp (f : Long)
  /-- BXCMP (R323). -/
  | bxcmp (f : Long)
  /-- F8PK (R325). -/
  | f8pk (f : Long)
  /-- F8UNP (R325). -/
  | f8unp (f : Long)
  /-- LD (R331). -/
  | ld (f : Long)
  /-- ST (R331). -/
  | st (f : Long)
  /-- LDNF (R332). -/
  | ldnf (f : Long)
  /-- PF (R333). -/
  | pf (f : Long)
  /-- LDR (R331). -/
  | ldr (f : Long)
  /-- STR (R331). -/
  | str (f : Long)
  /-- AADD (R334). -/
  | aadd (f : Long)
  /-- AAND (R334). -/
  | aand (f : Long)
  /-- AOR (R334). -/
  | aor (f : Long)
  /-- AXOR (R334). -/
  | axor (f : Long)
  /-- AMIN (R334). -/
  | amin (f : Long)
  /-- AMAX (R334). -/
  | amax (f : Long)
  /-- AMINU (R334). -/
  | aminu (f : Long)
  /-- AMAXU (R334). -/
  | amaxu (f : Long)
  /-- AXCHG (R334). -/
  | axchg (f : Long)
  /-- ACAS (R334). -/
  | acas (f : Long)
  /-- AFADD (R334). -/
  | afadd (f : Long)
  /-- AFMIN (R334). -/
  | afmin (f : Long)
  /-- AFMAX (R334). -/
  | afmax (f : Long)
  /-- TDEF (R375). -/
  | tdef (f : Long)
  /-- TREL (R375). -/
  | trel (f : Long)
  /-- CPY (R340). -/
  | cpy (f : Long)
  /-- TFILL (R340). -/
  | tfill (f : Long)
  /-- TDRN (R340). -/
  | tdrn (f : Long)
  /-- CPYS (R340). -/
  | cpys (f : Long)
  /-- MMA (R376). -/
  | mma (f : Long)
  /-- MMAS (R376). -/
  | mmas (f : Long)
  /-- WBLD (R379). -/
  | wbld (f : Long)
  /-- ACCLD (R379). -/
  | accld (f : Long)
  /-- ACCZR (R379). -/
  | acczr (f : Long)
  /-- ACCDR (R379). -/
  | accdr (f : Long)
  /-- MLD (R384). -/
  | mld (f : Long)
  /-- MLDT (R384). -/
  | mldt (f : Long)
  /-- MXFENCE (R386). -/
  | mxfence (f : Long)
  /-- VALL (R348). -/
  | vall (f : Long)
  /-- VANY (R348). -/
  | vany (f : Long)
  /-- VBAL (R348). -/
  | vbal (f : Long)
  /-- GRANK (R348). -/
  | grank (f : Long)
  /-- REDADD (R348). -/
  | redadd (f : Long)
  /-- REDAND (R348). -/
  | redand (f : Long)
  /-- REDOR (R348). -/
  | redor (f : Long)
  /-- REDXOR (R348). -/
  | redxor (f : Long)
  /-- REDMIN_S (R348). -/
  | redminS (f : Long)
  /-- REDMIN_Z (R348). -/
  | redminZ (f : Long)
  /-- REDMAX_S (R348). -/
  | redmaxS (f : Long)
  /-- REDMAX_Z (R348). -/
  | redmaxZ (f : Long)
  /-- SCANADD (R348). -/
  | scanadd (f : Long)
  /-- SCANADDX (R348). -/
  | scanaddx (f : Long)
  /-- FREDADD (R349). -/
  | fredadd (f : Long)
  /-- FSCANADD (R349). -/
  | fscanadd (f : Long)
  /-- FEN (R337). -/
  | fen (f : Long)
  /-- SAFEPT (R224). -/
  | safept (f : Long)
  /-- RTKT (R364). -/
  | rtkt (f : Long)
  /-- RFILL (R364). -/
  | rfill (f : Long)
  /-- RPUSH (R364). -/
  | rpush (f : Long)
  /-- RPOP (R364). -/
  | rpop (f : Long)
  /-- KPUSH (R364). -/
  | kpush (f : Long)
  /-- KPOP (R364). -/
  | kpop (f : Long)
  /-- JOIN (R199). -/
  | join (k : BitVec 5)
  /-- LEAVE (R199). -/
  | leave (k : BitVec 5)
  /-- GWAIT (R200). -/
  | gwait (k : BitVec 5)
  /-- PBINIT (R351). -/
  | pbinit (k : BitVec 12) (rs1 : BitVec 5)
  /-- PBARR (R351). -/
  | pbarr (k : BitVec 12) (rs1 : BitVec 5)
  /-- PBWAIT (R351). -/
  | pbwait (k : BitVec 12) (rs1 : BitVec 5)
  /-- PBARW (R351). -/
  | pbarw (k : BitVec 12) (rs1 : BitVec 5)
  /-- TWAIT (R353). -/
  | twait (k : BitVec 12)
  /-- FENW (R338). -/
  | fenw (s : BitVec 9)
  /-- GIVE (R211). -/
  | give (v : BitVec 12)
  /-- CLAIM (R211). -/
  | claim (v : BitVec 12)
  /-- MIGRATE (R106). -/
  | migrate (rd rs1 : BitVec 5)
  /-- SPAWN (R152). -/
  | spawn (rd rs1 : BitVec 5)
  /-- GCANCEL (R168). -/
  | gcancel (rd rs1 rs2 : BitVec 5)
  /-- GSTAT (R360). -/
  | gstat (rd rs1 rs2 : BitVec 5)
  /-- TSUB (R177). -/
  | tsub (rd rs1 : BitVec 5)
  /-- TCOMM (R181). -/
  | tcomm (rd rs1 : BitVec 5)
  /-- TABORT (R182). -/
  | tabort (rd rs1 : BitVec 5)
  /-- RFILLM (R363). -/
  | rfillm (rd rs1 rs2 : BitVec 5) (noWait : Bool)
  /-- RPUSHM (R363). -/
  | rpushm (rd rs1 rs2 : BitVec 5) (noWait : Bool)
  /-- RPOPM (R363). -/
  | rpopm (rd rs1 rs2 : BitVec 5) (noWait : Bool)
  /-- KPUSHM (R363). -/
  | kpushm (rd rs1 rs2 : BitVec 5) (noWait : Bool)
  /-- KPOPM (R363). -/
  | kpopm (rd rs1 rs2 : BitVec 5) (noWait : Bool)
  /-- SYSINFO (R367). -/
  | sysinfo (rd rs1 : BitVec 5)
  /-- SBI_HART_START_STOP (R88). -/
  | sbiHartStartStop (hart : Nat) (start : Bool)
  /-- BOOT_STAGE_0 (R54). -/
  | bootStage0
  /-- BOOT_STAGE_2 (R54). -/
  | bootStage2
  /-- BOOT_STAGE_5 (R54). -/
  | bootStage5
  /-- BOOT_STAGE_7 (R54). -/
  | bootStage7
  /-- LOCKSTEP_MISMATCH (R42). -/
  | lockstepMismatch
  /-- SESSION_KEY_GENERATION (R49). -/
  | sessionKeyGeneration
  /-- ATTESTATION_REPORT (R50). -/
  | attestationReport
  /-- JUNCTION_ABOVE_105 (R41), its subject is the die. -/
  | junctionAbove105
  /-- JUNCTION_BELOW_100 (R41), its subject is the die. -/
  | junctionBelow100
  /-- JUNCTION_ABOVE_115 (R41). -/
  | junctionAbove115
  /-- POWER_CAP_EXCEEDED (R40), its subject is the eighths. -/
  | powerCapExceeded
  /-- HBM_STACK_FENCED (R20), its subject is the stack. -/
  | hbmStackFenced
  /-- C_DIE_FENCED (R77), its subject is the die. -/
  | cDieFenced
  /-- L_DIE_1_FENCED (R77). -/
  | lDie1Fenced
  /-- L_DIE_0_FAILURE (R77). -/
  | lDie0Failure
  /-- PAUSE_EXPIRY (R32), its subject is the port. -/
  | pauseExpiry
  /-- RETRAIN_COMPLETE (R34), its subject is the port. -/
  | retrainComplete
  /-- PORT_DOWN (R35), its subject is the port. -/
  | portDown
  /-- PACKAGE_LOST (R35), its subject is the pkg. -/
  | packageLost
  /-- REACHABLE_SET_FIXED (R55). -/
  | reachableSetFixed
  /-- CLAIM_RESEND (R55). -/
  | claimResend
  /-- LEADER_SILENCE (R55). -/
  | leaderSilence
  /-- FOLLOWER_ROUTE_LOST (R55), its subject is the pkg. -/
  | followerRouteLost
  /-- RECALL_WRITEBACK (R66), its subject is the core. -/
  | recallWriteback
  /-- DIRECTORY_EVICTION (R69), its subject is the line. -/
  | directoryEviction
  /-- REQUEST_RESEND (R75), its subject is the index. -/
  | requestResend
  /-- RESERVATION_EXPIRY (R71), its subject is the thread. -/
  | reservationExpiry
  /-- WALK (R85), its subject is the unit. -/
  | walk
  /-- WALK_COMPLETE (R97), its subject is the unit. -/
  | walkComplete
  /-- FAULT_RECORD_WRITE (R98), its subject is the unit. -/
  | faultRecordWrite
  /-- POOL_FEED (R93), its subject is the unit. -/
  | poolFeed
  /-- GENERATION_RAISE_COMPLETE (R87). -/
  | generationRaiseComplete
  /-- REMOTE_FENCE_I (R89), its subject is the die. -/
  | remoteFenceI
  /-- DTU_ACKNOWLEDGE (R90), its subject is the die. -/
  | dtuAcknowledge
  /-- AUTOMATIC_MOVE_TO_COMPUTE (R104), its subject is the thread. -/
  | automaticMoveToCompute
  /-- AUTOMATIC_MOVE_TO_LATENCY (R105), its subject is the thread. -/
  | automaticMoveToLatency
  /-- THREAD_PLACEMENT (R107), its subject is the thread. -/
  | threadPlacement
  /-- ARRIVAL_RING_WRITE (R112), its subject is the ldie. -/
  | arrivalRingWrite
  /-- ECALL (R118). -/
  | ecall
  /-- BATCH_CLOSE (R118), its subject is the batch. -/
  | batchClose
  /-- SERVICE_FORWARD (R118), its subject is the thread. -/
  | serviceForward
  /-- GRAPH_VALIDATION_DONE (R125). -/
  | graphValidationDone
  /-- GRAPH_REPLAY_DONE (R126). -/
  | graphReplayDone
  /-- BLOCK_START (R159), its subject is the die. -/
  | blockStart
  /-- STEAL (R160), its subject is the die. -/
  | steal
  /-- SLUICE_RETRY (R162), its subject is the slot. -/
  | sluiceRetry
  /-- RETIREMENT_REPORT (R165), its subject is the slot. -/
  | retirementReport
  /-- GRID_COMPLETION (R165), its subject is the slot. -/
  | gridCompletion
  /-- HARD_CANCEL_TIMEOUT (R168), its subject is the thread. -/
  | hardCancelTimeout
  /-- YIELD_EVICTION (R171), its subject is the block. -/
  | yieldEviction
  /-- TASK_DISPATCH (R185), its subject is the die. -/
  | taskDispatch
  /-- TASK_AGING (R184), its subject is the entry. -/
  | taskAging
  /-- TASK_COMPLETION (R180), its subject is the entry. -/
  | taskCompletion
  /-- ABORT_TIMEOUT (R182), its subject is the thread. -/
  | abortTimeout
  /-- RING_TICKET (R187), its subject is the request. -/
  | ringTicket
  /-- RING_FILL (R187), its subject is the request. -/
  | ringFill
  /-- RING_PUSH (R187), its subject is the request. -/
  | ringPush
  /-- RING_POP (R187), its subject is the request. -/
  | ringPop
  /-- RING_KPUSH (R187), its subject is the request. -/
  | ringKpush
  /-- RING_KPOP (R187), its subject is the request. -/
  | ringKpop
  /-- RING_WITHDRAWAL (R365), its subject is the request. -/
  | ringWithdrawal
  /-- PREEMPTION_REQUEST (R226), its subject is the block. -/
  | preemptionRequest
  /-- PREEMPTION_WATCHDOG (R227), its subject is the block. -/
  | preemptionWatchdog
  /-- PREEMPTION_SAVE (R228), its subject is the block. -/
  | preemptionSave
  /-- PREEMPTION_HANDLER_TIMEOUT (R228), its subject is the block. -/
  | preemptionHandlerTimeout
  /-- RESTORE (R234), its subject is the block. -/
  | restore
  /-- RESTORE_HANDLER_TIMEOUT (R234), its subject is the block. -/
  | restoreHandlerTimeout
  /-- MATRIX_OPERATION_START (R373), its subject is the op. -/
  | matrixOperationStart
  /-- MATRIX_COMMIT (R246), its subject is the op. -/
  | matrixCommit
  /-- MATRIX_OPERAND_FAULT (R255), its subject is the op. -/
  | matrixOperandFault
  /-- TRANSFER_COMPLETE (R381), its subject is the op. -/
  | transferComplete
  /-- COPY_COMPLETE (R342), its subject is the op. -/
  | copyComplete
  /-- GEND (R361). -/
  | gend
  /-- TRET (R117). -/
  | tret
  /-- ROUTE_RETURN (R35), its subject is the pkg. -/
  | routeReturn
  /-- SBI_IPI (R88), its subject is the hart. -/
  | sbiIpi
  deriving DecidableEq, Repr

end Sys2Proof
end

