-- ==== Sys2Proof/Machine/Fields.lean ====
section
/-! DEFINITION. The operand fields of the long format and the static limits of R203, R206, R276-R280, R310, R326,
R343, R369 and R387 on them. -/
namespace Sys2Proof

/-- Sequence number of a flit (R30). -/
def Flit.seq (f : Flit) : BitVec 16 := f.header.extractLsb' 48 16

/-- Sequence number of the last flit that its sender received in order (R30). -/
def Flit.ack (f : Flit) : BitVec 16 := f.header.extractLsb' 32 16

/-- Type of a flit (R30). -/
def Flit.ftype (f : Flit) : BitVec 4 := f.header.extractLsb' 28 4

/-- Whether its sender asks the peer to back off (R30). -/
def Flit.pause (f : Flit) : Bool := f.header.getLsbD 27

/-- The header of a flit (R30). -/
def flitHeader (seq ack : BitVec 16) (ftype : BitVec 4) (pause : Bool) : Word :=
  (seq ++ ack ++ ftype ++ BitVec.ofBool pause ++ 0#27).setWidth 64

/-- Start slice of an operand field (R276, R295). -/
def fStart (x : BitVec 12) : Nat := (x.extractLsb' 0 9).toNat

/-- Width code of an operand field (R276). -/
def fCode (x : BitVec 12) : Nat := (x.extractLsb' 9 3).toNat

/-- The integer widths in code order (R276). -/
def intWidthOf : Nat → Nat
  | 0 => 4 | 1 => 8 | 2 => 12 | 3 => 16 | 4 => 24 | 5 => 32 | 6 => 48 | _ => 64

/-- Width in bits of an integer or bit operand (R276). -/
def fWidth (x : BitVec 12) : Nat := intWidthOf (fCode x)

/-- The format that a width code names (R277). -/
def fmtOfCode : Nat → Option Fmt
  | 0 => some .e5m2 | 1 => some .e4m3 | 2 => some .bf16 | 3 => some .fp16
  | 5 => some .fp32 | 7 => some .fp64 | _ => none

/-- Format of a floating operand (R277). -/
def fFmt (x : BitVec 12) : Option Fmt := fmtOfCode (fCode x)

/-- Width in bits of a floating format (R256). -/
def Fmt.width : Fmt → Nat
  | .fp64 => 64 | .fp32 => 32 | .fp16 => 16 | .bf16 => 16 | .e4m3 => 8 | .e5m2 => 8

/-- An integer operand inside the 512 slices (R276). -/
def intOk (x : BitVec 12) : Bool := decide (fStart x + fWidth x / 4 ≤ 512)

/-- An integer operand of one width. -/
def intIs (x : BitVec 12) (w : Nat) : Bool := intOk x && decide (fWidth x = w)

/-- A floating operand with an assigned format, inside the 512 slices (R277). -/
def fltOk (x : BitVec 12) : Bool :=
  match fFmt x with
  | some F => decide (fStart x + F.width / 4 ≤ 512)
  | none => false

/-- A floating operand in E4M3 or E5M2 (R311). -/
def fltIs8 (x : BitVec 12) : Bool := fltOk x && (fFmt x = some .e4m3 || fFmt x = some .e5m2)

/-- A field of X (R279). -/
def xBits (x : BitVec 8) (hi lo : Nat) : Nat := (x.toNat >>> lo) % 2 ^ (hi + 1 - lo)

namespace Long

/-- G 0 to 12 (R203). -/
def gOk (f : Long) : Bool := decide (f.g.toNat ≤ 12)

/-- Whether the instruction names a group: G 0 to 11 (R201). -/
def grouped (f : Long) : Bool := decide (f.g.toNat ≤ 11)

/-- A permutation of B: pattern 0 where G = 12 (R204). -/
def permOk (f : Long) : Bool := f.grouped || xBits f.x 7 5 = 0

/-- One integer source B (R296). -/
def oneSource (f : Long) : Bool := f.gOk && f.permOk && f.a = 0 && intOk f.d && intOk f.b

/-- Two integer sources (R301, R304-R307). -/
def twoSource (f : Long) : Bool := f.gOk && f.permOk && intOk f.d && intOk f.a && intOk f.b

/-- movi (R301). -/
def moviOk (f : Long) : Bool := f.gOk && f.a = 0 && intOk f.d

/-- shi (R303). -/
def shiOk (f : Long) : Bool :=
  f.gOk && f.x = 0 && intOk f.d && intOk f.a && decide (f.b.toNat < 256)

/-- Element width of a packed instruction (R308). -/
def elemWidth (f : Long) : Nat :=
  match xBits f.x 1 0 with | 0 => 4 | 1 => 8 | 2 => 16 | _ => 32

/-- A packed instruction (R308). -/
def packedOk (f : Long) : Bool :=
  f.gOk && xBits f.x 7 3 = 0 && intOk f.d && intOk f.a && intOk f.b &&
  decide (fWidth f.d % f.elemWidth = 0) &&
  (decide (fWidth f.a = fWidth f.d) || decide (fWidth f.a = f.elemWidth)) &&
  (decide (fWidth f.b = fWidth f.d) || decide (fWidth f.b = f.elemWidth))

/-- Floating arithmetic with two sources (R311). -/
def fltTwo (f : Long) : Bool := f.gOk && f.permOk && fltOk f.d && fltOk f.a && fltOk f.b

/-- Floating arithmetic with one source (R311). -/
def fltOne (f : Long) : Bool := f.gOk && f.permOk && f.a = 0 && fltOk f.d && fltOk f.b

/-- A floating compare (R311). -/
def fltCompare (f : Long) : Bool := f.gOk && f.permOk && intOk f.d && fltOk f.a && fltOk f.b

/-- fclass (R311). -/
def fltClass (f : Long) : Bool := f.gOk && f.permOk && f.a = 0 && intOk f.d && fltOk f.b

/-- Rounding code of group 0x5 assigned, X bits 7:3 zero (R279, R326). -/
def modeOk (f : Long) : Bool := decide (xBits f.x 2 0 ≠ 6) && xBits f.x 7 3 = 0

/-- The same with m in bits 7:4 (R279, R326). -/
def modeM (f : Long) : Bool :=
  decide (xBits f.x 2 0 ≠ 6) && xBits f.x 3 3 = 0 && decide (2 ≤ xBits f.x 7 4) && decide (xBits f.x 7 4 ≤ 8)

/-- A collective without the uniform bit (R326, R347). -/
def plainGroup (f : Long) : Bool := f.grouped && !f.u

/-- cvt (R311). -/
def cvtFF (f : Long) : Bool := f.gOk && f.modeOk && f.a = 0 && fltOk f.d && fltOk f.b
/-- cvtfs, cvtfz (R311). -/
def cvtFI (f : Long) : Bool := f.gOk && f.modeOk && f.a = 0 && intOk f.d && fltOk f.b
/-- cvtsf, cvtzf (R311). -/
def cvtIF (f : Long) : Bool := f.gOk && f.modeOk && f.a = 0 && fltOk f.d && intOk f.b
/-- bxpk, bxcmp (R311). -/
def packM (f : Long) : Bool := f.plainGroup && f.modeM && f.a = 0 && intIs f.d 16 && fltOk f.b
/-- bxunp (R311). -/
def unpackM (f : Long) : Bool := f.plainGroup && f.modeM && f.a = 0 && fltOk f.d && intIs f.b 16
/-- trpk (R311). -/
def packT (f : Long) : Bool := f.plainGroup && f.modeOk && f.a = 0 && intIs f.d 16 && fltOk f.b
/-- trunp (R311). -/
def unpackT (f : Long) : Bool := f.plainGroup && f.modeOk && f.a = 0 && fltOk f.d && intIs f.b 16
/-- f8pk (R311). -/
def packF8 (f : Long) : Bool := f.gOk && f.modeOk && fltIs8 f.d && intIs f.a 8 && fltOk f.b
/-- f8unp (R311). -/
def unpackF8 (f : Long) : Bool := f.gOk && f.modeOk && fltOk f.d && intIs f.a 8 && fltIs8 f.b

/-- Space of a memory modifier (R280). -/
def space (f : Long) : Nat := xBits f.x 2 0
/-- Order of a memory modifier (R280). -/
def order (f : Long) : Nat := xBits f.x 4 3
/-- Scope of a memory modifier (R280). -/
def scope (f : Long) : Nat := xBits f.x 7 5

/-- Space and scope assigned, scope zero when relaxed (R280). -/
def modifierOk (f : Long) : Bool :=
  decide (f.space ≤ 4) && decide (f.scope ≤ 5) && (decide (f.order ≠ 0) || decide (f.scope = 0))

/-- Data of a memory access: an operand of whole bytes (R280, R327). -/
def dataOk (x : BitVec 12) : Bool := intOk x && decide (fWidth x ≠ 4) && decide (fWidth x ≠ 12)

/-- A load with an immediate (R327). -/
def loadOk (f : Long) : Bool := f.gOk && f.modifierOk && decide (f.order ≠ 3) && dataOk f.d && intOk f.a
/-- A store with an immediate (R327). -/
def storeOk (f : Long) : Bool :=
  f.gOk && f.modifierOk && (f.order = 0 || f.order = 3) && dataOk f.d && intOk f.a
/-- ldnf: the flag slice lies inside the 512 (R332). -/
def ldnfOk (f : Long) : Bool := f.loadOk && decide (fStart f.d + fWidth f.d / 4 ≤ 511)
/-- pf (R327, R343). -/
def pfOk (f : Long) : Bool :=
  f.gOk && decide (f.space ≤ 4) && f.order = 0 && f.scope = 0 && f.d = 0 && intOk f.a
/-- An integer atomic (R327, R343). -/
def atomicOk (f : Long) : Bool :=
  f.gOk && f.modifierOk && intOk f.d && intOk f.a && intOk f.b &&
  (fWidth f.d = 8 || fWidth f.d = 16 || fWidth f.d = 32 || fWidth f.d = 64)
/-- afadd (R327, R343). -/
def faddOk (f : Long) : Bool :=
  f.gOk && f.modifierOk && fltOk f.d && intOk f.a && fltOk f.b && decide (fCode f.d = fCode f.b) && !fltIs8 f.d
/-- afmin, afmax (R334, R343). -/
def fminmaxOk (f : Long) : Bool := f.faddOk && fFmt f.d = some .fp32

/-- Destination space of a copy (R279). -/
def dstSpace (f : Long) : Nat := xBits f.x 2 0
/-- Source space of a copy (R279). -/
def srcSpace (f : Long) : Nat := xBits f.x 5 3
/-- The spaces of a copy (R279, R343). -/
def spacesOk (f : Long) : Bool := xBits f.x 7 6 = 0 && decide (f.dstSpace ≤ 3) && decide (f.srcSpace ≤ 3)
/-- cpy (R327). -/
def cpyOk (f : Long) : Bool := f.gOk && f.spacesOk && intOk f.d && intOk f.a && intOk f.b
/-- cpys (R339). -/
def cpysOk (f : Long) : Bool := f.cpyOk && fWidth f.b = 64 && decide (fStart f.b + 32 ≤ 512)
/-- tfill (R327). -/
def tfillOk (f : Long) : Bool := f.cpyOk && f.dstSpace = 1
/-- tdrn (R327). -/
def tdrnOk (f : Long) : Bool := f.cpyOk && f.srcSpace = 1
/-- tdef, trel (R370). -/
def tileWordOk (f : Long) : Bool := f.gOk && f.d = 0 && f.b = 0 && f.x = 0 && intOk f.a
/-- mma (R370). -/
def mmaOk (f : Long) : Bool := f.tileWordOk && fWidth f.a = 64
/-- mmas (R377). -/
def mmasOk (f : Long) : Bool :=
  f.gOk && f.d = 0 && f.x = 0 && intIs f.a 64 && intIs f.b 64 && decide (fStart f.b + 32 ≤ 512)
/-- Core select 0 or 1 (R370). -/
def selectOk (f : Long) : Bool := decide (xBits f.x 7 6 ≤ 1)
/-- wbld (R370). -/
def wbldOk (f : Long) : Bool :=
  f.gOk && f.selectOk && xBits f.x 5 3 = 0 && decide (xBits f.x 2 0 ≤ 3) && intOk f.d && intOk f.a && intOk f.b
/-- accld, accdr with the highest assigned format code (R370). -/
def accOk (f : Long) (top : Nat) : Bool :=
  f.gOk && f.selectOk && decide (xBits f.x 5 3 ≤ top) && decide (xBits f.x 2 0 ≤ 3) && intOk f.d && intOk f.a && intOk f.b
/-- acczr (R370). -/
def acczrOk (f : Long) : Bool := f.gOk && f.selectOk && xBits f.x 5 0 = 0 && f.a = 0 && intOk f.d && intOk f.b
/-- mld (R372, R384). -/
def mldOk (f : Long) : Bool :=
  f.gOk && f.b = 0 && f.x = 0 && dataOk f.d && intOk f.a && !(f.u && f.grouped)
/-- Element bytes of mldt (R370). -/
def elemBytes (f : Long) : Nat := 2 ^ xBits f.x 1 0
/-- mldt (R372, R384). -/
def mldtOk (f : Long) : Bool :=
  f.gOk && f.b = 0 && xBits f.x 7 2 = 0 && dataOk f.d && intOk f.a && !(f.u && f.grouped) &&
  decide (fWidth f.d % (8 * f.elemBytes) = 0)
/-- mxfence (R370). -/
def mxfenceOk (f : Long) : Bool := f.gOk && f.d = 0 && f.a = 0 && f.b = 0 && f.x = 0
/-- Votes, reductions and scans over integers (R347). -/
def voteOk (f : Long) : Bool := f.plainGroup && f.a = 0 && intOk f.d && intOk f.b
/-- grank (R347). -/
def grankOk (f : Long) : Bool := f.plainGroup && f.a = 0 && f.b = 0 && f.x = 0 && intOk f.d
/-- fredadd, fscanadd (R347). -/
def fredOk (f : Long) : Bool := f.plainGroup && f.a = 0 && fltOk f.d && fltOk f.b
/-- fen (R275, R327, R343). -/
def fenOk (f : Long) : Bool := f.gOk && !f.u && f.a = 0 && fCode f.d = 0 && decide (f.b.toNat ≤ 5)
/-- safept (R355). -/
def safeptOk (f : Long) : Bool := f.g = 12 && !f.u && f.d = 0 && !f.a.getLsbD 0
/-- Live mask of safept (R355). -/
def liveMask (f : Long) : Nat := f.x.toNat * 2 ^ 24 + f.b.toNat * 2 ^ 12 + f.a.toNat
/-- X and G of the long ring forms (R364). -/
def ringX (f : Long) : Bool := f.gOk && xBits f.x 7 1 = 0 && intOk f.a
/-- rtkt (R364). -/
def rtktOk (f : Long) : Bool := f.ringX && intIs f.d 64 && f.b = 0
/-- rfill, rpush, kpush (R364). -/
def rpushOk (f : Long) : Bool := f.ringX && intIs f.d 64 && intOk f.b
/-- rpop (R364). -/
def rpopOk (f : Long) : Bool := f.ringX && dataOk f.d && f.b = 0 && decide (fStart f.d + fWidth f.d / 4 ≤ 511)
/-- kpop (R364). -/
def kpopOk (f : Long) : Bool := f.ringX && intIs f.d 64 && f.b = 0 && decide (fStart f.d + 32 ≤ 511)

end Long
end Sys2Proof
end

