-- ==== Sys2Proof/Config.lean ====
section
/-! DEFINITION. What one package fixes and the free values: every value here that the manual leaves open is an
opaque constant, so no proof can see it and a claim holds whatever it is. -/
namespace Sys2Proof.Config

/-- What the manufacture draws for the serial number (R57, MGSERIAL); notes/assumptions/3. -/
opaque serialDrawn : Word

/-- Package serial number, fixed at manufacture, never 0 and never all ones (R57); notes/assumptions/3. -/
def serial : Word := if serialDrawn = 0 ∨ serialDrawn = BitVec.allOnes 64 then 1 else serialDrawn

/-- A byte of a secret of an XMSS key pair (R46-R49): pair 0 is the device identity key, pair n + 1 the n-th session pair drawn;
leaf and chain name a one-time secret, and leaf 2^20 holds the pair's keys for randomness and its public seed; notes/assumptions/4. -/
opaque secretByte : Nat → Nat → Nat → Nat → Byte

/-- The CRC of a flit over bytes 247:0 with the polynomial of the link record (R30): the manual gives no start value and no bit
order; notes/assumptions/100. -/
opaque crc : Word → List Byte → Word

/-- The payload of a flit that this package sends (R30): the message formats are internal; notes/assumptions/100. -/
opaque linkPayload : List Nat → List Byte

/-- Slots of a message beyond its first, by its identifier (R30): at most 14 are used; notes/assumptions/100. -/
opaque moreSlots : Nat → Nat

/-- Messages of one hop count that a port's inbound buffer holds, less one (R32, R33); notes/assumptions/101. -/
opaque inboundSlots : Nat

/-- Messages of one hop count that wait to leave by a port, less one (R32, R33); notes/assumptions/101. -/
opaque outSlots : Nat

/-- Messages of this package that wait for their ports, less one (R32); notes/assumptions/101. -/
opaque outboxSlots : Nat

/-- The body of a die-enablement record (R12): the physical cores of the logical cores of C-die d, in order, and of the latency
cores of L-die d - 8; the manual gives no body of any record; notes/assumptions/128. -/
opaque enabled : List Byte → Nat → List Nat

/-- The spare cores of C-die d that a die-enablement record marks (R12); notes/assumptions/128. -/
opaque spares : List Byte → Nat → List Nat

/-- The rows that a row-repair record replaces (R19); notes/assumptions/128. -/
opaque repairedRows : List Byte → List Nat

/-- Which of the capacities of R21 a memory configuration record gives an L-die, modulo 4; notes/assumptions/128. -/
opaque lpddrChoice : List Byte → Nat → Nat

/-- GiB of LPDDR of an L-die in a memory configuration record: 64, 128, 256 or 512 (R21). -/
def lpddrGiB (body : List Byte) (l : Nat) : Nat := 64 * 2 ^ (lpddrChoice body l % 4)

/-- The CRC polynomial of a link configuration record (R30); notes/assumptions/128. -/
opaque polynomial : List Byte → Word

/-- The package number that a routing record assigns (R55); notes/assumptions/128. -/
opaque routedSelf : List Byte → Nat

/-- Primary and alternative route of a destination in a routing record (R33): lists of ports; notes/assumptions/128. -/
opaque routeTo : List Byte → Nat → List Nat × List Nat

/-- Whether a port configuration record sets the port of an L-die to endpoint mode (R38); notes/assumptions/128. -/
opaque endpointPort : List Byte → Nat → Bool

/-- The limit of a power configuration record in watts (R39); notes/assumptions/128. -/
opaque powerLimit : List Byte → Nat

/-- The public key that an operator-enrolment record installs in a slot, empty for none (R47); notes/assumptions/128. -/
opaque enrolled : List Byte → Nat → List Byte

/-- The hash that a pod image manifest holds (R55); notes/assumptions/128. -/
opaque manifestHash : List Byte → List Byte

/-- The bytes that the root firmware's random source draws (R45); notes/assumptions/4. -/
opaque randomByte : Nat → Byte

/-- The code that bring-up reports for a failure at a stage (R54), less one, modulo 255: the manual lists none, and 0 means no
failure; notes/assumptions/26. -/
opaque failureCode : Nat → Byte

/-- Ticks that pass with a step, beyond the inputs' own order (R2, R61): timing is left free; notes/assumptions/5. -/
opaque elapsedTicks : Nat → Nat

/-- Which of the two adjacent values an approximation returns (R320): operation, destination and source format codes,
source pattern; the same result for the same operands; notes/assumptions/6. -/
opaque approxUp : Nat → Nat → Nat → Nat → Bool

/-- Free bytes, one for each value of the state's counter: bytes of a spill record (R188), event counters (R101) and the
answers of other packages (R178); notes/assumptions/7, 51 and 111. -/
opaque freeByte : Nat → Byte

/-- One less than the entries of a queue that spills, by its number in a spill record (R188): the manual gives only the walk
queue's; notes/assumptions/16. -/
opaque queueSlots : Nat → Nat

/-- Address in device memory of the argument block of a task of a graph replay, by the state's counter (R125, R126):
notes/assumptions/22. -/
opaque graphBlock : Nat → Word

/-- Physical address of the n-th entry of the management error log, which MGERRHEAD reads (R57); notes/assumptions/12. -/
opaque errorEntry : Nat → Word

/-- Bytes of LPDDR of an L-die of another package of the pod (R21, R28); notes/assumptions/118. -/
opaque peerLpddr : Nat → Nat → Nat

/-- Bytes of the CXL memory window of an L-die's port of another package (R28); notes/assumptions/118. -/
opaque peerCxl : Nat → Nat → Nat

/-- Bytes of the PCIe window of an L-die's port of another package (R28); notes/assumptions/118. -/
opaque peerBars : Nat → Nat → Nat

/-- Bytes that the devices attached to an L-die's port take of its CXL memory part (R28, R38); notes/assumptions/118. -/
opaque attachedCxl : Nat → Nat

/-- Bytes that the devices attached to an L-die's port take of its PCIe part (R28, R38); notes/assumptions/118. -/
opaque attachedBars : Nat → Nat

/-- Which entry of a full set a cache gives up, by the state's counter (R61, R84-R86): the manual names no replacement;
notes/assumptions/123. -/
opaque victim : Nat → Nat

end Sys2Proof.Config
end

