-- ==== Sys2Proof/Machine/State.lean ====
section
/-! DEFINITION. The state of one HJX-640M package as plain data, its faults and refusals, and the state after reset.
Each field's docstring gives its width, its rule and its reset value. -/
namespace Sys2Proof.Machine

/-- Why a step stops. -/
inductive Fault where
  /-- The package is powered down or halted (R41, R42, R77): raised by step while it is off; safe, nothing runs there. -/
  | packageOff
  /-- Bring-up stopped at its stage (R54): raised by step after a bring-up failure; safe, the package stays in reset or halts. -/
  | bringUpHalted
  deriving DecidableEq, Repr

/-- Why an instruction has no meaning. -/
inductive Refusal where
  /-- Not modelled yet: raised only by a dispatch arm; safe. -/
  | notModelled (mnemonic : String)
  deriving DecidableEq, Repr

/-- Privilege of a thread (R83, R8): grid and migrated threads run in U, service blocks in S, latency cores in all three. -/
inductive Mode where
  | u | s | m
  deriving DecidableEq, Repr, Inhabited

/-- A translation context (R79). -/
structure Ctx where
  /-- satp (64; R79 04_translation; reset 0, notes/assumptions/1) -/
  satp : Word := 0
  /-- vsatp (64; R79 04_translation; reset 0) -/
  vsatp : Word := 0
  /-- hgatp (64; R79 04_translation; reset 0) -/
  hgatp : Word := 0
  /-- V (1; R79 04_translation; reset 0) -/
  v : Bool := false
  /-- sstatus.MXR (1; R79 04_translation; reset 0) -/
  mxr : Bool := false
  /-- vsstatus.MXR of the latency core that walks, for the first stage alone; no part of a captured context (1; R78 04_translation;
  reset 0) -/
  vmxr : Bool := false
  /-- menvcfg.ADUE (1; R79 04_translation; reset 0) -/
  adue : Bool := false
  /-- henvcfg.ADUE (1; R79 04_translation; reset 0) -/
  hadue : Bool := false
  deriving DecidableEq, Repr, Inhabited

/-- Where a thread is (R107-R112, R157, R226). -/
inductive Place where
  /-- a thread slot: package-wide core number, quarter, issue group, bit (R191) -/
  | slot (core qtr ig bit : Nat)
  /-- a latency core: L-die, core -/
  | hart (ldie core : Nat)
  /-- waits in the dispatcher inbound queue to be placed (R107) -/
  | inbound
  /-- its record waits for the arrival ring of an L-die (R112) -/
  | outbound (ldie : Nat)
  /-- its record is with the operating system (R111, R112) -/
  | os
  /-- its block is saved (R230) -/
  | saved
  | ended
  deriving DecidableEq, Repr, Inhabited

/-- Why a thread moves to a latency core (R110, byte 0x194). -/
inductive MoveReason where
  | migrate | automatic | recall | forwardedEcall | frresume | recordedTrap | ended
  deriving DecidableEq, Repr, Inhabited

/-- What a tile wait waits for (R249, R375): the tile is ready; ready and unread; empty or filling; empty; or a release can
act. -/
inductive TileNeed where
  | ready | unread | fillable | empty | releasable
  deriving DecidableEq, Repr, Inhabited

/-- What holds a thread (R366, R98, R118, R226). -/
inductive Wait where
  | ready
  /-- arrived at a gwait (false) or a collective (true) on GMk (R200, R201) -/
  | group (k : Nat) (coll : Bool)
  /-- phase barrier k, waiting past a phase; whether the form was pbarw (R351) -/
  | barrier (k : Nat) (past : Bool) (arrived : Bool)
  | tile (k : Nat) (need : TileNeed)
  | token (slot : Nat)
  /-- a ring request (R187) -/
  | ring (req : Nat)
  /-- slices up to a footprint top: claim or growth (R211, R210) -/
  | slices (top : Nat)
  /-- a service batch (R118) -/
  | batch (id : Nat)
  /-- a translation miss in the DTU's queue (R97) -/
  | miss
  /-- parked on a fault record (R98) -/
  | parked (unit record : Nat)
  /-- a departure that waits for its conditions (R108): reason, recorded cause, recorded tval, L-die, kind of hint -/
  | moving (why : MoveReason) (cause : Nat) (tval : Word) (ldie : Nat)
  /-- as a global load miss: a full queue of an engine or table (R341, R373, R366) -/
  | queueFull
  /-- a full queue that spills, which takes such requests in arrival order: of a die (R189) -/
  | queueAt (queue : Nat) (die : Nat)
  /-- its spawn or tsub is spilled from the dispatcher inbound queue, to the ring of a job (R188) -/
  | spilledCall (job : Nat)
  /-- its tsub waits in the dispatcher inbound queue for a dependence-table entry (R177) -/
  | tableEntry
  /-- its block's places are held for the commit of a gang grid, which has not begun (R162) -/
  | places
  /-- its request to a line is parked at the home (R76) -/
  | homePark (line : Nat)
  /-- it releases once its core's dirty bytes of a line, which the home does not take yet, are written back (R65, R75, R76) -/
  | drain (line : Nat)
  /-- the latency core's thread has departed, and the core runs nothing until it takes an interrupt (R111) -/
  | idle
  /-- parked for pre-emption (R226) -/
  | safePark
  deriving DecidableEq, Repr, Inhabited

/-- One of a thread's four fence-token slots (R337). -/
structure Token where
  /-- outstanding mark (1; R337 16_isa_memory; reset 0) -/
  live : Bool := false
  /-- GEN (1; R337 16_isa_memory; reset 0) -/
  gen : Bool := false
  /-- engine operations that the token waits for (list; R140 06_consistency; reset empty) -/
  ops : List Nat := []
  /-- order of allocation (count; R143 06_consistency; reset 0) -/
  order : Nat := 0
  /-- before-mask (4; R140 06_consistency; reset 0) -/
  before : BitVec 4 := 0
  /-- after-mask (4; R140 06_consistency; reset 0) -/
  after : BitVec 4 := 0
  /-- scope code (3; R280 13_instruction_formats; reset 0) -/
  scope : Nat := 0
  /-- a fence of this slot, this or an earlier one, ends the core's leases when its fenw returns (1; R144 06_consistency; reset 0) -/
  ends : Bool := false
  /-- the same for clean bytes of the stack window (1; R150 06_consistency; reset 0) -/
  forgets : Bool := false
  deriving DecidableEq, Repr, Inhabited

/-- A 64-byte unit of a stack window (R215). -/
structure WinUnit where
  /-- address of the unit (64; R215 09_compute_core) -/
  base : Nat
  /-- valid bit per byte (64; R215 09_compute_core) -/
  valid : BitVec 64 := 0
  /-- modified bit per byte (64; R215 09_compute_core) -/
  modified : BitVec 64 := 0
  /-- the bytes (512; R215 09_compute_core) -/
  data : BitVec 512 := 0
  /-- the kept translation of the unit: physical address and PBMT (R216 09_compute_core, R27 01_memory_map) -/
  kept : Option (Nat × Nat) := none
  /-- lane-store poison, a bit for each 8-byte granule of the unit (8; R73 03_memory, R217 09_compute_core) -/
  poison : BitVec 8 := 0
  deriving DecidableEq, Repr, Inhabited

/-- A stack window [lo, hi) (R215). -/
structure Window where
  /-- wlo (64; R215 09_compute_core; reset 0) -/
  lo : Nat := 0
  /-- whi (64; R215 09_compute_core; reset 0) -/
  hi : Nat := 0
  /-- capacity C in bytes (R215 09_compute_core; reset 0) -/
  cap : Nat := 0
  /-- top (64; R215 09_compute_core; reset 0) -/
  top : Nat := 0
  /-- 1 for a grid or task thread, whose top is fixed (R215 09_compute_core; reset 0) -/
  fixed : Bool := false
  /-- the units with a valid byte, by rising address (R215 09_compute_core; reset empty) -/
  units : List WinUnit := []
  deriving DecidableEq, Repr, Inhabited

/-- One thread (R102, R235 and the state of its slot). -/
structure Thread where
  /-- the model's own number of the thread -/
  id : Nat := 0
  /-- where it is (R107-R112) -/
  place : Place := .ended
  /-- the slot a grid thread keeps while away: core, quarter, issue group, bit (R109 05_threads; reset none) -/
  held : Option (Nat × Nat × Nat × Nat) := none
  /-- privilege mode (2; R83 04_translation; reset U) -/
  mode : Mode := .u
  /-- PC (64; R102 05_threads; reset 0, notes/assumptions/1) -/
  pc : Word := 0
  /-- the 512 slices, slice a in bits 4a+3:4a; x_k is slices 16k to 16k+15 (2048; R102, R206; reset 0) -/
  regs : BitVec 2048 := 0
  /-- fcsr, frm in bits 7:5 and fflags in 4:0 (8; R102 05_threads; reset 0) -/
  fcsr : BitVec 8 := 0
  /-- tflags 0x806 (64; R266 12_number_formats; reset 0) -/
  tflags : Word := 0
  /-- tmode 0x807 (64; R264 12_number_formats; reset 0) -/
  tmode : Word := 0
  /-- trng 0x808 (64; R262 12_number_formats; start value R157; DESIGN CHOICE 1 before a start, notes/assumptions/1) -/
  trng : Word := 1
  /-- temu 0x809 (64; R222 10_traps; reset 0) -/
  temu : Word := 0
  /-- tdeleg 0x80A without bit 50, which reads 1 (64; R222 10_traps; reset 0) -/
  tdeleg : Word := 0
  /-- tepc 0x80B (64; R222 10_traps; reset 0) -/
  tepc : Word := 0
  /-- tcause 0x80C (64; R222 10_traps; reset 0) -/
  tcause : Word := 0
  /-- tval 0x80D (64; R222 10_traps; reset 0) -/
  tval : Word := 0
  /-- tfoot 0x801 (10; R368 17_isa_control; start value R157; DESIGN CHOICE 16 before a start, notes/assumptions/1) -/
  tfoot : Nat := 16
  /-- tgrid 0x803 (64; R368 17_isa_control; start value R157) -/
  tgrid : Word := 0
  /-- tblk 0x804 (32; R368 17_isa_control; start value R157) -/
  tblk : Nat := 0
  /-- ttid 0x805 (12; R368 17_isa_control; start value R157) -/
  ttid : Nat := 0
  /-- trole 0x802 (8; R368 17_isa_control; start value R157) -/
  trole : Nat := 0
  /-- tprio 0x80E (6; R368 17_isa_control; start value R157) -/
  tprio : Nat := 0
  /-- first physical slice of the window in its lane (R208 09_compute_core; DESIGN CHOICE 0, notes/assumptions/106) -/
  p0 : Nat := 0
  /-- poison bit per bar of the window, from the window's first bar (R74 03_memory; reset 0) -/
  barPoison : BitVec 64 := 0
  /-- slices backed since the poison of their bar, which do not have it (512; R210 09_compute_core; reset 0) -/
  fresh : BitVec 512 := 0
  /-- corruption mark per slice (512; R209 09_compute_core; reset 0) -/
  corrupt : BitVec 512 := 0
  /-- slices that hold a single-bit error which no read of their bar has met (512; R209 09_compute_core; reset 0) -/
  flipped : BitVec 512 := 0
  /-- the block or task it belongs to, by the model's block number (R157; reset none) -/
  block : Option Nat := none
  /-- translation context (R79 04_translation) -/
  ctx : Ctx := {}
  /-- operating-system thread identifier (64; R114 05_threads; reset 0) -/
  osid : Word := 0
  /-- identity as a spawner (R164 07_spawn; reset 0) -/
  spawner : Nat := 0
  /-- spawn sequence (R164 07_spawn; reset 0) -/
  spawnSeq : Nat := 0
  /-- stack window (R215 09_compute_core) -/
  win : Window := {}
  /-- bytes of its lane-store allocation for space 4 (R214 09_compute_core; reset 0) -/
  lsbytes : Nat := 0
  /-- lane-store bytes, unlisted bytes zero (R157, R214; reset empty) -/
  lane : List Host.Cell := []
  /-- poisoned 8-byte granules of its lane store (R73 03_memory; reset empty) -/
  lanePoison : List Nat := []
  /-- the four fence-token slots (R337 16_isa_memory) -/
  tokens : List Token := [{}, {}, {}, {}]
  /-- what holds it (R366 17_isa_control; reset ready) -/
  wait : Wait := .ready
  /-- cause and tval that its own instruction takes before cause 26, found at its arrival (R201, R219; reset none) -/
  early : Option (Nat × Nat) := none
  /-- 1 while it holds for its own part of a collective that has converged (1; R341, R372; reset 0) -/
  converged : Bool := false
  /-- tick at which its current wait began (R171 07_spawn; reset 0) -/
  waitSince : Nat := 0
  /-- age (R196 09_compute_core; reset 0) -/
  age : Nat := 0
  /-- recorded arrival of an abandoned pbarw: the phase it waits past (R366 17_isa_control; reset none) -/
  arrived : Option Bool := none
  /-- live mask of its park (32; R224 10_traps; reset 0) -/
  live : BitVec 32 := 0
  /-- park flags of byte 0x196 (8; R232 10_traps; reset 0) -/
  parkFlags : BitVec 8 := 0
  /-- cause of a parked fault (R232 10_traps; reset 0) -/
  parkCause : Nat := 0
  /-- tval of a parked fault (R232 10_traps; reset 0) -/
  parkTval : Word := 0
  /-- 1 while its slot runs a pre-emption or restore handler (R228, R234; reset 0) -/
  handler : Bool := false
  /-- tsafe.REQ from a pre-emption request not yet parked for (1; R224 10_traps; reset 0) -/
  reqPending : Bool := false
  /-- 1 from a hard cancellation or abort of its block or task (1; R224 10_traps; reset 0) -/
  cancelled : Bool := false
  /-- tick at which the cancellation reached it (R168 07_spawn; reset 0) -/
  cancelSince : Nat := 0
  /-- a RECALL that it has not yet met (R114 05_threads; reset 0) -/
  recalled : Bool := false
  /-- retired instructions, rdinstret (64; R101 05_threads; reset 0) -/
  instret : Nat := 0
  /-- L-die and hint of a move that waits to be placed (R107 05_threads; reset 0) -/
  hint : Word := 0
  /-- destination register of the migrate it departed by (R107 05_threads; reset 0) -/
  hintRd : Nat := 0
  /-- L-die that it left (R107 05_threads; reset 0) -/
  fromLdie : Nat := 0
  /-- 1 while it waits for the slices of its arrival in its held slot (R109 05_threads; reset 0) -/
  arriving : Bool := false
  /-- 1 while its spawn or tsub has a place in the dispatcher inbound queue (1; R177, R188 08_tasks; reset 0) -/
  called : Bool := false
  /-- the descriptor or task record that its waiting spawn or tsub read at its issue (R151 07_spawn, R175 08_tasks; reset empty) -/
  record : List Byte := []
  /-- order of its slice request (count; R212 09_compute_core; reset 0) -/
  claimed : Nat := 0
  /-- the tile of which its mma, which waits for the matrix queue, is already a reader (6; R376 18_isa_matrix; reset none) -/
  reading : Option Nat := none
  deriving DecidableEq, Repr, Inhabited

/-- One issue group with resident threads (R191, R198, R199). -/
structure IssueGroup where
  /-- package-wide core (R191) -/
  core : Nat
  /-- quarter (2; R191) -/
  qtr : Nat
  /-- issue group (4; R191) -/
  ig : Nat
  /-- GM0 to GM11 (12 x 32; R199 09_compute_core; start value R157) -/
  gm : List (BitVec 32)
  /-- active (1) or pending (R198 09_compute_core) -/
  active : Bool := true
  /-- cycles with a ready thread for the per-lane port without issuing (R194 09_compute_core; reset 0) -/
  idleLane : Nat := 0
  /-- the same for the uniform port (R194 09_compute_core; reset 0) -/
  idleUniform : Nat := 0
  /-- order of its latest issue or swap in (R198 09_compute_core; reset 0) -/
  lastIssue : Nat := 0
  /-- cycles for which it has been pending with a ready thread (R198 09_compute_core; reset 0) -/
  starved : Nat := 0
  deriving DecidableEq, Repr, Inhabited

/-- State of a tile (R249). -/
inductive TileState where
  | empty | filling | ready | draining
  deriving DecidableEq, Repr, Inhabited

/-- A tile descriptor (R247). -/
structure Tile where
  /-- base offset in the block's scratchpad (R247; reset 0) -/
  base : Nat := 0
  /-- rows (R374; reset 0) -/
  rows : Nat := 0
  /-- row bytes (R374; reset 0) -/
  rowBytes : Nat := 0
  /-- swizzle mode (2; R248; reset 0) -/
  swz : Nat := 0
  /-- state (R249; reset empty) -/
  state : TileState := .empty
  /-- phase (1; R249; reset 0) -/
  phase : Bool := false
  /-- issued bytes (R247; reset 0) -/
  issued : Nat := 0
  /-- pending bytes (R247; reset 0) -/
  pending : Nat := 0
  /-- readers (R247; reset 0) -/
  readers : Nat := 0
  deriving DecidableEq, Repr, Inhabited

/-- Pre-emption of a block (R225-R234). -/
inductive Preempt where
  | none
  /-- requested at a tick; its threads park (R226) -/
  | requested (since : Nat)
  /-- its pre-emption handler runs since a tick (R228) -/
  | handler (since : Nat)
  /-- the handler ended; the save follows (R228) -/
  | saving
  | saved
  /-- its restore handler runs since a tick (R234) -/
  | restoring (since : Nat)
  deriving DecidableEq, Repr, Inhabited

/-- A resident or saved block, or a task's one issue group (R154-R157, R185). -/
structure Block where
  /-- the model's own number of the block -/
  id : Nat := 0
  /-- grid-table slot, or dependence-table entry for a task (R153, R177) -/
  owner : Nat := 0
  /-- 1 for a task (R185) -/
  isTask : Bool := false
  /-- job that its requests are charged to (R189) -/
  job : Nat := 0
  /-- block index (32; R157) -/
  index : Nat := 0
  /-- its core, the leader on a twin (R154) -/
  core : Nat := 0
  /-- 1 on a twin (R154) -/
  twin : Bool := false
  /-- cluster-group member number (3; R156) -/
  member : Nat := 0
  /-- log2 of the cluster-group size (2; R156) -/
  groupLog : Nat := 0
  /-- place of issue group i: core, quarter, issue group (R155) -/
  igs : List (Nat × Nat × Nat) := []
  /-- threads (12; R151) -/
  nthr : Nat := 0
  /-- where its scratchpad part starts in its core (R58; the device chooses) -/
  spBase : Nat := 0
  /-- spbytes (R151) -/
  spbytes : Nat := 0
  /-- nbar (8; R151) -/
  nbar : Nat := 0
  /-- tile descriptors T0 to T(ntile-1) (R247) -/
  tiles : List Tile := []
  /-- start of its accumulator region (R154) -/
  accBase : Nat := 0
  /-- accbytes (R151) -/
  accbytes : Nat := 0
  /-- the same on the follower of a twin (R154) -/
  accBase2 : Nat := 0
  /-- start of its weight-buffer region (R154) -/
  wbBase : Nat := 0
  /-- the same on the follower of a twin (R154) -/
  wbBase2 : Nat := 0
  /-- wbbytes (R151) -/
  wbbytes : Nat := 0
  /-- lane-store bytes of a thread (R151) -/
  lsbytes : Nat := 0
  /-- stack-window bytes of a thread (R151) -/
  swbytes : Nat := 0
  /-- priority (6; R151) -/
  prio : Nat := 0
  /-- detecting mode (1; R208) -/
  detecting : Bool := false
  /-- pre-emption handler (64; R151) -/
  preh : Word := 0
  /-- restore handler (64; R151) -/
  resh : Word := 0
  /-- where its pre-emption stands (R225) -/
  preempt : Preempt := .none
  /-- a request held while it is restored (R225) -/
  heldRequest : Bool := false
  /-- watchdog flag (R227) -/
  watchdog : Bool := false
  /-- handler-failed flag (R228) -/
  handlerFailed : Bool := false
  /-- hard-cancelled or aborted (R168, R182) -/
  cancelled : Bool := false
  /-- a fault reached grid policy (R167) -/
  faulted : Bool := false
  /-- order of its latest start or restore (R184) -/
  started : Nat := 0
  /-- physical base of its save area (R230) -/
  saveBase : Nat := 0
  /-- size of its save area (R230) -/
  saveSize : Nat := 0
  /-- C-die that saved it (R231) -/
  saveDie : Nat := 0
  /-- blocks it was yield-evicted for, by index (R161, R171; reset none) -/
  yieldFor : Bool := false
  deriving DecidableEq, Repr, Inhabited

/-- A grid descriptor as read (R151). -/
structure Descriptor where
  /-- entry (64; R151) -/
  entry : Word := 0
  /-- arg (64; R151) -/
  arg : Word := 0
  /-- cword (64; R151) -/
  cword : Word := 0
  /-- srec (64; R151) -/
  srec : Word := 0
  /-- preh (64; R151) -/
  preh : Word := 0
  /-- resh (64; R151) -/
  resh : Word := 0
  /-- stkbase (64; R151) -/
  stkbase : Word := 0
  /-- stkbytes (32; R151) -/
  stkbytes : Nat := 0
  /-- nblk (32; R151) -/
  nblk : Nat := 0
  /-- pkgmask (32; R151) -/
  pkgmask : Nat := 0
  /-- job (32; R151) -/
  job : Nat := 0
  /-- nthr (16; R151) -/
  nthr : Nat := 0
  /-- foot (16; R151) -/
  foot : Nat := 0
  /-- lsbytes (16; R151) -/
  lsbytes : Nat := 0
  /-- swbytes (16; R151) -/
  swbytes : Nat := 0
  /-- spbytes (32; R151) -/
  spbytes : Nat := 0
  /-- dsbytes (32; R151) -/
  dsbytes : Nat := 0
  /-- accbytes (32; R151) -/
  accbytes : Nat := 0
  /-- wbbytes (32; R151) -/
  wbbytes : Nat := 0
  /-- ntile (8; R151) -/
  ntile : Nat := 0
  /-- nbar (8; R151) -/
  nbar : Nat := 0
  /-- flags (8; R151) -/
  flags : Nat := 0
  /-- cscope (8; R151) -/
  cscope : Nat := 0
  /-- policy (8; R151) -/
  policy : Nat := 0
  /-- prio (8; R151) -/
  prio : Nat := 0
  /-- yield (16; R151) -/
  yield : Nat := 0
  /-- the four role entries (4 x 32; R151) -/
  roles : List Nat := []
  /-- bytes 0x78-0x7F (64; R151) -/
  reserved : Nat := 0
  deriving DecidableEq, Repr, Inhabited

/-- A fault report of the status record (R166). -/
structure FaultReport where
  tval : Word
  pc : Word
  block : Nat
  thread : Nat
  cause : Nat
  pkg : Nat
  tick : Nat
  deriving DecidableEq, Repr, Inhabited

/-- A range [lo, hi) of block indices dealt to a unit: package or die (R158, R159). -/
structure Range where
  who : Nat
  lo : Nat
  hi : Nat
  deriving DecidableEq, Repr, Inhabited

/-- What a write of the grid head or dependence table waits for (R410). -/
inductive HeadWrite where
  | none
  /-- the status-record write, or for a task the patch store before its start, is parked -/
  | statusParked (unit record : Nat)
  /-- the completion-word write is parked -/
  | wordParked (unit record : Nat)
  deriving DecidableEq, Repr, Inhabited

/-- A live grid (R152-R171). -/
structure Grid where
  /-- grid-table slot (16; R153); of a grid headed by package p, 65,536 * (p + 1) more (R158) -/
  slot : Nat := 0
  /-- generation (16; R153) -/
  gen : Nat := 0
  /-- its descriptor (R151) -/
  desc : Descriptor := {}
  /-- the spawner's captured context (R79) -/
  ctx : Ctx := {}
  /-- spawner (R164) -/
  spawner : Nat := 0
  /-- spawn sequence (R164) -/
  seq : Nat := 0
  /-- order of arrival (R161) -/
  order : Nat := 0
  /-- whether the head has cut the ranges (R158) -/
  cut : Bool := false
  /-- ranges dealt to other packages that are not reported (R158, R165) -/
  pkgRanges : List Range := []
  /-- ranges that other packages have reported as cancelled or never started, with the outcome (R165, R170) -/
  returned : List (Range × Nat) := []
  /-- ranges that other packages have not dealt, as they report (R160) -/
  elsewhere : List Range := []
  /-- capacities that packages have reported (R158) -/
  reported : List (Nat × Nat) := []
  /-- answers of packages to the sluice (R162) -/
  answers : List (Nat × Bool) := []
  /-- this package holds the places of its share for the head's commit (1; R162) -/
  holds : Bool := false
  /-- the head has started it, and its blocks here wait in the places held for their spawner's earlier grids (1; R164) -/
  starting : Bool := false
  /-- its blocks are being saved, as those of a gang grid (1; R163) -/
  evicted : Bool := false
  /-- undealt ranges of this package's C-dies (R159) -/
  dieRanges : List Range := []
  /-- whether a block of it has started here (R164) -/
  begun : Bool := false
  /-- dies that hold its die-scratchpad bytes: die and base (R159) -/
  dieSp : List (Nat × Nat) := []
  /-- the sluice holds it (R162) -/
  gated : Bool := false
  /-- tick at which it came to the sluice (R162) -/
  gateSince : Nat := 0
  /-- tick at which the sluice retries after a refused commit; 0 with none refused (R162) -/
  retryAt : Nat := 0
  /-- soft cancel (R168) -/
  soft : Bool := false
  /-- hard cancel (R168) -/
  hard : Bool := false
  /-- flags of byte 0x009: bits 0, 4, 5, 6 (R166) -/
  flags : BitVec 8 := 0
  /-- completed block indices (R165) -/
  completed : List Nat := []
  /-- faulted block indices (R167) -/
  faulted : List Nat := []
  /-- cancelled block indices (R168) -/
  cancelled : List Nat := []
  /-- never-started block indices (R168) -/
  neverStarted : Nat := 0
  /-- retired blocks not yet reported to the head: index and outcome 0 completed, 1 faulted, 2 cancelled, 3 never started (R165,
  R168) -/
  unreported : List (Nat × Nat) := []
  /-- fault count per cause (64 x 32; R166) -/
  causes : List (Nat × Nat) := []
  /-- fault reports, in order of arrival, at most eight (R166) -/
  reports : List FaultReport := []
  /-- where its final writes stand (R410) -/
  write : HeadWrite := .none
  /-- whether the status record is written or abandoned (R410) -/
  statusDone : Bool := false
  deriving DecidableEq, Repr, Inhabited

/-- A region record of a task (R176). -/
structure RegionRec where
  /-- base (64; R176) -/
  base : Nat
  /-- length (32; R176) -/
  length : Nat
  /-- patch offset (16; R176) -/
  patch : Nat
  /-- renamable (1; R176) -/
  renamable : Bool
  /-- versions (8; R176) -/
  versions : Nat
  /-- in the write set (R175) -/
  isWrite : Bool
  /-- bound version, none while a writer waits for one (R178) -/
  bound : Option Nat := none
  deriving DecidableEq, Repr, Inhabited

/-- Where a task stands (R178-R182). -/
inductive TaskState where
  | waiting | running | completed | failed | aborted
  deriving DecidableEq, Repr, Inhabited

/-- A task in the dependence table (R175-R185). -/
structure Task where
  /-- dependence-table entry (16; R177) -/
  entry : Nat := 0
  /-- generation (16; R153, R177) -/
  gen : Nat := 0
  /-- order of submission (R178) -/
  order : Nat := 0
  /-- the submitter's captured context (R410) -/
  ctx : Ctx := {}
  /-- die of its submitter (R183) -/
  subDie : Nat := 0
  /-- entry PC (64; R175) -/
  pc : Word := 0
  /-- argument block (64; R175) -/
  argBlock : Word := 0
  /-- completion word (64; R175) -/
  cword : Word := 0
  /-- stack base (64; R175) -/
  stkbase : Word := 0
  /-- stack bytes per thread (32; R175) -/
  stkbytes : Nat := 0
  /-- job (32; R175) -/
  job : Nat := 0
  /-- argument bytes (16; R175) -/
  argBytes : Nat := 0
  /-- foot (16; R175) -/
  foot : Nat := 0
  /-- stack-window bytes (16; R175) -/
  swbytes : Nat := 0
  /-- threads (8; R175) -/
  nthr : Nat := 0
  /-- submitted priority (8; R175) -/
  prio : Nat := 0
  /-- completion scope (8; R175) -/
  cscope : Nat := 0
  /-- submitted speculative (1; R175) -/
  spec : Bool := false
  /-- placement (8; R175) -/
  placement : Nat := 0xFF
  /-- region records with their bindings (R176, R178) -/
  regions : List RegionRec := []
  /-- entries with an edge to it (R178) -/
  edges : List Nat := []
  /-- where it stands (R178) -/
  state : TaskState := .waiting
  /-- a commit is recorded (R181) -/
  commit : Bool := false
  /-- the table has settled it (R180) -/
  settled : Bool := false
  /-- current level (R184) -/
  level : Nat := 0
  /-- tick from which its wait at the level counts (R184) -/
  levelSince : Nat := 0
  /-- whether its wait as a ready task has begun (R184) -/
  ready : Bool := false
  /-- core on which it ran (R147) -/
  core : Nat := 0
  /-- cores of completed predecessors of core scope, whose lines a dispatch elsewhere writes back (R147) -/
  promote : List Nat := []
  /-- where its completion-word write stands (R410) -/
  write : HeadWrite := .none
  deriving DecidableEq, Repr, Inhabited

/-- A renamable region with a task in the table (R178, R179). -/
structure Region where
  /-- base (64; R178) -/
  base : Nat
  /-- length (32; R178) -/
  length : Nat
  /-- versions (8; R178) -/
  versions : Nat
  /-- lw (R178) -/
  lw : Nat
  /-- the committed version (R182) -/
  committed : Nat
  /-- one more than the submission order of the task that wrote the committed version (R182); 0 for version 0 -/
  committedAt : Nat := 0
  /-- versions that completed tasks of core scope have written, and their cores (R147) -/
  writers : List (Nat × Nat) := []
  deriving DecidableEq, Repr, Inhabited

/-- The ring operations (R187), in the order in which a request between packages numbers them. -/
inductive RingOp where
  | ticket | fill | push | pop | kpush | kpop
  deriving DecidableEq, Repr, Inhabited

/-- Where the result of a ring request goes (R363, R364). -/
inductive RingDest where
  /-- rd of a memory form, the physical and the virtual address of its buffer -/
  | memory (rd : Nat) (buffer va : Nat)
  /-- slices of a long form: the D field -/
  | slices (d : BitVec 12)
  deriving DecidableEq, Repr, Inhabited

/-- A request to a ring engine (R187, R188). -/
structure RingReq where
  /-- the model's own number of the request -/
  id : Nat
  /-- requesting thread -/
  thread : Nat
  /-- physical address of the header (R186) -/
  header : Nat
  op : RingOp
  /-- no-wait (R363) -/
  noWait : Bool
  /-- ticket or key (R187) -/
  key : Nat
  /-- payload bytes, least significant first (R363) -/
  payload : List Byte
  dest : RingDest
  /-- virtual address of the header (R364) -/
  va : Nat
  /-- bytes from the header to the end of its leaf page; none where no page maps it (R186) -/
  room : Option Nat
  /-- core of a requester on a compute core (R148) -/
  core : Option Nat
  /-- package and message identifier of a request of another package (R187; reset none) -/
  from_ : Option (Nat × Nat) := none
  /-- held by the engine (R187) -/
  held : Bool := false
  /-- its message to the package that homes the ring has left (R187) -/
  sent : Bool := false
  /-- job that a spill of it is charged to; none for a requester of no grid and no task (R188, R189) -/
  job : Option Nat := none
  /-- a withdrawal of it is on its way (R365) -/
  withdrawn : Bool := false
  deriving DecidableEq, Repr, Inhabited

/-- A queue that spills (R188). -/
inductive QueueKind where
  | inbound | batch | ring | walk
  deriving DecidableEq, Repr, Inhabited

/-- A record in a spill ring (R188): the queued request's layout is internal to the device. -/
structure Spilled where
  queue : QueueKind
  die : Nat
  job : Nat
  seq : Nat
  /-- thread or request number of the queued request; 0 once it has ended or is withdrawn -/
  what : Nat
  deriving DecidableEq, Repr, Inhabited

/-- A line of a compute core's L1 (R63-R65). -/
structure L1Line where
  /-- package-wide core -/
  core : Nat
  /-- line number of the location: physical address div 64 -/
  line : Nat
  /-- its bytes (512; R65) -/
  data : BitVec 512 := 0
  /-- per-byte dirty mask (64; R65) -/
  dirty : BitVec 64 := 0
  /-- bytes that carry poison: of a poisoned line when it was filled, or spilled with poison (64; R73 03_memory, R217
  09_compute_core) -/
  poison : BitVec 64 := 0
  /-- a unit spilled with lane-store poison has poisoned the granule; the bytes stored clean since (64; R217 09_compute_core) -/
  taint : Option (BitVec 64) := none
  /-- lease end in ticks; 0 no lease (R63) -/
  leaseEnd : Nat := 0
  /-- release epoch of the core when its oldest dirty byte was accepted (R139) -/
  firstEpoch : Nat := 0
  /-- release epoch when its newest dirty byte was accepted (R139) -/
  lastEpoch : Nat := 0
  /-- tick of its first dirty byte (R65) -/
  since : Nat := 0
  deriving DecidableEq, Repr, Inhabited

/-- A line of an instruction cache (R61, R89). -/
structure ILine where
  core : Nat
  line : Nat
  data : BitVec 512
  deriving DecidableEq, Repr, Inhabited

/-- Directory states (R69). -/
inductive DirState where
  | s | e | o | m
  deriving DecidableEq, Repr, Inhabited

/-- A directory entry; no entry is state I (R69). -/
structure DirEntry where
  line : Nat
  state : DirState
  /-- holder in E, O and M -/
  owner : Option Agent
  sharers : List Agent
  deriving DecidableEq, Repr, Inhabited

/-- A request parked in a home's fault queue (R76): another agent's, or the access of a thread, an engine or a page-table walk of this
package, which is made again. -/
structure ParkedReq where
  req : Request
  line : Nat
  thread : Option Nat := none
  /-- of an engine or a walk -/
  unit_ : Bool := false
  deriving DecidableEq, Repr

/-- A soft error (R19, R22, R76): the code corrects it, a re-read finds the data good, or it stays uncorrectable. -/
inductive ErrKind where
  | corrected | transient | hard
  deriving DecidableEq, Repr, Inhabited

/-- What a soft error strikes (R19, R22, R61, R73, R76, R209, R214, R245, R246). -/
inductive StrikeAt where
  /-- memory, an L2 or a scratchpad, at a location -/
  | store (loc : Nat)
  /-- the directory entry of a line -/
  | dirEntry (line : Nat)
  /-- the lane store of a thread, at an offset of its allocation: space 4, then the stack window -/
  | lane (thread off : Nat)
  /-- the accumulator memory of a core, at an offset -/
  | acc (core off : Nat)
  /-- the weight buffer of a core, at an offset -/
  | wb (core off : Nat)
  /-- a bit of a slice of a thread's registers -/
  | slice (thread a bit : Nat)
  deriving DecidableEq, Repr, Inhabited

/-- A soft error to come: the environment's input (notes/assumptions/117). -/
structure Strike where
  /-- tick from which it is there -/
  tick : Nat
  place : StrikeAt
  kind : ErrKind
  deriving DecidableEq, Repr, Inhabited

/-- An answer of a home (R75, R76): the data or old value, and whether it is poisoned. -/
structure Answer where
  agent : Agent
  seq : BitVec 32
  /-- the home die -/
  home : Agent
  value : Nat
  poison : Bool
  /-- an atomic that its home does not support: cause 30 for the requester (R70) -/
  unsupported : Bool := false
  /-- of a requester of this package, whose identifiers are the model's (notes/assumptions/121) -/
  own : Bool := false
  deriving DecidableEq, Repr

/-- An LR reservation (R71). -/
structure Reservation where
  thread : Nat
  /-- 64-byte granule of the location -/
  granule : Nat
  /-- tick of the LR -/
  since : Nat
  deriving DecidableEq, Repr, Inhabited

/-- The memory system of the package (R58-R77). -/
structure MemSys where
  /-- bytes by location as the homes and L2s hold them, canonical, unlisted bytes zero (R23, R54; reset empty) -/
  bytes : List Host.Cell := []
  /-- poisoned granules by their first location, rising (R73; reset empty) -/
  poison : List Nat := []
  /-- L1 data caches (R61, R65; reset empty) -/
  l1 : List L1Line := []
  /-- L1 instruction caches (R61; reset empty) -/
  icache : List ILine := []
  /-- core ownership marks of the L2s: die, line, core (R65; reset empty) -/
  owned : List (Nat × Nat × Nat) := []
  /-- ownership notices under way: core, line, oldest first (R65; reset empty) -/
  notices : List (Nat × Nat) := []
  /-- release epoch per core (R139; reset empty) -/
  epochs : List (Nat × Nat) := []
  /-- directory entries (R69; reset empty) -/
  dir : List DirEntry := []
  /-- lines of region 2 and 5 that the home caches of the L-dies hold (64 MiB each; R61; reset empty) -/
  homeLines : List Nat := []
  /-- LR reservations (R71; reset empty) -/
  resv : List Reservation := []
  /-- applied records, at most 16,384 for a home die (R75; reset empty) -/
  applied : List Answer := []
  /-- requests refused with a retry response, and when (R75; reset empty) -/
  retries : List (Request × Nat) := []
  /-- sequence number of the next request of this package's own requesters (32; R75; reset 0) -/
  nextSeq : BitVec 32 := 0
  /-- each own requester's request that its next one acknowledges (R75; reset empty) -/
  ownSeq : List (Agent × BitVec 32) := []
  /-- fault queues of the homes (R76; reset empty) -/
  parked : List ParkedReq := []
  /-- errors in granules of main memory that no access has met: first location and kind (R19, R22, R76; reset empty) -/
  latent : List (Nat × ErrKind) := []
  /-- lines whose directory entry cannot be read (R76; reset empty) -/
  dirBad : List Nat := []
  /-- answers sent to requesters outside the model's threads (R75; reset empty) -/
  answers : List Answer := []
  /-- accumulator memory: core * 2^18 + offset (256 KiB a core; R246; reset empty) -/
  acc : List Host.Cell := []
  /-- weight buffers: core * 2^20 + offset (1 MiB a core; R245; reset empty) -/
  wb : List Host.Cell := []
  /-- poisoned 8-byte words of accumulator memory (R381; reset empty) -/
  accPoison : List Nat := []
  /-- poisoned 8-byte words of the weight buffers (R381; reset empty) -/
  wbPoison : List Nat := []
  deriving DecidableEq, Repr, Inhabited

/-- What holds a cached translation (R84, R85, R87). -/
inductive TlbLevel where
  | core (c : Nat) | die (d : Nat) | hart (l c : Nat)
  deriving DecidableEq, Repr, Inhabited

/-- A TLB entry (R84-R87). -/
structure TlbEntry where
  level : TlbLevel
  /-- V, VMID and ASID of its address space (R87) -/
  v : Bool
  vmid : Nat
  asid : Nat
  /-- global leaf (R81) -/
  global : Bool
  /-- generation of the address space (R87) -/
  gen : Nat
  /-- first virtual page and number of pages (4 KiB, 64 KiB, 2 MiB, 8 MiB) -/
  vpage : Nat
  pages : Nat
  /-- first physical page -/
  ppage : Nat
  /-- pages of the leaf page, the smaller one of two stages (R186) -/
  leaf : Nat
  /-- leaf bits X, W, R, U (R83) -/
  r : Bool
  w : Bool
  x : Bool
  user : Bool
  /-- R and X of the second stage's leaf, to which vsstatus.MXR does not apply (R78) -/
  gr : Bool := true
  gx : Bool := true
  /-- D bit per quarter (R85); one bit for an uncoalesced entry -/
  dirty : BitVec 4
  /-- PBMT: 0 PMA, 1 NC, 2 IO (R81) -/
  pbmt : Nat
  /-- RSW, the lease class while LEASERSW is 1 (R82) -/
  rsw : Nat
  deriving DecidableEq, Repr, Inhabited

/-- A non-leaf PTE in the walk cache of a DTU (R86, R87). -/
structure WalkEntry where
  /-- C-die of the DTU -/
  die : Nat
  /-- V, VMID and ASID of its address space (R87) -/
  v : Bool
  vmid : Nat
  asid : Nat
  /-- generation of the address space (R87) -/
  gen : Nat
  /-- of a G-stage table, kept by guest page -/
  gstage : Bool
  /-- level of the PTE, 1 to 4 -/
  level : Nat
  /-- virtual page, or guest page, div 512^level -/
  prefix_ : Nat
  /-- address of the table that the PTE points to -/
  base : Nat
  deriving DecidableEq, Repr, Inhabited

/-- Kinds of access (R83, R218). -/
inductive Access where
  | fetch | load | store
  deriving DecidableEq, Repr, Inhabited

/-- A miss queued or walked at a DTU (R97). -/
structure Miss where
  /-- the model's own number of the miss -/
  id : Nat
  ctx : Ctx
  vpage : Nat
  /-- address of the first waiter -/
  va : Nat
  acc : Access
  mode : Mode
  /-- waiting threads -/
  waiters : List Nat
  /-- those of them whose access is of another kind or mode, which a fault of the walk does not concern -/
  late : List Nat := []
  /-- cores of the waiters -/
  cores : List Nat
  /-- result of its walk, once made: entry, or cause, guest address and flags of byte 0x15 -/
  done : Option (TlbEntry ⊕ (Nat × Nat × Nat))
  deriving DecidableEq, Repr

/-- A fault record of a DTU (R98). -/
structure FaultRec where
  number : Nat
  ctx : Ctx
  /-- faulting address -/
  va : Word
  /-- guest physical address shifted right by 2, for G-stage faults -/
  gpa : Word
  cause : Nat
  acc : Access
  /-- flag bits of byte 0x15 -/
  flags : Nat
  waiters : List Nat
  /-- first waiter's locator, or the head write's (R98) -/
  locator : Nat
  /-- whether it has been written to the fault ring -/
  written : Bool
  deriving DecidableEq, Repr, Inhabited

/-- A translation unit: DTU 0-7, or the pool unit 8, 9 of an L-die (R93, R98, R100). -/
structure Unit_ where
  /-- ZPBASE (64; R100; reset 0) -/
  zpbase : Word := 0
  /-- ZPLOW (16; R100; reset 0) -/
  zplow : BitVec 16 := 0
  /-- ZPSIZE (5; R100; reset 6) -/
  zpsize : BitVec 5 := 6
  /-- ZPPROD (32; R100; reset 0) -/
  zpprod : BitVec 32 := 0
  /-- ZPCONS (32; R100; reset 0) -/
  zpcons : BitVec 32 := 0
  /-- ZLBASE (64; R100; reset 0) -/
  zlbase : Word := 0
  /-- ZLSIZE (5; R100; reset 6) -/
  zlsize : BitVec 5 := 6
  /-- ZLPROD (32; R100; reset 0) -/
  zlprod : BitVec 32 := 0
  /-- ZLCONS (32; R100; reset 0) -/
  zlcons : BitVec 32 := 0
  /-- ZMSIADDR (64; R100; reset 0) -/
  zmsiaddr : Word := 0
  /-- ZMSIDATA (32; R100; reset 0) -/
  zmsidata : BitVec 32 := 0
  /-- FRBASE (64; R100; reset 0) -/
  frbase : Word := 0
  /-- FRSIZE (5; R100; reset 6) -/
  frsize : BitVec 5 := 6
  /-- FRPROD (32; R100; reset 0) -/
  frprod : BitVec 32 := 0
  /-- FRCONS (32; R100; reset 0) -/
  frcons : BitVec 32 := 0
  /-- TRSTAT.BADFRM (16; R100; reset 0) -/
  badfrm : BitVec 16 := 0
  /-- reserve of zeroed frames, oldest first; TRSTAT.RESV counts them (R93; reset empty) -/
  reserve : List Nat := []
  /-- outstanding fault records; TRSTAT.RECS counts them (R98; reset empty) -/
  records : List FaultRec := []
  /-- number of the next record (16; R98; reset 0) -/
  nextRec : Nat := 0
  /-- misses queued or walked, oldest first (R97; reset empty) -/
  misses : List Miss := []
  /-- threads in the miss queue that wait for a free fault record (R98; reset empty) -/
  noRecord : List Nat := []
  deriving DecidableEq, Repr

/-- A remote fence under way at a DTU (R89, R90). -/
structure FenceReq where
  /-- C-die of the DTU -/
  die : Nat
  /-- cores that held a removed entry -/
  cores : List Nat
  /-- V, and VMID and ASID where the function names one -/
  v : Bool
  vmid : Option Nat
  asid : Option Nat
  /-- first page and number of pages; none for the whole address space -/
  range : Option (Nat × Nat)
  /-- it names G-stage entries: those of FIDs 3 and 4 (R89) -/
  gstage : Bool := false
  /-- walks past their final PTE read when it came, whose entries count as matching (R91) -/
  walks : List Nat := []
  deriving DecidableEq, Repr, Inhabited

/-- Translation state of the package (R78-R100). -/
structure Xlate where
  /-- units 0-9 (R100) -/
  units : List Unit_ := List.replicate 10 {}
  /-- all TLBs (R84, R85; reset empty) -/
  tlb : List TlbEntry := []
  /-- walk caches of the DTUs (R86; reset empty) -/
  walks : List WalkEntry := []
  /-- generation per address space: V, VMID, ASID (R87; reset empty, which is 0) -/
  gens : List ((Bool × Nat × Nat) × Nat) := []
  /-- generation raise of every ASID: V, VMID (R87; reset empty) -/
  gensAll : List ((Bool × Nat) × Nat) := []
  /-- TRGENSTS.BUSY and the raise in progress (R87; reset none) -/
  busy : Option Word := none
  /-- TRGEN writes held while busy (R87; reset empty) -/
  heldRaise : List Word := []
  /-- TRCTL.LEASERSW (1; R100; reset 0) -/
  leasersw : Bool := false
  /-- remote fences not yet acknowledged (R90; reset empty) -/
  fences : List FenceReq := []
  /-- acknowledged fences per die (R90; reset 0) -/
  acks : List Nat := List.replicate 8 0
  deriving DecidableEq, Repr

/-- One end of a copy or transfer: a space and an address (R58). -/
structure End where
  space : Nat
  addr : Word
  deriving DecidableEq, Repr, Inhabited

/-- Kinds of copy (R340). -/
inductive CopyKind where
  | plain | strided | fill (tile first : Nat) | drain (tile : Nat)
  deriving DecidableEq, Repr, Inhabited

/-- A copy in flight (R250, R340). -/
structure CopyOp where
  id : Nat
  core : Nat
  /-- the threads that issued it: one, or every member with U = 1 (R140, R341) -/
  threads : List Nat
  block : Option Nat
  kind : CopyKind
  src : End
  dst : End
  rows : Nat
  rowBytes : Nat
  srcStride : Nat
  dstStride : Nat
  pb : Nat
  scope : Nat
  /-- translation context and mode of the issuing thread (R79, R340) -/
  ctx : Ctx := {}
  mode : Mode := .u
  deriving DecidableEq, Repr, Inhabited

/-- Kinds of matrix-class operation (R373). -/
inductive MatKind where
  | multiply (desc : Word) (base stride : Word)
  | wbld (offset : Nat) (src : End) (len : Nat)
  | accld (offset : Nat) (src : End) (len fmt : Nat)
  | acczr (offset len : Nat)
  | accdr (dst : End) (offset len fmt : Nat) (ftz : Bool)
  | fence
  deriving DecidableEq, Repr, Inhabited

/-- An entry of a matrix queue (R373). -/
structure MatOp where
  id : Nat
  /-- queue: the leader's core -/
  queue : Nat
  /-- core on whose resources it runs -/
  core : Nat
  /-- none for a thread that reached the core by migrate -/
  block : Option Nat
  kind : MatKind
  pb : Nat
  scope : Nat
  /-- translation context and mode of the issuing thread (R79, R243, R381) -/
  ctx : Ctx := {}
  mode : Mode := .u
  /-- rank 0's TTRAP at issue (R244) -/
  ttrap : Bool
  /-- the threads that issued it, whose tflags a reserved ternary byte sets (R140, R244) -/
  members : List Nat
  started : Bool := false
  /-- shadow: the accumulator words it took at its start, leader then follower (R246) -/
  shadow : List (List Nat) := []
  /-- a word of C that it took was poisoned (R246) -/
  badC : Bool := false
  deriving DecidableEq, Repr, Inhabited

/-- A service batch (R118). -/
structure Batch where
  id : Nat
  core : Nat
  qtr : Nat
  ig : Nat
  key : Word
  members : List Nat
  /-- tick at which its first member joined -/
  since : Nat
  closed : Bool
  deriving DecidableEq, Repr, Inhabited

/-- The engines of the cores (R250, R373, R118). -/
structure Engines where
  /-- copies in flight (R250; reset empty) -/
  copies : List CopyOp := []
  /-- matrix queues, in issue order (R373; reset empty) -/
  mats : List MatOp := []
  /-- service batches (R118; reset empty) -/
  batches : List Batch := []
  /-- next number of an operation, request, batch, block or thread: the model's own -/
  next : Nat := 1
  deriving DecidableEq, Repr, Inhabited

/-- Dispatchers and the dependence table (R151-R185). -/
structure Dispatch where
  /-- live grids (R152; reset empty) -/
  grids : List Grid := []
  /-- generation of each grid-table slot used (R153; reset empty) -/
  gridGens : List (Nat × Nat) := []
  /-- blocks and tasks, resident or saved (R157, R230; reset empty) -/
  blocks : List Block := []
  /-- tasks in the dependence table (R178; reset empty) -/
  tasks : List Task := []
  /-- generation of each dependence-table entry used (R153; reset empty) -/
  taskGens : List (Nat × Nat) := []
  /-- renamable regions (R178; reset empty) -/
  regions : List Region := []
  /-- versions of aborted tasks whose threads have not all ended: block, base, version (R182; reset empty) -/
  lingering : List (Nat × Nat × Nat) := []
  /-- ring requests at the engines, in arrival order (R187; reset empty) -/
  ringReqs : List RingReq := []
  /-- who put an entry into a ring: header, ticket or sequence, core (R148; reset empty) -/
  pushers : List (Nat × Nat × Option Nat) := []
  /-- spilled records, oldest first (R188; reset empty) -/
  spilled : List Spilled := []
  /-- threads that wait at a full queue, in order of arrival: queue, die, thread (R189; reset empty) -/
  line : List (Nat × Nat × Nat) := []
  /-- order counter of grids, tasks and starts: the model's own -/
  order : Nat := 1
  deriving DecidableEq, Repr, Inhabited

/-- The thread block, save-pool and graph registers of region 4 (R124, R172, R236). -/
structure DevRegs where
  /-- ARBASE of each L-die (64; R124; reset 0) -/
  arbase : List Word := [0, 0]
  /-- ARSIZE (4; R124; reset 4) -/
  arsize : List (BitVec 4) := [4, 4]
  /-- ARPROD (32; R124; reset 0) -/
  arprod : List (BitVec 32) := [0, 0]
  /-- ARCONS (32; R124; reset 0) -/
  arcons : List (BitVec 32) := [0, 0]
  /-- ARMSIADDR (64; R124; reset 0) -/
  armsiaddr : List Word := [0, 0]
  /-- ARMSIDATA (32; R124; reset 0) -/
  armsidata : List (BitVec 32) := [0, 0]
  /-- JOBBASE (64; R172; reset 0) -/
  jobbase : Word := 0
  /-- JOBSIZE (5; R172; reset 0) -/
  jobsize : BitVec 5 := 0
  /-- SVBASE (64; R236; reset 0) -/
  svbase : Word := 0
  /-- SVSIZE in 4 KiB units (28; R236; reset 0) -/
  svsize : BitVec 28 := 0
  /-- GRSTAGE (64; R124; reset 0) -/
  grstage : Word := 0
  /-- GRUPNUM (8; R124; reset 0) -/
  grupnum : BitVec 8 := 0
  /-- GRUPSTS (8; R124; reset 0) -/
  grupsts : BitVec 8 := 0
  /-- staging offset of the upload under validation (R124; reset 0) -/
  grupload : Nat := 0
  /-- accepted graphs: number and image bytes (R125; reset empty) -/
  graphs : List (Nat × List Byte) := []
  /-- GRSTS.ENTRY (16; R124; reset 0) -/
  grentry : BitVec 16 := 0
  /-- GRSTS.LOST (1; R124; reset 0) -/
  grlost : Bool := false
  /-- GRSTS.CODE (8; R124; reset 0) -/
  grcode : BitVec 8 := 0
  /-- GRMSIADDR (64; R124; reset 0) -/
  grmsiaddr : Word := 0
  /-- GRMSIDATA (32; R124; reset 0) -/
  grmsidata : BitVec 32 := 0
  /-- tasks of the running replay, by handle (R126; reset empty) -/
  replay : List Word := []
  /-- tasks of the running replay that wait to be submitted, with their argument blocks (R126, R177; reset empty) -/
  replayRest : List (Task × List Byte) := []
  /-- a task of the running replay faulted (R126; reset 0) -/
  replayFailed : Bool := false
  deriving DecidableEq, Repr, Inhabited

/-- A latency core (R8, R111): its privileged state. The CSR layouts are the privileged architecture's (notes/assumptions/8). -/
structure Hart where
  /-- L-die -/
  ldie : Nat := 0
  /-- core, 0-47 -/
  core : Nat := 0
  /-- started (R54 stage 7; reset 0) -/
  started : Bool := false
  /-- stthr 0x5C0 (64; R111; reset 0) -/
  stthr : Word := 0
  /-- mstatus, with sstatus its view (64; R116; PRESUMED 0) -/
  mstatus : Word := 0
  /-- stvec (64; R116; PRESUMED 0) -/
  stvec : Word := 0
  /-- sepc (64; R116; PRESUMED 0) -/
  sepc : Word := 0
  /-- scause (64; R116; PRESUMED 0) -/
  scause : Word := 0
  /-- stval (64; R116; PRESUMED 0) -/
  stval : Word := 0
  /-- sscratch (64; R116; PRESUMED 0) -/
  sscratch : Word := 0
  /-- sip, bit 16 thread departed (64; R111; PRESUMED 0) -/
  sip : Word := 0
  /-- sie (64; R111; PRESUMED 0) -/
  sie : Word := 0
  /-- mtvec (64; R116; PRESUMED 0) -/
  mtvec : Word := 0
  /-- mepc (64; R116; PRESUMED 0) -/
  mepc : Word := 0
  /-- mcause (64; R116; PRESUMED 0) -/
  mcause : Word := 0
  /-- mtval (64; R116; PRESUMED 0) -/
  mtval : Word := 0
  /-- mscratch (64; R116; PRESUMED 0) -/
  mscratch : Word := 0
  /-- menvcfg (64; R79; PRESUMED 0) -/
  menvcfg : Word := 0
  /-- henvcfg (64; R79; PRESUMED 0) -/
  henvcfg : Word := 0
  /-- vsatp (64; R79; PRESUMED 0) -/
  vsatp : Word := 0
  /-- hgatp (64; R79; PRESUMED 0) -/
  hgatp : Word := 0
  /-- medeleg: exceptions that S mode takes (64; R101, R116; DESIGN CHOICE all ones, notes/assumptions/8) -/
  medeleg : Word := BitVec.allOnes 64
  /-- mideleg: interrupts that S mode takes (64; R101, R111; DESIGN CHOICE all ones, notes/assumptions/8) -/
  mideleg : Word := BitVec.allOnes 64
  /-- mcounteren (64; R101; DESIGN CHOICE all ones, notes/assumptions/8) -/
  mcounteren : Word := BitVec.allOnes 64
  /-- scounteren (64; R101; DESIGN CHOICE all ones, notes/assumptions/8) -/
  scounteren : Word := BitVec.allOnes 64
  /-- hcounteren (64; R101; DESIGN CHOICE all ones, notes/assumptions/8) -/
  hcounteren : Word := BitVec.allOnes 64
  /-- machine bits of mie (64; R101; PRESUMED 0) -/
  mie : Word := 0
  /-- machine bits of mip (64; R101; PRESUMED 0) -/
  mip : Word := 0
  /-- mtval2 (64; R101; PRESUMED 0) -/
  mtval2 : Word := 0
  /-- mtinst (64; R101; PRESUMED 0) -/
  mtinst : Word := 0
  /-- hstatus (64; R101; PRESUMED 0) -/
  hstatus : Word := 0
  /-- hedeleg (64; R101; PRESUMED 0) -/
  hedeleg : Word := 0
  /-- hideleg (64; R101; PRESUMED 0) -/
  hideleg : Word := 0
  /-- hie (64; R101; PRESUMED 0) -/
  hie : Word := 0
  /-- hvip (64; R101; PRESUMED 0) -/
  hvip : Word := 0
  /-- hgeie (64; R101; PRESUMED 0) -/
  hgeie : Word := 0
  /-- htimedelta (64; R101; PRESUMED 0) -/
  htimedelta : Word := 0
  /-- htval (64; R101; PRESUMED 0) -/
  htval : Word := 0
  /-- htinst (64; R101; PRESUMED 0) -/
  htinst : Word := 0
  /-- vsstatus (64; R101; PRESUMED 0) -/
  vsstatus : Word := 0
  /-- vstvec (64; R101; PRESUMED 0) -/
  vstvec : Word := 0
  /-- vsscratch (64; R101; PRESUMED 0) -/
  vsscratch : Word := 0
  /-- vsepc (64; R101; PRESUMED 0) -/
  vsepc : Word := 0
  /-- vscause (64; R101; PRESUMED 0) -/
  vscause : Word := 0
  /-- vstval (64; R101; PRESUMED 0) -/
  vstval : Word := 0
  /-- event selectors of Zihpm and mcountinhibit, by CSR number (64 each; R101; PRESUMED 0) -/
  events : List (Nat × Word) := []
  /-- what mcycle and minstret read beyond the cycles of the package and the instructions that the thread has retired (64 each; R101;
  PRESUMED 0) -/
  cycleBase : Word := 0
  instretBase : Word := 0
  /-- virtualisation mode V (1; R79; PRESUMED 0) -/
  virt : Bool := false
  /-- satp (64; R79; PRESUMED 0) -/
  satp : Word := 0
  deriving DecidableEq, Repr, Inhabited

/-- Fences, failures and throttling (R15, R18, R20, R22, R40, R41, R77). -/
structure Ras where
  /-- fenced C-dies (8; R77; reset 0) -/
  dies : BitVec 8 := 0
  /-- L-die 1 fenced (1; R77; reset 0) -/
  ldie1 : Bool := false
  /-- fenced or failed HBM stacks (16; R20; reset 0) -/
  hbmStacks : BitVec 16 := 0
  /-- failed LPDDR channels, 16 per L-die (32; R22; reset 0) -/
  channels : BitVec 32 := 0
  /-- fenced die links, by their two dies, L-dies as 8 and 9 (R15; reset empty) -/
  links : List (Nat × Nat) := []
  /-- reported temperature of each stack in degrees C (R18; DESIGN CHOICE 0, notes/assumptions/1) -/
  temps : List Nat := List.replicate 16 0
  /-- C-dies whose request issue to a stack is halved (16; R18; reset 0) -/
  halved : BitVec 16 := 0
  /-- thermal throttling of each die: deepest step (10; R41; reset 0) -/
  hot : BitVec 10 := 0
  /-- power throttle step in eighths (R40; reset 0) -/
  eighths : Nat := 0
  /-- lowered latency-core frequency (1; R40; reset 0) -/
  slowed : Bool := false
  /-- lost packages (32; R35; reset 0) -/
  lost : BitVec 32 := 0
  /-- packages without a route since a tick, and not lost (R35; reset empty) -/
  cut : List (Nat × Nat) := []
  /-- HBM rows repaired in this bring-up (R19; reset empty) -/
  rows : List Nat := []
  /-- power cap in watts, of the power configuration record (12; R39; DESIGN CHOICE 2600, notes/assumptions/1) -/
  cap : Nat := 2600
  /-- repaired UCIe lanes, logged (R13; reset 0) -/
  repairs : Nat := 0
  /-- management error log: kinds of events, newest first; MGERRHEAD follows its length (R20, R57, R408; reset empty) -/
  log : List Nat := []
  deriving DecidableEq, Repr, Inhabited

/-- The PCIe port of an L-die (R28, R38, R77). -/
structure PciePort where
  /-- its link is trained and not down (1; R28, R54; reset 0) -/
  up : Bool := false
  /-- fenced (1; R28; reset 0) -/
  fenced : Bool := false
  /-- endpoint mode of the port configuration record, root mode otherwise (1; R38; reset 0) -/
  endpoint : Bool := false
  /-- bytes of the window given to PCIe devices (40; R27, R28; reset 0) -/
  bars : Nat := 0
  /-- translation context that the IOMMU of the L-die gives the accesses of the attached device (R38; DESIGN CHOICE bare,
  notes/assumptions/130) -/
  iommu : Ctx := {}
  /-- faults that the IOMMU has reported, oldest first: cause and address (R38; reset empty) -/
  faults : List (Nat × Word) := []
  deriving DecidableEq, Repr, Inhabited

/-- A collective that became complete when a member left: its members, and the address of the first, which its execution takes
before any other step (R201). -/
structure Ripe where
  members : List Nat
  pc : Word
  /-- they do not wait at one collective: each takes cause 26 (R201) -/
  mixed : Bool := false
  /-- number of the group mask (R201) -/
  mask : Nat := 0
  deriving DecidableEq, Repr, Inhabited

/-- The chip: cores, memory, translation, dispatch (R58-R255). -/
structure Chip where
  /-- die timebase in ticks (64; R2, R101; reset 0) -/
  tick : Nat := 0
  /-- arithmetic cycles, rdcycle (64; R101; reset 0) -/
  cycle : Nat := 0
  /-- the model's own counter of free values (DESIGN CHOICE 0, notes/assumptions/7) -/
  free : Nat := 0
  /-- threads (R102; reset empty) -/
  threads : List Thread := []
  /-- issue groups with resident threads (R191; reset empty) -/
  groups : List IssueGroup := []
  /-- memory system -/
  mem : MemSys := {}
  /-- translation -/
  xl : Xlate := {}
  /-- engines -/
  eng : Engines := {}
  /-- dispatch -/
  disp : Dispatch := {}
  /-- device registers -/
  dev : DevRegs := {}
  /-- latency cores that have started (R54; reset empty) -/
  harts : List Hart := []
  /-- fences and failures -/
  ras : Ras := {}
  /-- collectives complete by a departure, to be executed next (R201; reset empty) -/
  ripe : List Ripe := []
  /-- tick at which a lane last met a slice request: core, quarter, lane (R212 09_compute_core; reset empty) -/
  laneMet : List ((Nat × Nat × Nat) × Nat) := []
  /-- MSI writes that left for a target outside main memory: address, data (R409; reset empty) -/
  msis : List (Word × BitVec 32) := []
  /-- writes of MSIs to registers of this package, not yet made: address and value (R409; reset empty) -/
  regWrites : List (Word × Word) := []
  /-- populated LPDDR of each L-die in GiB, from its memory configuration record (R21; DESIGN CHOICE 64, notes/assumptions/1) -/
  lpddr : List Nat := [64, 64]
  /-- bytes of the window given to CXL memory of each L-die's port (R28; reset 0: no device) -/
  cxl : List Nat := [0, 0]
  /-- rings found unusable and logged: 3 * unit + (0 pool, 1 log, 2 fault), 30 + L-die, 64 + job (R408; reset empty) -/
  ringsLost : List Nat := []
  /-- PCIe ports of the L-dies (R38; reset down) -/
  pcie : List PciePort := [{}, {}]
  /-- messages to other packages, not yet with the link, oldest first (R158-R170, R178, R187; reset empty) -/
  outbox : List LinkMsg := []
  /-- whether the firewalls hide the management window (R43; reset 0) -/
  firewall : Bool := false
  /-- package number in the pod (5; R23; reset 0) -/
  pkg : Nat := 0
  /-- packages of the pod, bit p; 0 for no pod member (32; R23; reset 0) -/
  members : BitVec 32 := 0
  deriving DecidableEq, Repr

/-- A configuration record in package flash (R51). -/
structure ConfigRecord where
  /-- type (32; R51) -/
  kind : Nat
  /-- serial it binds to; 0 any (64; R51) -/
  serial : Word
  /-- anti-rollback number (64; R51) -/
  number : Nat
  /-- signer slot (32; R51) -/
  signer : Nat
  body : List Byte
  signature : List Byte
  /-- bytes 0x1C-0x1F, which must be zero (32; R51) -/
  reserved : Nat := 0
  deriving DecidableEq, Repr, Inhabited

/-- Bring-up status (R54). -/
inductive Power where
  /-- in bring-up or running -/
  | on
  /-- bring-up stopped at the stage reached -/
  | stopped
  /-- powered down or halted -/
  | off
  deriving DecidableEq, Repr, Inhabited

/-- Result of an SBI call about a DTU hart (R88). -/
inductive SbiResult where
  | success
  /-- SBI_ERR_NOT_SUPPORTED -/
  | notSupported
  /-- the hart state 'started' -/
  | started
  deriving DecidableEq, Repr, Inhabited

/-- Root firmware, management registers and attestation (R42-R57). -/
structure Trust where
  /-- power and bring-up status (R54; reset on, stage 0) -/
  power : Power := .on
  /-- MGSTAGE (4; R57; reset 0) -/
  stage : Nat := 0
  /-- whether the stage reached has completed, so that the next may run; for stage 6, whether formation is over (R54, R55;
  reset 0) -/
  stageDone : Bool := false
  /-- MGCODE (8; R57; reset 0) -/
  code : BitVec 8 := 0
  /-- stage and code bytes of the I2C target at 0x3A (2 x 8; R54; DESIGN CHOICE 0) -/
  i2c : Byte × Byte := (0, 0)
  /-- MGATTDST (64; R57; reset 0) -/
  attdst : Word := 0
  /-- MGATTSTS (2; R57; reset 0) -/
  attsts : BitVec 2 := 0
  /-- pending attestation request (R50; reset none) -/
  attreq : Option Word := none
  /-- MGDBGSTS (2; R57; reset 0) -/
  dbgsts : BitVec 2 := 0
  /-- the live nonce (256; R45; reset none) -/
  nonce : Option (List Byte) := none
  /-- nonces drawn, the model's own counter of the random source -/
  draws : Nat := 0
  /-- debug unlocked in this bring-up (1; R44; reset 0) -/
  unlocked : Bool := false
  /-- root firmware runs without its mirror (1; R42; reset 0) -/
  mirrorLost : Bool := false
  /-- bring-up count in flash (64; R50; DESIGN CHOICE 0) -/
  bringUps : Nat := 0
  /-- identity-key counter in flash (20; R48; DESIGN CHOICE 0) -/
  identity : Nat := 0
  /-- identity indices used, newest first (R48; reset empty) -/
  usedIdentity : List Nat := []
  /-- session generation (32; R49; DESIGN CHOICE 0) -/
  sessionGen : Nat := 0
  /-- whether the current session generation is certified (R49; reset 0) -/
  certified : Bool := false
  /-- identity signature over the current session certificate (R50; DESIGN CHOICE empty) -/
  certificate : List Byte := []
  /-- the session pair in use, by its number among the pairs drawn (R49; DESIGN CHOICE 0) -/
  sessionPair : Nat := 0
  /-- session pairs drawn, the model's own counter of the random source: no two generations have one pair (R49) -/
  pairs : Nat := 0
  /-- the next session generation, once made: number, pair and certificate (R49; reset none) -/
  nextSession : Option (Nat × Nat × List Byte) := none
  /-- the vendor's root public key that the root firmware holds (132 bytes; R46, R47; DESIGN CHOICE empty) -/
  vendorKey : List Byte := []
  /-- digest of the vendor's root public key in mask ROM (512; R47; DESIGN CHOICE empty) -/
  vendorDigest : List Byte := []
  /-- operator keys that records have installed: slot and public key (R47; reset empty) -/
  operatorKeys : List (Nat × List Byte) := []
  /-- physical core of each logical core, of C-dies 0-7 and then of L-dies 0 and 1 (R12; reset empty) -/
  coreMap : List (List Nat) := []
  /-- session index (16; R49; DESIGN CHOICE 0) -/
  sessionIndex : Nat := 0
  /-- records in package flash (R51; DESIGN CHOICE empty) -/
  records : List ConfigRecord := []
  /-- records in use, ascending type (R53; reset empty) -/
  used : List ConfigRecord := []
  /-- stored anti-rollback number per type (R53; DESIGN CHOICE empty) -/
  rollback : List (Nat × Nat) := []
  /-- skipped or rejected records, logged (R52; reset 0) -/
  skipped : Nat := 0
  /-- root firmware image and its mirror in flash (R54; DESIGN CHOICE empty) -/
  rootImage : List Byte := []
  rootMirror : List Byte := []
  /-- digest of the root firmware in ROM (512; R54; DESIGN CHOICE empty) -/
  romDigest : List Byte := []
  /-- management firmware image, its signature and signer (R54; DESIGN CHOICE empty) -/
  mgmtImage : ConfigRecord := default
  /-- operating-system loader and its signature (R54; DESIGN CHOICE empty) -/
  loader : ConfigRecord := default
  /-- load and entry address of the loader in LPDDR of L-die 0 (64; R54; DESIGN CHOICE, notes/assumptions/1) -/
  loaderAt : Word := 0x0002_0000_8000_0000
  /-- result that the SBI implementation returned last for a DTU hart (R88; reset none) -/
  sbi : Option SbiResult := none
  /-- a power-down at once, recorded in flash (R41, R42; DESIGN CHOICE 0) -/
  overTemp : Bool := false
  deriving DecidableEq, Repr, Inhabited

/-- States of pod formation (R55, MGPOD). -/
inductive PodState where
  | solo | claiming | leading | following | loading | member
  deriving DecidableEq, Repr, Inhabited

/-- Messages that a package sends in formation (R55). -/
inductive PodMsg where
  | claim (to_ round : Nat) | ack (to_ round : Nat) | reply (to_ round leader : Nat)
  | image (to_ round : Nat) | again (to_ round : Nat) | done (to_ round : Nat) | formed (to_ round : Nat)
  deriving DecidableEq, Repr, Inhabited

/-- Pod formation (R55-R56). -/
structure Pod where
  /-- MGPOD (3; R57; reset solo) -/
  state : PodState := .solo
  /-- package number of the routing record (5; R55; DESIGN CHOICE 0 with no record) -/
  self : Nat := 0
  /-- MGROUND (32; R57; reset 0) -/
  round : Nat := 0
  /-- MGLEADER (32; R57; reset 0xFFFFFFFF) -/
  leader : Nat := 0xFFFF_FFFF
  /-- reachable set (32; R55; reset 0) -/
  reachable : BitVec 32 := 0
  /-- packages that acknowledged the current round (32; R55; reset 0) -/
  acked : BitVec 32 := 0
  /-- followers that are done (32; R55; reset 0) -/
  dones : BitVec 32 := 0
  /-- pod members known (32; R55; reset 0) -/
  members : BitVec 32 := 0
  /-- highest round seen (32; R55; reset 0) -/
  seen : Nat := 0
  /-- image so far (R56; reset empty) -/
  image : List Byte := []
  /-- the image so far is complete and matches the manifest (1; R55; reset 0) -/
  complete : Bool := false
  /-- hash of the signed pod image manifest (512; R55; DESIGN CHOICE empty) -/
  manifest : List Byte := []
  /-- tick of the leader's last message; while claiming, of the last claims (R55; reset 0) -/
  heard : Nat := 0
  /-- tick at which stage 6 began (R55; reset 0) -/
  since : Nat := 0
  /-- messages sent, newest first (R55; reset empty) -/
  sent : List PodMsg := []
  deriving DecidableEq, Repr, Inhabited

/-- Status of a Denid port (R29, R34, R35). -/
inductive PortState where
  | down | up | training
  deriving DecidableEq, Repr, Inhabited

/-- A Denid port (R29-R35). -/
structure Port where
  /-- up, down or retraining (R34; reset down) -/
  state : PortState := .down
  /-- next seq to send (16; R30; reset 0) -/
  sendSeq : BitVec 16 := 0
  /-- next seq expected (16; R31; reset 0) -/
  recvSeq : BitVec 16 := 0
  /-- replay buffer, oldest first, at most 1,024 flits (R31; reset empty) -/
  replay : List Flit := []
  /-- flits sent on the wire, newest first (R31; reset empty) -/
  wire : List Flit := []
  /-- retry request to send: the expected sequence number (R31; reset none) -/
  retry : Option (BitVec 16) := none
  /-- consecutive retry requests without progress (R34; reset 0) -/
  retries : Nat := 0
  /-- no new message before this tick (R32; reset 0) -/
  pausedTo : Nat := 0
  /-- tick at which retraining began (R34; reset 0) -/
  since : Nat := 0
  /-- messages that wait to be sent, oldest first (R31, R32; reset empty) -/
  queue : List LinkMsg := []
  /-- slots of the first of them that flits have carried (R30, R32; reset 0) -/
  begun : Nat := 0
  /-- inbound message buffer, oldest first: messages to be taken or forwarded (R30, R32, R33; reset empty) -/
  inbox : List LinkMsg := []
  deriving DecidableEq, Repr, Inhabited

/-- Denid link, routes and timebase (R29-R36). -/
structure Link where
  /-- ports 0-7 (R29) -/
  ports : List Port := List.replicate 8 {}
  /-- primary route per destination: list of ports (R33; reset empty) -/
  primary : List (Nat × List Nat) := []
  /-- alternative route per destination (R33; reset empty) -/
  alternate : List (Nat × List Nat) := []
  /-- messages dropped as misrouted, logged (R33; reset 0) -/
  misrouted : Nat := 0
  /-- requests parked for want of a route: destination and message (R35; reset empty) -/
  stranded : List LinkMsg := []
  /-- MGTBSYNC (1; R57; reset 0) -/
  synced : Bool := false
  /-- 1 from the return of a route to the leader until the timebase is back in bound (1; R36; reset 0) -/
  slewing : Bool := false
  /-- ticks by which the timebase is to gain on its own count, and to lag behind it (R36; reset 0) -/
  gain : Nat := 0
  lag : Nat := 0
  /-- ticks counted towards the next slew of 1 ns (R36; reset 0) -/
  slewed : Nat := 0
  /-- CRC polynomial of the link configuration record (64; R30; DESIGN CHOICE 0 before it is read) -/
  poly : Word := 0
  /-- source and identifier of the messages taken here (R35; reset empty) -/
  taken : List (Nat × Nat) := []
  /-- identifier of the next message of this package (R30; reset 0) -/
  nextIdent : Nat := 0
  deriving DecidableEq, Repr, Inhabited

/-- The platform: firmware, formation and links (R29-R57). -/
structure Plat where
  trust : Trust := {}
  pod : Pod := {}
  link : Link := {}
  deriving DecidableEq, Repr, Inhabited

/-- The issue whose instruction runs next (R193): participants in ascending mask-bit order, and their PC. -/
structure Issue where
  /-- thread numbers of the participants (R193) -/
  parts : List Nat
  /-- the selected PC (64; R196) -/
  pc : Word
  /-- the instruction's bits, once fetched (R286) -/
  word : Word := 0
  /-- its length in bytes, once fetched (R273) -/
  len : Nat := 0
  deriving DecidableEq, Repr, Inhabited

/-- A thread that the operating system starts on the reserved compute core of a C-die: a service block's (R8; notes/assumptions/115). -/
structure Service where
  /-- C-die, 0-7 -/
  die : Nat
  pc : Word
  /-- x10 at its start -/
  arg : Word
  ctx : Ctx
  deriving DecidableEq, Repr, Inhabited

/-- The machine. -/
structure State where
  /-- firmware, formation, links -/
  plat : Plat := {}
  /-- cores, memory, dispatch -/
  chip : Chip := {}
  /-- the issue to execute next (R193; reset none) -/
  issue : Option Issue := none
  /-- the steps of other agents that come next, each with its subject, first first: the model's inputs (R54-R410; reset empty) -/
  agenda : List (Instr × Nat) := []
  /-- soft errors to come, the environment's input (R19, R22, R73, R209; reset empty) -/
  strikes : List Strike := []
  /-- identifiers that service blocks give to threads of compute cores, the environment's input: thread and identifier (R114;
  reset empty) -/
  identities : List (Nat × Word) := []
  /-- service-block threads to be started, the environment's input (R8; reset empty) -/
  services : List Service := []
  /-- the number of the object that the coming step of another agent concerns: the model's own (DESIGN CHOICE 0,
  notes/assumptions/9) -/
  subject : Nat := 0
  /-- which thread the default schedule looks at next: the model's own (DESIGN CHOICE 0, notes/assumptions/9) -/
  turn : Nat := 0
  deriving DecidableEq, Repr

/-- The package right after reset, before bring-up stage 0 (R54). -/
def State.reset : State := {}

end Sys2Proof.Machine
end

