-- ==== Sys2Proof/Machine/Cells.lean ====
section
/-! DEFINITION. Bytes of a memory as a canonical list of cells, sorted sets of numbers, keyed lists, and bit fields of
numbers. -/
namespace Sys2Proof.Machine

/-- Bits hi down to lo of a number (R3). -/
def bits (hi lo n : Nat) : Nat := (n >>> lo) % 2 ^ (hi + 1 - lo)

/-- Bit i of a number (R3). -/
def bitAt (i n : Nat) : Bool := n.testBit i

/-- The value 1 or 0 of a flag. -/
def flag (b : Bool) : Nat := if b then 1 else 0

/-- Round x up to a multiple of k. -/
def roundUp (x k : Nat) : Nat := ((x + k - 1) / k) * k

/-- Round x down to a multiple of k. -/
def roundDown (x k : Nat) : Nat := (x / k) * k

/-- The byte at an address; an unlisted byte reads zero (R54 stage 4, R157; notes/assumptions/2). -/
def cellGet : List Host.Cell → Nat → Byte
  | [], _ => 0
  | (k, v) :: r, a => if k = a then v else cellGet r a

/-- Write one byte and keep the canonical form. -/
def cellSet : List Host.Cell → Nat → Byte → List Host.Cell
  | [], a, b => if b = 0 then [] else [(a, b)]
  | (k, v) :: r, a, b =>
    if k = a then (if b = 0 then r else (a, b) :: r)
    else if a < k then (if b = 0 then (k, v) :: r else (a, b) :: (k, v) :: r)
    else (k, v) :: cellSet r a b

/-- All keys of a list of cells lie above a bound and every listed byte is non-zero. -/
def cellsAbove : Nat → List Host.Cell → Bool
  | _, [] => true
  | lo, (k, v) :: r => decide (lo < k) && decide (v ≠ 0) && cellsAbove k r

/-- The canonical form of a memory: addresses strictly rising, no listed byte equal to the unlisted one. -/
def cellsWf : List Host.Cell → Bool
  | [] => true
  | (k, v) :: r => decide (v ≠ 0) && cellsAbove k r

/-- n bytes from address a, little-endian (R3). -/
def cellRead (m : List Host.Cell) (a : Nat) : Nat → Nat
  | 0 => 0
  | n + 1 => (cellGet m a).toNat + 256 * cellRead m (a + 1) n

/-- Write n bytes of v from address a, little-endian (R3). -/
def cellWrite (m : List Host.Cell) (a v : Nat) : Nat → List Host.Cell
  | 0 => m
  | n + 1 => cellWrite (cellSet m a (BitVec.ofNat 8 v)) (a + 1) (v / 256) n

/-- Drop the bytes of [lo, hi): they read zero again. -/
def cellClear (m : List Host.Cell) (lo hi : Nat) : List Host.Cell :=
  m.filter fun p => !(decide (lo ≤ p.1) && decide (p.1 < hi))

/-- Insert into a rising list without repeats. -/
def setInsert (a : Nat) : List Nat → List Nat
  | [] => [a]
  | k :: r => if a = k then k :: r else if a < k then a :: k :: r else k :: setInsert a r

/-- Remove from a rising list. -/
def setErase (a : Nat) (l : List Nat) : List Nat := l.filter (· != a)

/-- The value of a key of an association list, or a default. -/
def assocGet [BEq κ] (l : List (κ × β)) (k : κ) (d : β) : β :=
  match l.find? (fun p => p.1 == k) with
  | some p => p.2
  | none => d

/-- Set the value of a key of an association list. -/
def assocSet [BEq κ] (l : List (κ × β)) (k : κ) (v : β) : List (κ × β) :=
  if l.any (fun p => p.1 == k) then l.map (fun p => if p.1 == k then (k, v) else p) else l ++ [(k, v)]

/-- Replace an element at an index. -/
def listSet : List α → Nat → α → List α
  | [], _, _ => []
  | _ :: r, 0, x => x :: r
  | y :: r, n + 1, x => y :: listSet r n x

/-- Byte i of a 64-byte line. -/
def lineByte (d : BitVec 512) (i : Nat) : Byte := d.extractLsb' (8 * i) 8

/-- Replace byte i of a 64-byte line. -/
def lineSet (d : BitVec 512) (i : Nat) (b : Byte) : BitVec 512 :=
  (d &&& ~~~((0xFF#512) <<< (8 * i))) ||| ((b.setWidth 512) <<< (8 * i))

/-- The bytes of a number, least significant first (R3). -/
def bytesOf (v : Nat) : Nat → List Byte
  | 0 => []
  | n + 1 => BitVec.ofNat 8 v :: bytesOf (v / 256) n

/-- The number of a little-endian byte string (R3). -/
def numOf : List Byte → Nat
  | [] => 0
  | b :: r => b.toNat + 256 * numOf r

end Sys2Proof.Machine
end

