-- ==== Sys2Proof/Machine/Memory.lean ====
section
/-! DEFINITION. The physical address map, homes, directory, L1 caches, core ownership, leases, poison and reservations
(R23-R28, R61-R77, R131-R139). -/
namespace Sys2Proof.Machine

/-- What a physical address names (R23, R26, R27, R28). -/
inductive Target where
  /-- main memory that is cached: location, with both HBM aliases of a byte at one location (R25) -/
  | main (loc : Nat)
  /-- an on-die memory aperture of region 3, at its location -/
  | onDie (loc : Nat)
  /-- region 4, or the PCIe part of region 5: I/O -/
  | io
  /-- an access fault (R23, R28) -/
  | fault
  deriving DecidableEq, Repr

/-- The location of a byte of HBM: its package-interleaved address. The argument is the address without its package,
in region 0 or 1 (R24, R25). -/
def hbmLocation (a : Nat) : Nat :=
  if bits 50 48 a = 0 then bits 39 0 a
  else
    let d := bits 39 37 a
    let v := bits 36 0 a
    let stack := 2 * d + (bits 12 12 v ^^^ bits 20 20 v ^^^ bits 28 28 v ^^^ bits 36 36 v)
    let hi := bits 36 13 v
    -- o[39:16] = hi and o[15:12] restores the stack number
    let g := bits 7 4 hi ^^^ bits 15 12 hi ^^^ bits 23 20 hi
    (hi <<< 16) + ((stack ^^^ g) <<< 12) + bits 11 0 v

/-- The stack of an HBM location (R24). -/
def stackOf (o : Nat) : Nat :=
  bits 15 12 o ^^^ bits 23 20 o ^^^ bits 31 28 o ^^^ bits 39 36 o

/-- Whether a package number is this package or another of the pod (R23). -/
def Chip.knows (c : Chip) (p : Nat) : Bool :=
  p = c.pkg || (c.members.toNat.testBit p)

/-- Bytes of LPDDR that an L-die holds, of this package or of another of the pod (R21, R28; notes/assumptions/118). -/
def Chip.lpddrBytes (c : Chip) (p l : Nat) : Nat :=
  if p = c.pkg then (c.lpddr.getD l 0) * 2 ^ 30 else Config.peerLpddr p l

/-- Whether a location lies in the management window of its package, the top 256 MiB of L-die 0's LPDDR: once this package's firewalls
are set, those of the pod count as set too (R43; notes/assumptions/139). -/
def Chip.inMgmtWindow (c : Chip) (p l w : Nat) : Bool :=
  c.firewall && l = 0 && decide (c.lpddrBytes p 0 - 2 ^ 28 ≤ w)

/-- The PCIe port of an L-die. -/
def Chip.pciePort (c : Chip) (l : Nat) : PciePort := c.pcie.getD l {}

/-- Bytes of the CXL memory part of an L-die's port, or of its PCIe part, that a device has been given (R28, R38). The memory of
a fenced L-die 1 keeps its addresses, which read as poison (R77; notes/assumptions/119). -/
def Chip.windowBytes (c : Chip) (p l : Nat) (bars : Bool) : Nat :=
  if p ≠ c.pkg then (if bars then Config.peerBars p l else Config.peerCxl p l)
  else
    let x := c.pciePort l
    let given := x.up && !x.fenced && !x.endpoint
    if bars then (if given then x.bars else 0)
    else if given || (c.ras.ldie1 && l = 1 && !x.endpoint) then c.cxl.getD l 0 else 0

/-- The physical address map (R23-R28), with the management window as the LPDDR that it is. -/
def Chip.mapped (c : Chip) (pa : Nat) : Target :=
  if 2 ^ 56 ≤ pa then .fault else
  let p := bits 55 51 pa
  let rest := bits 50 0 pa
  if !c.knows p then .fault else
  match bits 50 48 pa with
  | 0 => if bits 47 40 pa = 0 then .main ((p <<< 51) + hbmLocation rest) else .fault
  | 1 => if bits 47 40 pa = 0 then .main ((p <<< 51) + hbmLocation rest) else .fault
  | 2 => if bits 47 40 pa = 0 && decide (bits 38 0 pa < c.lpddrBytes p (bits 39 39 pa)) then .main pa else .fault
  | 3 =>
    if bits 47 32 pa ≠ 0 then .fault
    else match bits 31 29 pa with
      | 0 => .onDie pa
      | 1 => if bits 25 19 pa ≤ 79 && decide (bits 18 0 pa < 327680) then .onDie pa else .fault
      | _ => .fault
  | 4 => if bits 47 40 pa = 0 then .io else .fault
  | 5 =>
    if bits 47 41 pa ≠ 0 || !decide (bits 38 0 pa < c.windowBytes p (bits 39 39 pa) (bits 40 40 pa = 1)) then .fault
    else if bits 40 40 pa = 1 then .io else .main pa
  | _ => .fault

/-- Whether a physical address lies in the management window of its package (R43). -/
def Chip.isMgmtWindow (c : Chip) (pa : Nat) : Bool :=
  bits 50 48 pa = 2 && c.inMgmtWindow (bits 55 51 pa) (bits 39 39 pa) (bits 38 0 pa)

/-- What a physical address names for every agent but the management firmware (R23, R43). -/
def Chip.target (c : Chip) (pa : Nat) : Target := if c.isMgmtWindow pa then .fault else c.mapped pa

/-- What a physical address names for the management firmware: its window and the management registers of its package. The
manual lists no offset of the telemetry, power, clock and link-training registers (R43, R123; notes/assumptions/120). -/
def Chip.mgmtTarget (c : Chip) (pa : Nat) : Target :=
  if c.isMgmtWindow pa && bits 55 51 pa = c.pkg then c.mapped pa
  else if bits 50 48 pa = 4 && bits 55 51 pa = c.pkg && decide (bits 47 0 pa < 256) then c.mapped pa else .fault

/-- The home of a location of main memory (R68). -/
def Chip.homeOf (c : Chip) (loc : Nat) : Agent :=
  let p := bits 55 51 loc
  if p ≠ c.pkg then .pkg p
  else match bits 50 48 loc with
    | 0 => .cdie (stackOf (bits 39 0 loc) / 2)
    | 1 => .cdie (stackOf (bits 39 0 loc) / 2)
    | _ => .ldie (bits 39 39 loc)

/-- Whether the home of a location, on this or another package, is an L-die (R70). -/
def homeIsLdie (loc : Nat) : Bool := decide (2 ≤ bits 50 48 loc)

/-- The LPDDR channel of a location in region 2 (R21), 16 per L-die. -/
def channelOf (loc : Nat) : Nat := 16 * bits 39 39 loc + (bits 11 8 loc ^^^ bits 15 12 loc)

/-- Whether the memory of a location is fenced, failed or lost (R20, R22, R35, R77). -/
def Chip.lostAt (c : Chip) (loc : Nat) : Bool :=
  let p := bits 55 51 loc
  if p ≠ c.pkg then c.ras.lost.toNat.testBit p
  else match bits 50 48 loc with
    | 0 => c.ras.hbmStacks.toNat.testBit (stackOf (bits 39 0 loc))
    | 2 => c.ras.channels.toNat.testBit (channelOf loc) || (c.ras.ldie1 && bits 39 39 loc = 1)
    | 5 => c.ras.ldie1 && bits 39 39 loc = 1
    | _ => false

/-- Whether a package has no route to it now (R35). -/
def Chip.cutOff (c : Chip) (p : Nat) : Bool := c.ras.cut.any fun k => k.1 = p

/-- Whether the home of a line, or the package that owns it, has no route (R35, R76). -/
def Chip.lineCut (c : Chip) (line : Nat) : Bool :=
  !c.ras.cut.isEmpty && (c.cutOff (bits 55 51 (64 * line)) ||
    c.mem.dir.any fun e => e.line = line && (match e.owner with | some (.pkg p) => c.cutOff p | _ => false))

/-- Whether a read of the data of a line in memory meets an error that it cannot correct (R76); the home cache of its L-die gives
good data (R61). -/
def Chip.dataFaulty (c : Chip) (line : Nat) : Bool :=
  !c.mem.homeLines.contains line && c.mem.latent.any fun e => e.2 != .corrected && e.1 = 64 * line

/-- Whether the directory entry of a line cannot be read (R76). -/
def Chip.dirFaulty (c : Chip) (line : Nat) : Bool := c.mem.dirBad.contains line

/-- Whether a read of a line meets a fault at its home (R76). -/
def Chip.lineFaulty (c : Chip) (line : Nat) : Bool := c.dataFaulty line || c.dirFaulty line

/-- Whether requests to a line wait at its home (R35, R76): one is parked, its home package has no route, or neither has the
package that owns it. -/
def Chip.lineHeld (c : Chip) (line : Nat) : Bool := (c.mem.parked.any fun r => r.line = line) || c.lineCut line

/-- The same for a thread's own request (R76): it waits behind what was parked before it; each meets a directory entry that cannot be
read, and a read an error of the data. -/
def Chip.lineHeldFor (c : Chip) (t line : Nat) (read : Bool) : Bool :=
  ((c.mem.parked.takeWhile fun r => !(r.thread = some t && r.line = line)).any fun r => r.line = line) ||
  c.lineCut line || c.dirFaulty line || (read && c.dataFaulty line)

/-- First location of the poison granule: 64 bytes, or 8 in a core scratchpad (R73). -/
def granuleOf (loc : Nat) : Nat :=
  if bits 50 48 loc = 3 && bits 31 29 loc = 1 then roundDown loc 8 else roundDown loc 64

/-- Bytes of the granule at a location (R73). -/
def granuleSize (loc : Nat) : Nat :=
  if bits 50 48 loc = 3 && bits 31 29 loc = 1 then 8 else 64

/-- Whether a location is poisoned (R73, R20). -/
def Chip.poisonedAt (c : Chip) (loc : Nat) : Bool :=
  c.lostAt loc || c.mem.poison.contains (granuleOf loc)

/-- Add an entry to the management error log (R20, R57). -/
def Chip.logEvent (c : Chip) (kind : Nat) : Chip :=
  { c with ras := { c.ras with log := kind :: c.ras.log } }

/-- Mark the granule of a location poisoned (R73). -/
def Chip.setPoison (c : Chip) (loc : Nat) : Chip :=
  { c with mem := { c.mem with poison := setInsert (granuleOf loc) c.mem.poison } }

/-- Clear the poison of the granule of a location (R73). -/
def Chip.clearPoison (c : Chip) (loc : Nat) : Chip :=
  { c with mem := { c.mem with poison := setErase (granuleOf loc) c.mem.poison } }

/-- Write one byte at its home; a fenced memory discards it and logs (R20). -/
def Chip.putByte (c : Chip) (loc : Nat) (b : Byte) : Chip :=
  if c.lostAt loc then c.logEvent 20
  else { c with mem := { c.mem with bytes := cellSet c.mem.bytes loc b } }

/-- Write bytes at their home from a location on. -/
def Chip.putBytes (c : Chip) (loc : Nat) : List Byte → Chip
  | [] => c
  | b :: r => (c.putByte loc b).putBytes (loc + 1) r

/-- The byte that the L2s and homes hold for a location. -/
def Chip.getByte (c : Chip) (loc : Nat) : Byte := cellGet c.mem.bytes loc

/-- A clean write of n bytes from a location clears the poison of every granule it covers whole, and overwrites an error there
(R73). -/
def Chip.cleanse (c : Chip) (loc n : Nat) : Chip :=
  let whole (g : Nat) : Bool := decide (loc ≤ g) && decide (g + granuleSize g ≤ loc + n)
  { c with mem := { c.mem with
      poison := c.mem.poison.filter fun g => !whole g
      latent := c.mem.latent.filter fun e => !whole e.1 } }

/-- The home cache of an L-die of this package takes a line of its memory (R61, R68). -/
def Chip.homeFill (c : Chip) (line : Nat) : Chip :=
  match c.homeOf (64 * line) with
  | .ldie _ => if c.mem.homeLines.contains line then c else { c with mem := { c.mem with homeLines := c.mem.homeLines ++ [line] } }
  | _ => c

/-- A read of a granule of main memory meets its error (R19, R22, R76): a corrected one is written back in place, one that stays
uncorrectable on the re-read poisons the granule; both are logged. A line in the home cache of its L-die is read there (R61). -/
def Chip.ecc (c : Chip) (loc : Nat) : Chip :=
  if c.mem.homeLines.contains (loc / 64) then c
  else
    let c := match c.mem.latent.find? fun e => e.1 = granuleOf loc with
      | none => c
      | some e =>
        let c := { c with mem := { c.mem with latent := c.mem.latent.filter fun k => k.1 ≠ e.1 } }.logEvent 19
        if e.2 = ErrKind.hard then c.setPoison loc else c
    c.homeFill (loc / 64)

/-- The directory entry of a line that cannot be read is rebuilt from what the agents hold (R76). -/
def Chip.rebuildEntry (c : Chip) (line : Nat) : Chip :=
  if c.dirFaulty line then { c with mem := { c.mem with dirBad := c.mem.dirBad.filter (· ≠ line) } }.logEvent 76 else c

/-- Applied records at the home die of a location (R75). -/
def Chip.appliedAt (c : Chip) (home : Agent) : Nat :=
  (c.mem.applied.filter fun a => a.home = home).length

/-- Whether a home refuses a new store or atomic: all its 16,384 applied records are in use (R75). -/
def Chip.refuses (c : Chip) (home : Agent) : Bool := decide (16384 ≤ c.mem.applied.length) && decide (16384 ≤ c.appliedAt home)

/-- Requests in the fault queue of the die of a home; another package's are its own (R76). -/
def Chip.parkedAt (c : Chip) (home : Agent) : Nat := (c.mem.parked.filter fun p => c.homeOf (64 * p.line) = home).length

/-- A request of an engine, a walk or an L2 that meets a fault of a line is parked at its home, once (R76). -/
def Chip.parkUnit (c : Chip) (a : Agent) (line : Nat) : Chip :=
  if !c.lineFaulty line || (c.mem.parked.any fun r => r.unit_ && r.line = line) || decide (2048 ≤ c.parkedAt (c.homeOf (64 * line))) then c
  else
    let r : ParkedReq := { req := { agent := a, seq := 0, addr := BitVec.ofNat 64 (64 * line), op := .read }, line := line, unit_ := true }
    { c with mem := { c.mem with parked := c.mem.parked ++ [r] } }

/-- Whether no home holds or refuses a request (R35, R75, R76). -/
def Chip.homesQuiet (c : Chip) : Bool :=
  c.mem.parked.isEmpty && c.mem.dirBad.isEmpty && c.ras.cut.isEmpty && decide (c.mem.applied.length < 16384)

/-- The applied record that a store or an atomic of this package's own requesters leaves at the home of a location (R75): the
requester's next request acknowledges the one before it (notes/assumptions/121). -/
def Chip.noted (c : Chip) (a : Agent) (home : Agent) (value : Nat) (poison : Bool) : Chip :=
  let old := c.mem.ownSeq.find? fun k => k.1 = a
  let kept := c.mem.applied.filter fun r => !(r.agent = a && old = some (a, r.seq))
  let seq := c.mem.nextSeq
  { c with mem := { c.mem with
      applied := { agent := a, seq := seq, home := home, value := value, poison := poison, own := true } :: kept
      nextSeq := seq + 1
      ownSeq := (c.mem.ownSeq.filter fun k => k.1 ≠ a) ++ [(a, seq)] } }

/-- The applied record of a write past the caches at a physical address (R27, R75). -/
def Chip.notedAt (c : Chip) (a : Agent) (pa : Nat) : Chip :=
  match c.target pa with
  | .main l => c.noted a (c.homeOf l) 0 false
  | _ => c

/-- Whether an agent owns a line in M or E (R67, R69). -/
def Chip.ownsLine (c : Chip) (a : Agent) (line : Nat) : Bool :=
  match c.mem.dir.find? (·.line = line) with
  | some e => e.owner = some a && (e.state = .m || e.state = .e)
  | none => false

/-- Add an applied record (R75). -/
def Chip.recordApplied (c : Chip) (a : Answer) : Chip :=
  { c with mem := { c.mem with applied := a :: c.mem.applied, answers := a :: c.mem.answers } }

/-- Lose every reservation on the granule of a location, but one thread's own (R71). -/
def Chip.breakResv (c : Chip) (loc : Nat) (but : Option Nat) : Chip :=
  { c with mem := { c.mem with resv := c.mem.resv.filter fun r =>
      !(r.granule = loc / 64) || decide (but = some r.thread) } }

/-- Lose a thread's reservation (R71). -/
def Chip.dropResv (c : Chip) (t : Nat) : Chip :=
  { c with mem := { c.mem with resv := c.mem.resv.filter fun r => !(r.thread = t) } }

/-- The L1 line of a core (R65). -/
def Chip.l1Line? (c : Chip) (core line : Nat) : Option L1Line :=
  c.mem.l1.find? fun l => l.core = core && l.line = line

/-- Whether a core holds dirty bytes of a line (R65). -/
def Chip.holdsDirty (c : Chip) (core line : Nat) : Bool :=
  match c.l1Line? core line with
  | some l => l.dirty ≠ 0
  | none => false

/-- Put back an L1 line; one with no dirty byte and no lease is dropped. -/
def Chip.setL1 (c : Chip) (l : L1Line) : Chip :=
  let others := c.mem.l1.filter fun k => !(k.core = l.core && k.line = l.line)
  { c with mem := { c.mem with l1 := if l.dirty = 0 && l.leaseEnd = 0 then others else others ++ [l] } }

/-- Write the bytes of a line whose mask bit is set, from byte i of n remaining. -/
def Chip.putMasked (c : Chip) (line : Nat) (d : BitVec 512) (mask : BitVec 64) : Nat → Chip
  | 0 => c
  | n + 1 =>
    let i := 63 - n
    let c := if mask.getLsbD i then c.putByte (line * 64 + i) (lineByte d i) else c
    c.putMasked line d mask n

/-- The directory entry of a line, none in state I (R69). -/
def Chip.dirEntry? (c : Chip) (line : Nat) : Option DirEntry := c.mem.dir.find? (·.line = line)

/-- Set or remove (state I) the directory entry of a line. -/
def Chip.setDir (c : Chip) (line : Nat) (e : Option DirEntry) : Chip :=
  let others := c.mem.dir.filter (·.line ≠ line)
  { c with mem := { c.mem with dir := match e with | none => others | some e => others ++ [e] } }

/-- The dirty lines of a core that R139 writes back before a line whose newest byte has an epoch: those with an older
byte, and transitively theirs. -/
def epochClosure (ls : List L1Line) : Nat → Nat → Nat
  | 0, e => e
  | n + 1, e =>
    let e' := ls.foldl (fun m l => if l.firstEpoch < m && m < l.lastEpoch then l.lastEpoch else m) e
    epochClosure ls n e'

/-- The dirty lines of a core. -/
def Chip.dirtyLines (c : Chip) (core : Nat) : List L1Line :=
  c.mem.l1.filter fun l => l.core = core && l.dirty ≠ 0

/-- The C-die L2 of a core, as an agent (R69). -/
def agentOf (core : Nat) : Agent := .cdie (core / 80)

/-- Whether an agent holds a readable copy of a line. -/
def DirEntry.holds (e : DirEntry) (a : Agent) : Bool := e.owner = some a || e.sharers.contains a

/-- Cores with dirty bytes of a line that reach the L2s before a core's own (R65, R67, R69): the die's owner, and one whose
notice came first, before the core's pending notice; and behind the other copies, unless the die holds the line in M or E. -/
def Chip.ownersBefore (c : Chip) (core line : Nat) : List Nat :=
  let dirty := (c.mem.l1.filter fun l => l.line = line && l.dirty ≠ 0 && l.core ≠ core).map (·.core)
  let earlier := c.mem.notices.takeWhile fun o => o ≠ (core, line)
  dirty.filter fun k =>
    if k / 80 = core / 80 then
      c.mem.notices.contains (core, line) && (c.mem.owned.contains (k / 80, line, k) || earlier.contains (k, line))
    else match c.dirEntry? line with
      | none => false
      | some e => !(e.owner = some (agentOf core) && (e.state = .m || e.state = .e)) && e.holds (agentOf k)

/-- The dirty bytes of a line of a core reach the L2, which takes the line in M: every other copy is invalidated (R65, R67, R69).
A whole clean line clears its poison; bytes spilled with poison bring it (R73, R217). An L2 that asks its home leaves a record (R75). -/
def Chip.pushLine (c : Chip) (core line : Nat) : Chip :=
  match c.l1Line? core line with
  | none => c
  | some l =>
    let c := c.putMasked line l.data l.dirty 64
    let c := if l.dirty = BitVec.allOnes 64 then c.cleanse (line * 64) 64 else c
    let bad := decide (l.dirty &&& l.poison ≠ 0) || l.taint.isSome
    let c := if bad then c.setPoison (line * 64) else c
    let c := c.setL1 { l with dirty := 0, taint := none, poison := if l.taint.isSome then BitVec.allOnes 64 else l.poison }
    let asks := decide (c.homeOf (line * 64) ≠ agentOf core) && !c.ownsLine (agentOf core) line
    let c := c.setDir line (some ⟨line, .m, some (agentOf core), []⟩)
    let c := if asks then c.noted (agentOf core) (c.homeOf (line * 64)) 0 false else c
    { c with mem := { c.mem with
        owned := c.mem.owned.filter fun o => !(o.2.1 = line && o.2.2 = core)
        notices := c.mem.notices.filter fun o => !(o.1 = core && o.2 = line) } }

/-- Whether a write-back of a line can be made now: its L2 owns the line, or the home takes the request (R35, R65, R75, R76). -/
def Chip.mayPush (c : Chip) (core line : Nat) : Bool :=
  c.homesQuiet || c.ownsLine (agentOf core) line ||
  !(c.lineHeld line || c.dirFaulty line || (decide (c.homeOf (64 * line) ≠ agentOf core) && c.refuses (c.homeOf (64 * line))))

/-- Write back a line of a core: before it what R139 orders first and what other owners hold of the line (R65, R69, R139). The
lines in the second argument are being written back already. One that its home does not take, or that must follow such a one, stays
(R75, R76). -/
def Chip.flushLine : Nat → List (Nat × Nat) → Chip → Nat → Nat → Chip
  | 0, _, c, _, _ => c
  | n + 1, busy, c, core, line =>
    match c.l1Line? core line with
    | none => c
    | some l =>
      if l.dirty = 0 || busy.contains (core, line) || !c.mayPush core line then c
      else
        let busy := (core, line) :: busy
        let ls := c.dirtyLines core
        let e := epochClosure ls ls.length l.lastEpoch
        let first := (ls.filter fun k => k.firstEpoch < e && k.line ≠ line).map (·.line)
        let c := first.foldl (fun c k => Chip.flushLine n busy c core k) c
        let owners := c.ownersBefore core line
        let c := owners.foldl (fun c k => Chip.flushLine n busy c k line) c
        let before := first.map (core, ·) ++ owners.map (·, line)
        if before.any fun k => !busy.contains k && c.holdsDirty k.1 k.2 then c else c.pushLine core line

/-- Write back a line of a core (R65, R139). -/
def Chip.writeBack (c : Chip) (core line : Nat) : Chip :=
  c.flushLine ((c.mem.l1.filter fun l => l.dirty ≠ 0).length + 1) [] core line

/-- Write back every core-owned line of a core (R65, R66). -/
def Chip.writeBackAll (c : Chip) (core : Nat) : Chip :=
  ((c.dirtyLines core).map (·.line)).foldl (fun c k => c.writeBack core k) c

/-- A line of a core whose write-back its home, or that of a line before it, does not take now (R75, R76, R139). -/
def Chip.stuckLine (c : Chip) (core : Nat) : Option Nat :=
  if c.homesQuiet then none else ((c.writeBackAll core).dirtyLines core).head?.map (·.line)

/-- Whether the homes take every line that some cores have to write back (R75, R76, R139). -/
def Chip.homesTake (c : Chip) (cores : List Nat) : Bool := cores.all fun k => (c.stuckLine k).isNone

/-- Whether a recall of a line waits for such a write-back (R65, R76). -/
def Chip.recallWaits (c : Chip) (line : Nat) : Bool :=
  !c.homesQuiet && c.mem.l1.any fun l => l.line = line && l.dirty ≠ 0 && (c.writeBack l.core line).holdsDirty l.core line

/-- End every lease of a core's L1 (R64). -/
def Chip.endLeases (c : Chip) (core : Nat) : Chip :=
  { c with mem := { c.mem with l1 := (c.mem.l1.map fun l =>
      if l.core = core then { l with leaseEnd := 0 } else l).filter fun l => !(l.dirty = 0 && l.leaseEnd = 0) } }

/-- Drop a core's L1 copy of a line (R64), after its dirty bytes are written back; it stays while they cannot be (R76). -/
def Chip.dropL1 (c : Chip) (core line : Nat) : Chip :=
  let c := c.writeBack core line
  if c.holdsDirty core line then c else
  { c with mem := { c.mem with l1 := c.mem.l1.filter fun l => !(l.core = core && l.line = line) } }

/-- Recall the dirty bytes of a line from the cores that satisfy a test (R65). -/
def Chip.recallFrom (c : Chip) (line : Nat) (p : Nat → Bool) : Chip :=
  ((c.mem.l1.filter fun l => l.line = line && l.dirty ≠ 0 && p l.core).map (·.core)).foldl
    (fun c k => c.writeBack k line) c

/-- Recall the dirty bytes of a line from every core of the package (R70, R80). -/
def Chip.recallLine (c : Chip) (line : Nat) : Chip := c.recallFrom line fun _ => true

/-- Cores behind an agent (R69). -/
def behind (a : Agent) (core : Nat) : Bool :=
  match a with
  | .cdie d => core / 80 = d
  | _ => false

/-- A read request of an agent at the home of a line (R69). An agent that already holds the line sends none. The owner's L2
recalls its dirty bytes first, which makes an E copy M. -/
def Chip.dirRead (c : Chip) (a : Agent) (line : Nat) : Chip :=
  match c.dirEntry? line with
  | none => c.setDir line (some ⟨line, .e, some a, []⟩)
  | some e =>
    if e.holds a then c else
    let c := match e.owner with
      | some o => c.recallFrom line (behind o)
      | none => c
    let e := (c.dirEntry? line).getD e
    match e.state with
    | .s => c.setDir line (some { e with sharers := a :: e.sharers })
    | .e => c.setDir line (some ⟨line, .s, none, a :: (e.owner.toList ++ e.sharers)⟩)
    | .o => c.setDir line (some { e with sharers := a :: e.sharers })
    | .m => c.setDir line (some ⟨line, .o, e.owner, [a]⟩)

/-- A read at the home past every cache but its own: an owner's bytes come to it, and no agent takes a copy (R27). -/
def Chip.homeRead (c : Chip) (line : Nat) : Chip :=
  match c.dirEntry? line with
  | none => c
  | some e => match e.owner with
    | some o => c.recallFrom line (behind o)
    | none => c

/-- A write at the home past every cache but its own: every copy is invalidated and the memory is current (R27, R67). -/
def Chip.homeWrite (c : Chip) (line : Nat) : Chip :=
  match c.dirEntry? line with
  | none => c
  | some e => ((e.owner.toList ++ e.sharers).foldl (fun c o => c.recallFrom line (behind o)) c).setDir line none

/-- A write request of an agent at the home of a line: every other copy is invalidated and the agent takes M (R69). -/
def Chip.dirWrite (c : Chip) (a : Agent) (line : Nat) : Chip :=
  match c.dirEntry? line with
  | none => c.setDir line (some ⟨line, .m, some a, []⟩)
  | some e =>
    let c := (e.owner.toList ++ e.sharers).foldl
      (fun c o => if o = a then c else c.recallFrom line (behind o)) c
    c.setDir line (some ⟨line, .m, some a, []⟩)

/-- An agent of the directory gives up its copy of a line (R69); an owner's data goes to memory. -/
def Chip.agentEvict (c : Chip) (a : Agent) (line : Nat) : Chip :=
  match c.dirEntry? line with
  | none => c
  | some e =>
    if !e.holds a then c
    else
      let c := c.recallFrom line (behind a)
      -- the bytes recalled take the line in M first
      let e := (c.dirEntry? line).getD e
      let rest := e.sharers.filter (· ≠ a)
      if c.mem.l1.any fun l => l.line = line && l.dirty ≠ 0 && behind a l.core then c
      else if e.owner = some a then
        -- O leaves its sharers in S
        c.setDir line (if rest.isEmpty then none else some ⟨line, .s, none, rest⟩)
      else if rest.isEmpty && e.owner.isNone then c.setDir line none
      else c.setDir line (some { e with sharers := rest })

/-- Ticks of a lease class (R63). -/
def leaseTicks (cls : Nat) : Nat := [64, 16, 256, 0].getD cls 64

/-- The 64 bytes of a line at the L2s and home, from byte i of n remaining. -/
def Chip.lineAt (c : Chip) (line : Nat) : Nat → BitVec 512 → BitVec 512
  | 0, d => d
  | n + 1, d => c.lineAt line n (lineSet d (63 - n) (c.getByte (line * 64 + (63 - n))))

/-- Bytes of a where the mask is set, of b elsewhere. -/
def mergeLine (mask : BitVec 64) (a b : BitVec 512) : Nat → BitVec 512
  | 0 => b
  | n + 1 =>
    let r := mergeLine mask a b n
    if mask.getLsbD n then lineSet r n (lineByte a n) else r

/-- Poison of a line as a core's L1 holds it: under lease that of its bytes; else that of its dirty bytes, and the L2's unless
every byte is dirty (R73, R132; notes/assumptions/116). -/
def Chip.l1Poison (c : Chip) (l : L1Line) : Bool :=
  if l.taint.isSome then true
  else if c.tick < l.leaseEnd then l.poison ≠ 0
  else decide (l.dirty &&& l.poison ≠ 0) || (decide (l.dirty ≠ BitVec.allOnes 64) && c.poisonedAt (l.line * 64))

/-- A core's L1 serves byte i of a line: a dirty byte, one of a copy under lease, or the L2's with a fresh lease (R63, R64, R65,
R132). Value and poison. -/
def Chip.l1Serve (c : Chip) (core line i cls : Nat) : Byte × Bool × Chip :=
  match c.l1Line? core line with
  | some l =>
    if l.dirty.getLsbD i || decide (c.tick < l.leaseEnd) then (lineByte l.data i, c.l1Poison l, c)
    else
      let c := (c.dirRead (agentOf core) line).ecc (line * 64)
      let l := { l with
        data := mergeLine l.dirty l.data (c.lineAt line 64 0) 64
        poison := (l.dirty &&& l.poison) ||| (if c.poisonedAt (line * 64) then ~~~l.dirty else 0)
        leaseEnd := if leaseTicks cls = 0 then 0 else c.tick + leaseTicks cls }
      (lineByte l.data i, c.l1Poison l, c.setL1 l)
  | none =>
    let c := (c.dirRead (agentOf core) line).ecc (line * 64)
    let p := c.poisonedAt (line * 64)
    let d := c.lineAt line 64 0
    let l : L1Line := { core := core, line := line, data := d, poison := if p then BitVec.allOnes 64 else 0,
                        leaseEnd := c.tick + leaseTicks cls }
    (lineByte d i, p, if leaseTicks cls = 0 then c else c.setL1 l)

/-- A core accepts one stored byte into its L1 (R65): the first dirty byte of a line sends an ownership notice. -/
def Chip.l1Store (c : Chip) (core loc : Nat) (b : Byte) : Chip :=
  let line := loc / 64
  let i := loc % 64
  let e := assocGet c.mem.epochs core 0
  let l := (c.l1Line? core line).getD { core := core, line := line }
  let fresh := l.dirty = 0
  let l' := { l with
    data := lineSet l.data i b
    dirty := l.dirty ||| (1#64 <<< i)
    poison := l.poison &&& ~~~(1#64 <<< i)
    taint := l.taint.bind fun m => let m := m ||| (1#64 <<< i); if m = BitVec.allOnes 64 then none else some m
    firstEpoch := if fresh then e else l.firstEpoch
    lastEpoch := e
    since := if fresh then c.tick else l.since }
  let c := c.setL1 l'
  if fresh then { c with mem := { c.mem with notices := c.mem.notices ++ [(core, line)] } } else c

/-- A release store of any scope begins a new epoch of its core (R139). -/
def Chip.newEpoch (c : Chip) (core : Nat) : Chip :=
  { c with mem := { c.mem with epochs := assocSet c.mem.epochs core (assocGet c.mem.epochs core 0 + 1) } }

/-- The L2 marks a line core-owned and recalls a previous owner of the die (R65). -/
def Chip.markOwned (c : Chip) (core line : Nat) : Chip :=
  let c := c.recallFrom line fun k => k / 80 = core / 80 && k ≠ core
  let c := { c with mem := { c.mem with notices := c.mem.notices.filter fun o => !(o.1 = core && o.2 = line) } }
  match c.l1Line? core line with
  | none => c
  | some l =>
    if l.dirty = 0 then c
    else { c with mem := { c.mem with owned :=
      (c.mem.owned.filter fun o => !(o.1 = core / 80 && o.2.1 = line)) ++ [(core / 80, line, core)] } }

/-- A write of bytes at a location of main memory, at its home: it recalls core-owned bytes, breaks reservations and takes the line
(R65, R69, R71, R145). -/
def Chip.homeStore (c : Chip) (a : Agent) (l : Nat) (bs : List Byte) : Chip :=
  ((((c.rebuildEntry (l / 64)).recallLine (l / 64)).dirWrite a (l / 64)).breakResv l none).putBytes l bs |>.cleanse l bs.length

/-- A write of bytes within one line by an engine, a queue unit or a latency core, which leaves an applied record (R65, R69, R71, R75,
R145). -/
def Chip.targetStore (c : Chip) (a : Agent) (g : Target) (bs : List Byte) : Chip :=
  match g with
  | .main l => (c.homeStore a l bs).noted a (c.homeOf l) 0 false
  | .onDie l => ((c.breakResv l none).putBytes l bs).cleanse l bs.length
  | _ => c

/-- What a write of n bytes at a physical address does, line by line (R23). -/
def Chip.byLines (c : Chip) (pa : Nat) (bs : List Byte) (put : Chip → Nat → List Byte → Chip) : Chip :=
  let first := pa / 64
  (List.range ((pa + bs.length + 63) / 64 - first)).foldl (fun c i =>
    let lo := max pa (64 * (first + i))
    let hi := min (pa + bs.length) (64 * (first + i + 1))
    put c lo ((bs.drop (lo - pa)).take (hi - lo))) c

/-- A write of bytes at a physical address (R23, R145). -/
def Chip.agentStore (c : Chip) (a : Agent) (pa : Nat) (bs : List Byte) : Chip :=
  c.byLines pa bs fun c pa bs => c.targetStore a (c.target pa) bs

/-- A write of bytes at a location of main memory past the caches, through a page that Svpbmt marks NC or IO (R27, R67, R75). -/
def Chip.plainStore (c : Chip) (a : Agent) (l : Nat) (bs : List Byte) : Chip :=
  ((((c.rebuildEntry (l / 64)).recallLine (l / 64)).homeWrite (l / 64)).breakResv l none).putBytes l bs |>.cleanse l bs.length
    |>.noted a (c.homeOf l) 0 false

/-- A read of n bytes within one line by an engine, a queue unit or a latency core at the L2s and homes (R145): value and
poison. -/
def Chip.targetLoad (c : Chip) (a : Agent) (g : Target) (n : Nat) : Nat × Bool × Chip :=
  match g with
  | .main l =>
    let c := ((c.rebuildEntry (l / 64)).dirRead a (l / 64)).ecc l
    (cellRead c.mem.bytes l n, c.poisonedAt l, c)
  | .onDie l =>
    let p := (List.range n).any fun k => c.poisonedAt (l + k)
    (cellRead c.mem.bytes l n, p, c)
  | _ => (0, false, c)

/-- A read of n bytes at a physical address, line by line (R23, R145). -/
def Chip.agentLoad (c : Chip) (a : Agent) (pa n : Nat) : Nat × Bool × Chip :=
  let first := pa / 64
  (List.range ((pa + n + 63) / 64 - first)).foldl (fun (r : Nat × Bool × Chip) i =>
    let lo := max pa (64 * (first + i))
    let hi := min (pa + n) (64 * (first + i + 1))
    let x := r.2.2.targetLoad a (r.2.2.target lo) (hi - lo)
    (r.1 + x.1 <<< (8 * (lo - pa)), r.2.1 || x.2.1, x.2.2)) (0, false, c)

/-- Whether n bytes at a physical address name main memory of regions 0-2 or the CXL memory part of region 5 throughout: the
first of each 4 KiB and the last (R408). -/
def Chip.usable (c : Chip) (pa n : Nat) : Bool :=
  let ok (a : Nat) : Bool := match c.target a with
    | .main _ => decide (bits 50 48 a ≤ 2) || decide (bits 50 48 a = 5)
    | _ => false
  ok pa && ok (pa + n - 1) && (List.range (n / 4096)).all fun i => ok (pa + 4096 * (i + 1) - 1)

/-- Whether an access to a line waits at its home: for a route, behind a parked request, for the repair of a fault, or for bytes that a
core cannot write back yet; a store also for a home whose applied records are in use (R35, R75, R76). -/
def Chip.lineWaits (c : Chip) (line : Nat) (acc : Access) : Bool :=
  c.lineHeld line || c.dirFaulty line || c.recallWaits line || (acc != .store && c.dataFaulty line) ||
    (acc == .store && c.refuses (c.homeOf (64 * line)))

/-- The line of a target for which an access waits (R35, R75, R76). -/
def Chip.heldTarget (c : Chip) (g : Target) (acc : Access) : Option Nat :=
  match g with
  | .main l => if c.lineWaits (l / 64) acc then some (l / 64) else none
  | _ => none

/-- The first line of an access of n bytes at a physical address for which it waits (R35, R75, R76). -/
def Chip.heldLine (c : Chip) (pa n : Nat) (acc : Access) : Option Nat :=
  if c.cutOff (bits 55 51 pa) then some (pa / 64)
  else (List.range ((pa + n + 63) / 64 - pa / 64)).findSome? fun i => c.heldTarget (c.target (64 * (pa / 64 + i))) acc

/-- Whether an access waits so (R35, R75, R76). -/
def Chip.heldAt (c : Chip) (pa n : Nat) (acc : Access) : Bool := (c.heldLine pa n acc).isSome

/-- Offset in region 4 of a physical address (R57, R123). -/
def regOff (pa : Nat) : Nat := bits 39 0 pa

/-- Whether an offset of region 4 lies in a block of registers, on a dword (R123): any other raises an access fault. What a block
does not list is reserved and reads zero (R4). -/
def regListed (off : Nat) : Bool :=
  decide (off % 8 = 0) && (decide (off < 0x100) || (decide (0x1000 ≤ off) && decide (off < 0x2200)) ||
    (decide (0x3000 ≤ off) && decide (off < 0x3100)))

/-- One MSI (R409): an aligned 32-bit write at the MSI address; 0 sends nothing; a misaligned one, or one that would raise an
access fault, is dropped and logged. A register of this package receives the data, zero-extended, as its next write
(notes/assumptions/122). -/
def Chip.sendMsi (c : Chip) (addr : Word) (data : BitVec 32) : Chip :=
  let pa := addr.toNat
  let sent (c : Chip) : Chip := { c with msis := (addr, data) :: c.msis }
  if pa = 0 then c
  else if pa % 4 ≠ 0 then c.logEvent 409
  else match c.target pa with
    | .main _ => sent (c.agentStore (.cdie 0) pa (bytesOf data.toNat 4))
    | .onDie _ => sent (c.agentStore (.cdie 0) pa (bytesOf data.toNat 4))
    | .io =>
      if bits 50 48 pa = 4 && !regListed (regOff pa) then c.logEvent 409
      else if bits 50 48 pa = 4 && bits 55 51 pa = c.pkg then
        { sent c with regWrites := c.regWrites ++ [(BitVec.ofNat 64 pa, data.setWidth 64)] }
      else sent c
    | .fault => c.logEvent 409

end Sys2Proof.Machine
end

