-- ==== Sys2Proof/Machine/Translate.lean ====
section
/-! DEFINITION. Translation: address spaces, TLBs, Sv57 walks of one and two stages, zero-fill allocation, fault records
and ring usability (R78-R100, R408, R409). -/
namespace Sys2Proof.Machine

/-- VMID of a context, 0 where V = 0 (R87, R94). -/
def Ctx.vmid (x : Ctx) : Nat := if x.v then bits 57 44 x.hgatp.toNat else 0

/-- ASID of a context (R87). -/
def Ctx.asid (x : Ctx) : Nat := bits 59 44 (if x.v then x.vsatp.toNat else x.satp.toNat)

/-- Two contexts of one address space (R87, R98). -/
def Ctx.same (x y : Ctx) : Bool := x.v == y.v && x.vmid = y.vmid && x.asid = y.asid

/-- The address space with one root table, as handles compare it (R359). -/
def Ctx.sameRoot (x y : Ctx) : Bool := x.same y && x.satp = y.satp && x.vsatp = y.vsatp && x.hgatp = y.hgatp

/-- Every root that a move needs names Sv57 (R78). -/
def Ctx.sv57 (x : Ctx) : Bool := bits 63 60 (if x.v then x.vsatp.toNat else x.satp.toNat) = 10

/-- Generation of an address space (R87). -/
def Chip.genOf (c : Chip) (v : Bool) (vmid asid : Nat) : Nat :=
  assocGet c.xl.gens (v, vmid, asid) 0 + assocGet c.xl.gensAll (v, vmid) 0

/-- Causes of an access kind: page, guest-page and access faults (R81, R80). -/
def Access.pageFault : Access → Nat | .fetch => 12 | .load => 13 | .store => 15
def Access.guestFault : Access → Nat | .fetch => 20 | .load => 21 | .store => 23
def Access.accessFault : Access → Nat | .fetch => 1 | .load => 5 | .store => 7

/-- Permission of leaf bits for an access (R83). -/
def permOk (acc : Access) (mode : Mode) (sum mxr r w x u : Bool) : Bool :=
  (match mode with
    | .u => u
    | .s => !u || (sum && acc != .fetch)
    | .m => true) &&
  (match acc with
    | .fetch => x
    | .load => r || (mxr && x)
    | .store => w)

/-- A translation fault: cause, guest physical address shifted right by 2, flags of byte 0x15 (R98). Cause 0 is no fault: a PTE's
line, in the place of the address, waits at its home, and the walk with it (R35, R76). -/
structure WalkFault where
  cause : Nat
  gpa : Nat := 0
  flags : Nat := 0

/-- A leaf found by one stage: physical page of the access, its bits, and the level. -/
structure Leaf where
  ppage : Nat
  level : Nat
  napot : Bool
  r : Bool
  w : Bool
  x : Bool
  u : Bool
  g : Bool
  d : Bool
  pbmt : Nat
  rsw : Nat
  /-- location of the PTE -/
  at_ : Nat
  /-- of a stage that is off, which maps every address to itself -/
  bare : Bool := false
  deriving Inhabited

/-- What a stage's walk needs besides the tables. -/
structure WalkArgs where
  unit : Nat
  ctx : Ctx
  mode : Mode
  sum : Bool
  acc : Access
  nonfaulting : Bool
  /-- the virtual address translated, which both stages serve (R94) -/
  va : Nat
  /-- of the management firmware, whose tables lie in its window (R43) -/
  mgmt : Bool := false

/-- The agent behind a unit (R78). -/
def unitAgent (u : Nat) : Agent := if u < 8 then .cdie u else .ldie (u - 8)

/-- What a read of a PTE gives: its value, an access fault, or a wait at its home (R35, R76, R80). -/
inductive PteRead where
  | value (e : Nat) | fault | held (line : Nat)

/-- What the address of a PTE names for a walk (R23, R43). -/
def Chip.pteTarget (c : Chip) (mgmt : Bool) (pa : Nat) : Target := if mgmt then c.mgmtTarget pa else c.target pa

/-- A PTE read coherently at its home, dirty bytes recalled first; poison and what is no main memory give an access fault (R27,
R80). A fault of its line parks the read (R76). -/
def Chip.pteRead (c : Chip) (u : Nat) (mgmt : Bool) (pa : Nat) : PteRead × Chip :=
  let g := c.pteTarget mgmt pa
  let read (c : Chip) : PteRead × Chip :=
    let r := c.targetLoad (unitAgent u) g 8
    (if r.2.1 then .fault else .value r.1, r.2.2)
  if c.cutOff (bits 55 51 pa) then (.held (pa / 64), c)
  else match g, c.heldTarget g .load with
    | _, some line => (.held line, c.parkUnit (unitAgent u) line)
    | .main l, none => read (c.recallLine (l / 64))
    | .onDie _, none => read c
    | _, none => (.fault, c)

/-- A PTE written by compare-and-swap at its home (R80). -/
def Chip.pteWrite (c : Chip) (u : Nat) (mgmt : Bool) (pa v : Nat) : Chip :=
  c.targetStore (unitAgent u) (c.pteTarget mgmt pa) (bytesOf v 8)

/-- A unit of translation. -/
def Chip.unit (c : Chip) (u : Nat) : Unit_ := c.xl.units.getD u {}

/-- Put a unit back. -/
def Chip.setUnit (c : Chip) (u : Nat) (x : Unit_) : Chip :=
  { c with xl := { c.xl with units := listSet c.xl.units u x } }

/-- Entries of a ring from its size field: 6 to 16, other values act as 6 (R100). -/
def ringLog (v : Nat) : Nat := if 6 ≤ v && v ≤ 16 then v else 6

/-- Whether a ring of n bytes at a base is usable, and clean at an entry (R408). -/
def Chip.ringUsable (c : Chip) (base n : Nat) : Bool := c.usable base n

/-- A unit finds a ring usable or not: each time it becomes unusable, one entry goes to the management error log (R408). -/
def Chip.ringSeen (c : Chip) (ring : Nat) (ok : Bool) : Chip :=
  if ok == !c.ringsLost.contains ring then c
  else if ok then { c with ringsLost := setErase ring c.ringsLost }
  else ({ c with ringsLost := setInsert ring c.ringsLost } : Chip).logEvent 408

/-- Whether an entry of a ring meets no poison, line by line (R408). -/
def Chip.entryClean (c : Chip) (a n : Nat) : Bool :=
  (List.range ((a + n + 63) / 64 - a / 64)).all fun i => match c.target (64 * (a / 64 + i)) with
    | .main l => !c.poisonedAt l
    | _ => false

/-- Whether a unit's allocation log takes its next entry (R408). -/
def Chip.logUsable (c : Chip) (u : Nat) : Bool :=
  let x := c.unit u
  let n := 2 ^ ringLog x.zlsize.toNat
  c.ringUsable x.zlbase.toNat (32 * n) && c.entryClean (x.zlbase.toNat + 32 * (x.zlprod.toNat % n)) 32

/-- Free entries of a unit's allocation log, none usable counted as 0 (R92, R408). -/
def Chip.logFree (c : Chip) (u : Nat) : Nat :=
  let x := c.unit u
  if c.logUsable u then 2 ^ ringLog x.zlsize.toNat - (x.zlprod - x.zlcons).toNat else 0

/-- Append an allocation-log entry (R94). -/
def Chip.logAppend (c : Chip) (u va pte frame : Nat) (ctx : Ctx) : Chip :=
  let x := c.unit u
  let n := 2 ^ ringLog x.zlsize.toNat
  let at_ := x.zlbase.toNat + 32 * (x.zlprod.toNat % n)
  let bs := bytesOf va 8 ++ bytesOf pte 8 ++ bytesOf frame 8 ++ bytesOf ctx.asid 2 ++ bytesOf ctx.vmid 2 ++
    bytesOf (c.tick % 2 ^ 32) 4
  let c := c.agentStore (unitAgent u) at_ bs
  c.setUnit u { c.unit u with zlprod := x.zlprod + 1 }

/-- Frames that a unit can still give: reserve and undrained ring (R94). -/
def Unit_.frames (x : Unit_) : Nat := x.reserve.length + (x.zpprod - x.zpcons).toNat

/-- One MSI where a threshold of R94 is crossed downwards. -/
def Chip.poolLow (c : Chip) (u before logBefore : Nat) : Chip :=
  let x := c.unit u
  let low := x.zplow.toNat
  let crossed := (decide (low ≤ before) && decide (x.frames < low)) ||
    (decide (64 ≤ logBefore) && decide (c.logFree u < 64))
  if crossed then c.sendMsi x.zmsiaddr x.zmsidata else c

/-- Zero-fill allocation at a level-0 PTE (R92): the new PTE, or the flags of the fault. -/
def Chip.zeroFill (c : Chip) (a : WalkArgs) (pa e : Nat) : (Nat ⊕ Nat) × Chip :=
  let x := c.unit a.unit
  match x.reserve with
  | [] => (.inr 2, c)
  | f :: rest =>
    let c := c.ringSeen (3 * a.unit + 1) (c.logUsable a.unit)
    let logBefore := c.logFree a.unit
    if logBefore = 0 then (.inr 4, c)
    else
      let before := x.frames
      let n := ((e &&& 0x6000_0000_0000_00FF) ||| (f <<< 10) ||| 0x41) ||| (if a.acc = .store then 0x80 else 0)
      let c := c.setUnit a.unit { x with reserve := rest }
      let c := c.pteWrite a.unit a.mgmt pa n
      let c := c.logAppend a.unit (roundDown a.va 4096) pa (f <<< 12) a.ctx
      (.inl n, c.poolLow a.unit before logBefore)

/-- What the table of R81 makes of a PTE. -/
inductive PteKind where
  | invalid | zeroFill | pointer (base : Nat) | leaf (l : Leaf)

/-- Decode a PTE at a level (R81, R92); va gives the page inside a large leaf. -/
def pteKind (e level vpage at_ : Nat) : PteKind :=
  let b (i : Nat) := e.testBit i
  let ppn := bits 53 10 e
  if !b 0 then
    (if level = 0 && bits 9 8 e = 2 && !b 63 && bits 60 54 e = 0 then .zeroFill else .invalid)
  else if bits 60 54 e ≠ 0 || (b 2 && !b 1) then .invalid
  else if !b 1 && !b 3 then
    -- a pointer: D, A, U, N and PBMT are reserved there
    (if level = 0 || b 4 || b 6 || b 7 || b 63 || bits 62 61 e ≠ 0 then .invalid else .pointer (ppn * 4096))
  else if bits 62 61 e = 3 then .invalid
  else if b 63 && (level ≠ 0 || bits 3 0 ppn ≠ 8) then .invalid
  else if ppn % 2 ^ (9 * level) ≠ 0 then .invalid
  else
    let low := 2 ^ (9 * level)
    let page := if b 63 then roundDown ppn 16 + vpage % 16 else ppn + vpage % low
    .leaf { ppage := page, level := level, napot := b 63, r := b 1, w := b 2, x := b 3, u := b 4, g := b 5, d := b 7
            pbmt := bits 62 61 e, rsw := bits 9 8 e, at_ := at_ }

/-- A stage's result. -/
abbrev StageRes := (Leaf ⊕ WalkFault) × Chip

/-- MXR as a stage takes it: vsstatus.MXR makes the first stage's executable pages readable alone (R78, R83). -/
def Ctx.mxrAt (x : Ctx) (gstage : Bool) : Bool := x.mxr || (x.v && x.vmxr && !gstage)

/-- Check and update A and D of a leaf (R81); the PTE itself must be writable through the stage below (R78). -/
def leafUpdate (c : Chip) (a : WalkArgs) (adue user : Bool) (e : Nat) (l : Leaf) (fault : Nat)
    (writable : Chip → Option WalkFault × Chip) : StageRes :=
  if !permOk a.acc a.mode a.sum (a.ctx.mxrAt user) l.r l.w l.x (l.u || user) then (.inr ⟨fault, 0, 0⟩, c)
  else if e.testBit 6 && (a.acc ≠ .store || e.testBit 7) then (.inl l, c)
  else if !adue then (.inr ⟨fault, 0, 0⟩, c)
  else match writable c with
    | (some f, c) => (.inr f, c)
    | (none, c) =>
      let n := e ||| 0x40 ||| (if a.acc = .store then 0x80 else 0)
      (.inl { l with d := l.d || decide (a.acc = .store) }, c.pteWrite a.unit a.mgmt l.at_ n)

/-- The table that a walk cache names for an address at a level: of the address space, at its generation (R86, R87). -/
def Chip.walkHit (c : Chip) (a : WalkArgs) (gstage : Bool) (level va : Nat) : Option Nat :=
  let x := a.ctx
  (c.xl.walks.find? fun w => w.die = a.unit && w.v == x.v && w.vmid = x.vmid && w.asid = x.asid &&
    w.gen = c.genOf x.v x.vmid x.asid && w.gstage == gstage && w.level = level && w.prefix_ = va >>> (12 + 9 * level)).map (·.base)

/-- A DTU keeps a non-leaf PTE that a walk has read (R86). -/
def Chip.walkKeep (c : Chip) (a : WalkArgs) (gstage : Bool) (level va base : Nat) : Chip :=
  if 8 ≤ a.unit then c
  else
    let x := a.ctx
    let w : WalkEntry := { die := a.unit, v := x.v, vmid := x.vmid, asid := x.asid, gen := c.genOf x.v x.vmid x.asid
                           gstage := gstage, level := level, prefix_ := va >>> (12 + 9 * level), base := base }
    let other (k : WalkEntry) : Bool := !(k.die = w.die && k.v == w.v && k.vmid = w.vmid && k.asid = w.asid &&
      k.gstage == w.gstage && k.level = w.level && k.prefix_ = w.prefix_)
    { c with xl := { c.xl with walks := w :: c.xl.walks.filter other } }

/-- One stage from a level downwards, with a translation of table addresses for a kind of access (identity in a single stage).
A level in the walk cache is not read (R86). -/
def stageWalk (a : WalkArgs) (adue gstage : Bool) (fault : Nat) (va : Nat)
    (locate : Access → Chip → Nat → (Nat ⊕ WalkFault) × Chip) : Nat → Nat → Nat → Chip → StageRes
  | 0, _, _, c => (.inr ⟨fault, 0, 0⟩, c)
  | fuel + 1, level, base, c =>
    let width := if gstage && level = 4 then 2048 else 512
    let entry := base + 8 * ((va >>> (12 + 9 * level)) % width)
    let writable (c : Chip) : Option WalkFault × Chip := match locate .store c entry with
      | (.inr f, c) => (some f, c)
      | (.inl pa, c) => ((c.heldTarget (c.pteTarget a.mgmt pa) .store).map fun line => ⟨0, line, 0⟩, c)
    match (if level = 0 then none else c.walkHit a gstage level va) with
    | some b => stageWalk a adue gstage fault va locate fuel (level - 1) b c
    | none =>
      match locate .load c entry with
      | (.inr f, c) => (.inr f, c)
      | (.inl pa, c) =>
        match c.pteRead a.unit a.mgmt pa with
        | (.held line, c) => (.inr ⟨0, line, 0⟩, c)
        | (.fault, c) => (.inr ⟨a.acc.accessFault, 0, 0⟩, c)
        | (.value e, c) =>
          match pteKind e level (va / 4096) pa with
          | .invalid => (.inr ⟨fault, 0, 0⟩, c)
          | .pointer b => stageWalk a adue gstage fault va locate fuel (level - 1) b (c.walkKeep a gstage level va b)
          | .leaf l => if gstage && !l.u then (.inr ⟨fault, 0, 0⟩, c) else leafUpdate c a adue gstage e l fault writable
          | .zeroFill =>
            if a.nonfaulting || bits 62 61 e = 3 || (e.testBit 2 && !e.testBit 1) || (gstage && !e.testBit 4) ||
                !permOk a.acc a.mode a.sum (a.ctx.mxrAt gstage) (e.testBit 1) (e.testBit 2) (e.testBit 3) (e.testBit 4 || gstage) then
              (.inr ⟨fault, 0, 0⟩, c)
            else match writable c with
              | (some f, c) => (.inr f, c)
              | (none, c) => match c.zeroFill a pa e with
                | (.inr fl, c) => (.inr ⟨fault, 0, fl⟩, c)
                | (.inl n, c) =>
                  match pteKind n 0 (va / 4096) pa with
                  | .leaf l => (.inl l, c)
                  | _ => (.inr ⟨fault, 0, 0⟩, c)

/-- Canonical Sv57 address (R58). -/
def canonical57 (va : Nat) : Bool := bits 63 57 va = (if va.testBit 56 then 127 else 0)

/-- The leaf of a stage that is off, for an address. -/
def bareLeaf (a : Nat) : Leaf :=
  { ppage := a / 4096, level := 0, napot := false, r := true, w := true, x := true, u := true, g := false
    d := true, pbmt := 0, rsw := 0, at_ := 0, bare := true }

/-- G-stage of a guest physical address (R78); a fault names the address itself (R98). -/
def gStage (a : WalkArgs) (c : Chip) (gpa : Nat) : StageRes :=
  if bits 63 60 a.ctx.hgatp.toNat = 0 then (.inl (bareLeaf gpa), c)
  else if 2 ^ 59 ≤ gpa then (.inr ⟨a.acc.guestFault, gpa / 4, 0⟩, c)
  else
    match stageWalk a a.ctx.adue true a.acc.guestFault gpa (fun _ c p => (.inl p, c)) 5 4
        (bits 43 2 a.ctx.hgatp.toNat * 16384) c with
    | (.inr f, c) => (.inr (if f.cause = a.acc.guestFault then { f with gpa := gpa / 4 } else f), c)
    | r => r

/-- The pages of a leaf: its number of 4 KiB pages as cached, at most 8 MiB (R84). -/
def Leaf.pages (l : Leaf) : Nat :=
  if l.napot then 16 else if l.level = 0 then 1 else if l.level = 1 then 512 else 2048

/-- The pages of the leaf page itself (R80, R186). -/
def Leaf.span (l : Leaf) : Nat := if l.napot then 16 else 512 ^ l.level

/-- The four PTEs of an 8 MiB group may be one entry (R85); D bits of its quarters. -/
def Chip.coalesce (c : Chip) (u : Nat) (mgmt : Bool) (at_ : Nat) : Option (BitVec 4) :=
  let g := roundDown at_ 32
  let e (i : Nat) : Nat := match (c.pteRead u mgmt (g + 8 * i)).1 with | .value e => e | _ => 0
  let same (i : Nat) := (e i).testBit 0 && (e i).testBit 6 && ((e i).testBit 1 || (e i).testBit 3) &&
    bits 53 10 (e i) = bits 53 10 (e 0) + 512 * i &&
    bits 63 54 (e i) = bits 63 54 (e 0) && bits 9 8 (e i) = bits 9 8 (e 0) && bits 5 1 (e i) = bits 5 1 (e 0)
  if bits 53 10 (e 0) % 2048 = 0 && same 0 && same 1 && same 2 && same 3 then
    some (BitVec.ofNat 4 (flag ((e 0).testBit 7) + 2 * flag ((e 1).testBit 7) + 4 * flag ((e 2).testBit 7) +
      8 * flag ((e 3).testBit 7)))
  else none

/-- Pages that one entry may hold of a stage's leaf, and the D bits of their quarters (R84, R85). -/
def Chip.leafReach (c : Chip) (u : Nat) (mgmt : Bool) (l : Leaf) : Nat × BitVec 4 :=
  let d := if l.d then BitVec.allOnes 4 else 0
  if l.bare then (2048, d)
  else if l.level = 1 then (match c.coalesce u mgmt l.at_ with | some q => (2048, q) | none => (512, d))
  else (l.pages, d)

/-- Pages of a stage's leaf page: a stage that is off has none of its own (R186). -/
def Leaf.leafPages (l : Leaf) : Nat := if l.bare then 512 ^ 4 else l.span

/-- The TLB entry of the leaves of both stages for a level of TLB (R84, R85): the smaller reach; the second leaf gives the
physical page. The lease class is the first stage's RSW, none where that stage is off (notes/assumptions/124). -/
def entryOf (c : Chip) (a : WalkArgs) (level : TlbLevel) (vpage : Nat) (l g : Leaf) : TlbEntry :=
  let x := c.leafReach a.unit a.mgmt l
  let y := c.leafReach a.unit a.mgmt g
  let pages := min x.1 y.1
  let dirty := if pages = 2048 then x.2 &&& y.2 else if l.d && g.d then BitVec.allOnes 4 else 0
  { level := level, v := a.ctx.v, vmid := a.ctx.vmid, asid := a.ctx.asid, global := l.g
    gen := c.genOf a.ctx.v a.ctx.vmid a.ctx.asid
    vpage := roundDown vpage pages, pages := pages, ppage := g.ppage - vpage % pages, leaf := min l.leafPages g.leafPages
    r := l.r, w := l.w && g.w, x := l.x, user := l.u, gr := g.r, gx := g.x, dirty := dirty
    pbmt := if l.pbmt = 0 then g.pbmt else l.pbmt, rsw := l.rsw }

/-- A whole walk: the entry it installs, or the fault (R78-R85, R92). -/
def Chip.walk (c : Chip) (a : WalkArgs) (level : TlbLevel) (va : Nat) : (TlbEntry ⊕ WalkFault) × Chip :=
  let a := { a with va := va }
  let vpage := va / 4096
  let pf : WalkFault := ⟨a.acc.pageFault, 0, 0⟩
  if !a.ctx.v then
    if !canonical57 va then (.inr pf, c)
    else
      match stageWalk a a.ctx.adue false a.acc.pageFault va (fun _ c p => (.inl p, c)) 5 4
          (bits 43 0 a.ctx.satp.toNat * 4096) c with
      | (.inr f, c) => (.inr f, c)
      | (.inl l, c) => (.inl (entryOf c a level vpage l { bareLeaf 0 with ppage := l.ppage }), c)
  else
    let locate (acc : Access) (c : Chip) (p : Nat) : (Nat ⊕ WalkFault) × Chip :=
      match gStage { a with acc := acc, mode := .u } c p with
      | (.inl l, c) => (.inl (l.ppage * 4096 + p % 4096), c)
      | (.inr f, c) =>
        -- a fault on a table access is of the original access's kind
        (.inr { f with cause := if f.cause = acc.guestFault then a.acc.guestFault
                                else if f.cause = acc.accessFault then a.acc.accessFault else f.cause }, c)
    let vs : StageRes :=
      if bits 63 60 a.ctx.vsatp.toNat = 0 then (.inl (bareLeaf va), c)
      else if !canonical57 va then (.inr pf, c)
      else stageWalk a a.ctx.hadue false a.acc.pageFault va locate 5 4 (bits 43 0 a.ctx.vsatp.toNat * 4096) c
    match vs with
    | (.inr f, c) => (.inr f, c)
    | (.inl l, c) =>
      match gStage { a with mode := .u } c (l.ppage * 4096 + va % 4096) with
      | (.inr f, c) => (.inr f, c)
      | (.inl g, c) => (.inl (entryOf c a level vpage l g), c)

/-- Whether an entry serves a page of a context now (R87). -/
def TlbEntry.serves (e : TlbEntry) (c : Chip) (x : Ctx) (vpage : Nat) : Bool :=
  e.v == x.v && e.vmid = x.vmid && (e.global || e.asid = x.asid) && e.gen = c.genOf e.v e.vmid e.asid &&
  decide (e.vpage ≤ vpage) && decide (vpage < e.vpage + e.pages)

/-- D of the part of an entry that holds a page (R85). -/
def TlbEntry.dirtyAt (e : TlbEntry) (vpage : Nat) : Bool :=
  if e.pages = 2048 then e.dirty.getLsbD ((vpage - e.vpage) / 512) else e.dirty.getLsbD 0

/-- An entry that permits an access at both stages; one that does not is walked again, and the walk faults (R78, R81, R83). -/
def TlbEntry.permits (e : TlbEntry) (acc : Access) (mode : Mode) (sum : Bool) (x : Ctx) (vpage : Nat) : Bool :=
  permOk acc mode sum (x.mxrAt false) e.r e.w e.x e.user && permOk acc .m sum (x.mxrAt true) e.gr true e.gx true &&
    (acc != .store || e.dirtyAt vpage)

/-- A translated address: physical address, PBMT and RSW. -/
structure Phys where
  pa : Nat
  pbmt : Nat := 0
  rsw : Nat := 0
  deriving DecidableEq, Repr, Inhabited

/-- The physical address that an entry gives. -/
def TlbEntry.phys (e : TlbEntry) (va : Nat) : Phys :=
  ⟨(e.ppage + (va / 4096 - e.vpage)) * 4096 + va % 4096, e.pbmt, e.rsw⟩

/-- Translate through the TLBs of some levels only; none is a miss (R84, R85). -/
def Chip.lookup (c : Chip) (levels : List TlbLevel) (x : Ctx) (mode : Mode) (sum : Bool) (va : Nat) (acc : Access) :
    Option Phys :=
  let ok (e : TlbEntry) := levels.contains e.level && e.serves c x (va / 4096) && e.permits acc mode sum x (va / 4096)
  (c.xl.tlb.find? ok).map (·.phys va)

/-- Install an entry; one of its level, space and first page is replaced. -/
def Chip.install (c : Chip) (e : TlbEntry) : Chip :=
  let other (k : TlbEntry) := !(k.level = e.level && k.v == e.v && k.vmid = e.vmid && k.asid = e.asid &&
    k.vpage = e.vpage && k.pages = e.pages)
  { c with xl := { c.xl with tlb := e :: c.xl.tlb.filter other } }

/-- An engine's translation through the DTU of a core's die, walking where needed (R340, R381): the context's U-mode
view, zero-fill absorbed. -/
def Chip.engineTranslate (c : Chip) (core : Nat) (x : Ctx) (mode : Mode) (va : Nat) (acc : Access) :
    (Phys ⊕ WalkFault) × Chip :=
  let die := core / 80
  match c.lookup [.core core, .die die] x mode true va acc with
  | some p => (.inl p, c)
  | none =>
    match c.walk ⟨die, x, mode, true, acc, false, va, false⟩ (.die die) va with
    | (.inl e, c) => (.inl (e.phys va), c.install e)
    | (.inr f, c) => (.inr f, c)

/-- A thread of the chip. -/
def Chip.thread? (c : Chip) (id : Nat) : Option Thread := c.threads.find? (·.id = id)

/-- Put a thread back. -/
def Chip.setThread (c : Chip) (t : Thread) : Chip :=
  { c with threads := c.threads.map fun u => if u.id = t.id then t else u }

/-- Change a thread. -/
def Chip.onThread (c : Chip) (id : Nat) (f : Thread → Thread) : Chip :=
  { c with threads := c.threads.map fun u => if u.id = id then f u else u }

/-- Locator of a thread in the form of R98; 0 away from a slot. -/
def locatorOf (p : Place) : Nat :=
  match p with
  | .slot core q ig b => (core % 80) * 2 ^ 11 + q * 2 ^ 9 + (b % 16) * 2 ^ 5 + (2 * ig + b / 16)
  | _ => 0

/-- The next record number that no outstanding record has (R98). -/
def freshRecord (rs : List FaultRec) : Nat → Nat → Nat
  | 0, n => n
  | k + 1, n => if rs.any fun r => r.number = n then freshRecord rs k ((n + 1) % 65536) else n

/-- Park a thread on a fault record: merged by address space, page and kind, or a new record; false while 4,096 are
outstanding (R98). -/
def Chip.park (c : Chip) (u : Nat) (x : Ctx) (va gpa cause flags : Nat) (acc : Access) (who : Option Nat) (loc : Nat) :
    Bool × Chip :=
  let un := c.unit u
  let hit (r : FaultRec) := r.ctx.same x && r.va.toNat / 4096 = va / 4096 && r.acc = acc
  let hold (c : Chip) (n : Nat) : Chip := match who with
    | some t => c.onThread t fun t => { t with wait := .parked u n, waitSince := c.tick }
    | none => c
  match (if who.isSome then un.records.find? hit else none) with
  | some r =>
    let c := c.setUnit u { un with records := un.records.map fun k =>
      if k.number = r.number then { k with waiters := k.waiters ++ who.toList } else k }
    (true, hold c r.number)
  | none =>
    -- a thread waits in the miss queue for a record to come free
    if 4096 ≤ un.records.length then (false, match who with
      | some t => (c.setUnit u { un with noRecord := un.noRecord ++ [t] }).onThread t fun t => { t with wait := .miss, waitSince := c.tick }
      | none => c)
    else
      let number := freshRecord un.records 4097 un.nextRec
      let r : FaultRec := { number := number, ctx := x, va := BitVec.ofNat 64 va, gpa := BitVec.ofNat 64 gpa
                            cause := cause, acc := acc, flags := flags, waiters := who.toList, locator := loc
                            written := false }
      let c := c.setUnit u { un with records := un.records ++ [r], nextRec := (number + 1) % 65536 }
      (true, hold c r.number)

/-- Drop a thread from the record or miss that holds it (R99, R226). -/
def Chip.unpark (c : Chip) (t : Nat) : Chip :=
  let drop (x : Unit_) : Unit_ := { x with
    records := (x.records.map fun r => { r with waiters := r.waiters.filter (· ≠ t) })
    misses := (x.misses.map fun m => { m with waiters := m.waiters.filter (· ≠ t), late := m.late.filter (· ≠ t) })
    noRecord := x.noRecord.filter (· ≠ t) }
  { c with xl := { c.xl with units := c.xl.units.map drop } }

/-- Queue or merge a miss at a DTU and hold its thread (R97): misses of one page and address space are one; the core's miss file
holds 64 pages. -/
def Chip.queueMiss (c : Chip) (u core : Nat) (x : Ctx) (mode : Mode) (va : Nat) (acc : Access) (t : Nat) : Chip :=
  let un := c.unit u
  let page := va / 4096
  let twin (m : Miss) : Bool := m.ctx.same x && m.vpage = page
  let file := un.misses.filter fun m => m.cores.contains core
  let held (c : Chip) : Chip := c.onThread t fun t => { t with wait := .miss, waitSince := c.tick }
  if !(file.any twin) && decide (64 ≤ file.length) then c.onThread t fun t => { t with wait := .queueFull, waitSince := c.tick }
  else if un.misses.any twin then
    let add (m : Miss) : Miss :=
      { m with
        waiters := m.waiters ++ [t]
        late := if m.acc = acc && decide (m.mode = mode) then m.late else m.late ++ [t]
        cores := if m.cores.contains core then m.cores else m.cores ++ [core] }
    held (c.setUnit u { un with misses := un.misses.map fun m => bif twin m then add m else m })
  else
    let m : Miss := { id := c.eng.next, ctx := x, vpage := page, va := va, acc := acc, mode := mode, waiters := [t]
                      cores := [core], done := none }
    held { c.setUnit u { un with misses := un.misses ++ [m] } with eng := { c.eng with next := c.eng.next + 1 } }

end Sys2Proof.Machine
end

