-- ==== Sys2Proof/Machine/Operands.lean ====
section
/-! DEFINITION. Slices, whole registers, operand forms, poison and corruption of a thread's registers, and the Xtarust
CSRs (R74, R192, R204-R209, R222, R262-R266, R295, R298, R368). -/
namespace Sys2Proof.Machine

/-- w bits from slice s upward; slices 0-15 read zero (R295). -/
def readSlices (r : BitVec 2048) (s w : Nat) : Nat := ((((r.toNat >>> 64) <<< 64)) >>> (4 * s)) % 2 ^ w

/-- The bits of slices 16 and above among w bits from slice s (R295). -/
def sliceMask (s w : Nat) : Nat := ((((2 ^ w - 1) <<< (4 * s)) >>> 64) <<< 64)

/-- Write w bits from slice s upward; slices 0-15 are discarded (R295). -/
def writeSlices (r : BitVec 2048) (s w v : Nat) : BitVec 2048 :=
  let m := BitVec.ofNat 2048 (sliceMask s w)
  (r &&& ~~~m) ||| (BitVec.ofNat 2048 ((v % 2 ^ w) <<< (4 * s)) &&& m)

/-- x_k, which is slices 16k to 16k+15 (R102). -/
def readX (r : BitVec 2048) (k : Nat) : Word := BitVec.ofNat 64 (readSlices r (16 * k) 64)

/-- Write x_k; x0 is discarded (R206). -/
def writeX (r : BitVec 2048) (k : Nat) (v : Word) : BitVec 2048 := writeSlices r (16 * k) 64 v.toNat

/-- Extend the low w0 bits to w (R295). -/
def extendTo (v w0 w : Nat) (signed : Bool) : Nat :=
  if w ≤ w0 then v % 2 ^ w
  else if signed && v.testBit (w0 - 1) then v % 2 ^ w0 + (2 ^ w - 2 ^ w0) else v % 2 ^ w0

/-- src(F, w, signed) of R295 on a register file. -/
def srcOf (r : BitVec 2048) (f : BitVec 12) (w : Nat) (signed : Bool) : Nat :=
  extendTo (readSlices r (fStart f) (fWidth f)) (fWidth f) w signed

/-- ival(v, w, sg) of R297. -/
def ival (v w : Nat) (sg : Bool) : Int := if sg then signedOf' w v else (v % 2 ^ w : Nat)
where
  /-- two's-complement value -/
  signedOf' (w v : Nat) : Int :=
    let u := v % 2 ^ w
    if 2 ^ w ≤ 2 * u then (u : Int) - 2 ^ w else u

/-- zext(v, w) of an integer (R295). -/
def zextI (v : Int) (w : Nat) : Nat := (v % 2 ^ w).toNat

/-- imm = sext(B, 12) as a 64-bit number (R278). -/
def immOf (b : BitVec 12) : Nat := (b.signExtend 64).toNat

/-- The rank whose B slices a member of rank r reads (R204). -/
def permRank (x : BitVec 8) (r n : Nat) : Nat :=
  let k := xBits x 4 0
  match xBits x 7 5 with
  | 0 => r
  | 1 => (r + k) % n
  | 2 => (r + (n - k % n)) % n
  | 3 => if r + k < n then r + k else r
  | 4 => if k ≤ r then r - k else r
  | 5 => if k < n then k else r
  | 6 => if r ^^^ k < n then r ^^^ k else r
  | _ => n - 1 - r

/-- Slices of an operand: first slice and number. -/
abbrev Span := Nat × Nat

/-- Slices of an integer operand. -/
def spanI (f : BitVec 12) : Span := (fStart f, fWidth f / 4)

/-- Slices of a floating operand. -/
def spanF (f : BitVec 12) : Span := (fStart f, ((fFmt f).getD .fp64).width / 4)

/-- Slices of a whole register. -/
def spanX (k : Nat) : Span := (16 * k, 16)

/-- Slices that an instruction uses: read, read where poison traps (R74), and written. -/
structure Uses where
  reads : List Span := []
  strict : List Span := []
  writes : List Span := []
  deriving Inhabited

/-- The highest slice touched plus one, over slices of registers (R210). -/
def Uses.top (u : Uses) : Nat :=
  (u.reads ++ u.strict ++ u.writes).foldl (fun m p => if p.2 = 0 then m else max m (p.1 + p.2)) 0

/-- Whether a thread is on a compute core. -/
def Thread.onCompute (t : Thread) : Bool :=
  match t.place with
  | .slot _ _ _ _ => true
  | _ => false

/-- Slices of a bar: 8, or 9 in detecting mode (R208). -/
def barSize (detecting : Bool) : Nat := if detecting then 9 else 8

/-- Bar of an architectural slice, counted from the window's first bar (R208). -/
def barOf (p0 n a : Nat) : Nat := (p0 + a - 16) / n - p0 / n

/-- The numbers lo, lo + 1, ... of a span. -/
def spanList (p : Span) : List Nat := (List.range p.2).map (p.1 + ·)

/-- Whether a slice's bar is poisoned (R74); slices 0-15 have none, and one backed since then is not (R210). -/
def Thread.slicePoison (t : Thread) (n a : Nat) : Bool :=
  decide (16 ≤ a) && t.onCompute && t.barPoison.getLsbD (barOf t.p0 n a) && !t.fresh.getLsbD a

/-- Whether any slice of some spans is poisoned. -/
def Thread.poisoned (t : Thread) (n : Nat) (ps : List Span) : Bool :=
  decide (t.barPoison ≠ 0) && (ps.any fun p => (spanList p).any (t.slicePoison n))

/-- The lowest slice with a property among some spans. -/
def lowestSlice (ps : List Span) (f : Nat → Bool) : Option Nat :=
  (ps.flatMap spanList).foldl (fun m a => if f a then (match m with | none => some a | some b => some (min a b)) else m) none

/-- Every slice of the window that lies in a bar is among the written ones (R74). -/
def Thread.barCovered (t : Thread) (n bar : Nat) (ps : List Span) : Bool :=
  (List.range (n + 1)).all fun i =>
    -- slices of the bar: those a with barOf a = bar
    let a := 16 + (bar + t.p0 / n) * n + i - t.p0
    !(decide (16 ≤ a) && decide (a < t.tfoot) && barOf t.p0 n a = bar) || ps.any fun p => decide (p.1 ≤ a) && decide (a < p.1 + p.2)

/-- Poison bits after a result: a poisoned one poisons every bar it touches; a clean one clears the bars it covers
whole (R74). -/
def Thread.poisonWrite (t : Thread) (n : Nat) (ps : List Span) (p : Bool) : Thread :=
  if !t.onCompute then t else
  let slices := (ps.flatMap spanList).filter (16 ≤ ·)
  let set (m : BitVec 64) (a : Nat) : BitVec 64 :=
    let b := barOf t.p0 n a
    if p then m ||| (1#64 <<< b)
    else if m.getLsbD b && t.barCovered n b ps then m &&& ~~~(1#64 <<< b) else m
  let hit (a : Nat) : Bool := slices.any fun b => barOf t.p0 n b = barOf t.p0 n a
  { t with
    barPoison := slices.foldl set t.barPoison
    fresh := if t.fresh = 0 || !p then t.fresh
      else (List.range 512).foldl (fun m a => if m.getLsbD a && hit a then m &&& ~~~(1#512 <<< a) else m) t.fresh }

/-- Clear the corruption marks of written slices, and overwrite what errors they hold (R209). -/
def Thread.uncorrupt (t : Thread) (ps : List Span) : Thread :=
  if t.corrupt = 0 && t.flipped = 0 then t else
  let clear (m : BitVec 512) : BitVec 512 := (ps.flatMap spanList).foldl (fun m a => m &&& ~~~(1#512 <<< a)) m
  { t with corrupt := clear t.corrupt, flipped := clear t.flipped }

/-- The result of an instruction for one thread: slices written, their poison, flags and generator. -/
structure Eff where
  /-- first slice, width in bits, value -/
  sets : List (Nat × Nat × Nat) := []
  poison : Bool := false
  ff : BitVec 5 := 0
  tf : BitVec 4 := 0
  trng : Option Word := none
  deriving DecidableEq, Repr, Inhabited

/-- Apply a result to a thread (R206, R74, R209, R262, R266). -/
def Thread.apply (t : Thread) (n : Nat) (e : Eff) : Thread :=
  let spans := e.sets.map fun s => (s.1, s.2.1 / 4)
  let t := { t with
    regs := e.sets.foldl (fun (r : BitVec 2048) (s : Nat × Nat × Nat) => writeSlices r s.1 s.2.1 s.2.2) t.regs
    fcsr := t.fcsr ||| e.ff.setWidth 8
    tflags := t.tflags ||| e.tf.setWidth 64
    trng := e.trng.getD t.trng }
  (t.poisonWrite n spans e.poison).uncorrupt spans

/-- frm of a thread (R260). -/
def Thread.frm (t : Thread) : Nat := bits 7 5 t.fcsr.toNat
/-- tmode.FTZ (R264). -/
def Thread.ftz (t : Thread) : Bool := t.tmode.getLsbD 0
/-- tmode.SRDYN (R264). -/
def Thread.srdyn (t : Thread) : Bool := t.tmode.getLsbD 1
/-- tmode.TTRAP (R264). -/
def Thread.ttrap (t : Thread) : Bool := t.tmode.getLsbD 2
/-- tcause.H (R222). -/
def Thread.hook (t : Thread) : Bool := t.tcause.getLsbD 63

/-- The causes whose tdeleg bit holds a written value: "yes" in the table of R116. -/
def delegable (cause : Nat) : Bool := [2, 3, 6, 24, 25, 26, 27, 28, 29, 30, 49, 51].contains cause

/-- tdeleg as it reads: bit 50 is 1 (R222). -/
def Thread.delegRead (t : Thread) : Word := t.tdeleg ||| (1#64 <<< 50)

/-- tdeleg after a write: other bits are ignored (R116, R222). -/
def delegMask (v : Word) : Word :=
  (List.range 64).foldl (fun m i => if delegable i && v.getLsbD i then m ||| (1#64 <<< i) else m) 0

/-- Value written to a read-write Xtarust CSR as it is stored (R222, R262, R264, R266). -/
def Thread.writeX8 (t : Thread) (csr : Nat) (v : Word) : Thread :=
  match csr with
  | 0x806 => { t with tflags := v &&& 15 }
  | 0x807 => { t with tmode := v &&& 7 }
  | 0x808 => { t with trng := if v = 0 then 1 else v }
  | 0x809 => { t with temu := v &&& ~~~1 }
  | 0x80A => { t with tdeleg := delegMask v }
  | 0x80B => { t with tepc := v &&& ~~~1 }
  | 0x80C => { t with tcause := v &&& 0x8000_0000_0000_003F }
  | 0x80D => { t with tval := v }
  | _ => t

/-- Whether an Xtarust CSR is read-only (R368). -/
def roX8 (csr : Nat) : Bool := decide (csr ≤ 0x805) || csr = 0x80E || csr = 0x80F

/-- tstat at a place (R192); 0 on a latency core (R102). -/
def tstatOf (c : Chip) (p : Place) : Nat :=
  match p with
  | .slot core q ig b =>
    2 ^ 31 + c.pkg * 2 ^ 25 + (core / 80) * 2 ^ 22 + ig * 2 ^ 18 + (core % 80) * 2 ^ 11 + q * 2 ^ 9 + (b % 16) * 2 ^ 5 +
      (2 * ig + b / 16)
  | _ => 0

/-- tsafe.REQ (R224): a pending request not yet parked for, or a cancellation; 0 in a handler and on a latency core. -/
def Thread.tsafe (t : Thread) : Bool := t.onCompute && !t.handler && (t.reqPending || t.cancelled)

/-- Value of an Xtarust CSR (R102, R192, R224, R368). -/
def readX8 (c : Chip) (t : Thread) (csr : Nat) : Word :=
  let cc := t.onCompute
  let inGrid := match t.block.bind fun b => c.disp.blocks.find? (·.id = b) with | some b => !b.isTask | none => false
  match csr with
  | 0x800 => BitVec.ofNat 64 (tstatOf c t.place)
  | 0x801 => if cc then BitVec.ofNat 64 t.tfoot else 512
  | 0x802 => if cc || inGrid then BitVec.ofNat 64 t.trole else 0
  | 0x803 => if cc || inGrid then t.tgrid else 0
  | 0x804 => if cc || inGrid then BitVec.ofNat 64 t.tblk else 0
  | 0x805 => if cc || inGrid then BitVec.ofNat 64 t.ttid else 0
  | 0x806 => t.tflags
  | 0x807 => t.tmode
  | 0x808 => t.trng
  | 0x809 => t.temu
  | 0x80A => t.delegRead
  | 0x80B => t.tepc
  | 0x80C => t.tcause
  | 0x80D => t.tval
  | 0x80E => if cc then BitVec.ofNat 64 t.tprio else 0
  | _ => if cc && t.tsafe then 1 else 0

end Sys2Proof.Machine
end

