-- ==== Sys2Proof/Machine/Threads.lean ====
section
/-! DEFINITION. Threads in their slots: lanes and slices, group masks, the stack window, and leaving (R191-R217). -/
namespace Sys2Proof.Machine

/-- A block of the package. -/
def Chip.block? (c : Chip) (id : Nat) : Option Block := c.disp.blocks.find? (·.id = id)

/-- Put a block back. -/
def Chip.setBlock (c : Chip) (b : Block) : Chip :=
  { c with disp := { c.disp with blocks := c.disp.blocks.map fun k => if k.id = b.id then b else k } }

/-- The block of a thread. -/
def Chip.blockOf (c : Chip) (t : Thread) : Option Block := t.block.bind c.block?

/-- A live grid by its slot. -/
def Chip.grid? (c : Chip) (slot : Nat) : Option Grid := c.disp.grids.find? (·.slot = slot)

/-- Put a grid back. -/
def Chip.setGrid (c : Chip) (g : Grid) : Chip :=
  { c with disp := { c.disp with grids := c.disp.grids.map fun k => if k.slot = g.slot then g else k } }

/-- A task by its entry. -/
def Chip.task? (c : Chip) (entry : Nat) : Option Task := c.disp.tasks.find? (·.entry = entry)

/-- Put a task back. -/
def Chip.setTask (c : Chip) (k : Task) : Chip :=
  { c with disp := { c.disp with tasks := c.disp.tasks.map fun j => if j.entry = k.entry then k else j } }

/-- Slices of a bar for a thread: by its block's protection mode (R208). -/
def Chip.bars (c : Chip) (t : Thread) : Nat :=
  barSize (match c.blockOf t with | some b => b.detecting | none => false)

/-- The core of a thread on a compute core. -/
def Thread.core (t : Thread) : Nat :=
  match t.place with
  | .slot k _ _ _ => k
  | _ => 0

/-- The mask bit of a thread (R191). -/
def Thread.bit (t : Thread) : Nat :=
  match t.place with
  | .slot _ _ _ b => b
  | _ => 0

/-- Core, quarter and lane of a thread (R191). -/
def Thread.lane3 (t : Thread) : Nat × Nat × Nat :=
  match t.place with
  | .slot k q _ b => (k, q, b % 16)
  | _ => (0, 0, 0)

/-- Whether a thread lies in an issue group. -/
def Thread.inGroup (t : Thread) (core q ig : Nat) : Bool :=
  match t.place with
  | .slot k r i _ => k = core && r = q && i = ig
  | _ => false

/-- The protection mode of a quarter: detecting while a detecting block has an issue group there (R208). -/
def Chip.quarterDetecting (c : Chip) (core q : Nat) : Bool :=
  c.disp.blocks.any fun b => b.detecting && (b.preempt != .saved) && b.igs.any fun i => i.1 = core && i.2.1 = q

/-- Slices of a lane's register file (R208). -/
def Chip.laneSlices (c : Chip) (core q : Nat) : Nat := if c.quarterDetecting core q then 13824 else 12288

/-- The lane whose slices a thread holds: a resident thread's, and until its block retires an ended thread's (R157, R208). -/
def Chip.laneOf (c : Chip) (t : Thread) : Option (Nat × Nat × Nat) :=
  match t.place with
  | .slot k q _ b => some (k, q, b % 16)
  | .ended => match c.blockOf t with
    | some b => if b.preempt = .saved then none else b.igs[t.ttid / 32]?.map fun i => (i.1, i.2.1, t.ttid % 16)
    | none => none
  -- a departure that waits for its arrival ring waits on the compute core (R112)
  | .outbound _ => t.held.map fun h => (h.1, h.2.1, h.2.2.2 % 16)
  | _ => none

/-- Free slices of a lane (R208, R210). -/
def Chip.laneFree (c : Chip) (core q lane : Nat) : Nat :=
  let used := (c.threads.filter fun t => c.laneOf t = some (core, q, lane)).foldl (fun n t => n + (t.tfoot - 16)) 0
  c.laneSlices core q - used

/-- Set a footprint top: slices gained read zero and are clean, even in a poisoned bar, but for the a0 and a1 of a handler; slices lost
lose values, poison and marks (R210, R211, R228, R234). -/
def Thread.setFoot (t : Thread) (v : Nat) : Thread :=
  let keep : BitVec 2048 := BitVec.ofNat 2048 (2 ^ (4 * min v t.tfoot) - 1)
  let marks : BitVec 512 := BitVec.ofNat 512 (2 ^ min v t.tfoot - 1)
  let gained : BitVec 512 := if t.tfoot < v then BitVec.ofNat 512 (2 ^ v - 2 ^ t.tfoot) else 0
  { t with
    tfoot := v, regs := if t.handler && t.tfoot < v then t.regs else t.regs &&& keep, corrupt := t.corrupt &&& marks, flipped := t.flipped &&& marks
    fresh := if t.barPoison = 0 then 0 else (t.fresh &&& marks) ||| gained }

/-- An issue group. -/
def Chip.ig? (c : Chip) (core q ig : Nat) : Option IssueGroup :=
  c.groups.find? fun g => g.core = core && g.qtr = q && g.ig = ig

/-- Change an issue group. -/
def Chip.onIg (c : Chip) (core q ig : Nat) (f : IssueGroup → IssueGroup) : Chip :=
  { c with groups := c.groups.map fun g => if g.core = core && g.qtr = q && g.ig = ig then f g else g }

/-- GMk as a thread sees it; empty in a handler (R199, R228). -/
def Chip.gmOf (c : Chip) (t : Thread) (k : Nat) : BitVec 32 :=
  if t.handler then 0 else
  match t.place with
  | .slot core q ig _ => match c.ig? core q ig with
    | some g => g.gm.getD k 0
    | none => 0
  | _ => 0

/-- Members of GMk in the issue group of a thread, in ascending bit order (R199). -/
def Chip.membersOf (c : Chip) (t : Thread) (k : Nat) : List Thread :=
  match t.place with
  | .slot core q ig _ =>
    let m := c.gmOf t k
    (List.range 32).filterMap fun b => if m.getLsbD b then
      c.threads.find? fun u => u.place = .slot core q ig b else none
  | _ => []

/-- Whether a thread has arrived at a gwait or a collective on GMk (R200, R201). -/
def Thread.arrivedAt (t : Thread) (k : Nat) : Bool :=
  match t.wait with
  | .group j _ => j = k
  | _ => false

/-- Whether a thread has arrived at a gwait on GMk (R200). -/
def Thread.arrivedGwait (t : Thread) (k : Nat) : Bool := t.wait = .group k false

/-- Release from a wait to the next instruction after one of n bytes. -/
def Thread.complete (t : Thread) (n : Nat) : Thread :=
  { t with wait := .ready, converged := false, early := none, pc := t.pc + BitVec.ofNat 64 n, instret := t.instret + 1 }

/-- Test one mask of an issue group after its membership changed (R200, R201): a complete gwait releases its members; a complete
collective is executed next, or its members take cause 26. -/
def Chip.retestMask (c : Chip) (core q ig k : Nat) : Chip :=
  match c.ig? core q ig with
  | none => c
  | some g =>
    let m := g.gm.getD k 0
    let ts := c.threads.filter fun t => t.inGroup core q ig && m.getLsbD t.bit
    if ts.isEmpty || !(ts.all fun t => t.arrivedAt k) then c
    else if ts.all fun t => t.arrivedGwait k then
      ts.foldl (fun c t => c.onThread t.id fun t => t.complete 4) c
    else
      let c := ts.foldl (fun c t => c.onThread t.id fun t => { t with wait := .ready }) c
      { c with ripe := c.ripe ++ [{ members := ts.map (·.id), pc := (ts.headD {}).pc
                                    mixed := ts.any fun t => t.arrivedGwait k || t.pc ≠ (ts.headD {}).pc, mask := k }] }

/-- Test every mask of an issue group (R200, R201). -/
def Chip.retest (c : Chip) (core q ig : Nat) : Chip :=
  (List.range 12).foldl (fun c k => c.retestMask core q ig k) c

/-- A thread leaves every mask (R199, R108): the waiters are tested again (R202). -/
def Chip.leaveMasks (c : Chip) (t : Thread) : Chip :=
  match t.place with
  | .slot core q ig b =>
    (c.onIg core q ig fun g => { g with gm := g.gm.map fun m => m &&& ~~~(1#32 <<< b) }).retest core q ig
  | _ => c

/-- One byte of a store by a thread's core at a physical address: into the L1 for cached main memory, at the home
otherwise (R65, R27); other threads' reservations on the granule are lost (R71). -/
def Chip.corePut (c : Chip) (core thread pa pbmt : Nat) (b : Byte) : Chip :=
  match c.target pa with
  | .main l =>
    let c := c.breakResv l (some thread)
    if pbmt = 0 then c.l1Store core l b
    else ((c.recallLine (l / 64)).homeWrite (l / 64)).putByte l b
  | .onDie l => (c.breakResv l (some thread)).putByte l b
  | _ => c

/-- Write the modified bytes of a window unit through its kept translation, from byte i of n remaining (R216). -/
def Chip.spillBytes (c : Chip) (core thread pa pbmt : Nat) (u : WinUnit) : Nat → Chip
  | 0 => c
  | n + 1 =>
    let i := 63 - n
    let c := if u.modified.getLsbD i then c.corePut core thread (pa + i) pbmt (lineByte u.data i) else c
    c.spillBytes core thread pa pbmt u n

/-- The poison of a spilled unit poisons its granule: in the L1 until every byte is stored clean or the line is written back, else at
the home (R73, R217). -/
def Chip.spillPoison (c : Chip) (core pa pbmt : Nat) : Chip :=
  match c.target pa with
  | .main l =>
    if pbmt ≠ 0 then c.setPoison l
    else match c.l1Line? core (l / 64) with
      | some k => c.setL1 { k with taint := some 0 }
      | none => c
  | .onDie l => c.setPoison l
  | _ => c

/-- Write a window unit to memory (R215, R217); its poison poisons the granule. -/
def Chip.spillUnit (c : Chip) (core thread : Nat) (u : WinUnit) : Chip :=
  match u.kept with
  | none => c
  | some (pa, pbmt) =>
    if u.modified = 0 then c else
    let c := c.spillBytes core thread pa pbmt u 64
    let c := if pbmt = 0 then c else c.notedAt (agentOf core) pa
    if u.poison = 0 then c else c.spillPoison core pa pbmt

/-- Spill the units of [lo, hi) and drop them (R215). -/
def Chip.spillRange (c : Chip) (t : Thread) (lo hi : Nat) : Chip :=
  let inside (u : WinUnit) : Bool := decide (lo ≤ u.base) && decide (u.base < hi)
  let c := (t.win.units.filter inside).foldl (fun c u => c.spillUnit t.core t.id u) c
  c.onThread t.id fun t => { t with win := { t.win with units := t.win.units.filter fun u => !inside u } }

/-- The window after an instruction that wrote any of slices 32-47 (R215). -/
def Chip.windowUpdate (c : Chip) (id : Nat) : Chip :=
  match c.thread? id with
  | none => c
  | some t =>
    if !t.onCompute then c else
    let w := t.win
    let lo := roundDown (readX t.regs 2).toNat 64
    let top := if !w.fixed && w.top < lo then lo else w.top
    let set (c : Chip) (l h : Nat) : Chip := c.onThread id fun t => { t with win := { t.win with lo := l, hi := h, top := top } }
    if lo < w.lo then
      if w.cap < w.hi - lo then set (c.spillRange t (lo + w.cap) w.hi) lo (lo + w.cap)
      else set c lo w.hi
    else if w.hi < lo then set (c.spillRange t w.lo w.hi) lo (max lo (min (lo + w.cap) top))
    else if w.hi < top && w.hi - lo < w.cap then
      let nhi := min (lo + w.cap) top
      let nlo := max w.lo (nhi - w.cap)
      let c := c.onThread id fun t => { t with win := { t.win with units := t.win.units.filter fun u => decide (nlo ≤ u.base) } }
      set c nlo nhi
    else set c w.lo w.hi

/-- Spill the whole window (R108, R228, R361). -/
def Chip.spillWindow (c : Chip) (id : Nat) : Chip :=
  match c.thread? id with
  | none => c
  | some t => if t.onCompute then c.spillRange t t.win.lo t.win.hi else c

/-- Write the modified units of a thread's window, which stay; their kept translations go where asked (R150, R217). -/
def Chip.windowWrite (c : Chip) (id : Nat) (drop : Bool) : Chip :=
  match c.thread? id with
  | none => c
  | some t =>
    let c := t.win.units.foldl (fun c u => c.spillUnit t.core t.id u) c
    let clean (u : WinUnit) : WinUnit := { u with modified := 0, kept := if drop then none else u.kept }
    c.onThread id fun t => { t with win := { t.win with units := t.win.units.map clean } }

/-- An acquire of cluster scope or wider discards the unmodified units (R150). -/
def Chip.windowForget (c : Chip) (id : Nat) : Chip :=
  c.onThread id fun t => { t with win := { t.win with units := t.win.units.filter fun u => u.modified ≠ 0 } }

/-- A release of a scope by a compute-core thread: from cluster scope on, the window and the core's lines are written
(R65, R150); any scope begins an epoch (R139). -/
def Chip.release (c : Chip) (id scope : Nat) : Chip :=
  match c.thread? id with
  | none => c
  | some t =>
    if !t.onCompute then c else
    let c := if 2 ≤ scope then (c.windowWrite id false).writeBackAll t.core else c
    c.newEpoch t.core

/-- An acquire of a scope by a compute-core thread: from cluster scope on, the L1's leases end and the unmodified window
units go (R64, R150). -/
def Chip.acquire (c : Chip) (id scope : Nat) : Chip :=
  match c.thread? id with
  | none => c
  | some t =>
    if t.onCompute && 2 ≤ scope then (c.endLeases t.core).windowForget id else c

/-- The token slots after a restore and after an arrival: no token outstanding, every GEN 0 (R337). A token of before it may name any
fence, so its fenw takes what the widest takes (R144). -/
def noTokens : List Token := List.replicate 4 { ends := true, forgets := true }

/-- Outstanding tokens lose a completed engine operation; an empty token completes (R140). -/
def tokenDone (op : Nat) (k : Token) : Token :=
  let ops := k.ops.filter (· ≠ op)
  { k with ops := ops, live := k.live && !ops.isEmpty }

/-- An engine operation of a thread has completed: its tokens follow (R140). -/
def Chip.opDone (c : Chip) (op : Nat) : Chip :=
  { c with threads := c.threads.map fun t => { t with tokens := t.tokens.map (tokenDone op) } }

/-- Whether every fence token of a thread has completed (R108, R143). -/
def Thread.tokensDone (t : Thread) : Bool := t.tokens.all fun k => !k.live

/-- The physical address of space-1 offset o of a block (R58, R26): its place in the core aperture, split on a twin. -/
def spAddr (c : Chip) (b : Block) (o : Nat) : Nat :=
  let raw := b.spBase + o
  let core := if 327680 ≤ raw then b.core + 1 else b.core
  let off := if 327680 ≤ raw then raw - 327680 else raw
  c.pkg * 2 ^ 51 + 3 * 2 ^ 48 + 2 ^ 29 + (core / 80) * 2 ^ 26 + (core % 80) * 2 ^ 19 + off

/-- Weight-buffer address of a byte of a core (R245). -/
def wbAddr (core off : Nat) : Nat := core * 2 ^ 20 + off
/-- Accumulator address of a byte of a core (R246). -/
def accAddr (core off : Nat) : Nat := core * 2 ^ 18 + off

/-- Start of a block's accumulator region on one of its cores (R154). -/
def Block.accOn (b : Block) (core : Nat) : Nat := if core = b.core then b.accBase else b.accBase2

/-- Start of a block's weight-buffer region on one of its cores (R154). -/
def Block.wbOn (b : Block) (core : Nat) : Nat := if core = b.core then b.wbBase else b.wbBase2

/-- Extent of a block's space 1 (R58, R154). -/
def Block.extent (b : Block) : Nat := roundUp b.spbytes 64 + roundUp (8 * b.nbar) 64

/-- The block that holds member j of a block's cluster group (R156). -/
def Chip.memberBlock (c : Chip) (b : Block) (j : Nat) : Option Block :=
  if b.isTask || 2 ^ b.groupLog ≤ j then none
  else c.disp.blocks.find? fun k => !k.isTask && k.owner = b.owner && k.member = j &&
    k.index / 2 ^ b.groupLog = b.index / 2 ^ b.groupLog && k.preempt != .saved

/-- The die-scratchpad base of a block's grid on its die, and its bytes (R58). -/
def Chip.dieSpOf (c : Chip) (b : Block) : Option (Nat × Nat) :=
  if b.isTask then none else
  match c.grid? b.owner with
  | none => none
  | some g => (g.dieSp.find? fun p => p.1 = b.core / 80).map fun p => (p.2, g.desc.dsbytes)

/-- Physical address of an offset of spaces 1-3 for a block; none outside its extent (R58). -/
def Chip.spaceAddr (c : Chip) (b : Block) (space o : Nat) : Option Nat :=
  match space with
  | 1 => if o < b.extent then some (spAddr c b o) else none
  | 2 =>
    if o / 2 ^ 22 ≠ 0 then none
    else match c.memberBlock b (o / 2 ^ 19) with
      | none => none
      | some m => if o % 2 ^ 19 < m.extent then some (spAddr c m (o % 2 ^ 19)) else none
  | 3 => match c.dieSpOf b with
    | none => none
    | some (base, n) =>
      if o < n then some (c.pkg * 2 ^ 51 + 3 * 2 ^ 48 + (b.core / 80) * 2 ^ 26 + base + o) else none
  | _ => none

/-- Offsets of a member's window of space 2: its extent, at most the 2^19 that bits 18:0 reach (R58). -/
def Chip.memberExtent (c : Chip) (b : Block) (j : Nat) : Nat :=
  if 8 ≤ j then 0 else match c.memberBlock b j with
    | some m => min m.extent (2 ^ 19)
    | none => 0

/-- The lowest offset of n bytes from o outside space 2, through at most a number of members (R58). -/
def Chip.outside2 (c : Chip) (b : Block) : Nat → Nat → Nat → Option Nat
  | 0, o, _ => some o
  | fuel + 1, o, n =>
    let j := o / 2 ^ 19
    let stop := j * 2 ^ 19 + c.memberExtent b j
    if n = 0 then none
    else if stop ≤ o then some o
    else if o + n ≤ stop then none
    else if stop = (j + 1) * 2 ^ 19 then c.outside2 b fuel stop (o + n - stop)
    else some stop

/-- The lowest offset of n bytes from o outside the extent of a space, none for space 0 (R58). -/
def Chip.outside (c : Chip) (b : Option Block) (space o n : Nat) : Option Nat :=
  let upTo (e : Nat) : Option Nat := if o + n ≤ e then none else some (max o e)
  if n = 0 then none else
  match space, b with
  | 0, _ => none
  | _, none => some o
  | 1, some b => upTo b.extent
  | 2, some b => c.outside2 b 9 o n
  | 3, some b => upTo (match c.dieSpOf b with | some d => d.2 | none => 0)
  | _, _ => some o

/-- PBk's space-1 offset (R154). -/
def pbOffset (b : Block) (k : Nat) : Nat := roundUp b.spbytes 64 + 8 * k

end Sys2Proof.Machine
end

