-- ==== Sys2Proof/Machine/Access.lean ====
section
/-! DEFINITION. A thread's access to a byte: the five spaces, the stack window, the L1 and the homes; what stops it
(R27, R58-R66, R73, R96, R214-R217, R329-R331). -/
namespace Sys2Proof.Machine

/-- Why an execution of an instruction has no effect this time. -/
inductive Stop where
  /-- a precise trap: cause and tval (R218) -/
  | trap (cause : Nat) (tval : Nat)
  /-- an access fault at a virtual address; it parks on a compute core (R218) -/
  | access (va : Nat) (acc : Access)
  /-- a translation miss at a virtual address (R97) -/
  | miss (va : Nat) (acc : Access)
  /-- it waits and re-executes -/
  | hold (w : Wait)
  /-- it waits and re-executes, with the record that it has read (R151, R175) -/
  | keep (w : Wait) (record : List Byte)
  /-- a translation miss of its record's bytes, taken as a load of another address takes it (R151, R358) -/
  | recordMiss (va tval : Nat)
  /-- it moves to a compute core first (R104) -/
  | depart
  deriving DecidableEq, Repr, Inhabited

/-- Where a byte lies. -/
inductive ByteLoc where
  | lane (i : Nat)
  | win (a : Nat)
  | phys (p : Phys)
  deriving DecidableEq, Repr, Inhabited

/-- Whether a thread is on a latency core. -/
def Thread.onHart (t : Thread) : Bool :=
  match t.place with
  | .hart _ _ => true
  | _ => false

/-- The latency core at a place. -/
def Chip.hart? (c : Chip) (l k : Nat) : Option Hart := c.harts.find? fun h => h.ldie = l && h.core = k

/-- Put a latency core back. -/
def Chip.setHart (c : Chip) (h : Hart) : Chip :=
  { c with harts := c.harts.map fun k => if k.ldie = h.ldie && k.core = h.core then h else k }

/-- The agent behind which a thread's class Q accesses are made (R69). -/
def Thread.agent (t : Thread) : Agent :=
  match t.place with
  | .hart l _ => .ldie l
  | _ => .cdie (t.core / 80)

/-- The context that a latency core's CSRs hold and a departure captures (R79; notes/assumptions/8). -/
def Hart.ctx (h : Hart) : Ctx :=
  { satp := h.satp, vsatp := if h.virt then h.vsatp else 0, hgatp := if h.virt then h.hgatp else 0, v := h.virt
    mxr := h.mstatus.getLsbD 19, adue := h.menvcfg.getLsbD 61, hadue := h.henvcfg.getLsbD 61 }

/-- What the core's own walks take besides: vsstatus.MXR, for the first stage (R78; notes/assumptions/8). -/
def Hart.walkCtx (h : Hart) : Ctx := { h.ctx with vmxr := h.virt && h.vsstatus.getLsbD 19 }

/-- SUM of the supervisor status in force (R83; notes/assumptions/8). -/
def Hart.sum (h : Hart) : Bool := if h.virt then h.vsstatus.getLsbD 18 else h.mstatus.getLsbD 18

/-- The core's registers and the mode as a data access takes them: with MPRV in M mode those of the mode that MPP and MPV name (R101;
notes/assumptions/8). -/
def Hart.viewOf (h : Hart) (mode : Mode) (acc : Access) : Hart × Mode :=
  if mode ≠ .m || acc == .fetch || !h.mstatus.getLsbD 17 then (h, mode)
  else match (h.mstatus.extractLsb' 11 2).toNat with
    | 0 => ({ h with virt := h.mstatus.getLsbD 39 }, .u)
    | 1 => ({ h with virt := h.mstatus.getLsbD 39 }, .s)
    | _ => (h, .m)

/-- The mode of a thread's data access (R101). -/
def Chip.modeOf (c : Chip) (t : Thread) (acc : Access) : Mode :=
  match t.place with
  | .hart l k => (((c.hart? l k).getD {}).viewOf t.mode acc).2
  | _ => t.mode

/-- The context of a thread where it runs, as a departure captures it (R79). -/
def Chip.ctxOf (c : Chip) (t : Thread) : Ctx :=
  match t.place with
  | .hart l k => match c.hart? l k with
    | some h => h.ctx
    | none => t.ctx
  | _ => t.ctx

/-- The context in which a thread's own accesses are translated (R78, R79). -/
def Chip.walkCtxOf (c : Chip) (t : Thread) : Ctx :=
  match t.place with
  | .hart l k => match c.hart? l k with
    | some h => (h.viewOf t.mode .load).1.walkCtx
    | none => t.ctx
  | _ => t.ctx

/-- Translation of a thread's own access; none is a miss (R83, R84). -/
def Chip.xlate (c : Chip) (t : Thread) (va : Nat) (acc : Access) : Option Phys :=
  match t.place with
  | .slot core _ _ _ => c.lookup [.core core, .die (core / 80)] t.ctx t.mode true va acc
  | .hart l k =>
    let v := ((c.hart? l k).getD {}).viewOf t.mode acc
    let x := v.1.walkCtx
    -- M mode, and a bare satp, use physical addresses
    if v.2 = .m || (bits 63 60 (if x.v then x.vsatp.toNat else x.satp.toNat) = 0 && !x.v) then some ⟨va, 0, 0⟩
    else c.lookup [.hart l k] x v.2 v.1.sum va acc
  | _ => none

/-- The management firmware runs on latency core 47 of L-die 0 (R43). -/
def Thread.isMgmt (t : Thread) : Bool := t.place = .hart 0 47

/-- What a physical address names for a thread (R23, R43). -/
def Chip.targetOf (c : Chip) (t : Thread) (pa : Nat) : Target := if t.isMgmt then c.mgmtTarget pa else c.target pa

/-- Whether a thread may reach a physical address: the apertures of region 3 and the registers of region 4 take S or M
mode; the PCIe part of region 5 takes any (R26, R27, R100). -/
def Chip.reaches (c : Chip) (t : Thread) (pa : Nat) : Bool :=
  match c.targetOf t pa with
  | .main _ => true
  | .onDie _ => c.modeOf t .load != .u
  | .io => c.modeOf t .load != .u || bits 50 48 pa = 5
  | .fault => false

/-- The window unit that holds an address (R215). -/
def Window.unit? (w : Window) (a : Nat) : Option WinUnit := w.units.find? fun u => u.base = roundDown a 64

/-- Whether a space-0 address lies in the stack window of a thread (R216). -/
def Thread.inWindow (t : Thread) (a : Nat) : Bool :=
  t.onCompute && decide (t.win.lo ≤ a) && decide (a < t.win.hi)

/-- Whether a thread's own L1 serves a byte, without a request to the home (R63, R65). -/
def Chip.l1Has (c : Chip) (t : Thread) (p : Phys) (loc : Nat) : Bool :=
  t.onCompute && p.pbmt = 0 && match c.l1Line? t.core (loc / 64) with
    | some l => l.dirty.getLsbD (loc % 64) || decide (c.tick < l.leaseEnd)
    | none => false

/-- What a thread's request to a line of main memory waits for (R35, R75, R76): its L1 serves a load that hits, and takes every store
of a cached page; a store that goes to the home may be refused. -/
def Chip.lineStop (c : Chip) (t : Thread) (p : Phys) (l : Nat) (acc : Access) : Option Stop :=
  let line := l / 64
  if acc == .store && t.onCompute && p.pbmt = 0 then none
  else if (c.lineHeldFor t.id line (acc != .store) || c.recallWaits line) && !(acc == .load && c.l1Has t p l) then
    some (.hold (.homePark line))
  else if acc == .store && c.refuses (c.homeOf l) then some (.hold .queueFull)
  else none

/-- A space-0 translation that an access needs (R329); one whose request waits at its home waits with it (R35, R75, R76). -/
def Chip.need (c : Chip) (t : Thread) (va : Nat) (acc : Access) : Stop ⊕ Phys :=
  match c.xlate t va acc with
  | none => .inl (.miss va acc)
  | some p =>
    if !c.reaches t p.pa then .inl (.access va acc)
    else match c.targetOf t p.pa with
      | .main l => (match c.lineStop t p l acc with | some s => .inl s | none => .inr p)
      | _ => if c.cutOff (bits 55 51 p.pa) then .inl (.hold (.homePark (p.pa / 64))) else .inr p

/-- Where byte a of an access lies, or what stops it; off is the offset of the whole access (R58, R59, R216). -/
def Chip.locate (c : Chip) (t : Thread) (space off a : Nat) (acc : Access) : Stop ⊕ ByteLoc :=
  if space = 0 then
    if t.inWindow a then
      let u := t.win.unit? a
      match acc with
      | .store =>
        -- the first store to a unit is checked as a store (R216)
        if (u.bind (·.kept)).isSome then .inr (.win a)
        else (match c.need t a .store with | .inl s => .inl s | .inr _ => .inr (.win a))
      | _ =>
        if (match u with | some u => u.valid.getLsbD (a % 64) | none => false) then .inr (.win a)
        else (match c.need t a .load with | .inl s => .inl s | .inr _ => .inr (.win a))
    else match c.need t a acc with
      | .inl s => .inl s
      | .inr p => .inr (.phys p)
  -- a thread of a task counts as a grid thread here (notes/assumptions/125)
  else if t.onHart then (if t.block.isSome then .inl .depart else .inl (.trap 25 off))
  else match c.blockOf t with
    | none => .inl (.trap 25 off)
    | some b =>
      if space = 4 then (if a < t.lsbytes then .inr (.lane a) else .inl (.trap 25 off))
      else match c.spaceAddr b space a with
        | some pa => .inr (.phys ⟨pa, 0, 0⟩)
        | none => .inl (.trap 25 off)

/-- The addresses of an access of n bytes: off + j modulo 2^64 (R329). -/
def accessAddrs (space off n : Nat) : List Nat :=
  (List.range n).map fun j => if space = 0 then (off + j) % 2 ^ 64 else off + j

/-- Whether an access of n bytes at an offset may reach I/O at a physical address: aligned and at most 8 bytes (R27); of region 4 a
listed register as an aligned dword (R57, R100, R123). The manual does not say what a narrower access of a management register
does: an access fault (notes/assumptions/143). -/
def ioFits (off n pa : Nat) : Bool :=
  decide (off % n = 0) && decide (n ≤ 8) && (bits 50 48 pa != 4 || (n = 8 && regListed (regOff pa)))

/-- What stops an access, at its lowest byte (R60, R219); one that reaches I/O, at its lowest byte there (R27). -/
def Chip.accessStop (c : Chip) (t : Thread) (space off n : Nat) (acc : Access) : Option Stop :=
  let bad := (accessAddrs space off n).findSome? fun a =>
    match c.locate t space off a acc with
    | .inl s => some s
    | .inr _ => none
  match bad with
  | some s => some s
  | none => (accessAddrs space off n).findSome? fun a => match c.locate t space off a acc with
    | .inr (.phys p) => if c.targetOf t p.pa = .io && !ioFits off n p.pa then some (.access a acc) else none
    | _ => none

/-- The I/O that an access at an offset reaches (R27, R57). -/
def Chip.ioAt (c : Chip) (t : Thread) (space off : Nat) (acc : Access) : Option Nat :=
  if space ≠ 0 then none
  else match c.locate t 0 off off acc with
    | .inr (.phys p) => if c.targetOf t p.pa = .io then some p.pa else none
    | _ => none

/-- Lease class of a translation at a fill (R82). -/
def Chip.leaseClass (c : Chip) (p : Phys) : Nat := if c.xl.leasersw then p.rsw else 0

/-- A byte of main memory or an aperture as a core reads it: value, poison (R27, R64, R73). -/
def Chip.coreGet (c : Chip) (t : Thread) (p : Phys) : Byte × Bool × Chip :=
  match c.targetOf t p.pa with
  | .main l =>
    let served (c : Chip) : Byte × Bool × Chip := let c := c.ecc l; (c.getByte l, c.poisonedAt l, c)
    match t.place with
    | .slot core _ _ _ =>
      if p.pbmt = 0 then c.l1Serve core (l / 64) (l % 64) (c.leaseClass p)
      else served ((c.recallLine (l / 64)).homeRead (l / 64))
    | .hart ld _ => served (if p.pbmt = 0 then c.dirRead (.ldie ld) (l / 64) else (c.recallLine (l / 64)).homeRead (l / 64))
    | _ => served c
  | .onDie l => (c.getByte l, c.poisonedAt l, c)
  -- a device answers with a byte that the model leaves free (notes/assumptions/118)
  | .io => (Config.freeByte c.free, false, { c with free := c.free + 1 })
  | .fault => (0, false, c)

/-- A byte written by a thread at a physical address (R65, R67). -/
def Chip.threadPut (c : Chip) (t : Thread) (p : Phys) (b : Byte) : Chip :=
  match t.place with
  | .slot core _ _ _ => c.corePut core t.id p.pa p.pbmt b
  | .hart ld _ =>
    match c.targetOf t p.pa with
    | .main l =>
      let c := c.recallLine (l / 64)
      let c :=
        if p.pbmt ≠ 0 then c.homeWrite (l / 64)
        else if c.ownsLine (.ldie ld) (l / 64) then c.dirWrite (.ldie ld) (l / 64)
        else (c.dirWrite (.ldie ld) (l / 64)).noted (.ldie ld) (c.homeOf l) 0 false
      (c.breakResv l (some t.id)).putByte l b
    | .onDie l => (c.breakResv l (some t.id)).putByte l b
    | _ => c
  | _ => c

/-- Fill the invalid bytes of a window unit from memory, byte i of n remaining (R216). -/
def Chip.fillBytes (c : Chip) (t : Thread) (p : Phys) (u : WinUnit) : Nat → WinUnit × Chip
  | 0 => (u, c)
  | n + 1 =>
    let i := 63 - n
    if u.valid.getLsbD i then c.fillBytes t p u n
    else
      let r := c.coreGet t { p with pa := roundDown p.pa 64 + i }
      let u := { u with
        data := lineSet u.data i r.1, valid := u.valid ||| (1#64 <<< i)
        poison := if r.2.1 then u.poison ||| (1#8 <<< (i / 8)) else u.poison }
      r.2.2.fillBytes t p u n

/-- Put back a window unit of a thread, in rising order. -/
def Chip.setWinUnit (c : Chip) (id : Nat) (u : WinUnit) : Chip :=
  c.onThread id fun t =>
    let lo := t.win.units.filter fun k => k.base < u.base
    let hi := t.win.units.filter fun k => u.base < k.base
    { t with win := { t.win with units := lo ++ [u] ++ hi } }

/-- Whether the granule of an address of the unit carries poison (R73). -/
def WinUnit.poisonAt (u : WinUnit) (a : Nat) : Bool := u.poison.getLsbD (a % 64 / 8)

/-- A clean store of n bytes at an address clears the poison of each granule of the unit that it covers whole (R73). -/
def WinUnit.cleansed (u : WinUnit) (off n : Nat) : WinUnit :=
  { u with poison := (List.range 8).foldl (fun p g =>
      if off ≤ u.base + 8 * g && u.base + 8 * g + 8 ≤ off + n then p &&& ~~~(1#8 <<< g) else p) u.poison }

/-- Read one located byte: value, poison. -/
def Chip.readByte (c : Chip) (t : Thread) (l : ByteLoc) : Byte × Bool × Chip :=
  match l with
  | .lane i => (cellGet t.lane i, t.lanePoison.contains (roundDown i 8), c)
  | .phys p => c.coreGet t p
  | .win a =>
    let u := (t.win.unit? a).getD { base := roundDown a 64 }
    if u.valid.getLsbD (a % 64) then (lineByte u.data (a % 64), u.poisonAt a, c)
    else match c.xlate t a .load with
      | none => (0, false, c)
      | some p =>
        let r := c.fillBytes t p u 64
        let c := r.2.setWinUnit t.id r.1
        (lineByte r.1.data (a % 64), r.1.poisonAt a, c)

/-- Write one located byte. -/
def Chip.writeByte (c : Chip) (t : Thread) (l : ByteLoc) (b : Byte) : Chip :=
  match l with
  | .lane i => c.onThread t.id fun t => { t with lane := cellSet t.lane i b }
  | .phys p => c.threadPut t p b
  | .win a =>
    let u := (t.win.unit? a).getD { base := roundDown a 64 }
    let kept := match u.kept with
      | some k => some k
      | none => (c.xlate t a .store).map fun p => (roundDown p.pa 64, p.pbmt)
    let i := a % 64
    c.setWinUnit t.id { u with
      data := lineSet u.data i b, valid := u.valid ||| (1#64 <<< i), modified := u.modified ||| (1#64 <<< i), kept := kept }

/-- Read the bytes of an access in ascending order: values, least significant first, and whether any is poisoned. -/
def Chip.readBytes (c : Chip) (id space off : Nat) : List Nat → List Byte × Bool × Chip
  | [] => ([], false, c)
  | a :: r =>
    match c.thread? id with
    | none => ([], false, c)
    | some t =>
      match c.locate t space off a .load with
      | .inl _ => ([], false, c)
      | .inr l =>
        let x := c.readByte t l
        let y := x.2.2.readBytes id space off r
        (x.1 :: y.1, x.2.1 || y.2.1, y.2.2)

/-- Write the bytes of an access in ascending order. -/
def Chip.writeBytes (c : Chip) (id space off : Nat) : List (Nat × Byte) → Chip
  | [] => c
  | (a, b) :: r =>
    match c.thread? id with
    | none => c
    | some t =>
      match c.locate t space off a .store with
      | .inl _ => c
      | .inr l => (c.writeByte t l b).writeBytes id space off r

/-- A load of n bytes by a thread: value and poison (R331). -/
def Chip.loadN (c : Chip) (id space off n : Nat) : Nat × Bool × Chip :=
  let r := c.readBytes id space off (accessAddrs space off n)
  (numOf r.1, r.2.1, r.2.2)

/-- Granules that a clean store covers whole lose their poison: 8 bytes in a lane store or core scratchpad, 64 in a die
scratchpad; in the stack window those of the lane store (R73). -/
def Chip.storeCleanse (c : Chip) (id space off n : Nat) : Chip :=
  match c.thread? id with
  | none => c
  | some t =>
    if space = 4 then
      c.onThread id fun t => { t with lanePoison := t.lanePoison.filter fun g => !(decide (off ≤ g) && decide (g + 8 ≤ off + n)) }
    else match c.locate t space off off .store with
      | .inr (.phys p) =>
        let n := if space = 0 then min n (4096 - p.pa % 4096) else n
        match c.targetOf t p.pa with
        | .onDie l => c.cleanse l n
        -- past the L1, at the home, where it leaves a record (R27, R75)
        | .main l =>
          let c := if t.onHart || p.pbmt ≠ 0 then c.cleanse l n else c
          if p.pbmt ≠ 0 then c.noted t.agent (c.homeOf l) 0 false else c
        | _ => c
      | .inr (.win _) => match t.win.unit? off with
        | some u => c.setWinUnit id (u.cleansed off n)
        | none => c
      | _ => c

/-- A store of n bytes by a thread (R331). -/
def Chip.storeN (c : Chip) (id space off n v : Nat) : Chip :=
  (c.writeBytes id space off ((accessAddrs space off n).zip (bytesOf v n))).storeCleanse id space off n

/-- Whether a byte is resident for ldnf and pf, with the translation a nonfaulting walk installs (R96, R332); or the wait at a
home that it needs first (R76). A byte of I/O is where the access fits there (R27). -/
def Chip.resident (c : Chip) (t : Thread) (space : Nat) (fits : Nat → Bool) (a : Nat) : (Wait ⊕ Bool) × Chip :=
  let seen (c : Chip) : (Wait ⊕ Bool) × Chip := match c.locate t space a a .load with
    | .inr (.phys p) => (.inr (c.targetOf t p.pa != .io || fits p.pa), c)
    | .inr _ => (.inr true, c)
    | .inl (.hold w) => (.inl w, c)
    | .inl _ => (.inr false, c)
  match c.locate t space a a .load with
  | .inl (.miss _ _) =>
    let x := c.walkCtxOf t
    let (unit, level) := match t.place with
      | .hart l k => (8 + l, TlbLevel.hart l k)
      | _ => (t.core / 80, TlbLevel.core t.core)
    let sum := match t.place with
      | .hart l k => (((c.hart? l k).getD {}).viewOf t.mode .load).1.sum
      | _ => true
    match c.walk ⟨unit, x, c.modeOf t .load, sum, .load, true, a, t.isMgmt⟩ level a with
    | (.inr f, c) => (if f.cause = 0 then .inl (.homePark f.gpa) else .inr false, c)
    | (.inl e, c) => seen (c.install e)
  -- a valid window byte needs no translation (R216)
  | _ => seen c

/-- A promoted acquire recalls the core that owns a line of the access, before the read (R66, R138). -/
def Chip.promote (c : Chip) (t : Thread) (space off n : Nat) : Chip :=
  if space ≠ 0 then c else
  (accessAddrs 0 off n).foldl (fun c a =>
    match c.locate t 0 off a .load with
    | .inr (.phys p) => match c.targetOf t p.pa with
      | .main l =>
        let owners := (c.mem.l1.filter fun k => k.line = l / 64 && k.dirty ≠ 0).map (·.core)
        owners.foldl (fun c k => c.writeBackAll k) c
      | _ => c
    | _ => c) c

/-- A recall for a promoted acquire waits while a line that it writes back cannot be written (R66, R76). -/
def Chip.promoteStop (c : Chip) (t : Thread) (space off n : Nat) : Option Stop :=
  if space ≠ 0 || c.homesQuiet then none else
  (accessAddrs 0 off n).findSome? fun a =>
    match c.locate t 0 off a .load with
    | .inr (.phys p) => match c.targetOf t p.pa with
      | .main l => ((c.mem.l1.filter fun k => k.line = l / 64 && k.dirty ≠ 0).findSome? fun k => c.stuckLine k.core).map
          fun line => .hold (.drain line)
      | _ => none
    | _ => none

/-- A release waits while a line that it writes back cannot be written: from cluster scope on, and before engine accesses (R65, R76,
R150, R217). -/
def Chip.releaseStop (c : Chip) (t : Thread) (scope : Nat) (engine : Bool) : Option Stop :=
  if c.homesQuiet || !t.onCompute || !(2 ≤ scope || engine) then none
  else ((c.windowWrite t.id engine).stuckLine t.core).map fun line => .hold (.drain line)

/-- Ask the L2 for the lines of an access again: an acquire of cluster scope or wider and a promoted acquire are not
served under an old lease (R64, R138). -/
def Chip.unlease (c : Chip) (t : Thread) (space off n : Nat) : Chip :=
  if space ≠ 0 || !t.onCompute then c else
  (accessAddrs 0 off n).foldl (fun c a =>
    match c.locate t 0 off a .load with
    | .inr (.phys p) => match c.targetOf t p.pa with
      | .main l => match c.l1Line? t.core (l / 64) with
        | some k => c.setL1 { k with leaseEnd := 0 }
        | none => c
      | _ => c
    | _ => c) c

end Sys2Proof.Machine
end

