-- ==== Sys2Proof/Machine/Settle.lean ====
section
/-! DEFINITION. How threads, blocks, grids and tasks end: retirement, cancellation, abort, settlement, jobs (R157,
R164-R182, R190, R410). -/
namespace Sys2Proof.Machine

/-- Address of a job record (R172). -/
def Chip.jobAddr (c : Chip) (j : Nat) : Nat := c.dev.jobbase.toNat + 64 * j

/-- Whether an address lies in regions 0-2 of this package (R172, R173). -/
def Chip.ownMemory (c : Chip) (a n : Nat) : Bool :=
  decide (bits 63 56 a = 0) && decide (bits 55 51 a = c.pkg) && decide (bits 50 48 a ≤ 2) && c.entryClean a n

/-- A dword or smaller field read by a device unit at a physical address. -/
def Chip.devRead (c : Chip) (a n : Nat) : Nat := (c.agentLoad (.cdie 0) a n).1

/-- A field written by a device unit at a physical address. -/
def Chip.devWrite (c : Chip) (a n v : Nat) : Chip := c.agentStore (.cdie 0) a (bytesOf v n)

/-- Whether a job number is within its limits (R173). -/
def Chip.jobOk (c : Chip) (j : Nat) : Bool :=
  let size := min c.dev.jobsize.toNat 16
  decide (j < 2 ^ size) && c.ownMemory (c.jobAddr j) 64 && c.devRead (c.jobAddr j + 10) 1 % 4 = 1

/-- Add to a job's outstanding count; one MSI when it becomes zero (R174). -/
def Chip.jobCount (c : Chip) (j : Nat) (up : Bool) : Chip :=
  if !c.ownMemory (c.jobAddr j) 64 then c else
  let a := c.jobAddr j + 32
  let v := c.devRead a 8
  let n := if up then (v + 1) % 2 ^ 64 else (v + 2 ^ 64 - 1) % 2 ^ 64
  let c := c.devWrite a 8 n
  if n = 0 && !up then
    c.sendMsi (BitVec.ofNat 64 (c.devRead (c.jobAddr j + 48) 8)) (BitVec.ofNat 32 (c.devRead (c.jobAddr j + 12) 4))
  else c

/-- The lowest-numbered C-die that is not fenced (R410). -/
def Chip.firstDie (c : Chip) : Nat := ((List.range 8).find? fun d => !c.ras.dies.getLsbD d).getD 0

/-- A handle (R153, R177). -/
def handleOf (pkg slot gen : Nat) (task : Bool) : Word := BitVec.ofNat 64 (flag task * 2 ^ 37 + pkg * 2 ^ 32 + slot * 2 ^ 16 + gen)

/-- Whether a grid is headed by another package (R158). -/
def Grid.remote (g : Grid) : Bool := decide (65536 ≤ g.slot)

/-- The package that heads a grid (R153, R158). -/
def Chip.headOf (c : Chip) (g : Grid) : Nat := if g.remote then g.slot / 65536 - 1 else c.pkg

/-- The handle of a grid (R153). -/
def Chip.gridHandle (c : Chip) (g : Grid) : Word := handleOf (c.headOf g) (g.slot % 65536) g.gen false

/-- Packages that a grid names (R151). -/
def Descriptor.named (d : Descriptor) (pkg : Nat) : List Nat :=
  if d.pkgmask = 0 then [pkg] else (List.range 32).filter d.pkgmask.testBit

/-- The other packages that a grid names. -/
def Chip.partners (c : Chip) (g : Grid) : List Nat := (g.desc.named (c.headOf g)).filter (· ≠ c.pkg)

/-- A message to another package (R30). -/
def Chip.post (c : Chip) (dest : Nat) (b : PodBody) : Chip :=
  { c with outbox := c.outbox ++ [{ source := c.pkg, dest := dest, hop := 0, ident := 0, cls := 0, body := b }] }

/-- A message about a grid to every other package that it names (R158). -/
def Chip.tellOthers (c : Chip) (g : Grid) (b : Nat → PodBody) : Chip :=
  (c.partners g).foldl (fun c p => c.post p (b (c.gridHandle g).toNat)) c

/-- A message about a grid to the package that heads it. -/
def Chip.tellHead (c : Chip) (g : Grid) (b : Nat → PodBody) : Chip := c.post (c.headOf g) (b (c.gridHandle g).toNat)

/-- Bytes written at a virtual address by the head or the table, through a captured context: all translated first, so a
fault writes nothing (R410). -/
def Chip.headStore (c : Chip) (x : Ctx) (va : Nat) (bs : List Byte) : (Unit ⊕ (Nat × WalkFault)) × Chip :=
  let core := 80 * c.firstDie
  let chunks := (List.range ((bs.length + 7) / 8)).map fun i => va + 8 * i
  let tr := chunks.foldl (fun (r : (List Nat ⊕ (Nat × WalkFault)) × Chip) a =>
    match r with
    | (.inr f, c) => (.inr f, c)
    | (.inl ps, c) =>
      match c.engineTranslate core x .u a .store with
      | (.inl p, c) => match c.target p.pa with
        | .main _ => (match c.heldLine p.pa 8 .store with
          | some line => (.inr (a, ⟨0, line, 0⟩), c.parkUnit (.cdie c.firstDie) line)
          | none => (.inl (ps ++ [p.pa]), c))
        | _ => (.inr (a, ⟨7, 0, 0⟩), c)
      | (.inr f, c) => (.inr (a, f), c)) (.inl [], c)
  match tr with
  | (.inr f, c) => (.inr f, c)
  | (.inl ps, c) =>
    (.inl (), (ps.zip (List.range ps.length)).foldl (fun c p =>
      c.agentStore (.cdie c.firstDie) p.1 ((bs.drop (8 * p.2)).take 8)) c)

/-- Park a write of the head or the table on a fault record: bit 31 of the locator and the slot or entry (R98, R410). With
4,096 records outstanding it waits for one as record 65,536; one that waits at a home waits so too (R76). -/
def Chip.parkHead (c : Chip) (x : Ctx) (f : Nat × WalkFault) (num : Nat) (w : HeadWrite) : HeadWrite × Chip :=
  let u := c.firstDie
  let before := if f.2.cause = 0 then 4096 else (c.unit u).records.length
  let r := if f.2.cause = 0 then (false, c) else c.park u x f.1 f.2.gpa f.2.cause f.2.flags .store none (2 ^ 31 + num)
  let n := if before < 4096 then (((r.2.unit u).records.getLast?).map (·.number)).getD 65536 else 65536
  match w with
  | .statusParked _ _ => (.statusParked u n, r.2)
  | _ => (.wordParked u n, r.2)

/-- The die whose engine serves a header: the units of R100, or 16 + p for package p (R186, R188). -/
def Chip.engineOf (c : Chip) (pa : Nat) : Nat :=
  match c.target pa with
  | .main l => match c.homeOf l with
    | .cdie d => d
    | .ldie l => 8 + l
    | .pkg p => 16 + p
    | .cxl l => 8 + l
  | _ => 0

/-- Withdraw some ring requests (R365); the package that homes the ring hears of one that has left for it. -/
def Chip.withdraw (c : Chip) (which : RingReq → Bool) : Chip :=
  let hit := c.disp.ringReqs.filter fun r => which r && !r.withdrawn
  let mark (r : RingReq) : RingReq := if which r then { r with withdrawn := true } else r
  let c := { c with disp := { c.disp with ringReqs := c.disp.ringReqs.map mark } }
  (hit.filter (·.sent)).foldl (fun c r => c.post (c.engineOf r.header - 16) (.ringGone r.id)) c

/-- Withdraw a thread's ring request, leave its batch, its record and its reservation (R99, R168, R365): the engine meets the
withdrawal behind the request itself, and one for which another thread waits too goes on. -/
def Chip.detach (c : Chip) (id : Nat) : Chip :=
  let c := (c.unpark id).dropResv id
  let waits (p : Nat → Bool) (r : RingReq) : Bool := c.threads.any fun t => p t.id && t.wait = .ring r.id
  let alone (r : RingReq) : Bool := waits (· = id) r && !waits (· ≠ id) r
  let c := c.withdraw alone
  { c with eng := { c.eng with batches := c.eng.batches.map fun b => { b with members := b.members.filter (· ≠ id) } } }

/-- Whether a block's engine work has completed (R157, R361). -/
def Chip.quiet (c : Chip) (b : Nat) : Bool :=
  !(c.eng.copies.any fun k => k.block = some b) && !(c.eng.mats.any fun m => m.block = some b)

/-- A thread of a block. -/
def Thread.ofBlock (t : Thread) (b : Nat) : Bool := t.block = some b

/-- Whether a thread of a block is away, or on its way (R107, R109). -/
def Thread.away (t : Thread) : Bool :=
  match t.place with
  | .os => true
  | .inbound => true
  | .outbound _ => true
  | _ => false

/-- Remove a block and its ended threads, with its issue groups (R157); a task's thread that is away still belongs to it until it
ends (R182). -/
def Chip.dropBlock (c : Chip) (b : Block) : Chip :=
  let mine (g : IssueGroup) : Bool := b.igs.any fun i => i.1 = g.core && i.2.1 = g.qtr && i.2.2 = g.ig
  { c with
    threads := c.threads.filter fun t => !t.ofBlock b.id || (b.isTask && t.away)
    groups := if b.preempt = .saved then c.groups else c.groups.filter fun g => !mine g
    eng := { c.eng with
      copies := c.eng.copies.filter fun k => k.block ≠ some b.id
      mats := c.eng.mats.filter fun m => m.block ≠ some b.id }
    disp := { c.disp with blocks := c.disp.blocks.filter fun k => k.id ≠ b.id } }

/-- Outcome of a retired block: 1 faulted, 2 cancelled, else 0 completed; faulted wins (R167). -/
def Block.outcome (b : Block) : Nat := if b.faulted then 1 else if b.cancelled then 2 else 0

/-- The cores of a block (R154). -/
def Block.cores (b : Block) : List Nat := if b.twin then [b.core, b.core + 1] else [b.core]

/-- A block whose task has left the table (R180, R182): its owner is no entry. -/
def Block.orphan (b : Block) : Bool := b.isTask && decide (65536 ≤ b.owner)

/-- A gang grid that this package heads re-enters the sluice, in its old place there (notes/assumptions/147), once each of its blocks
here is saved or has retired: the others' answers are asked for anew (R163). -/
def Chip.gangSaved (c : Chip) (slot : Nat) : Chip :=
  match c.grid? slot with
  | none => c
  | some g =>
    let left := c.disp.blocks.any fun b => !b.isTask && b.owner = slot && b.preempt ≠ .saved
    if !g.evicted || g.remote || g.gated || left then c
    else (c.setGrid { g with gated := true, evicted := false, gateSince := c.tick, retryAt := 0, answers := [] }).tellOthers g .commit

/-- Retire a grid block when every thread has ended and its engine work is done: lines written back, resources freed, the
outcome kept for the head (R157, R165). A task's block waits for its completion step (R180), but for one of a task that was
aborted: its threads that are away hold none of its resources (R169, R182). -/
def Chip.retireCheck (c : Chip) (bid : Nat) : Chip :=
  match c.block? bid with
  | none => c
  | some b =>
    let allOver := (c.threads.filter (·.ofBlock bid)).all fun t => t.place = .ended || (b.orphan && t.away)
    if (b.isTask && !b.orphan) || !allOver || !c.quiet bid || b.preempt = .saved || !c.homesTake b.cores then c
    else
      let c := b.cores.foldl (fun c k => c.writeBackAll k) c
      let c := match (if b.isTask then none else c.grid? b.owner) with
        | some g => c.setGrid { g with unreported := g.unreported ++ [(b.index, b.outcome)] }
        | none => c
      let c := c.dropBlock b
      if b.isTask then c else c.gangSaved b.owner

/-- End a thread where it stands: it leaves its masks, records, batch and ring, and its block may retire (R157). -/
def Chip.endThread (c : Chip) (id : Nat) : Chip :=
  match c.thread? id with
  | none => c
  | some t =>
    let c := (c.leaveMasks t).detach id
    let c := c.onThread id fun t => { t with place := .ended, held := none, wait := .ready, called := false, record := [] }
    match t.block with
    | some b => c.retireCheck b
    | none => c

/-- A wait that a hard cancellation or an abort ends at once (R168, R182, R366). -/
def Wait.endsOnCancel : Wait → Bool
  | .group _ _ => true
  | .barrier _ _ _ => true
  | .tile _ _ => true
  | .token _ => true
  | .ring _ => true
  | .slices _ => true
  | .parked _ _ => true
  | .safePark => true
  | .moving _ _ _ _ => true
  | .places => true
  | .spilledCall _ => true
  | .tableEntry => true
  | .queueAt _ _ => true
  | _ => false

/-- A thread of a cancelled block that is away: marked cancelled, its slot released (R169). A task's still counts for the versions
of its regions (R182). -/
def Thread.releaseAway (t : Thread) (isTask : Bool) : Thread :=
  { t with cancelled := true, held := none, block := if isTask then t.block else none }

/-- Cancel the threads of a block: tsafe reads 1, waiting threads end, away threads are released (R168, R169, R182). -/
def Chip.cancelThreads (c : Chip) (bid : Nat) : Chip :=
  let ids := (c.threads.filter (·.ofBlock bid)).map (·.id)
  let isTask := (c.block? bid).any (·.isTask)
  let step (c : Chip) (id : Nat) : Chip :=
    match c.thread? id with
    | none => c
    | some t =>
      match t.place with
      | .slot _ _ _ _ =>
        let c := c.onThread id fun t => { t with cancelled := true, cancelSince := c.tick, reqPending := false }
        if t.wait.endsOnCancel || t.handler then c.endThread id else c
      | .ended => c
      | .saved => c.onThread id fun t => { t with place := .ended }
      | _ => c.onThread id fun t => t.releaseAway isTask
  (ids.foldl step c).retireCheck bid

/-- The versions that a task was to write stay in use while a block of it, or a thread away from it, runs (R182). -/
def Chip.linger (c : Chip) (k : Task) (b : Block) : Chip :=
  let kept := (k.regions.filter fun r => r.isWrite && r.renamable).filterMap fun r => r.bound.map fun v => (b.id, r.base, v)
  { c with disp := { c.disp with lingering := c.disp.lingering ++ kept } }

/-- Hard cancellation reaches a block: a request is overridden, a saved block is discarded (R168, R225). -/
def Chip.cancelBlock (c : Chip) (bid : Nat) : Chip :=
  match c.block? bid with
  | none => c
  | some b =>
    if b.preempt = .saved then
      let c := match (if b.isTask then none else c.grid? b.owner) with
        | some g => c.setGrid { g with unreported := g.unreported ++ [(b.index, if b.faulted then 1 else 2)] }
        | none => c
      let c := match (if b.isTask then c.task? b.owner else none) with
        | some k => c.linger k b
        | none => c
      let gone (t : Thread) : Thread := if t.ofBlock bid && t.away then t.releaseAway b.isTask else t
      ({ c with threads := c.threads.map gone } : Chip).dropBlock b
    else
      let c := c.setBlock { b with cancelled := true, preempt := .none, heldRequest := false }
      c.cancelThreads bid

/-- Indices of a grid that this package has not dealt; all of them before the head has cut its ranges (R158, R168). -/
def Grid.undealt (g : Grid) : Nat :=
  if !g.cut then (if g.remote then 0 else g.desc.nblk)
  else g.dieRanges.foldl (fun n r => n + (r.hi - r.lo)) 0

/-- Blocks whose places are held for a commit are given up (R162). -/
def Chip.dropHeld (c : Chip) (slot : Nat) : Chip :=
  let held (b : Block) : Bool := !b.isTask && b.owner = slot && c.threads.any fun t => t.ofBlock b.id && t.wait = .places
  let c := (c.disp.blocks.filter held).foldl (fun c b => c.dropBlock { b with preempt := .none }) c
  match c.grid? slot with
  | some g => c.setGrid { g with holds := false, starting := false }
  | none => c

/-- Whether a block of a grid is saved here. -/
def Chip.hasSaved (c : Chip) (slot : Nat) : Bool := c.disp.blocks.any fun b => !b.isTask && b.owner = slot && b.preempt = .saved

/-- Stop dealing a grid in this package: its undealt blocks count as never started, which another package reports to the head; the
sluice keeps a gang grid whose saved blocks are still to be restored (R163, R168). -/
def Chip.stopGrid (c : Chip) (slot : Nat) : Chip :=
  let c := c.dropHeld slot
  match c.grid? slot with
  | none => c
  | some g =>
    let c := if g.remote then g.dieRanges.foldl (fun c r => c.tellHead g (.retired · r.lo r.hi 3)) c else c
    c.setGrid { g with
      neverStarted := if g.remote then 0 else g.neverStarted + g.undealt
      cut := true, dieRanges := [], elsewhere := [], gated := g.gated && c.hasSaved slot }

/-- Whether every block of a grid is accounted for (R165). -/
def Grid.complete (g : Grid) : Bool :=
  g.completed.length + g.faulted.length + g.cancelled.length + g.neverStarted = g.desc.nblk

/-- Soft cancellation (R168); it has no effect on a complete grid: the head tells the other packages. -/
def Chip.cancelSoft (c : Chip) (slot : Nat) : Chip :=
  match c.grid? slot with
  | none => c
  | some g =>
    if g.soft || g.hard || g.complete then c else
    let c := c.stopGrid slot
    match c.grid? slot with
    | none => c
    | some g =>
      let c := c.setGrid { g with soft := true, flags := g.flags ||| 2 }
      if g.remote then c else c.tellOthers g (.cancel · false)

/-- Hard cancellation (R168); it overrides a soft one, and has no effect on a complete grid. -/
def Chip.cancelHard (c : Chip) (slot : Nat) : Chip :=
  match c.grid? slot with
  | none => c
  | some g =>
    if g.hard || g.complete then c else
    let c := c.stopGrid slot
    match c.grid? slot with
    | none => c
    | some g =>
      let c := c.setGrid { g with hard := true, flags := g.flags ||| 4 }
      let c := if g.remote then c else c.tellOthers g (.cancel · true)
      ((c.disp.blocks.filter fun b => !b.isTask && b.owner = slot).map (·.id)).foldl (fun c b => c.cancelBlock b) c

/-- Tasks that read a version written by one of a set (R182). -/
def readersOf (ts : List Task) (set : List Nat) : List Nat :=
  let writes := (ts.filter fun k => set.contains k.entry).flatMap fun k =>
    (k.regions.filter (·.isWrite)).filterMap fun r => if r.renamable then r.bound.map fun v => (r.base, v) else none
  (ts.filter fun k => k.state ≠ .aborted && k.state ≠ .failed && k.regions.any fun r =>
    !r.isWrite && r.renamable && (match r.bound with | some v => writes.contains (r.base, v) | none => false)).map (·.entry)

/-- The transitive closure of an abort, in at most n rounds (R182). -/
def abortSet (ts : List Task) : Nat → List Nat → List Nat
  | 0, s => s
  | n + 1, s => abortSet ts n (s ++ (readersOf ts s).filter fun e => !s.contains e)

/-- The version that a region has after the aborts in the table (R182): of the newest writer in submission order that is not
aborted, one that is settled and gone included (notes/assumptions/35). -/
def Chip.newestVersion (c : Chip) (g : Region) (below : Nat) : Nat :=
  let ws := c.disp.tasks.filter fun k => k.state ≠ .aborted && k.state ≠ .failed && decide (k.order < below) &&
    decide (g.committedAt ≤ k.order) && k.regions.any fun r => r.isWrite && r.base = g.base && r.bound.isSome
  match ws.getLast? with
  | none => g.committed
  | some k => ((k.regions.find? fun r => r.isWrite && r.base = g.base).bind (·.bound)).getD g.committed

/-- Whether a version of a region is live, or of an aborted task whose threads have not all ended (R179, R182). What an abort of any
unsettled writer alone would make lw is live, a newer writer notwithstanding (notes/assumptions/140). -/
def Chip.versionLive (c : Chip) (g : Region) (v : Nat) : Bool :=
  v = g.lw ||
  (c.disp.lingering.any fun l => l.2.1 = g.base && l.2.2 = v) ||
  (c.disp.tasks.any fun k => k.regions.any fun r => r.base = g.base && r.renamable && r.bound = some v) ||
  (c.disp.tasks.any fun k => !k.settled && (k.regions.any fun r => r.isWrite && r.base = g.base && r.bound.isSome) &&
    c.newestVersion g k.order = v)

/-- The lowest-numbered free version (R178). -/
def Chip.freeVersion (c : Chip) (g : Region) : Option Nat :=
  (List.range g.versions).find? fun v => !c.versionLive g v

/-- A renamable region in the table. -/
def Chip.region? (c : Chip) (base : Nat) : Option Region := c.disp.regions.find? (·.base = base)

/-- Put a region back. -/
def Chip.setRegion (c : Chip) (g : Region) : Chip :=
  { c with disp := { c.disp with regions := c.disp.regions.map fun k => if k.base = g.base then g else k } }

/-- Bind the write regions that wait for a version, oldest task first (R178). -/
def Chip.bindWaiting (c : Chip) : Chip :=
  let waits := c.disp.tasks.flatMap fun k => if k.state = .waiting then
    (k.regions.filter fun r => r.isWrite && r.renamable && r.bound.isNone).map fun r => (k.entry, r.base) else []
  waits.foldl (fun c w =>
    match c.region? w.2, c.task? w.1 with
    | some g, some k =>
      match c.freeVersion g with
      | some v =>
        let k := { k with regions := k.regions.map fun r => if r.isWrite && r.base = w.2 then { r with bound := some v } else r }
        (c.setTask k).setRegion { g with lw := v }
      | none => c
    | _, _ => c) c

/-- Forget regions that no task of the table names (R178). -/
def Chip.sweepRegions (c : Chip) : Chip :=
  let used (g : Region) : Bool := c.disp.tasks.any fun k => k.regions.any fun r => r.renamable && r.base = g.base
  { c with disp := { c.disp with regions := c.disp.regions.filter used } }

/-- Versions of aborted tasks whose threads have all ended come free (R182). -/
def Chip.freeLingering (c : Chip) : Chip :=
  if c.disp.lingering.isEmpty then c
  else
    let live (l : Nat × Nat × Nat) : Bool := (c.block? l.1).isSome || c.threads.any fun t => t.ofBlock l.1 && t.place ≠ .ended
    if c.disp.lingering.all live then c
    else ({ c with disp := { c.disp with lingering := c.disp.lingering.filter live } } : Chip).bindWaiting

/-- A settled task leaves the table once its word is written (R180, R410); what a block of it still runs keeps the versions that it
was to write (R182). -/
def Chip.freeTask (c : Chip) (entry : Nat) : Chip :=
  match c.task? entry with
  | none => c
  | some k =>
    if k.settled && k.write = .none then
      let mine (b : Block) : Bool := b.isTask && b.owner = entry
      let c := (c.disp.blocks.filter mine).foldl (fun c b => c.linger k b) c
      let ids := (c.disp.blocks.filter mine).map (·.id)
      let d := { c.disp with
        tasks := c.disp.tasks.filter fun j => j.entry ≠ entry
        blocks := c.disp.blocks.map fun b => if mine b then { b with owner := 65536 } else b }
      let c : Chip := ((({ c with disp := d } : Chip).sweepRegions).bindWaiting)
      ids.foldl (fun c b => c.retireCheck b) c
    else c

/-- Remove the edges from a task (R178). -/
def Chip.dropEdges (c : Chip) (entry : Nat) : Chip :=
  { c with disp := { c.disp with tasks := c.disp.tasks.map fun k => { k with edges := k.edges.filter (· ≠ entry) } } }

/-- The completion word of a task outcome (R180). -/
def taskWord (outcome : Nat) : List Byte := bytesOf (outcome * 2 ^ 56) 8

/-- Settle a task: 1 completed or committed, 2 failed, 3 aborted (R180, R410). What its core has stored is released at pod scope before
the job's count falls and its versions come free (R174, R182). A task of a replay that does not complete ends the replay with code 10,
an aborted one too (R126; notes/assumptions/141). -/
def Chip.settle (c : Chip) (entry outcome : Nat) : Chip :=
  match c.task? entry with
  | none => c
  | some k =>
    if k.settled then c else
    let c := (c.setTask { k with settled := true }).writeBackAll k.core
    let mine := c.dev.replay.contains (BitVec.ofNat 64 (2 ^ 37 + c.pkg * 2 ^ 32 + entry * 2 ^ 16 + k.gen))
    let c := if mine && outcome ≠ 1 then { c with dev := { c.dev with replayFailed := true } } else c
    let c := if outcome = 1 then
      (k.regions.filter fun r => r.isWrite && r.renamable).foldl (fun c r =>
        match c.region? r.base, r.bound with
        | some g, some v => if g.committedAt ≤ k.order then c.setRegion { g with committed := v, committedAt := k.order + 1 } else c
        | _, _ => c) c
      else c
    let c := if k.cword = 0 then c
      else match c.headStore k.ctx k.cword.toNat (taskWord outcome) with
        | (.inl _, c) => c
        | (.inr f, c) =>
          let r := c.parkHead k.ctx f entry (.wordParked 0 0); let w := r.1; let c := r.2
          c.setTask { k with settled := true, write := w }
    (c.jobCount k.job false).freeTask entry

/-- Apply an abort to every task of a set; outcome 2 for the failed one, 3 for the rest (R182). The start of one whose patch stores
are parked is given up. -/
def Chip.abortTasks (c : Chip) (set : List Nat) (failed : Option Nat) : Chip :=
  let mark (c : Chip) (e : Nat) : Chip :=
    match c.task? e with
    | none => c
    | some k => c.setTask { k with state := if failed = some e then .failed else .aborted, write := .none }
  let c := set.foldl mark c
  -- lw reverts for each region (R182)
  let top := c.disp.order + 1
  let c := c.disp.regions.foldl (fun c g => c.setRegion { g with lw := c.newestVersion g top }) c
  let finish (c : Chip) (e : Nat) : Chip :=
    let bs := (c.disp.blocks.filter fun b => b.isTask && b.owner = e).map (·.id)
    let c := bs.foldl (fun c b => c.cancelBlock b) (c.dropEdges e)
    c.settle e (if failed = some e then 2 else 3)
  (set.foldl finish c).bindWaiting

/-- Abort a task and every task that reads what it wrote (R182). -/
def Chip.abortTask (c : Chip) (entry : Nat) (failed : Bool) : Chip :=
  let set := abortSet c.disp.tasks c.disp.tasks.length [entry]
  c.abortTasks set (if failed then some entry else none)

/-- log2 of the records of a job's spill ring (R173). -/
def Chip.spillLog (c : Chip) (j : Nat) : Nat := c.devRead (c.jobAddr j + 8) 1

/-- Whether a job's spill ring, and the record that the next request takes, can be written (R408). -/
def Chip.spillUsable (c : Chip) (j : Nat) : Bool :=
  let base := c.devRead (c.jobAddr j) 8
  let log := c.spillLog j
  c.ringUsable base (64 * 2 ^ log) && c.entryClean (base + 64 * (c.devRead (c.jobAddr j + 0x38) 4 % 2 ^ log)) 64

/-- The device finds a job's spill ring usable or not; a ring that becomes unusable is logged (R408). -/
def Chip.spillSeen (c : Chip) (j : Nat) : Chip := c.ringSeen (64 + j) (c.spillUsable j)

/-- A failed spill: the job fails with cause 31 (R190); a grid of the job that another package heads is cancelled there. -/
def Chip.failJob (c : Chip) (j : Nat) : Chip :=
  let c := c.spillSeen j
  let a := c.jobAddr j
  let c := if c.ownMemory a 64 then
    let c := c.devWrite (a + 10) 1 (c.devRead (a + 10) 1 ||| 2)
    let c := c.devWrite (a + 11) 1 31
    c.sendMsi (BitVec.ofNat 64 (c.devRead (a + 48) 8)) (BitVec.ofNat 32 (c.devRead (a + 12) 4))
    else c
  let ts := (c.disp.tasks.filter fun k => k.job = j && !k.settled).map (·.entry)
  let c := ts.foldl (fun c e => match c.task? e with | some k => if k.settled then c else c.abortTask e false | none => c) c
  (c.disp.grids.filter fun g => g.desc.job = j).foldl (fun c g =>
    if g.remote then c.tellHead g (.cancel · true) else c.cancelHard g.slot) c

/-- A fault report (R166). -/
def Chip.faultReport (c : Chip) (t : Thread) (cause tval : Nat) : FaultReport :=
  { tval := BitVec.ofNat 64 tval, pc := t.pc, block := t.tblk, thread := t.ttid, cause := cause, pkg := c.pkg, tick := c.tick }

/-- The 32 bytes of a fault report (R166). -/
def FaultReport.bytes (r : FaultReport) : List Byte :=
  bytesOf r.tval.toNat 8 ++ bytesOf r.pc.toNat 8 ++ bytesOf r.block 4 ++ bytesOf r.thread 2 ++ bytesOf r.cause 1 ++
  bytesOf r.pkg 1 ++ bytesOf r.tick 8

/-- Count a fault of a cause and enter its report; whether it reached grid policy (R166, R228). -/
def Grid.count (g : Grid) (r : FaultReport) (policy : Bool) : Grid :=
  let n := assocGet g.causes r.cause 0
  let flags := g.flags ||| (if policy then 1 else 0)
  { g with
    causes := assocSet g.causes r.cause (min (n + 1) 0xFFFF_FFFF)
    reports := if g.reports.length < 8 then g.reports ++ [r] else g.reports
    flags := if g.reports.length < 8 then flags else flags ||| 0x40 }

/-- A fault is counted and reported at the head (R166, R167). -/
def Chip.countFault (c : Chip) (slot : Nat) (r : FaultReport) (policy : Bool) : Chip :=
  match c.grid? slot with
  | none => c
  | some g => if g.remote then c.tellHead g (.fault · r.bytes policy) else c.setGrid (g.count r policy)

/-- The fault policy after a fault in a block (R167); the head cancels. -/
def Chip.applyPolicy (c : Chip) (slot bid : Nat) : Chip :=
  match c.grid? slot with
  | none => c
  | some g =>
    match g.desc.policy with
    | 1 => if g.remote then c else c.cancelSoft slot
    | 2 => if g.remote then c else c.cancelHard slot
    | 3 => match c.block? bid with
      | some b => (c.setBlock { b with cancelled := true, preempt := .none, heldRequest := false }).cancelThreads bid
      | none => c
    | _ => c

/-- The job of a thread of a grid or a task (R189). -/
def Chip.jobOf (c : Chip) (t : Thread) : Option Nat := (c.blockOf t).map (·.job)

/-- Number of a queue in a spill record (R188). -/
def QueueKind.code : QueueKind → Nat
  | .inbound => 1 | .batch => 2 | .ring => 3 | .walk => 4

/-- Entries of a queue that spills (R97, R188; notes/assumptions/16). -/
def QueueKind.capacity (k : QueueKind) : Nat := if k = .walk then 4096 else Config.queueSlots k.code + 1

/-- Whether a job's spill ring takes one more record: usable, not full, and within the quota (R190, R408). -/
def Chip.spillFits (c : Chip) (j : Nat) : Bool :=
  let a := c.jobAddr j
  let log := c.spillLog j
  let used := (BitVec.ofNat 32 (c.devRead (a + 0x38) 4) - BitVec.ofNat 32 (c.devRead (a + 0x3C) 4)).toNat
  c.jobOk j && decide (6 ≤ log) && decide (log ≤ 20) && c.spillUsable j && decide (used < 2 ^ log) &&
  decide (c.devRead (a + 0x18) 8 + 64 ≤ c.devRead (a + 0x10) 8)

/-- A free word (notes/assumptions/7). -/
def Chip.freeWord (c : Chip) : Word := BitVec.ofNat 64 (numOf ((List.range 8).map fun i => Config.freeByte (c.free + i)))

/-- A free choice among some words (notes/assumptions/51). -/
def Chip.freeOf (c : Chip) (l : List Word) : Word := l.getD ((Config.freeByte c.free).toNat % l.length) 0

/-- Free values that have been drawn are not drawn again. -/
def Chip.drew (c : Chip) (n : Nat) : Chip := { c with free := c.free + n }

/-- Whether a handle is headed by another package of the pod, whose table this package's state does not hold (R153, R178;
notes/assumptions/51). -/
def Chip.elsewhere (c : Chip) (h : Word) (task : Bool) : Bool :=
  decide (h.toNat < 2 ^ 38) && (h.getLsbD 37 == task) && bits 36 32 h.toNat ≠ c.pkg && c.knows (bits 36 32 h.toNat)

/-- Write one request to its job's spill ring (R188, R190): bytes from 0x08 on have a layout of the device's own
(notes/assumptions/7). -/
def Chip.spill (c : Chip) (q : QueueKind) (die j what : Nat) : Chip :=
  let c := c.spillSeen j
  let a := c.jobAddr j
  let prod := c.devRead (a + 0x38) 4
  let bytes := bytesOf q.code 1 ++ bytesOf die 1 ++ bytesOf 0 2 ++ bytesOf prod 4 ++
    (List.range 56).map fun i => Config.freeByte (c.free + i)
  let c := c.agentStore (.cdie 0) (c.devRead a 8 + 64 * (prod % 2 ^ c.spillLog j)) bytes
  let c := c.devWrite (a + 0x38) 4 ((prod + 1) % 2 ^ 32)
  let c := c.devWrite (a + 0x18) 8 (c.devRead (a + 0x18) 8 + 64)
  { c with
    free := c.free + 56
    disp := { c.disp with spilled := c.disp.spilled ++ [{ queue := q, die := die, job := j, seq := prod, what := what }] } }

/-- Whether a request of a job must spill: its queue is full, or holds spilled requests of the job (R188). -/
def Chip.mustSpill (c : Chip) (q : QueueKind) (die j length : Nat) : Bool :=
  !decide (length < q.capacity) || c.disp.spilled.any fun r => r.queue = q && r.die = die && r.job = j

/-- Whether a request of a thread may take a free place of a queue: it is the first of those that wait there (R189). -/
def Chip.firstInLine (c : Chip) (q : QueueKind) (die : Nat) (thread : Option Nat) : Bool :=
  match c.disp.line.find? fun k => k.1 = q.code && k.2.1 = die with
  | none => true
  | some k => thread = some k.2.2

/-- Whether a queue takes a request that may have a place there: of a thread with no grid or task in its turn, of a job where those that
wait leave room (R188-R190). -/
def Chip.hasPlace (c : Chip) (q : QueueKind) (die length : Nat) (thread : Option Nat) : Bool :=
  match thread with
  | some _ => c.firstInLine q die thread
  | none => decide (length + (c.disp.line.filter fun k => k.1 = q.code && k.2.1 = die).length < q.capacity)

/-- Whether a queued request is spilled. -/
def Chip.isSpilled (c : Chip) (q : QueueKind) (what : Nat) : Bool := c.disp.spilled.any fun r => r.queue = q && r.what = what

/-- A queued request takes its place, spilled where it must be; none where the spill is not made, or where it waits its turn
(R188-R190). -/
def Chip.enqueueIn (c : Chip) (q : QueueKind) (die j length what : Nat) (thread : Option Nat) : Option Chip :=
  let out : Chip := { c with disp := { c.disp with line := c.disp.line.filter fun k => some k.2.2 ≠ thread } }
  let full := c.mustSpill q die j length
  if !full && c.hasPlace q die length thread then some out
  else if !full && thread.isSome then none
  else if c.spillFits j then some (out.spill q die j what) else none

/-- A spilled request is withdrawn or ends: its record stays in the spill ring until the queue takes it back, for nothing (R188). -/
def Chip.unspill (c : Chip) (q : QueueKind) (what : Nat) : Chip :=
  let end_ (r : Spilled) : Spilled := if r.queue = q && r.what = what then { r with what := 0 } else r
  { c with disp := { c.disp with spilled := c.disp.spilled.map end_ } }

end Sys2Proof.Machine
end

