-- ==== Sys2Proof/Machine/Records.lean ====
section
/-! DEFINITION. Thread records: the 512-byte layout in which a thread's state crosses between cores and is saved (R110,
R232). -/
namespace Sys2Proof.Machine

/-- The fields of a thread record that depend on why it is written (R110, R232). -/
structure RecordArgs where
  reason : Nat
  cause : Nat := 0
  flags : Nat := 0
  tval : Word := 0
  /-- live mask and locator of a save area (R232) -/
  live : Nat := 0
  locator : Nat := 0
  /-- registers whose values are stored, as a mask over x1-x31; a departure with a poison mask stores zeros there -/
  stored : BitVec 32
  poisonMask : Nat := 0
  /-- per-slice poison of a save area, 512 bits -/
  slices : BitVec 512 := 0
  ctx : Ctx
  foot : Nat

/-- The code of a departure's reason (R110). -/
def MoveReason.code : MoveReason → Nat
  | .migrate => 0 | .automatic => 1 | .recall => 2 | .forwardedEcall => 3 | .frresume => 4 | .recordedTrap => 5 | .ended => 7

/-- Flags of a context in a record (R110). -/
def Ctx.flags (x : Ctx) : Nat := flag x.v + 2 * flag x.mxr + 4 * flag x.adue + 8 * flag x.hadue

/-- The spawner tag: identity and spawn sequence (R110, R164); its layout is internal to the device (notes/assumptions/10). -/
def spawnerTag (t : Thread) : Nat := t.spawner % 2 ^ 32 + (t.spawnSeq % 2 ^ 32) * 2 ^ 32

/-- The bytes of a thread record (R110). -/
def recordBytes (t : Thread) (a : RecordArgs) : List Byte :=
  let x (k : Nat) : List Byte := bytesOf (if a.stored.getLsbD k then (readX t.regs k).toNat else 0) 8
  bytesOf t.pc.toNat 8 ++ ((List.range 31).flatMap fun k => x (k + 1)) ++
  bytesOf t.fcsr.toNat 8 ++ bytesOf t.tflags.toNat 8 ++ bytesOf t.tmode.toNat 8 ++ bytesOf t.trng.toNat 8 ++
  bytesOf t.temu.toNat 8 ++ bytesOf t.delegRead.toNat 8 ++ bytesOf t.tepc.toNat 8 ++ bytesOf t.tcause.toNat 8 ++
  bytesOf t.tval.toNat 8 ++ bytesOf a.poisonMask 8 ++
  bytesOf a.ctx.satp.toNat 8 ++ bytesOf a.ctx.vsatp.toNat 8 ++ bytesOf a.ctx.hgatp.toNat 8 ++ bytesOf a.ctx.flags 8 ++
  bytesOf t.osid.toNat 8 ++ bytesOf t.tgrid.toNat 8 ++ bytesOf t.tblk 8 ++ bytesOf (t.ttid + t.trole * 2 ^ 32) 8 ++
  bytesOf a.foot 4 ++ bytesOf a.reason 1 ++ bytesOf a.cause 1 ++ bytesOf a.flags 1 ++ bytesOf 0 1 ++
  bytesOf a.live 4 ++ bytesOf a.locator 4 ++ bytesOf a.tval.toNat 8 ++ bytesOf (spawnerTag t) 8 ++ bytesOf 0 16 ++
  bytesOf a.slices.toNat 64

/-- A field of n bytes at an offset of a record. -/
def recField (bs : List Byte) (off n : Nat) : Nat := numOf ((bs.drop off).take n)

/-- The registers of a record: x_k at 8k (R110). -/
def recRegs (bs : List Byte) : BitVec 2048 :=
  (List.range 31).foldl (fun r k => writeX r (k + 1) (BitVec.ofNat 64 (recField bs (8 * (k + 1)) 8))) 0

/-- The context of a record (R110). -/
def recCtx (bs : List Byte) : Ctx :=
  let f := recField bs 0x168 8
  { satp := BitVec.ofNat 64 (recField bs 0x150 8), vsatp := BitVec.ofNat 64 (recField bs 0x158 8)
    hgatp := BitVec.ofNat 64 (recField bs 0x160 8)
    v := f.testBit 0, mxr := f.testBit 1, adue := f.testBit 2, hadue := f.testBit 3 }

/-- A thread with the architectural state of a record: PC, registers and CSRs (R102, R110). -/
def Thread.loadRecord (t : Thread) (bs : List Byte) : Thread :=
  let w (off : Nat) : Word := BitVec.ofNat 64 (recField bs off 8)
  let t := { t with pc := w 0, regs := recRegs bs, fcsr := BitVec.ofNat 8 (recField bs 0x100 8) }
  (List.range 8).foldl (fun (t : Thread) i => t.writeX8 (0x806 + i) (w (0x108 + 8 * i))) t

/-- The arrival at a pbarw that a record keeps in byte 0x196 (R110, R366). -/
def recArrived (bs : List Byte) : Option Bool :=
  let f := recField bs 0x196 1
  if f.testBit 6 then some (f.testBit 7) else none

/-- The highest register with a non-zero value, or 0 (R109). -/
def highestReg (r : BitVec 2048) : Nat := (List.range 32).foldl (fun h k => if readX r k ≠ 0 then k else h) 0

/-- The footprint of an arriving thread: 16 * (h + 1) (R107, R109). -/
def arrivalFoot (r : BitVec 2048) : Nat := 16 * (highestReg r + 1)

/-- Registers with a poisoned or corrupted slice among those with a property, as a mask (R110, R232). -/
def Thread.poisonRegs (t : Thread) (n : Nat) (corrupt : Bool) (p : Nat → Bool) : Nat :=
  (List.range 32).foldl (fun m k =>
    let bad := (List.range 16).any fun j => let a := 16 * k + j
      decide (16 ≤ a) && decide (a < t.tfoot) && p k && (t.slicePoison n a || (corrupt && t.corrupt.getLsbD a))
    if bad then m + 2 ^ k else m) 0

end Sys2Proof.Machine
end

