-- ==== Sys2Proof/Machine/Ops.lean ====
section
/-! DEFINITION. Taking a trap and returning from one, what a stopped execution leaves, and how an issue executes one
instruction for its participants (R104-R117, R193-R205, R218-R223). -/
namespace Sys2Proof.Machine

/-- The level that takes a trap of a latency core (R101, R116; notes/assumptions/8). -/
inductive TrapLevel where
  | m | hs | vs
  deriving DecidableEq, Repr

/-- Which level takes a trap: M mode its own and what it does not delegate; from virtual modes VS mode what HS mode delegates on
(R101, R116; notes/assumptions/8). -/
def Hart.takes (h : Hart) (mode : Mode) (cause : Word) : TrapLevel :=
  let n := (cause.setWidth 6).toNat
  let irq := cause.getLsbD 63
  let m := if irq then h.mideleg.getLsbD n else h.medeleg.getLsbD n
  let vs := if irq then h.hideleg.getLsbD n else h.hedeleg.getLsbD n
  if mode = .m || !m then .m else if h.virt && vs then .vs else .hs

/-- Where a trap vector sends a cause. -/
def trapVector (tv cause : Word) : Word :=
  (tv &&& ~~~3) + (if tv.getLsbD 0 && cause.getLsbD 63 then (cause &&& 0x7FFF_FFFF_FFFF_FFFF) * 4 else 0)

/-- A bit set or cleared. -/
def withBit (w : Word) (i : Nat) (v : Bool) : Word := if v then w ||| (1#64 <<< i) else w &&& ~~~(1#64 <<< i)

/-- Supervisor status after a trap: SPIE := SIE, SIE := 0, SPP := mode. -/
def supervisorTrap (st : Word) (mode : Mode) : Word := withBit (withBit (withBit st 5 (st.getLsbD 1)) 1 false) 8 (decide (mode = .s))

/-- Supervisor status after sret: SIE := SPIE, SPIE := 1, SPP := U. -/
def supervisorReturn (st : Word) : Word := withBit (withBit (withBit st 1 (st.getLsbD 5)) 5 true) 8 false

/-- The causes of some pending interrupts, the highest first: those of the machine, the supervisor and the guest in the privileged
architecture's order, then the local ones (R101, R111; notes/assumptions/8). -/
def irqOrder : List Nat := [11, 3, 7, 9, 1, 5, 12, 10, 2, 6] ++ (List.range 51).map (· + 13)

/-- The first of some pending interrupts. -/
def firstIrq (w : Word) : Option Nat := irqOrder.find? fun n => w.getLsbD n

/-- The interrupt that a latency core takes next: pending, enabled, and of a level above its mode, or of its own with interrupts on
(R101, R111; notes/assumptions/8). -/
def Hart.nextIrq (h : Hart) (mode : Mode) : Option Nat :=
  let pending := (h.mip ||| h.sip ||| h.hvip) &&& (h.mie ||| h.sie ||| h.hie)
  let guest := h.mideleg &&& h.hideleg &&& 0x444
  let m := if mode ≠ .m || h.mstatus.getLsbD 3 then pending &&& ~~~h.mideleg else 0
  let hs := if mode ≠ .m && (mode = .u || h.virt || h.mstatus.getLsbD 1) then pending &&& h.mideleg &&& ~~~guest else 0
  let vs := if h.virt && (mode = .u || h.vsstatus.getLsbD 1) then pending &&& guest else 0
  ((firstIrq m).or (firstIrq hs)).or (firstIrq vs)

/-- The CSRs that a trap writes at its level (R101, R116; notes/assumptions/8): pc and mode at the trap, tval, the guest physical
address shifted right by 2, and whether tval is a guest virtual address. -/
def Hart.enter (h : Hart) (lv : TrapLevel) (pc : Word) (mode : Mode) (cause tval gpa : Word) (guest : Bool) : Hart :=
  match lv with
  | .m =>
    let st := withBit (withBit h.mstatus 7 (h.mstatus.getLsbD 3)) 3 false
    let st := (st &&& ~~~0x1800) ||| (if mode = .m then 0x1800 else if mode = .s then 0x800 else 0)
    { h with
      mstatus := withBit (withBit st 39 (h.virt && decide (mode ≠ .m))) 38 guest
      mepc := pc, mcause := cause, mtval := tval, mtval2 := gpa, mtinst := 0, virt := false }
  | .hs =>
    let hs := withBit (withBit h.hstatus 7 h.virt) 6 guest
    { h with
      mstatus := supervisorTrap h.mstatus mode, hstatus := if h.virt then withBit hs 8 (decide (mode = .s)) else hs
      sepc := pc, scause := cause, stval := tval, htval := gpa, htinst := 0, virt := false }
  | .vs =>
    -- VS interrupts 2, 6 and 10 appear as 1, 5 and 9
    let own := if cause.getLsbD 63 then cause - 1 else cause
    { h with vsstatus := supervisorTrap h.vsstatus mode, vsepc := pc, vscause := own, vstval := tval }

/-- Causes whose tval is an address. -/
def addressCause (cause : Word) : Bool := [0, 1, 3, 4, 5, 6, 7, 12, 13, 15, 20, 21, 23].any fun n => cause = BitVec.ofNat 64 n

/-- The trap of a latency core goes to the operating system (R116): the trap entry of the privileged architecture with its
hypervisor extension (R101; notes/assumptions/8). An access of hlv, hlvx or hsv gives a guest address too. -/
def Chip.hartFault (c : Chip) (t : Thread) (cause : Word) (tval gpa : Nat) (guest : Bool) : Chip :=
  match t.place with
  | .hart l k =>
    match c.hart? l k with
    | none => c
    | some h =>
      let lv := h.takes t.mode cause
      let c := c.setHart (h.enter lv t.pc t.mode cause (BitVec.ofNat 64 tval) (BitVec.ofNat 64 gpa) (guest || (h.virt && addressCause cause)))
      let tv := match lv with | .m => h.mtvec | .hs => h.stvec | .vs => h.vstvec
      let cs := if lv = .vs && cause.getLsbD 63 then cause - 1 else cause
      c.onThread t.id fun t => { t with pc := trapVector tv cs, mode := if lv = .m then .m else .s, wait := .ready, called := false, record := [] }
  | _ => c

/-- A trap without a guest physical address. -/
def Chip.hartTrap (c : Chip) (t : Thread) (cause : Word) (tval : Nat) : Chip := c.hartFault t cause tval 0 false

/-- The parked accesses of a thread leave the fault queues, and it leaves the lines at full queues (R76, R189). -/
def Chip.unqueue (c : Chip) (id : Nat) : Chip :=
  let c := if c.disp.line.isEmpty then c else { c with disp := { c.disp with line := c.disp.line.filter fun k => k.2.2 ≠ id } }
  if c.mem.parked.isEmpty then c
  else { c with mem := { c.mem with parked := c.mem.parked.filter fun r => r.thread ≠ some id } }

/-- The interrupt that the latency core of a thread takes before its next instruction (R101, R111). -/
def Chip.irqOf (c : Chip) (t : Thread) : Option Nat :=
  match t.place with
  | .hart l k => (c.hart? l k).bind fun h => h.nextIrq t.mode
  | _ => none

/-- A latency core takes the interrupt that is due, if any (R101, R111). -/
def Chip.takeIrq (c : Chip) (id : Nat) : Chip :=
  match c.thread? id with
  | none => c
  | some t => match c.irqOf t with
    | some n => (c.unqueue id).hartTrap t ((1#64 <<< 63) ||| BitVec.ofNat 64 n) 0
    | none => c

/-- A thread has departed from its latency core (R111): bit 16 of sip is set, and the core goes on with the interrupt as soon as it may
take it. -/
def Chip.departed (c : Chip) (id : Nat) (pc : Word) (h : Hart) : Chip :=
  let c := c.setHart { h with sip := h.sip ||| 0x10000 }
  (c.onThread id fun t => { t with
    pc := pc, wait := .idle, block := none, held := none, osid := 0, tgrid := 0, cancelled := false }).takeIrq id

/-- sret on a latency core (R101, R274; notes/assumptions/8). -/
def Chip.hartSret (c : Chip) (t : Thread) : Chip :=
  match t.place with
  | .hart l k =>
    match c.hart? l k with
    | none => c
    | some h =>
      let st := if h.virt then h.vsstatus else h.mstatus
      let c := c.setHart (if h.virt then { h with vsstatus := supervisorReturn st }
        else { h with mstatus := withBit (supervisorReturn st) 17 false, virt := h.hstatus.getLsbD 7, hstatus := withBit h.hstatus 7 false })
      c.onThread t.id fun t => { t with
        pc := if h.virt then h.vsepc else h.sepc, mode := if st.getLsbD 8 then .s else .u, instret := t.instret + 1 }
  | _ => c

/-- mret on a latency core (R101, R274; notes/assumptions/8). -/
def Chip.hartMret (c : Chip) (t : Thread) : Chip :=
  match t.place with
  | .hart l k =>
    match c.hart? l k with
    | none => c
    | some h =>
      let st := h.mstatus
      let mpp := (st.extractLsb' 11 2).toNat
      let st' := withBit (withBit (withBit st 3 (st.getLsbD 7)) 7 true) 39 false &&& ~~~0x1800
      let st' := if mpp = 3 then st' else withBit st' 17 false
      let c := c.setHart { h with mstatus := st', virt := mpp ≠ 3 && st.getLsbD 39 }
      let md : Mode := if mpp = 3 then .m else if mpp = 1 then .s else .u
      c.onThread t.id fun t => { t with pc := h.mepc, mode := md, instret := t.instret + 1 }
  | _ => c

/-- Whether the hook takes a cause (R116): delegated, with a hook address, and no hook active. -/
def Thread.hooks (t : Thread) (cause : Nat) : Bool :=
  decide (cause < 64) && t.delegRead.getLsbD cause && decide (t.temu ≠ 0) && !t.hook

/-- The hook takes a trap (R117). -/
def Thread.enterHook (t : Thread) (cause tval : Nat) : Thread :=
  { t with
    converged := false, tepc := t.pc, tcause := (1#64 <<< 63) ||| BitVec.ofNat 64 cause, tval := BitVec.ofNat 64 tval, pc := t.temu
    wait := .ready }

/-- tret: back to the trapping instruction (R117). -/
def Thread.leaveHook (t : Thread) : Thread :=
  { t with pc := t.tepc, tcause := t.tcause &&& ~~~(1#64 <<< 63), instret := t.instret + 1 }

/-- The grid whose block a thread belongs to. -/
def Chip.gridOf (c : Chip) (t : Thread) : Option Grid :=
  match c.blockOf t with
  | some b => if b.isTask then none else c.grid? b.owner
  | none => none

/-- A handler is over (R228, R234): its thread leaves what it waits for and parks again; a failure is kept for the save. -/
def Chip.endHandler (c : Chip) (t : Thread) (failed : Bool) : Chip :=
  let c := (c.detach t.id).unqueue t.id
  let c := c.onThread t.id fun t => { t with handler := false, wait := .safePark }
  match c.blockOf t with
  | none => c
  | some b => match b.preempt with
    | .handler _ => c.setBlock { b with preempt := .saving, handlerFailed := failed }
    | _ => c

/-- The grid-policy route (R116, R167, R182, R228): a grid thread ends and its fault is counted and reported; a task
fails; any other thread moves with reason 5; a handler ends. -/
def Chip.gridPolicy (c : Chip) (t : Thread) (cause tval : Nat) : Chip :=
  let report := c.faultReport t cause tval
  if t.handler then
    let c := match c.gridOf t with
      | some g => c.countFault g.slot report false
      | none => c
    c.endHandler t true
  else match c.blockOf t with
    | none => c.onThread t.id fun t => { t with
        wait := .moving .recordedTrap cause (BitVec.ofNat 64 tval) 0, waitSince := c.tick }
    | some b =>
      if b.isTask then (c.abortTask b.owner true).endThread t.id
      else
        let c := (c.countFault b.owner report true).setBlock { b with faulted := true }
        (c.applyPolicy b.owner b.id).endThread t.id

/-- The number of the next slice request: requests are served in this order (R212). -/
def Chip.nextClaim (c : Chip) : Nat := c.threads.foldl (fun n t => max n t.claimed) 0 + 1

/-- Taking a precise trap: hardware absorbs it, or the hook takes it, or it takes its default route (R116). The word is the
trapping instruction's. -/
def Chip.takeTrap (c : Chip) (id cause tval : Nat) (word : Word) : Chip :=
  match c.thread? id with
  | none => c
  | some t =>
    match t.place with
    | .hart _ _ => (if cause = 31 then c.failJob tval else c).hartTrap t (BitVec.ofNat 64 cause) tval
    | .slot core q _ b =>
      let foot := min 512 (roundUp (tval + 1) 16)
      -- window growth (R210)
      if cause = 24 && foot - t.tfoot ≤ c.laneFree core q (b % 16) then
        c.onThread id fun t => { t.setFoot (max foot t.tfoot) with wait := .ready }
      else if t.hooks cause then c.setThread (t.enterHook cause tval)
      else match cause with
        | 2 => c.onThread id fun t => { t with wait := .moving .automatic 2 word 0, waitSince := c.tick }
        | 3 => c.onThread id fun t => { t with wait := .moving .automatic 3 word 0, waitSince := c.tick }
        | 24 => c.onThread id fun t => { t with wait := .slices foot, waitSince := c.tick, claimed := c.nextClaim }
        | 31 => (c.onThread id fun t => { t with wait := .ready }).failJob tval
        | 52 => c.endThread id
        | _ => c.gridPolicy t cause tval
    | _ => c

/-- An access fault or page fault parks the thread (R98); on a latency core it goes to the operating system. -/
def Chip.takeFault (c : Chip) (id cause va gpa flags : Nat) (acc : Access) : Chip :=
  match c.thread? id with
  | none => c
  | some t =>
    match t.place with
    | .hart _ _ => c.hartFault t (BitVec.ofNat 64 cause) va gpa false
    | .slot core _ _ _ =>
      if t.handler then c.gridPolicy t cause va
      else (c.park (core / 80) t.ctx va gpa cause flags acc (some id) (locatorOf t.place)).2
    | _ => c

/-- The entry of an away thread of a block that the thread of a latency core continues (R109): the grid or task thread whose
handle, block and index it has. -/
def Chip.awayEntry (c : Chip) (t : Thread) : Option Thread :=
  if t.tgrid = 0 then none
  else c.threads.find? fun o => o.place = .os && o.tgrid = t.tgrid && o.tblk = t.tblk && o.ttid = t.ttid

/-- The thread that leaves a latency core: the away thread or a new one, with the architectural state of the core (R102,
R107); to the other L-die the operating system takes it (R106, R112). -/
def Chip.leaving (c : Chip) (t : Thread) (l : Nat) (x : Ctx) (hint : Word) (rd : Nat) : Thread :=
  let o : Thread := (c.awayEntry t).getD { id := c.eng.next }
  { o with
    place := if bits 63 62 hint.toNat = 3 then .os else .inbound
    pc := t.pc, regs := t.regs, fcsr := t.fcsr, tflags := t.tflags, tmode := t.tmode, trng := t.trng
    temu := t.temu, tdeleg := t.tdeleg, tepc := t.tepc, tcause := t.tcause, tval := t.tval, barPoison := 0, corrupt := 0
    ctx := x, mode := .u, osid := t.osid, spawner := t.spawner, spawnSeq := t.spawnSeq, wait := .ready, converged := false
    waitSince := c.tick, arrived := t.arrived, hint := hint, hintRd := rd, fromLdie := l, recalled := false, instret := t.instret }

/-- Moves, and spawns and tsubs with a place there, in the dispatcher inbound queue and not spilled (R107, R177, R188). -/
def Chip.inboundLength (c : Chip) : Nat :=
  (c.threads.filter fun u => (u.place = .inbound || u.called) && !c.isSpilled .inbound u.id).length

/-- A thread holds: at a full queue it takes its place in the line there (R189); its spawn or tsub is spilled, or waits in the
dispatcher inbound queue (R177, R188; the record names die 0, notes/assumptions/137); a slice request joins its lane's queue (R212). -/
def Chip.hold (c : Chip) (id : Nat) (w : Wait) : Chip :=
  let c := match w with
    | .queueAt q die =>
      if c.disp.line.contains (q, die, id) then c else { c with disp := { c.disp with line := c.disp.line ++ [(q, die, id)] } }
    | .spilledCall j => c.spill .inbound 0 j id
    | .tableEntry => c.onThread id fun t => { t with called := true }
    | .slices _ => c.onThread id fun t => { t with claimed := c.nextClaim }
    | _ => c
  c.onThread id fun t => { t with wait := w, waitSince := c.tick }

/-- A departure from a latency core (R79, R107, R111): the record at stthr, interrupt 16 to S mode, and the thread waits
to be placed. With stthr 0, or a root that is not Sv57 (R78), cause 2 instead; a thread of a cancelled block that would move to a
compute core takes cause 52 (R169), and has ended for the versions that it may still have written (R182). A move that finds the
queue full and does not spill waits (R189). The thread is given as it stands and as it leaves. -/
def Chip.hartDepart (c : Chip) (t next : Thread) (hint : Word) (rd : Nat) (word : Word) (reason cause : Nat) : Chip :=
  match t.place with
  | .hart l k =>
    match c.hart? l k with
    | none => c
    | some h =>
      let x := h.ctx
      let compute := bits 63 62 hint.toNat ≠ 3
      let moved := c.leaving next l x hint rd
      -- a waiting move may spill, charged to job 0 (R107, R189)
      let room := if compute then c.enqueueIn .inbound 0 0 c.inboundLength moved.id (some t.id) else some c
      if t.cancelled && compute then
        let c := match c.awayEntry t with
          | some o => { c with threads := c.threads.filter fun (u : Thread) => u.id ≠ o.id }
          | none => c
        c.hartTrap t 52 0
      else if h.stthr = 0 || !x.sv57 then c.hartTrap t 2 word.toNat
      else match room with
        | none => (c.spillSeen 0).hold t.id (.queueAt QueueKind.inbound.code 0)
        | some c =>
          let flags := match next.arrived with | some p => 64 + 128 * flag p | none => 0
          let bytes := recordBytes next {
            reason := reason, cause := cause, tval := if reason = 1 then word else 0, stored := BitVec.allOnes 32, ctx := x
            foot := if (c.gridOf t).isSome then t.tfoot else 512, flags := flags }
          let c := (c.agentStore (.ldie l) h.stthr.toNat bytes).dropResv t.id
          let c := { c with
            threads := (c.threads.filter fun (u : Thread) => u.id ≠ moved.id) ++ [moved]
            eng := { c.eng with next := c.eng.next + 1 } }
          -- the hart keeps its registers; it no longer runs the thread
          c.departed t.id next.pc h
  | _ => c

/-- Translation misses queued at a DTU and not spilled (R97). -/
def Chip.walkLength (c : Chip) (u : Nat) : Nat :=
  ((c.unit u).misses.filter fun m => !c.isSpilled .walk m.id).length

/-- A miss joins its DTU's queue; one beyond 4,096 spills, charged to the thread's job (R97, R188-R190). -/
def Chip.takeMiss (c : Chip) (core : Nat) (t : Thread) (va : Nat) (acc : Access) (word : Word) : Chip :=
  let u := core / 80
  let before := c.walkLength u
  let c' := c.queueMiss u core t.ctx t.mode va acc t.id
  let job := c.jobOf t
  if (c'.unit u).misses.length ≤ (c.unit u).misses.length then c'
  else match c'.enqueueIn .walk u (job.getD 0) before c.eng.next (if job.isNone then some t.id else none) with
    | some c' => c'
    | none => match job with
      | some j => c.takeTrap t.id 31 j word
      | none => (c.spillSeen 0).hold t.id (.queueAt QueueKind.walk.code u)

/-- A thread's access joins its line's queue at the home (R76); with 2,048 requests there it is refused, and sent again. -/
def Chip.homeWait (c : Chip) (t : Thread) (line : Nat) : Chip :=
  let hold (w : Wait) (c : Chip) : Chip :=
    if t.wait = w then c else c.onThread t.id fun t => { t with wait := w, waitSince := c.tick }
  if c.mem.parked.any fun r => r.thread = some t.id && r.line = line then hold (.homePark line) c
  else if 2048 ≤ c.parkedAt (c.homeOf (64 * line)) then hold .queueFull c
  else
    let r : ParkedReq := { req := { agent := agentOf t.core, seq := 0, addr := 0, op := .read }, line := line, thread := some t.id }
    hold (.homePark line) { c with mem := { c.mem with parked := c.mem.parked ++ [r] } }

/-- A thread whose mma waited for the matrix queue goes another way: it reads its tile no longer (R376). -/
def Chip.unread (c : Chip) (id : Nat) : Chip :=
  match c.thread? id with
  | none => c
  | some t => match t.reading, c.blockOf t with
    | some k, some b =>
      let c := c.onThread id fun t => { t with reading := none }
      match b.tiles[k]? with
      | some tl => c.setBlock { b with tiles := listSet b.tiles k { tl with readers := tl.readers - 1 } }
      | none => c
    | some _, none => c.onThread id fun t => { t with reading := none }
    | none, _ => c

/-- A tile wait that is over acts as an acquire of cluster scope (R145). -/
def Chip.tileReturned (c : Chip) (id : Nat) : Chip :=
  match c.thread? id with
  | some t => (match t.wait with | .tile _ _ => c.acquire id 2 | _ => c)
  | none => c

/-- What a stopped execution leaves (R220): no effect but the trap, the wait or the move. -/
def Chip.applyStop (c : Chip) (id : Nat) (word : Word) (s : Stop) : Chip :=
  match c.thread? id with
  | none => c
  | some t =>
    let c0 := ((c.onThread id fun t => { t with wait := .ready, converged := false, early := none, record := [] }).unqueue id).unread id
    -- a miss of an access, and the address that a fault of it names
    let miss (va tval : Nat) (acc : Access) : Chip :=
      match t.place with
      | .slot core _ _ _ => ({ c0 with disp := { c0.disp with line := c.disp.line } } : Chip).takeMiss core t va acc word
      | .hart l k =>
        let x := ((c.hart? l k).getD {}).viewOf t.mode acc
        match c0.walk ⟨8 + l, x.1.walkCtx, x.2, x.1.sum, acc, false, va, t.isMgmt⟩ (.hart l k) va with
        | (.inl e, c) => c.install e
        | (.inr f, c) => if f.cause = 0 then c.homeWait t f.gpa else c.takeFault id f.cause tval f.gpa f.flags acc
      | _ => c0
    match s with
    | .hold (.homePark line) => c.homeWait t line
    | .hold (.drain line) =>
      let c := c.parkUnit (agentOf t.core) line
      if t.wait = .drain line then c else c.hold id (.drain line)
    | .trap cause tval => c0.takeTrap id cause tval word
    | .access va acc => c0.takeFault id acc.accessFault va 0 0 acc
    | .hold w => if t.wait = w then c else c.hold id w
    | .keep (.drain line) bs =>
      let c := (c.onThread id fun t => { t with record := bs }).parkUnit (agentOf t.core) line
      if t.wait = .drain line then c else c.hold id (.drain line)
    | .keep w bs => if t.wait = w then c else (c.onThread id fun t => { t with record := bs }).hold id w
    | .depart => c0.hartDepart t t 0 0 word 1 0
    | .miss va acc => miss va va acc
    | .recordMiss va tval => miss va tval .load

/-- Cause 24 for slices at or above a thread's footprint top (R210). -/
def Thread.footStop (t : Thread) (u : Uses) : Option Stop :=
  if t.onCompute && decide (t.tfoot < u.top) then some (.trap 24 (u.top - 1)) else none

/-- The lowest slice of some spans of a thread that is marked corrupted (R209); of several, tval names the lowest
(notes/assumptions/142). -/
def Thread.corruptAt (t : Thread) (ps : List Span) : Option Nat :=
  if t.corrupt = 0 || !t.onCompute then none else lowestSlice ps fun a => decide (16 ≤ a) && t.corrupt.getLsbD a

/-- Cause 28 for the lowest slice read strictly whose bar is poisoned (R74). -/
def Chip.poisonStop (c : Chip) (t : Thread) (ps : List Span) : Option Stop :=
  if t.barPoison = 0 || !t.onCompute then none
  else (lowestSlice ps (t.slicePoison (c.bars t))).map fun a => .trap 28 a

/-- The slice checks in the order of R219: 24, 29, then 28 (R74, R209, R210). -/
def Chip.sliceStop (c : Chip) (t : Thread) (u : Uses) : Option Stop :=
  (t.footStop u).or (((t.corruptAt (u.reads ++ u.strict)).map fun a => .trap 29 a).or (c.poisonStop t u.strict))

/-- A read of a bar corrects the single-bit errors that it holds, writes them back and logs each bar (R209). -/
def Chip.readBars (c : Chip) (id : Nat) (u : Uses) : Chip :=
  match c.thread? id with
  | none => c
  | some t =>
    if t.flipped = 0 || !t.onCompute then c
    else
      let n := c.bars t
      let read := ((u.reads ++ u.strict).flatMap spanList).filter (16 ≤ ·) |>.map (barOf t.p0 n)
      let hit := (List.range 512).filter fun a => t.flipped.getLsbD a && read.contains (barOf t.p0 n a)
      let c := (hit.map (barOf t.p0 n)).eraseDups.foldl (fun c _ => c.logEvent 209) c
      c.onThread id fun t => { t with flipped := hit.foldl (fun m a => m &&& ~~~(1#512 <<< a)) t.flipped }

/-- One instruction as an issue executes it: the slices it uses, what makes it illegal (cause 2), the later checks of a
member among the executing threads, and its effect on them. -/
structure Op where
  uses : Uses := {}
  legal : List Thread → Nat → Thread → Bool := fun _ _ _ => true
  check : Chip → List Thread → Nat → Thread → Option Stop := fun _ _ _ _ => none
  run : Chip → List Thread → Chip
  /-- the instruction's length in bytes -/
  len : Nat := 8
  /-- whether it completes; one that sends a request and waits does not yet -/
  advance : Bool := true
  /-- whether it executes on a latency core (R285) -/
  native : Bool := true
  /-- whether each member of a converged group acts, and waits, on its own (R341, R372) -/
  each : Bool := false
  /-- which of the sources come through the crossbar, and from which member (R204) -/
  cross : List Span := []
  source : List Thread → Nat → Thread → Thread := fun _ _ t => t
  /-- cause 2 that every member takes for a value read, once no slice lies at or above a footprint top (R299, R324) -/
  value : List Thread → Bool := fun _ => false

/-- A slice that a member reads, its own or another member's, and that is marked corrupted (R204, R209, R299). -/
def Op.corruptAt (o : Op) (ts : List Thread) (r : Nat) (t : Thread) : Option Nat :=
  let own := t.corruptAt ((o.uses.reads ++ o.uses.strict).diff o.cross)
  let far := (o.source ts r t).corruptAt o.cross
  match own, far with
  | some a, some b => some (min a b)
  | some a, none => some a
  | none, b => b

/-- What stops a member before cause 26, in the order of R219: its instruction, its own slices against its own footprint top, and
the slices that it reads (R219, R299). -/
def Op.first (o : Op) (c : Chip) (ts : List Thread) (r : Nat) (t : Thread) (word : Word) : Option Stop :=
  if !o.legal ts r t then some (.trap 2 word.toNat)
  else (t.footStop o.uses).or (((o.corruptAt ts r t).map fun a => .trap 29 a).or (c.poisonStop t o.uses.strict))

/-- What stops a member, first in the order of R219. -/
def Op.stop (o : Op) (c : Chip) (ts : List Thread) (r : Nat) (t : Thread) (word : Word) : Option Stop :=
  (o.first c ts r t word).or (o.check c ts r t)

/-- Whether spans touch x2's slices 32-47 (R215). -/
def touchesSp (ps : List Span) : Bool := ps.any fun p => decide (p.1 < 48) && decide (32 < p.1 + p.2)

/-- An instruction completes for a thread: the PC advances, a recorded arrival is forgotten, the window follows sp
(R215, R366). -/
def Chip.finish (c : Chip) (id : Nat) (o : Op) : Chip :=
  let c := if o.advance then c.onThread id fun t => { t.complete o.len with arrived := none } else c
  if touchesSp o.uses.writes then c.windowUpdate id else c

/-- Execute for one thread on its own (R203). -/
def Chip.issueOne (c : Chip) (word : Word) (o : Op) (id : Nat) : Chip :=
  match c.thread? id with
  | none => c
  | some t =>
    if t.onHart && !o.native then c.applyStop id word .depart
    else match o.stop c [t] 0 t word with
      | some s => c.applyStop id word s
      | none => ((o.run c [t]).finish id o).unqueue id

/-- Stops of the members of a collective. Each checks its own slices against its own footprint top before any value is read (R210,
R299). With U = 1 the one execution reads rank 0's sources, so every member takes what then stops it (R205). -/
def Op.stops (o : Op) (c : Chip) (ts : List Thread) (uni : Bool) (word : Word) : List (Nat × Stop) :=
  let ranked := ts.zip (List.range ts.length)
  let illegal := if uni then [] else ranked.filter fun p => !o.legal ts p.2 p.1
  let foot := ts.filterMap fun t => (t.footStop o.uses).map fun s => (t.id, s)
  if !uni then
    if illegal.isEmpty && foot.isEmpty && o.value ts then ts.map fun t => (t.id, .trap 2 word.toNat)
    else ranked.filterMap fun p => (o.stop c ts p.2 p.1 word).map fun s => (p.1.id, s)
  else match ts with
    | [] => []
    | t0 :: _ =>
      let all (s : Stop) : List (Nat × Stop) := ts.map fun t => (t.id, s)
      if !o.legal ts 0 t0 then all (.trap 2 word.toNat)
      else if !foot.isEmpty then foot
      else match o.stop c ts 0 t0 word with
        | some s => all s
        | none => []

/-- One member of a converged group acts on its own; where it must wait, it holds past the convergence (R341, R372). -/
def Chip.collectOne (c : Chip) (word : Word) (o : Op) (id : Nat) : Chip :=
  match c.thread? id with
  | none => c
  | some t => match o.check c [t] 0 t with
    | some (.hold w) => c.onThread id fun t => { t with wait := w, waitSince := c.tick, converged := true }
    | some s => c.applyStop id word s
    | none => (o.run c [t]).finish id o

/-- Whether a stop is only a wait. -/
def Stop.isHold : Stop → Bool
  | .hold _ => true
  | _ => false

/-- A complete collective over GMk (R201, R221). -/
def Chip.collect (c : Chip) (word : Word) (o : Op) (uni : Bool) (ts : List Thread) : Chip :=
  let alone := o.each && !uni
  let st := (o.stops c ts uni word).filter fun p => !(alone && p.2.isHold)
  if st.isEmpty && alone then ts.foldl (fun c t => c.collectOne word o t.id) c
  else if st.isEmpty then ts.foldl (fun c t => c.finish t.id o) (o.run c ts)
  else st.foldl (fun c p => c.applyStop p.1 word p.2) c

/-- Members of GMk that have all arrived, but not at one instruction (R201, R219): each takes what its own instruction takes before
cause 26, or cause 26. None waits any longer when the first of them traps. -/
def Chip.apart (c : Chip) (word : Word) (k : Nat) (ms : List Thread) : Chip :=
  let c0 := ms.foldl (fun c u => c.onThread u.id fun (u : Thread) => { u with wait := .ready, early := none }) c
  ms.foldl (fun c0 u => match u.early with
    | some (cause, v) => c0.applyStop u.id (if cause = 2 then BitVec.ofNat 64 v else word) (.trap cause v)
    | none => c0.applyStop u.id word (.trap 26 (c.gmOf u k).toNat)) c0

/-- Members arrive at a collective over GMk; the last arrival executes it, or gives cause 26 to all (R201). -/
def Chip.arrive (c : Chip) (word : Word) (o : Op) (uni : Bool) (k : Nat) (ids : List Nat) : Chip :=
  let step (c : Chip) (id : Nat) : Chip :=
    match c.thread? id with
    | none => c
    | some t =>
      let m := c.gmOf t k
      let first := o.first c [t] 0 t word
      let early := match first with
        | some (.trap cause v) => some (cause, v)
        | _ => none
      if m.getLsbD t.bit then c.onThread id fun t => { t with wait := .group k true, waitSince := c.tick, early := early }
      else c.applyStop id word (first.getD (.trap 26 (m.toNat + 2 ^ 32)))
  let c := ids.foldl step c
  match ids.findSome? fun id => (c.thread? id).bind fun t => if t.arrivedAt k then some t else none with
  | none => c
  | some t =>
    let ms := c.membersOf t k
    if !(ms.all (·.arrivedAt k)) then c
    else if ms.all fun u => !u.arrivedGwait k && u.pc = t.pc then c.collect word o uni ms
    else c.apart word k ms

/-- Execute an instruction for the participants of the issue in ascending mask-bit order (R193, R201, R203). -/
def State.issueOp (s : State) (o : Op) (group : Option (Nat × Bool)) : State :=
  match s.issue with
  | none => s
  | some i =>
    let s := { s with chip := i.parts.foldl (fun c id => (c.tileReturned id).readBars id o.uses) s.chip }
    match group with
    | none => { s with chip := i.parts.foldl (fun c id => c.issueOne i.word o id) s.chip }
    | some (k, uni) =>
      let hart := i.parts.any fun id => match s.chip.thread? id with | some t => t.onHart | none => false
      if hart then { s with chip := i.parts.foldl (fun c id => c.applyStop id i.word .depart) s.chip }
      else
        -- a member that holds past the convergence goes on alone
        let late (id : Nat) : Bool := match s.chip.thread? id with | some t => t.converged | none => false
        let c := (i.parts.filter late).foldl (fun c id => c.collectOne i.word o id) s.chip
        let rest := i.parts.filter fun id => !late id
        { s with chip := if rest.isEmpty then c else c.arrive i.word o uni k rest }

/-- The group and uniform bit of a long instruction (R203, R205). -/
def Long.group (f : Long) : Option (Nat × Bool) := if f.grouped then some (f.g.toNat, f.u) else none

/-- Execute a long instruction (R201, R203). -/
def State.long (s : State) (f : Long) (o : Op) : State := s.issueOp o (Long.group f)

/-- The effect of a register instruction: each thread's result from the sources as they stood; with U = 1 rank 0's result
goes to every member, and only rank 0's generator advances (R205, R262). -/
def regRun (uni : Bool) (body : Chip → List Thread → Nat → Thread → Eff) (c : Chip) (ts : List Thread) : Chip :=
  let effs := (ts.zip (List.range ts.length)).map fun p =>
    if uni then
      let e := body c ts 0 (ts.headD p.1)
      (p.1, if p.2 = 0 then e else { e with trng := none })
    else (p.1, body c ts p.2 p.1)
  effs.foldl (fun c p => c.setThread (p.1.apply (c.bars p.1) p.2)) c

/-- The thread whose B slices a member reads (R204). -/
def bThread (f : Long) (ts : List Thread) (r : Nat) (t : Thread) : Thread :=
  if f.grouped then ts.getD (permRank f.x r ts.length) t else t

/-- A register instruction, with the sources that pass through the crossbar (R204, R299, R314). -/
def regOp (f : Long) (u : Uses) (cross : List Span) (body : Chip → List Thread → Nat → Thread → Eff) : Op :=
  { uses := u, run := regRun (f.u && f.grouped) body, cross := cross, source := bThread f }

/-- The step runs the package while it is on: an instruction's outcome from a change of the state. -/
def done (s : State) : Host.Outcome State Fault Refusal := .next s

end Sys2Proof.Machine
end

