-- ==== Sys2Proof/Machine/Barriers.lean ====
section
/-! DEFINITION. Phase-barrier words: arrivals, engine completions, faults and flips (R251, R252, R351, R352). -/
namespace Sys2Proof.Machine

/-- Phase of a barrier word (R251). -/
def pbPhase (w : Nat) : Bool := w.testBit 63
/-- Pending bytes of a barrier word, in 16-byte units (R251). -/
def pbUnits (w : Nat) : Nat := bits 22 0 w
/-- Pending arrivals (R251). -/
def pbPending (w : Nat) : Nat := bits 39 24 w
/-- Expected arrivals (R251). -/
def pbExpected (w : Nat) : Nat := bits 55 40 w
/-- Fault seen (R251). -/
def pbSeen (w : Nat) : Bool := w.testBit 23

/-- A barrier word from its fields (R251). -/
def pbWord (phase error : Bool) (code expected pending : Nat) (seen : Bool) (units : Nat) : Nat :=
  flag phase * 2 ^ 63 + flag error * 2 ^ 62 + code * 2 ^ 56 + expected * 2 ^ 40 + pending * 2 ^ 24 + flag seen * 2 ^ 23 + units

/-- Record a fault: the first of a phase sets fault seen, error and its code (R251). -/
def pbRecord (w code : Nat) : Nat :=
  if pbSeen w then w else pbWord (pbPhase w) true code (pbExpected w) (pbPending w) true (pbUnits w)

/-- Subtract arrivals and units; below zero leaves zero and records code 6 (R251). -/
def pbSubtract (w arr units : Nat) : Nat :=
  let under := decide (pbPending w < arr) || decide (pbUnits w < units)
  let w := if under then pbRecord w 6 else w
  pbWord (pbPhase w) (w.testBit 62) (bits 61 56 w) (pbExpected w) (pbPending w - arr) (pbSeen w) (pbUnits w - units)

/-- The flip, where both counts are zero (R251). -/
def pbFlip (w : Nat) : Nat :=
  if pbPending w = 0 && pbUnits w = 0 then
    let keep := pbSeen w
    pbWord (!pbPhase w) (keep && w.testBit 62) (if keep then bits 61 56 w else 0) (pbExpected w) (pbExpected w) false 0
  else w

/-- One update: the operation's own fault first, then the subtraction, then the flip (R251). -/
def pbUpdate (w arr units fault : Nat) : Nat :=
  pbFlip (pbSubtract (if fault = 0 then w else pbRecord w fault) arr units)

/-- Location of PBk of a block (R154, R251). -/
def Chip.pbLoc (c : Chip) (b : Block) (k : Nat) : Nat := spAddr c b (pbOffset b k)

/-- The word of PBk. -/
def Chip.pbRead (c : Chip) (b : Block) (k : Nat) : Nat := cellRead c.mem.bytes (c.pbLoc b k) 8

/-- Whether the granule of PBk is poisoned (R251, R351). -/
def Chip.pbPoisoned (c : Chip) (b : Block) (k : Nat) : Bool := c.poisonedAt (c.pbLoc b k)

/-- Replace the word of PBk. -/
def Chip.pbPut (c : Chip) (b : Block) (k w : Nat) : Chip := c.putBytes (c.pbLoc b k) (bytesOf w 8)

/-- Threads that wait for a phase other than the one that now holds return: each return is an acquire of cluster scope
(R145, R352, R366). -/
def Chip.pbWake (c : Chip) (b : Block) (k : Nat) (phase : Bool) : Chip :=
  let waits (t : Thread) : Bool := t.ofBlock b.id && (match t.wait with | .barrier j past _ => j = k && past != phase | _ => false)
  ((c.threads.filter waits).map (·.id)).foldl (fun c id =>
    (c.onThread id fun t => { t.complete 4 with arrived := none }).acquire id 2) c

/-- One update of PBk: arrivals, units, a fault code; a poisoned word takes none (R251). -/
def Chip.pbApply (c : Chip) (b : Block) (k arr units fault : Nat) : Chip :=
  if k = 255 || c.pbPoisoned b k then c
  else
    let w := c.pbRead b k
    let w' := pbUpdate w arr units fault
    let c := c.pbPut b k w'
    if pbPhase w' = pbPhase w then c else c.pbWake b k (pbPhase w')

/-- A copy adds its units when it issues (R251). -/
def Chip.pbAdd (c : Chip) (b : Block) (k units : Nat) : Chip :=
  if k = 255 || c.pbPoisoned b k then c else c.pbPut b k (c.pbRead b k + units)

/-- Whether a copy of some units fits the pending bytes (R341). -/
def Chip.pbFits (c : Chip) (b : Block) (k units : Nat) : Bool :=
  k = 255 || c.pbPoisoned b k || decide (pbUnits (c.pbRead b k) + units ≤ 0x7F_FFFF)

end Sys2Proof.Machine
end

