-- ==== Sys2Proof/Machine/Flags.lean ====
section
/-! DEFINITION. Floating formats, exact values, rounding, flags, the approximations and the block packs (R256-R269,
R320). -/
namespace Sys2Proof.Machine

/-- Precision P of a format (R256). -/
def Fmt.prec : Fmt → Nat
  | .fp64 => 53 | .fp32 => 24 | .fp16 => 11 | .bf16 => 8 | .e4m3 => 4 | .e5m2 => 3

/-- Exponent bias of a format (R256). -/
def Fmt.bias : Fmt → Int
  | .fp64 => 1023 | .fp32 => 127 | .fp16 => 15 | .bf16 => 127 | .e4m3 => 7 | .e5m2 => 15

/-- The all-ones exponent field, 16 for E4M3 (R256). -/
def Fmt.emax : Fmt → Nat
  | .fp64 => 2047 | .fp32 => 255 | .fp16 => 31 | .bf16 => 255 | .e4m3 => 16 | .e5m2 => 31

/-- Whether a format has 16 bits or fewer (R260, R265). -/
def Fmt.narrow : Fmt → Bool
  | .fp64 => false | .fp32 => false | _ => true

/-- The canonical NaN (R257). -/
def Fmt.nan : Fmt → Nat
  | .fp64 => 0x7FF8_0000_0000_0000 | .fp32 => 0x7FC0_0000 | .fp16 => 0x7E00 | .bf16 => 0x7FC0
  | .e4m3 => 0x7F | .e5m2 => 0x7E

/-- An exact value: a NaN, an infinity, or (-1)^neg * m * 2^e; m = 0 is a zero of its sign. -/
inductive Fv where
  | nan (signalling : Bool)
  | inf (neg : Bool)
  | fin (neg : Bool) (m : Nat) (e : Int)
  deriving DecidableEq, Repr, Inhabited

/-- The positive zero. -/
def Fv.zero : Fv := .fin false 0 0

/-- The sign bit of a format (R256). -/
def Fmt.signBit (F : Fmt) : Nat := 2 ^ (F.width - 1)

/-- Exact value of a pattern (R256, R257). -/
def Fmt.value (F : Fmt) (v : Nat) : Fv :=
  let fb := Fmt.prec F - 1
  let neg := v.testBit (F.width - 1)
  let e := (v >>> fb) % 2 ^ (F.width - 1 - fb)
  let f := v % 2 ^ fb
  if e = Fmt.emax F then
    if f = 0 then .inf neg
    else .nan (match F with | .e5m2 => false | _ => !f.testBit (fb - 1))
  else if F = .e4m3 && e = 15 && f = 7 then .nan false
  else if e = 0 then .fin neg f (1 - Fmt.bias F - fb)
  else .fin neg (2 ^ fb + f) ((e : Int) - Fmt.bias F - fb)

/-- A subnormal pattern (R256). -/
def Fmt.subnormal (F : Fmt) (v : Nat) : Bool :=
  let fb := Fmt.prec F - 1
  (v >>> fb) % 2 ^ (F.width - 1 - fb) = 0 && v % 2 ^ fb ≠ 0

/-- Sticky flags to set: fflags NV DZ OF UF NX in bits 4:0 and tflags NANB TERN FLUSH SAT in bits 3:0 (R266). -/
structure Fl where
  ff : BitVec 5 := 0
  tf : BitVec 4 := 0
  deriving DecidableEq, Repr, Inhabited

/-- Both sets of flags. -/
def Fl.or (a b : Fl) : Fl := ⟨a.ff ||| b.ff, a.tf ||| b.tf⟩

def flNone : Fl := {}
def flNV : Fl := { ff := 16 }
def flDZ : Fl := { ff := 8 }
def flNX : Fl := { ff := 1 }
def flSAT : Fl := { tf := 1 }
def flFLUSH : Fl := { tf := 2 }
def flTERN : Fl := { tf := 4 }
def flNANB : Fl := { tf := 8 }

/-- Set a flag where a condition holds. -/
def Fl.when (b : Bool) (f : Fl) : Fl := if b then f else {}

/-- A result: its pattern, the flags, and the trng that follows. -/
structure Res where
  val : Nat
  fl : Fl := {}
  trng : Word
  deriving DecidableEq, Repr, Inhabited

/-- One step of trng (R262). -/
def srNext (t : Word) : Word :=
  let s := t ^^^ (t <<< 13)
  let s := s ^^^ (s >>> 7)
  s ^^^ (s <<< 17)

/-- The 24 bits that a step draws (R262). -/
def srDraw (t : Word) : Nat := bits 63 40 (srNext t).toNat

/-- Whether the magnitude lo + num/den rounds up (R261); u is the stochastic draw. -/
def roundsUp (rm : Nat) (neg : Bool) (lo num den u : Nat) : Bool :=
  match rm with
  | 0 => decide (den < 2 * num) || (decide (2 * num = den) && decide (lo % 2 = 1))
  | 1 => false
  | 2 => neg && decide (0 < num)
  | 3 => !neg && decide (0 < num)
  | 4 => decide (den ≤ 2 * num)
  | _ => decide (2 ^ 24 ≤ num * 2 ^ 24 / den + u)

/-- quant of m * 2^k in a mode: the rounded magnitude, and whether it is inexact (R261). -/
def quantMag (rm : Nat) (neg : Bool) (m : Nat) (k : Int) (u : Nat) : Nat × Bool :=
  if 0 ≤ k then (m <<< k.toNat, false)
  else
    let den := 2 ^ (-k).toNat
    let lo := m / den
    let num := m % den
    (if roundsUp rm neg lo num den u then lo + 1 else lo, decide (num ≠ 0))

/-- Pattern of the largest finite magnitude (R256). -/
def Fmt.largest (F : Fmt) : Nat :=
  match F with
  | .e4m3 => 0x7E
  | _ => Fmt.emax F * 2 ^ (Fmt.prec F - 1) - 1

/-- Pattern of +∞; E4M3 has none (R257). -/
def Fmt.infinity (F : Fmt) : Nat := Fmt.emax F * 2 ^ (Fmt.prec F - 1)

/-- Add the sign to a magnitude pattern. -/
def Fmt.signed (F : Fmt) (neg : Bool) (v : Nat) : Nat := if neg then v + Fmt.signBit F else v

/-- An infinite input (R263). -/
def Fmt.ofInf (F : Fmt) (neg : Bool) : Nat × Fl :=
  match F with
  | .e4m3 => (Fmt.signed F neg 0x7E, flSAT)
  | _ => (Fmt.signed F neg (Fmt.infinity F), {})

/-- A finite result out of range (R263). -/
def Fmt.overflowed (F : Fmt) (rm : Nat) (neg : Bool) : Nat × Fl :=
  match F with
  | .e4m3 => (Fmt.signed F neg 0x7E, { ff := 5, tf := 1 })
  | .e5m2 => (Fmt.signed F neg 0x7B, { ff := 5, tf := 1 })
  | _ =>
    let big := rm = 1 || (rm = 2 && !neg) || (rm = 3 && neg)
    (Fmt.signed F neg (if big then Fmt.largest F else Fmt.infinity F), { ff := 5 })

/-- Pattern of n units of the grid of exponent ex, where n ≤ 2^P; none when out of range (R261, R263). -/
def Fmt.pack (F : Fmt) (ex : Int) (n : Nat) : Option Nat :=
  let p := Fmt.prec F
  let (ex, n) := if n = 2 ^ p then (ex + 1, 2 ^ (p - 1)) else (ex, n)
  let v := if n < 2 ^ (p - 1) then n else (ex + Fmt.bias F).toNat * 2 ^ (p - 1) + (n - 2 ^ (p - 1))
  if Fmt.largest F < v then none else some v

/-- round_fmt of an exact finite value with overflow, underflow and flush (R261, R263, R265); u is the draw of mode 5. -/
def roundFinite (F : Fmt) (rm : Nat) (ftz neg : Bool) (m : Nat) (e : Int) (u : Nat) : Nat × Fl :=
  if m = 0 then (Fmt.signed F neg 0, {}) else
  let p : Int := Fmt.prec F
  let lg : Int := (Nat.log2 m : Int) + e
  let ex := max lg (1 - Fmt.bias F)
  let (n, inexact) := quantMag rm neg m (e - (ex - (p - 1))) u
  -- tininess after rounding with an unbounded exponent range
  let (nu, _) := quantMag rm neg m (e - (lg - (p - 1))) u
  let lgu := if nu = 2 ^ Fmt.prec F then lg + 1 else lg
  let tiny := decide (lgu < 1 - Fmt.bias F)
  if ftz && Fmt.narrow F && tiny then (Fmt.signed F neg 0, { ff := 3, tf := 2 })
  else match Fmt.pack F ex n with
    | none => Fmt.overflowed F rm neg
    | some v => (Fmt.signed F neg v, { ff := if inexact then (if tiny then 3 else 1) else 0 })

/-- Write an exact value into a format (R313): one trng step for each finite value rounded in mode 5 (R262). -/
def roundTo (F : Fmt) (rm : Nat) (ftz : Bool) (trng : Word) : Fv → Res
  | .nan _ => ⟨Fmt.nan F, {}, trng⟩
  | .inf neg => let r := Fmt.ofInf F neg; ⟨r.1, r.2, trng⟩
  | .fin neg m e =>
    let r := roundFinite F rm ftz neg m e (srDraw trng)
    ⟨r.1, r.2, if rm = 5 then srNext trng else trng⟩

/-- round_rne into a format, pattern only (R261). -/
def roundRne (F : Fmt) (ftz : Bool) (x : Fv) : Nat := (roundTo F 0 ftz 1 x).val

/-- The input of a floating operand with the flush of R265: its value and flags. -/
def flushIn (F : Fmt) (ftz : Bool) (v : Nat) : Fv × Fl :=
  if ftz && Fmt.narrow F && Fmt.subnormal F v then (.fin (v.testBit (F.width - 1)) 0 0, flFLUSH)
  else (Fmt.value F v, {})

/-- NV of a signalling NaN input (R257). -/
def snanFlag : Fv → Fl
  | .nan true => flNV
  | _ => {}

/-- Sign of a value that is not a NaN. -/
def Fv.neg : Fv → Bool
  | .nan _ => false
  | .inf n => n
  | .fin n _ _ => n

/-- Whether a value is a NaN. -/
def Fv.isNan : Fv → Bool
  | .nan _ => true
  | _ => false

/-- Change of sign; a NaN stays (R316). -/
def Fv.negate : Fv → Fv
  | .nan s => .nan s
  | .inf n => .inf !n
  | .fin n m e => .fin (!n) m e

/-- The signed integer at an exponent at or below both. -/
def scaleTo (neg : Bool) (m : Nat) (e lo : Int) : Int :=
  let v : Int := (m <<< (e - lo).toNat : Nat)
  if neg then -v else v

/-- Exact sum of finite values; a zero sum is +0, or -0 in mode 2, but two zeros of one sign keep it (R316). -/
def addFin (rm : Nat) (n1 : Bool) (m1 : Nat) (e1 : Int) (n2 : Bool) (m2 : Nat) (e2 : Int) : Fv :=
  if m1 = 0 && m2 = 0 then .fin (if n1 = n2 then n1 else decide (rm = 2)) 0 0
  else
    let lo := min e1 e2
    let s := scaleTo n1 m1 e1 lo + scaleTo n2 m2 e2 lo
    if s = 0 then .fin (decide (rm = 2)) 0 0 else .fin (decide (s < 0)) s.natAbs lo

/-- Exact sum with the special values of IEEE 754-2019 (R316). -/
def fvAdd (rm : Nat) : Fv → Fv → Fv × Fl
  | .nan a, .nan b => (.nan false, Fl.when (a || b) flNV)
  | .nan a, _ => (.nan false, Fl.when a flNV)
  | _, .nan b => (.nan false, Fl.when b flNV)
  | .inf a, .inf b => if a = b then (.inf a, {}) else (.nan false, flNV)
  | .inf a, _ => (.inf a, {})
  | _, .inf b => (.inf b, {})
  | .fin n1 m1 e1, .fin n2 m2 e2 => (addFin rm n1 m1 e1 n2 m2 e2, {})

/-- Exact product with the special values of IEEE 754-2019 (R316). -/
def fvMul : Fv → Fv → Fv × Fl
  | .nan a, .nan b => (.nan false, Fl.when (a || b) flNV)
  | .nan a, _ => (.nan false, Fl.when a flNV)
  | _, .nan b => (.nan false, Fl.when b flNV)
  | .inf a, .inf b => (.inf (a != b), {})
  | .inf a, .fin n m _ => if m = 0 then (.nan false, flNV) else (.inf (a != n), {})
  | .fin n m _, .inf b => if m = 0 then (.nan false, flNV) else (.inf (n != b), {})
  | .fin n1 m1 e1, .fin n2 m2 e2 => (.fin (n1 != n2) (m1 * m2) (e1 + e2), {})

/-- Exact a * b + d (R316). -/
def fvMad (rm : Nat) (a b d : Fv) : Fv × Fl :=
  let p := fvMul a b
  let s := fvAdd rm p.1 d
  (s.1, p.2.or (s.2.or (snanFlag d)))

/-- Compare two exact values that are not NaN: less than (R318); the zeros are equal. -/
def fvLt : Fv → Fv → Bool
  | .inf a, .inf b => a && !b
  | .inf a, .fin _ _ _ => a
  | .fin _ _ _, .inf b => !b
  | .fin n1 m1 e1, .fin n2 m2 e2 => let lo := min e1 e2; decide (scaleTo n1 m1 e1 lo < scaleTo n2 m2 e2 lo)
  | _, _ => false

/-- Equality of two exact values that are not NaN (R318). -/
def fvEq : Fv → Fv → Bool
  | .inf a, .inf b => a == b
  | .fin n1 m1 e1, .fin n2 m2 e2 => let lo := min e1 e2; decide (scaleTo n1 m1 e1 lo = scaleTo n2 m2 e2 lo)
  | _, _ => false

/-- Whether a value is a zero. -/
def Fv.isZero : Fv → Bool
  | .fin _ m _ => m = 0
  | _ => false

/-- Order of the minimum operations: -0 lies below +0 (R317). -/
def fvBelow (a b : Fv) : Bool := fvLt a b || (a.isZero && b.isZero && a.neg && !b.neg)

/-- minimumNumber (R317). -/
def fvMin (a b : Fv) : Fv × Fl :=
  let fl := (snanFlag a).or (snanFlag b)
  if a.isNan then (if b.isNan then (.nan false, fl) else (b, fl))
  else if b.isNan then (a, fl)
  else (if fvBelow b a then b else a, fl)

/-- maximumNumber (R317). -/
def fvMax (a b : Fv) : Fv × Fl :=
  let fl := (snanFlag a).or (snanFlag b)
  if a.isNan then (if b.isNan then (.nan false, fl) else (b, fl))
  else if b.isNan then (a, fl)
  else (if fvBelow a b then b else a, fl)

/-- The class of a value, one bit of ten (R319). -/
def fvClass (F : Fmt) (v : Nat) (x : Fv) : Nat :=
  match x with
  | .nan s => if s then 256 else 512
  | .inf n => if n then 1 else 128
  | .fin n m _ =>
    if m = 0 then (if n then 8 else 16)
    else if Fmt.subnormal F v then (if n then 4 else 32)
    else if n then 2 else 64

/-- A value converted to an integer of a width (R263, R321). -/
def toInteger (signed : Bool) (w rm : Nat) (trng : Word) (x : Fv) : Res :=
  let hi : Int := if signed then 2 ^ (w - 1) - 1 else 2 ^ w - 1
  let lo : Int := if signed then -(2 ^ (w - 1)) else 0
  let put (v : Int) : Nat := (v % 2 ^ w).toNat
  match x with
  | .nan _ => ⟨put hi, flNV, trng⟩
  | .inf n => ⟨put (if n then lo else hi), flNV, trng⟩
  | .fin n m e =>
    let (q, inexact) := quantMag rm n m e (srDraw trng)
    let v : Int := if n then -(q : Int) else q
    let t := if rm = 5 then srNext trng else trng
    if v < lo then ⟨put lo, flNV, t⟩
    else if hi < v then ⟨put hi, flNV, t⟩
    else ⟨put v, Fl.when inexact flNX, t⟩

/-- An integer as an exact value (R321). -/
def ofInteger (v : Int) : Fv := .fin (decide (v < 0)) v.natAbs 0

/-- Quotient of finite values with a sticky last bit, precise enough for every format. -/
def divFin (n1 : Bool) (m1 : Nat) (e1 : Int) (n2 : Bool) (m2 : Nat) (e2 : Int) : Fv :=
  let q := (m1 <<< 128) / m2
  let sticky := flag (decide ((m1 <<< 128) % m2 ≠ 0))
  .fin (n1 != n2) (2 * q + sticky) (e1 - e2 - 129)

/-- IEEE 754-2019 division, for the standard instructions (R101). -/
def fvDiv : Fv → Fv → Fv × Fl
  | .nan a, .nan b => (.nan false, Fl.when (a || b) flNV)
  | .nan a, _ => (.nan false, Fl.when a flNV)
  | _, .nan b => (.nan false, Fl.when b flNV)
  | .inf _, .inf _ => (.nan false, flNV)
  | .inf a, .fin n _ _ => (.inf (a != n), {})
  | .fin n _ _, .inf b => (.fin (n != b) 0 0, {})
  | .fin n1 m1 e1, .fin n2 m2 e2 =>
    if m2 = 0 then (if m1 = 0 then (.nan false, flNV) else (.inf (n1 != n2), flDZ))
    else if m1 = 0 then (.fin (n1 != n2) 0 0, {})
    else (divFin n1 m1 e1 n2 m2 e2, {})

/-- Integer square root by digits: r with r^2 ≤ x, from n bits. -/
def isqrtFrom (x : Nat) : Nat → Nat → Nat
  | 0, r => r
  | n + 1, r => let t := r + 2 ^ n; isqrtFrom x n (if t * t ≤ x then t else r)

/-- Floor of the square root. -/
def isqrt (x : Nat) : Nat := isqrtFrom x (Nat.log2 x / 2 + 1) 0

/-- IEEE 754-2019 square root, for the standard instructions (R101). -/
def fvSqrt : Fv → Fv × Fl
  | .nan a => (.nan false, Fl.when a flNV)
  | .inf n => if n then (.nan false, flNV) else (.inf false, {})
  | .fin n m e =>
    if m = 0 then (.fin n 0 0, {})
    else if n then (.nan false, flNV)
    else
      let (m, e) := if e % 2 = 0 then (m, e) else (2 * m, e - 1)
      let x := m <<< 256
      let r := isqrt x
      (.fin false (2 * r + flag (decide (r * r ≠ x))) (e / 2 - 129), {})

/-- A magnitude bracketed below: n units of 2^q, with the exponent of its leading bit, and whether it is exact. -/
structure Bracket where
  lg : Int
  /-- units of 2^(lg - prec) where prec is 200 -/
  n : Nat
  exact : Bool

/-- The units of 2^q in a bracket, rounded down, and whether that is exact. -/
def Bracket.units (b : Bracket) (q : Int) : Nat × Bool :=
  let k := b.lg - 200 - q
  if 0 ≤ k then (b.n <<< k.toNat, b.exact)
  else (b.n >>> (-k).toNat, b.exact && decide (b.n % 2 ^ (-k).toNat = 0))

/-- 2^(2^-i) for i = k, k+1, ... as 256-bit fixed point, rounded down, from the one before. -/
def rootsOfTwo : Nat → Nat → List Nat
  | 0, _ => []
  | n + 1, s => let r := isqrt (s <<< 256); r :: rootsOfTwo n r

/-- Product of the roots whose bit of the fraction is set. -/
def exp2Frac : List Nat → List Bool → Nat → Nat
  | r :: rs, b :: bs, acc => exp2Frac rs bs (if b then (acc * r) >>> 256 else acc)
  | _, _, acc => acc

/-- The first n bits below the point of m * 2^e with e < 0. -/
def fracBits (m : Nat) (k : Nat) : Nat → List Bool
  | 0 => []
  | n + 1 => match k with
    | 0 => []
    | k + 1 => m.testBit k :: fracBits m k n

/-- 2^x for finite x: bracket of the magnitude (R320); exact for an integer x. -/
def exp2Bracket (neg : Bool) (m : Nat) (e : Int) : Bracket :=
  let k := (-e).toNat
  let v : Int := if neg then -(m : Int) else m
  if 0 ≤ e then ⟨v * 2 ^ e.toNat, 2 ^ 200, true⟩
  else
    let i := v / 2 ^ k
    let f := (v % 2 ^ k).toNat
    if f = 0 then ⟨i, 2 ^ 200, true⟩
    else ⟨i, exp2Frac (rootsOfTwo 230 (2 <<< 256)) (fracBits f k 230) (1 <<< 256) >>> 56, false⟩

/-- Bits of log2 of a 400-bit fixed-point number in [1, 2), n of them. -/
def log2Bits : Nat → Nat → Nat → Nat
  | 0, _, acc => acc
  | n + 1, x, acc =>
    let y := (x * x) >>> 600
    if y < 2 ^ 601 then log2Bits n y (2 * acc) else log2Bits n (y >>> 1) (2 * acc + 1)

/-- |log2 x| for x = m * 2^e that is not 1: sign and bracket (R320); exact for a power of two. -/
def log2Bracket (m : Nat) (e : Int) : Bool × Bracket :=
  let l := (Nat.log2 m : Int) + e
  let norm (n : Nat) (k : Int) (ex : Bool) : Bracket :=
    -- n * 2^k as a bracket of 200 bits below its leading one
    let lg := (Nat.log2 n : Int) + k
    let s := lg - 200 - k
    ⟨lg, if 0 ≤ s then n >>> s.toNat else n <<< (-s).toNat, ex⟩
  if m = 2 ^ Nat.log2 m then (decide (l < 0), norm l.natAbs 0 true)
  else
    let g := log2Bits 400 ((m <<< 600) >>> Nat.log2 m) 0
    let v := l * 2 ^ 400 + (g : Int)
    -- |v| lies in [|v|, |v| + 1) units for v ≥ 0, in (|v| - 1, |v|] for v < 0
    if 0 ≤ v then (false, norm v.toNat (-400) false) else (true, norm (v.natAbs - 1) (-400) false)

/-- 1 / x for finite x = m * 2^e, m ≠ 0: bracket of the magnitude (R320). -/
def rcpBracket (m : Nat) (e : Int) : Bracket :=
  let l := Nat.log2 m
  let lg : Int := if m = 2 ^ l then -(l : Int) - e else -(l : Int) - 1 - e
  -- n = floor(2^(-e - lg + 200) / m)
  let k := (-e - lg + 200).toNat
  ⟨lg, 2 ^ k / m, decide (2 ^ k % m = 0)⟩

/-- 1 / sqrt x for x = m * 2^e > 0: bracket (R320). -/
def rsqBracket (m : Nat) (e : Int) : Bracket :=
  let l := (Nat.log2 m : Int) + e
  let pow := decide (m = 2 ^ Nat.log2 m)
  let lg : Int := if pow && l % 2 = 0 then -(l / 2) else -(l / 2) - 1
  -- n = floor(sqrt(2^(400 - 2 lg - e) / m))
  let k := (400 - 2 * lg - e).toNat
  let n := isqrt (2 ^ k / m)
  ⟨lg, n, decide (n * n * m = 2 ^ k)⟩

/-- An approximation's result: the bracketed value if it is representable, else the lower or the upper neighbour, which
the free choice picks (R320; notes/assumptions/6). -/
def approxPick (F : Fmt) (ftz neg : Bool) (b : Bracket) (up : Bool) : Nat × Fl :=
  let p : Int := Fmt.prec F
  let ex := max b.lg (1 - Fmt.bias F)
  let (n, exact) := b.units (ex - (p - 1))
  -- out of range is decided on the nearest value, ties to even, as R263 states for mode 0
  let (h, half) := b.units (ex - (p - 1) - 1)
  let near := if exact || h % 2 = 0 then n else if half then n + n % 2 else n + 1
  match Fmt.pack F ex near with
  | none => Fmt.overflowed F 0 neg
  | some _ =>
    let pick := if exact || !up || Fmt.pack F ex (n + 1) = none then n else n + 1
    let v := (Fmt.pack F ex pick).getD (Fmt.largest F)
    let tiny := decide (b.lg < 1 - Fmt.bias F) && decide (v < 2 ^ (Fmt.prec F - 1))
    if ftz && Fmt.narrow F && tiny then (Fmt.signed F neg 0, { ff := 3, tf := 2 })
    else (Fmt.signed F neg v, { ff := if exact then 0 else if tiny then 3 else 1 })

/-- The four approximations (R320): 0 frcp, 1 frsq, 2 fexp2, 3 flog2. fb is the source pattern after the flush. -/
def approximate (op : Nat) (F S : Fmt) (ftz : Bool) (pattern : Nat) (x : Fv) : Nat × Fl :=
  let up := Config.approxUp op (fmtCode F) (fmtCode S) pattern
  match op, x with
  | _, .nan s => (Fmt.nan F, Fl.when s flNV)
  | 0, .inf n => (Fmt.signed F n 0, {})
  | 0, .fin n m e =>
    if m = 0 then (let r := Fmt.ofInf F n; (r.1, r.2.or flDZ)) else approxPick F ftz n (rcpBracket m e) up
  | 1, .inf n => if n then (Fmt.nan F, flNV) else (0, {})
  | 1, .fin n m e =>
    if m = 0 then (let r := Fmt.ofInf F n; (r.1, r.2.or flDZ))
    else if n then (Fmt.nan F, flNV)
    else approxPick F ftz false (rsqBracket m e) up
  | 2, .inf n => if n then (0, {}) else Fmt.ofInf F false
  | 2, .fin n m e =>
    if m = 0 then approxPick F ftz false (exp2Bracket false 0 0) up
    -- beyond every format's range whatever the fraction
    else if 20 ≤ (Nat.log2 m : Int) + e then
      (if n then approxPick F ftz false ⟨-2000000, 2 ^ 200, false⟩ up else Fmt.overflowed F 0 false)
    else approxPick F ftz false (exp2Bracket n m e) up
  | _, .inf n => if n then (Fmt.nan F, flNV) else Fmt.ofInf F false
  | _, .fin n m e =>
    if m = 0 then (let r := Fmt.ofInf F true; (r.1, r.2.or flDZ))
    else if n then (Fmt.nan F, flNV)
    else if (Nat.log2 m : Int) + e = 0 && m = 2 ^ Nat.log2 m then (0, {})
    else let r := log2Bracket m e; approxPick F ftz r.1 r.2 up
where
  /-- Width code of a format (R277). -/
  fmtCode : Fmt → Nat
    | .e5m2 => 0 | .e4m3 => 1 | .bf16 => 2 | .fp16 => 3 | .fp32 => 5 | .fp64 => 7

/-- A rounding code resolved (R260): none for code 6 and for a dynamic frm of 5-7. The flag says that the destination is a
floating format of 16 bits or fewer, or a pack's block format. -/
def resolveMode (code frm : Nat) (srdyn small : Bool) : Option Nat :=
  if code = 6 then none
  else if code = 7 then
    if srdyn && small then some 5 else if frm ≤ 4 then some frm else none
  else some code

/-- A block record in the making: exponent, elements in order, and per element its flags and the trng that follows. -/
structure BlockRes where
  e : Nat
  els : List Int
  fls : List Fl
  trngs : List Word
  /-- flags of the whole block (R323) -/
  all : Fl

/-- Magnitude order of finite values: m1 * 2^e1 < m2 * 2^e2. -/
def magLt (m1 : Nat) (e1 : Int) (m2 : Nat) (e2 : Int) : Bool :=
  let lo := min e1 e2
  decide (m1 <<< (e1 - lo).toNat < m2 <<< (e2 - lo).toNat)

/-- floor(log2) of the largest magnitude, none where every value is zero (R267). -/
def maxLog : List Fv → Option Int
  | [] => none
  | .fin _ m e :: r =>
    if m = 0 then maxLog r
    else
      let l := (Nat.log2 m : Int) + e
      match maxLog r with | none => some l | some k => some (max l k)
  | _ :: r => maxLog r

/-- One element quantised to [lo, hi] at a scale of 2^k (R267, R268): value and flags. -/
def quantElem (rm : Nat) (k lo hi : Int) (trng : Word) : Fv → Int × Fl × Word
  | .fin n m e =>
    let (q, inexact) := quantMag rm n m (e + k) (srDraw trng)
    let y : Int := if n then -(q : Int) else q
    let c := max lo (min hi y)
    (c, Fl.or (Fl.when (decide (c ≠ y)) flSAT) (Fl.when (inexact || decide (c ≠ y)) flNX),
      if rm = 5 then srNext trng else trng)
  | _ => (0, {}, trng)

/-- Quantise a list with a flag for each value that is kept and a generator for each (R267, R269, R323). -/
def quantList (rm : Nat) (k lo hi : Int) : List (Fv × Bool × Word) → List (Int × Fl × Word)
  | [] => []
  | (v, keep, t) :: r =>
    (if keep then quantElem rm k lo hi t v else (0, {}, t)) :: quantList rm k lo hi r

/-- Block exponent selection and rounding (R267-R269): bias is 128 for BXm and 127 for ternary, scale the element's
fraction bits. -/
def packBlock (rm : Nat) (bias scale lo hi : Int) (vs : List (Fv × Bool × Word)) : BlockRes :=
  let ts := vs.map fun v => v.2.2
  let zeros := vs.map fun _ => (0 : Int)
  let none_ := vs.map fun _ => flNone
  if vs.any fun v => match v.1 with | .fin _ _ _ => false | _ => true then
    ⟨255, zeros, none_, ts, flNV.or flNANB⟩
  else match maxLog (vs.map (·.1)) with
    | none => ⟨0, zeros, none_, ts, {}⟩
    | some l =>
      let e := min 254 (max 1 (l + bias))
      let q := quantList rm (scale - (e - 127)) lo hi vs
      let ms := q.map (·.1)
      let allZero := (List.zip ms vs).all fun p => p.1 = 0 || !p.2.2.1
      ⟨if allZero then 0 else e.toNat, ms, q.map fun x => x.2.1, q.map fun x => x.2.2, {}⟩

/-- A BXm pack of 32 values (R267). -/
def packBx (m rm : Nat) (vs : List (Fv × Bool × Word)) : BlockRes :=
  packBlock rm 128 (m - 1) (-(2 ^ (m - 1))) (2 ^ (m - 1) - 1) vs

/-- A ternary pack of 32 values (R268). -/
def packTern (rm : Nat) (vs : List (Fv × Bool × Word)) : BlockRes := packBlock rm 127 0 (-1) 1 vs

/-- a outranks b in compress: a NaN first, then the magnitude (R269). -/
def outranks (a b : Fv) : Bool :=
  match a, b with
  | .nan _, .nan _ => false
  | .nan _, _ => true
  | _, .nan _ => false
  | .inf _, .inf _ => false
  | .inf _, _ => true
  | _, .inf _ => false
  | .fin _ m1 e1, .fin _ m2 e2 => magLt m2 e2 m1 e1

/-- The two kept positions of a group of four, rising (R269). -/
def keptPair (g : List Fv) : Nat × Nat :=
  let at_ (i : Nat) := g.getD i Fv.zero
  let best := (List.range 4).foldl (fun b i => if outranks (at_ i) (at_ b) then i else b) 0
  let rest := (List.range 4).filter (· ≠ best)
  let second := rest.foldl (fun b i => if outranks (at_ i) (at_ b) then i else b) (rest.headD 0)
  (min best second, max best second)

/-- Value of a BXm element (R258). -/
def bxValue (m e : Nat) (el : Int) : Fv :=
  if e = 0 then Fv.zero else if e = 255 then .nan false
  else if el = 0 then Fv.zero
  else .fin (decide (el < 0)) el.natAbs ((e : Int) - 127 - (m - 1))

/-- Value of a ternary digit (R258). -/
def ternValue (e : Nat) (t : Int) : Fv :=
  if e = 0 then Fv.zero else if e = 255 then .nan false
  else if t = 0 then Fv.zero else .fin (decide (t < 0)) 1 ((e : Int) - 127)

/-- Value of a scaled FP8 element (R258). -/
def scaled8Value (F : Fmt) (e v : Nat) : Fv :=
  if e = 0 then Fv.zero else if e = 255 then .nan false
  else match Fmt.value F v with
    | .fin n m x => .fin n m (x + (e : Int) - 127)
    | o => o

/-- Two's-complement value of the low w bits. -/
def signedOf (w v : Nat) : Int :=
  let u := v % 2 ^ w
  if 2 ^ w ≤ 2 * u then (u : Int) - 2 ^ w else u

/-- A byte of five ternary digits, 0 to 2 each, least significant first (R259). -/
def ternByte (ds : List Int) : Nat := ds.foldr (fun d n => (d + 1).toNat + 3 * n) 0

/-- Digit i of a ternary byte; a reserved byte decodes as zeros (R259). -/
def ternDigit (b i : Nat) : Int := if 243 ≤ b then 0 else (((b / 3 ^ i) % 3 : Nat) : Int) - 1

end Sys2Proof.Machine
end

