-- ==== Sys2Proof/Machine/Integer.lean ====
section
/-! DEFINITION. Groups 0x0 to 0x3: slice moves, bits, integer and packed arithmetic (R296-R310). -/
namespace Sys2Proof.Machine

/-- The old value of D is read, A is read, B is read: which of them an instruction names. -/
structure Reads where
  d : Bool := false
  a : Bool := true
  b : Bool := true

/-- Slices of an integer instruction (R276). -/
def intUses (f : Long) (r : Reads) : Uses :=
  { reads := (if r.d then [spanI f.d] else []) ++ (if r.a then [spanI f.a] else []) ++ (if r.b then [spanI f.b] else [])
    writes := [spanI f.d] }

/-- An integer instruction from its value function: the member's registers and those its B comes from give the value of D
and whether it saturated (R297, R299, R300). -/
def intEff (f : Long) (r : Reads) (g : BitVec 2048 → BitVec 2048 → Nat × Bool) (c : Chip) (ts : List Thread) (k : Nat)
    (t : Thread) : Eff :=
  let bt := bThread f ts k t
  let own := (if r.d then [spanI f.d] else []) ++ (if r.a then [spanI f.a] else [])
  let v := g t.regs bt.regs
  { sets := [(fStart f.d, fWidth f.d, v.1)]
    poison := t.poisoned (c.bars t) own || (r.b && bt.poisoned (c.bars bt) [spanI f.b])
    tf := if v.2 then 1 else 0 }

/-- An integer instruction (R297, R299). -/
def intOp (f : Long) (r : Reads) (g : BitVec 2048 → BitVec 2048 → Nat × Bool) : Op :=
  regOp f (intUses f r) (if r.b then [spanI f.b] else []) (intEff f r g)

/-- Execute an integer instruction. -/
def intExec (f : Long) (r : Reads) (g : BitVec 2048 → BitVec 2048 → Nat × Bool) (s : State) :
    Host.Outcome State Fault Refusal := done (s.long f (intOp f r g))

/-- A value that does not saturate. -/
def plain (v : Nat) : Nat × Bool := (v, false)

/-- Width of D, the operation width (R297). -/
def Long.w (f : Long) : Nat := fWidth f.d

/-- sat(x, w, sg) of R297: the clamped value as a pattern, and whether it was out of range. -/
def satI (x : Int) (w : Nat) (sg : Bool) : Nat × Bool :=
  let lo : Int := if sg then -(2 ^ (w - 1)) else 0
  let hi : Int := if sg then 2 ^ (w - 1) - 1 else 2 ^ w - 1
  (zextI (min hi (max lo x)) w, decide (x < lo) || decide (hi < x))

/-- a of R304 as an integer. -/
def aInt (f : Long) (sg : Bool) (r : BitVec 2048) : Int := ival (srcOf r f.a (Long.w f) sg) (Long.w f) sg
/-- b of R304 as an integer. -/
def bInt (f : Long) (sg : Bool) (r : BitVec 2048) : Int := ival (srcOf r f.b (Long.w f) sg) (Long.w f) sg
/-- d of R304 as an integer. -/
def dInt (f : Long) (sg : Bool) (r : BitVec 2048) : Int := ival (srcOf r f.d (Long.w f) sg) (Long.w f) sg

/-- A one-source instruction of group 0x0 from a function of b at w bits (R301). -/
def oneExec (f : Long) (sg : Bool) (g : Nat → Nat → Nat) (s : State) : Host.Outcome State Fault Refusal :=
  intExec f { a := false } (fun _ rb => plain (g (Long.w f) (srcOf rb f.b (Long.w f) sg))) s

/-- A two-source bit instruction of group 0x0 (R301). -/
def bitExec (f : Long) (g : Nat → Nat → Nat → Nat) (s : State) : Host.Outcome State Fault Refusal :=
  intExec f {} (fun ra rb => plain (g (Long.w f) (srcOf ra f.a (Long.w f) false) (srcOf rb f.b (Long.w f) false))) s

/-- MOV_S (R301). -/
def execMovS (f : Long) (s : State) : Host.Outcome State Fault Refusal := oneExec f true (fun _ b => b) s
/-- MOV_Z (R301). -/
def execMovZ (f : Long) (s : State) : Host.Outcome State Fault Refusal := oneExec f false (fun _ b => b) s

/-- The 20-bit immediate of movi, sign-extended (R278). -/
def moviImm (f : Long) : Int := (f.x ++ f.b).toInt

/-- MOVI (R301). -/
def execMovi (f : Long) (s : State) : Host.Outcome State Fault Refusal :=
  intExec f { a := false, b := false } (fun _ _ => plain (zextI (moviImm f) (Long.w f))) s

/-- AND (R301). -/
def execAnd (f : Long) (s : State) : Host.Outcome State Fault Refusal := bitExec f (fun _ a b => a &&& b) s
/-- OR (R301). -/
def execOr (f : Long) (s : State) : Host.Outcome State Fault Refusal := bitExec f (fun _ a b => a ||| b) s
/-- XOR (R301). -/
def execXor (f : Long) (s : State) : Host.Outcome State Fault Refusal := bitExec f (fun _ a b => a ^^^ b) s
/-- ANDN (R301). -/
def execAndn (f : Long) (s : State) : Host.Outcome State Fault Refusal :=
  bitExec f (fun w a b => a &&& (b ^^^ (2 ^ w - 1))) s

/-- bfi (R302): x is d, f the field source, c the control. -/
def bfiVal (w d f c : Nat) : Nat :=
  let pos := bits 5 0 c
  let n := if pos < w then min (bits 14 8 c) (w - pos) else 0
  let m := 2 ^ n - 1
  (d &&& ((m <<< pos) ^^^ (2 ^ w - 1 ||| (m <<< pos)))) ||| ((f &&& m) <<< pos)

/-- bfx (R302) over a source of wa bits. -/
def bfxVal (w wa x c : Nat) (sg : Bool) : Nat :=
  let pos := bits 5 0 c
  let n := if pos < wa then min (bits 14 8 c) (wa - pos) else 0
  let f := (x >>> pos) &&& (2 ^ n - 1)
  if sg && 0 < n then zextI (ival f n true) w else f % 2 ^ w

/-- BFI (R302). -/
def execBfi (f : Long) (s : State) : Host.Outcome State Fault Refusal :=
  intExec f { d := true } (fun ra rb => plain (bfiVal (Long.w f) (srcOf ra f.d (Long.w f) false)
    (readSlices ra (fStart f.a) (fWidth f.a)) (readSlices rb (fStart f.b) (fWidth f.b)))) s

/-- A bit-field extract (R302). -/
def bfxExec (f : Long) (sg : Bool) (s : State) : Host.Outcome State Fault Refusal :=
  intExec f {} (fun ra rb => plain (bfxVal (Long.w f) (fWidth f.a) (readSlices ra (fStart f.a) (fWidth f.a))
    (readSlices rb (fStart f.b) (fWidth f.b)) sg)) s

/-- BFX_S (R302). -/
def execBfxS (f : Long) (s : State) : Host.Outcome State Fault Refusal := bfxExec f true s
/-- BFX_Z (R302). -/
def execBfxZ (f : Long) (s : State) : Host.Outcome State Fault Refusal := bfxExec f false s

/-- Leading zero bits of b in w bits (R301). -/
def clzVal (w b : Nat) : Nat := if b = 0 then w else w - 1 - Nat.log2 b
/-- Trailing zero bits of b from bit i on, at most n more (R301). -/
def ctzVal (b : Nat) : Nat → Nat → Nat
  | 0, i => i
  | n + 1, i => if b.testBit i then i else ctzVal b n (i + 1)
/-- Number of 1 bits among the low n (R301). -/
def popVal (b : Nat) : Nat → Nat
  | 0 => 0
  | n + 1 => flag (b.testBit n) + popVal b n
/-- Bit reversal of w bits, n of them done (R301). -/
def brevVal (w b : Nat) : Nat → Nat
  | 0 => 0
  | n + 1 => brevVal w b n + (if b.testBit n then 2 ^ (w - 1 - n) else 0)

/-- CLZ (R301). -/
def execClz (f : Long) (s : State) : Host.Outcome State Fault Refusal := oneExec f false clzVal s
/-- CTZ (R301). -/
def execCtz (f : Long) (s : State) : Host.Outcome State Fault Refusal := oneExec f false (fun w b => ctzVal b w 0) s
/-- POPC (R301). -/
def execPopc (f : Long) (s : State) : Host.Outcome State Fault Refusal := oneExec f false (fun w b => popVal b w) s
/-- BREV (R301). -/
def execBrev (f : Long) (s : State) : Host.Outcome State Fault Refusal := oneExec f false (fun w b => brevVal w b w) s

/-- SEL (R301, R298). -/
def execSel (f : Long) (s : State) : Host.Outcome State Fault Refusal :=
  intExec f { d := true } (fun ra rb => plain (if readSlices ra (fStart f.a) (fWidth f.a) ≠ 0
    then srcOf rb f.b (Long.w f) false else srcOf ra f.d (Long.w f) false)) s

/-- The shift function (R303): kinds 0 lsl, 1 lsr, 2 asr, 3 ror. -/
def shiftVal (x n kind w : Nat) : Nat :=
  match kind with
  | 0 => if n < w then (x <<< n) % 2 ^ w else 0
  | 1 => if n < w then x >>> n else 0
  | 2 => zextI (ival x w true / 2 ^ min n (w - 1)) w
  | _ => let m := n % w; ((x >>> m) ||| (x <<< (w - m))) % 2 ^ w

/-- SHI (R303). -/
def execShi (f : Long) (s : State) : Host.Outcome State Fault Refusal :=
  let kind := bits 7 6 f.b.toNat
  intExec f { b := false } (fun ra _ => plain (shiftVal (srcOf ra f.a (Long.w f) (kind = 2)) (bits 5 0 f.b.toNat) kind (Long.w f))) s

/-- A register shift: the amount is B at its own width, at most 64 (R307). -/
def shiftExec (f : Long) (kind : Nat) (s : State) : Host.Outcome State Fault Refusal :=
  intExec f {} (fun ra rb => plain (shiftVal (srcOf ra f.a (Long.w f) (kind = 2))
    (min 64 (readSlices rb (fStart f.b) (fWidth f.b))) kind (Long.w f))) s

/-- SLL (R307). -/
def execSll (f : Long) (s : State) : Host.Outcome State Fault Refusal := shiftExec f 0 s
/-- SRL (R307). -/
def execSrl (f : Long) (s : State) : Host.Outcome State Fault Refusal := shiftExec f 1 s
/-- SRA (R307). -/
def execSra (f : Long) (s : State) : Host.Outcome State Fault Refusal := shiftExec f 2 s

/-- A wrapping instruction of two integers (R304, R305). -/
def wrapExec (f : Long) (sg : Bool) (g : Int → Int → Int) (s : State) : Host.Outcome State Fault Refusal :=
  intExec f {} (fun ra rb => plain (zextI (g (aInt f sg ra) (bInt f sg rb)) (Long.w f))) s
/-- A saturating instruction of two integers (R304). -/
def satExec (f : Long) (sg : Bool) (g : Int → Int → Int) (s : State) : Host.Outcome State Fault Refusal :=
  intExec f {} (fun ra rb => satI (g (aInt f sg ra) (bInt f sg rb)) (Long.w f) sg) s
/-- A fused saturating instruction that reads D (R304). -/
def fusedExec (f : Long) (sg : Bool) (g : Int → Int → Int → Int) (s : State) : Host.Outcome State Fault Refusal :=
  intExec f { d := true } (fun ra rb => satI (g (dInt f sg ra) (aInt f sg ra) (bInt f sg rb)) (Long.w f) sg) s

/-- ADD_S (R304). -/
def execAddS (f : Long) (s : State) : Host.Outcome State Fault Refusal := wrapExec f true (· + ·) s
/-- ADD_Z (R304). -/
def execAddZ (f : Long) (s : State) : Host.Outcome State Fault Refusal := wrapExec f false (· + ·) s
/-- ADDS_S (R304). -/
def execAddsS (f : Long) (s : State) : Host.Outcome State Fault Refusal := satExec f true (· + ·) s
/-- ADDS_Z (R304). -/
def execAddsZ (f : Long) (s : State) : Host.Outcome State Fault Refusal := satExec f false (· + ·) s
/-- SUB_S (R304). -/
def execSubS (f : Long) (s : State) : Host.Outcome State Fault Refusal := wrapExec f true (· - ·) s
/-- SUB_Z (R304). -/
def execSubZ (f : Long) (s : State) : Host.Outcome State Fault Refusal := wrapExec f false (· - ·) s
/-- SUBS_S (R304). -/
def execSubsS (f : Long) (s : State) : Host.Outcome State Fault Refusal := satExec f true (· - ·) s
/-- SUBS_Z (R304). -/
def execSubsZ (f : Long) (s : State) : Host.Outcome State Fault Refusal := satExec f false (· - ·) s
/-- MIN_S (R304). -/
def execMinS (f : Long) (s : State) : Host.Outcome State Fault Refusal := wrapExec f true min s
/-- MIN_Z (R304). -/
def execMinZ (f : Long) (s : State) : Host.Outcome State Fault Refusal := wrapExec f false min s
/-- MAX_S (R304). -/
def execMaxS (f : Long) (s : State) : Host.Outcome State Fault Refusal := wrapExec f true max s
/-- MAX_Z (R304). -/
def execMaxZ (f : Long) (s : State) : Host.Outcome State Fault Refusal := wrapExec f false max s
/-- ADDMIN_S (R304). -/
def execAddminS (f : Long) (s : State) : Host.Outcome State Fault Refusal := fusedExec f true (fun d a b => min d (a + b)) s
/-- ADDMIN_Z (R304). -/
def execAddminZ (f : Long) (s : State) : Host.Outcome State Fault Refusal := fusedExec f false (fun d a b => min d (a + b)) s
/-- ADDMAX_S (R304). -/
def execAddmaxS (f : Long) (s : State) : Host.Outcome State Fault Refusal := fusedExec f true (fun d a b => max d (a + b)) s
/-- ADDMAX_Z (R304). -/
def execAddmaxZ (f : Long) (s : State) : Host.Outcome State Fault Refusal := fusedExec f false (fun d a b => max d (a + b)) s

/-- MUL_S (R305). -/
def execMulS (f : Long) (s : State) : Host.Outcome State Fault Refusal := wrapExec f true (· * ·) s
/-- MUL_Z (R305). -/
def execMulZ (f : Long) (s : State) : Host.Outcome State Fault Refusal := wrapExec f false (· * ·) s
/-- MULH_S (R305). -/
def execMulhS (f : Long) (s : State) : Host.Outcome State Fault Refusal := wrapExec f true (fun a b => a * b / 2 ^ Long.w f) s
/-- MULH_Z (R305). -/
def execMulhZ (f : Long) (s : State) : Host.Outcome State Fault Refusal := wrapExec f false (fun a b => a * b / 2 ^ Long.w f) s

/-- mad (R305): wraps, reads D. -/
def madExec (f : Long) (sg : Bool) (s : State) : Host.Outcome State Fault Refusal :=
  intExec f { d := true } (fun ra rb => plain (zextI (dInt f sg ra + aInt f sg ra * bInt f sg rb) (Long.w f))) s
/-- MAD_S (R305). -/
def execMadS (f : Long) (s : State) : Host.Outcome State Fault Refusal := madExec f true s
/-- MAD_Z (R305). -/
def execMadZ (f : Long) (s : State) : Host.Outcome State Fault Refusal := madExec f false s
/-- ABSD_S (R305). -/
def execAbsdS (f : Long) (s : State) : Host.Outcome State Fault Refusal := wrapExec f true (fun a b => ((a - b).natAbs : Int)) s
/-- ABSD_Z (R305). -/
def execAbsdZ (f : Long) (s : State) : Host.Outcome State Fault Refusal := wrapExec f false (fun a b => ((a - b).natAbs : Int)) s

/-- A scalar compare at the wider of the two source widths (R306, R298). -/
def cmpExec (f : Long) (sg : Bool) (cond : Int → Int → Bool) (s : State) : Host.Outcome State Fault Refusal :=
  let cw := max (fWidth f.a) (fWidth f.b)
  intExec f {} (fun ra rb => plain (if cond (ival (srcOf ra f.a cw sg) cw sg) (ival (srcOf rb f.b cw sg) cw sg)
    then 2 ^ Long.w f - 1 else 0)) s

/-- CLT_S (R306). -/
def execCltS (f : Long) (s : State) : Host.Outcome State Fault Refusal := cmpExec f true (fun a b => decide (a < b)) s
/-- CLT_Z (R306). -/
def execCltZ (f : Long) (s : State) : Host.Outcome State Fault Refusal := cmpExec f false (fun a b => decide (a < b)) s
/-- CLE_S (R306). -/
def execCleS (f : Long) (s : State) : Host.Outcome State Fault Refusal := cmpExec f true (fun a b => decide (a ≤ b)) s
/-- CLE_Z (R306). -/
def execCleZ (f : Long) (s : State) : Host.Outcome State Fault Refusal := cmpExec f false (fun a b => decide (a ≤ b)) s
/-- CEQ (R306). -/
def execCeq (f : Long) (s : State) : Host.Outcome State Fault Refusal := cmpExec f false (fun a b => decide (a = b)) s

/-- Element e of a packed source: an operand of one element serves every element (R308). -/
def elemOf (r : BitVec 2048) (x : BitVec 12) (ew e : Nat) : Nat :=
  let v := readSlices r (fStart x) (fWidth x)
  if fWidth x = ew then v else (v >>> (ew * e)) % 2 ^ ew

/-- The elements of a packed result, n of them from element e on, and whether any saturated (R308). -/
def packElems (g : Nat → Nat × Bool) (ew : Nat) : Nat → Nat × Bool
  | 0 => (0, false)
  | n + 1 =>
    let r := packElems g ew n
    let v := g n
    (r.1 + ((v.1 % 2 ^ ew) <<< (ew * n)), r.2 || v.2)

/-- A packed instruction: every member reads its own B, whatever X holds (R299, R308). The function takes the element
width, the type, and d, a, b of one element. -/
def packedExec (f : Long) (readsD : Bool) (g : Nat → Bool → Int → Int → Int → Nat × Bool) (s : State) :
    Host.Outcome State Fault Refusal :=
  let ew := f.elemWidth
  let sg := !f.x.getLsbD 2
  let r : Reads := { d := readsD }
  let body (c : Chip) (_ : List Thread) (_ : Nat) (t : Thread) : Eff :=
    let v := packElems (fun e => g ew sg (ival (elemOf t.regs f.d ew e) ew sg) (ival (elemOf t.regs f.a ew e) ew sg)
      (ival (elemOf t.regs f.b ew e) ew sg)) ew (Long.w f / ew)
    { sets := [(fStart f.d, fWidth f.d, v.1)], poison := t.poisoned (c.bars t) (intUses f r).reads
      tf := if v.2 then 1 else 0 }
  done (s.long f (regOp f (intUses f r) [] body))

/-- PADD (R308). -/
def execPadd (f : Long) (s : State) : Host.Outcome State Fault Refusal := packedExec f false (fun ew _ _ a b => plain (zextI (a + b) ew)) s
/-- PSUB (R308). -/
def execPsub (f : Long) (s : State) : Host.Outcome State Fault Refusal := packedExec f false (fun ew _ _ a b => plain (zextI (a - b) ew)) s
/-- PADDS (R308). -/
def execPadds (f : Long) (s : State) : Host.Outcome State Fault Refusal := packedExec f false (fun ew sg _ a b => satI (a + b) ew sg) s
/-- PSUBS (R308). -/
def execPsubs (f : Long) (s : State) : Host.Outcome State Fault Refusal := packedExec f false (fun ew sg _ a b => satI (a - b) ew sg) s
/-- PMIN (R308). -/
def execPmin (f : Long) (s : State) : Host.Outcome State Fault Refusal := packedExec f false (fun ew _ _ a b => plain (zextI (min a b) ew)) s
/-- PMAX (R308). -/
def execPmax (f : Long) (s : State) : Host.Outcome State Fault Refusal := packedExec f false (fun ew _ _ a b => plain (zextI (max a b) ew)) s
/-- PADDMIN (R308). -/
def execPaddmin (f : Long) (s : State) : Host.Outcome State Fault Refusal := packedExec f true (fun ew sg d a b => satI (min d (a + b)) ew sg) s
/-- PADDMAX (R308). -/
def execPaddmax (f : Long) (s : State) : Host.Outcome State Fault Refusal := packedExec f true (fun ew sg d a b => satI (max d (a + b)) ew sg) s
/-- PABSD (R308). -/
def execPabsd (f : Long) (s : State) : Host.Outcome State Fault Refusal := packedExec f false (fun ew _ _ a b => plain (zextI ((a - b).natAbs : Int) ew)) s
/-- PMUL (R308). -/
def execPmul (f : Long) (s : State) : Host.Outcome State Fault Refusal := packedExec f false (fun ew _ _ a b => plain (zextI (a * b) ew)) s
/-- PMAD (R308). -/
def execPmad (f : Long) (s : State) : Host.Outcome State Fault Refusal := packedExec f true (fun ew _ d a b => plain (zextI (d + a * b) ew)) s
/-- PCEQ (R308). -/
def execPceq (f : Long) (s : State) : Host.Outcome State Fault Refusal := packedExec f false (fun ew _ _ a b => plain (if a = b then 2 ^ ew - 1 else 0)) s
/-- PCLT (R308). -/
def execPclt (f : Long) (s : State) : Host.Outcome State Fault Refusal := packedExec f false (fun ew _ _ a b => plain (if a < b then 2 ^ ew - 1 else 0)) s
/-- PSLL (R308). -/
def execPsll (f : Long) (s : State) : Host.Outcome State Fault Refusal := packedExec f false (fun ew _ _ a b => plain (shiftVal (zextI a ew) (zextI b ew) 0 ew)) s
/-- PSRL (R308). -/
def execPsrl (f : Long) (s : State) : Host.Outcome State Fault Refusal := packedExec f false (fun ew _ _ a b => plain (shiftVal (zextI a ew) (zextI b ew) 1 ew)) s
/-- PSRA (R308). -/
def execPsra (f : Long) (s : State) : Host.Outcome State Fault Refusal := packedExec f false (fun ew _ _ a b => plain (shiftVal (zextI a ew) (zextI b ew) 2 ew)) s

end Sys2Proof.Machine
end

