-- ==== Sys2Proof/Machine/Float.lean ====
section
/-! DEFINITION. Group 0x4: floating arithmetic, compares, classification and approximations (R311-R320, R326). -/
namespace Sys2Proof.Machine

/-- Format of an operand field (R277). -/
def fmtOf (x : BitVec 12) : Fmt := (fFmt x).getD .fp64

/-- Pattern of a floating operand: a slice read (R295). -/
def fltPat (r : BitVec 2048) (x : BitVec 12) : Nat := readSlices r (fStart x) (Fmt.width (fmtOf x))

/-- Exact value of a floating operand after the flush of R265, with its flags. -/
def fltIn (r : BitVec 2048) (x : BitVec 12) (ftz : Bool) : Fv × Fl := flushIn (fmtOf x) ftz (fltPat r x)

/-- Slices of an operand that is read as one kind or the other. -/
def spanOf (flt : Bool) (x : BitVec 12) : Span := if flt then spanF x else spanI x

/-- Kinds of the operands of a floating or converting instruction: floating or integer, and whether each source is read. -/
structure Kinds where
  dFlt : Bool := true
  aFlt : Bool := true
  bFlt : Bool := true
  readsD : Bool := false
  readsA : Bool := true
  /-- B passes through the crossbar (R204); not in group 0x5 (R314) -/
  perm : Bool := true

/-- Slices of a floating or converting instruction. -/
def fltUses (f : Long) (k : Kinds) : Uses :=
  { reads := (if k.readsD then [spanOf k.dFlt f.d] else []) ++ (if k.readsA then [spanOf k.aFlt f.a] else []) ++
      [spanOf k.bFlt f.b]
    writes := [spanOf k.dFlt f.d] }

/-- Width in bits of a destination. -/
def destWidth (flt : Bool) (x : BitVec 12) : Nat := if flt then Fmt.width (fmtOf x) else fWidth x

/-- The thread whose B a member reads in a floating or converting instruction. -/
def fltBThread (f : Long) (k : Kinds) (ts : List Thread) (r : Nat) (t : Thread) : Thread :=
  if k.perm then bThread f ts r t else t

/-- A floating or converting instruction: the result from the executing thread, the thread whose A it takes, and the thread
whose B it reads (R313, R314, R74). -/
def fltEff (f : Long) (k : Kinds) (g : Thread → Thread → Res) (c : Chip) (ts : List Thread) (r : Nat)
    (t : Thread) : Eff :=
  let bt := fltBThread f k ts r t
  let own := (if k.readsD then [spanOf k.dFlt f.d] else []) ++ (if k.readsA then [spanOf k.aFlt f.a] else [])
  let v := g t bt
  { sets := [(fStart f.d, destWidth k.dFlt f.d, v.val)]
    poison := t.poisoned (c.bars t) own || bt.poisoned (c.bars bt) [spanOf k.bFlt f.b]
    ff := v.fl.ff, tf := v.fl.tf, trng := some v.trng }

/-- A floating or converting instruction, with B through the crossbar in group 0x4 (R204, R314). -/
def fltOp (f : Long) (k : Kinds) (legal : List Thread → Nat → Thread → Bool) (g : Thread → Thread → Res) : Op :=
  { regOp f (fltUses f k) (if k.perm then [spanOf k.bFlt f.b] else []) (fltEff f k g) with legal := legal }

/-- Rounding mode of a code for a thread; none gives cause 2 (R260, R313). -/
def modeFor (code : Nat) (small : Bool) (t : Thread) : Option Nat := resolveMode code t.frm t.srdyn small

/-- Whether a floating destination has 16 bits or fewer (R260). -/
def smallD (f : Long) : Bool := Fmt.narrow (fmtOf f.d)

/-- A floating instruction with a rounding mode: code 7 in group 0x4 (R313). -/
def arithOp (f : Long) (k : Kinds) (g : Nat → Thread → Thread → Fv × Fl) : Op :=
  fltOp f k (fun _ _ t => (modeFor 7 (smallD f) t).isSome) fun t bt =>
    let rm := (modeFor 7 (smallD f) t).getD 0
    let v := g rm t bt
    let r := roundTo (fmtOf f.d) rm t.ftz t.trng v.1
    { r with fl := r.fl.or v.2 }

/-- Two sources, exact result and flags from their values (R316, R317). -/
def twoArith (f : Long) (g : Nat → Fv → Fv → Fv × Fl) (s : State) : Host.Outcome State Fault Refusal :=
  done (s.long f (arithOp f {} fun rm t bt =>
    let a := fltIn t.regs f.a t.ftz
    let b := fltIn bt.regs f.b t.ftz
    let v := g rm a.1 b.1
    (v.1, v.2.or (a.2.or b.2))))

/-- FADD (R316). -/
def execFadd (f : Long) (s : State) : Host.Outcome State Fault Refusal := twoArith f fvAdd s
/-- FSUB (R316). -/
def execFsub (f : Long) (s : State) : Host.Outcome State Fault Refusal := twoArith f (fun rm a b => fvAdd rm a b.negate) s
/-- FMUL (R316). -/
def execFmul (f : Long) (s : State) : Host.Outcome State Fault Refusal := twoArith f (fun _ a b => fvMul a b) s

/-- A fused multiply with the old D added or subtracted (R316). -/
def fusedArith (f : Long) (sub : Bool) (s : State) : Host.Outcome State Fault Refusal :=
  done (s.long f (arithOp f { readsD := true } fun rm t bt =>
    let a := fltIn t.regs f.a t.ftz
    let b := fltIn bt.regs f.b t.ftz
    let d := fltIn t.regs f.d t.ftz
    let v := fvMad rm a.1 b.1 (if sub then d.1.negate else d.1)
    (v.1, v.2.or (a.2.or (b.2.or d.2)))))

/-- FMAD (R316). -/
def execFmad (f : Long) (s : State) : Host.Outcome State Fault Refusal := fusedArith f false s
/-- FMSB (R316). -/
def execFmsb (f : Long) (s : State) : Host.Outcome State Fault Refusal := fusedArith f true s
/-- FMIN (R317). -/
def execFmin (f : Long) (s : State) : Host.Outcome State Fault Refusal := twoArith f (fun _ a b => fvMin a b) s
/-- FMAX (R317). -/
def execFmax (f : Long) (s : State) : Host.Outcome State Fault Refusal := twoArith f (fun _ a b => fvMax a b) s

/-- |b| of a value (R317). -/
def fvAbs (b : Fv) : Fv := if b.neg then b.negate else b

/-- FABS (R317). -/
def execFabs (f : Long) (s : State) : Host.Outcome State Fault Refusal :=
  done (s.long f (arithOp f { readsA := false } fun _ t bt =>
    let b := fltIn bt.regs f.b t.ftz
    (fvAbs b.1, (snanFlag b.1).or b.2)))

/-- An instruction of group 0x4 that uses no mode (R313). -/
def noModeOp (f : Long) (k : Kinds) (g : Thread → Thread → Nat × Fl) : Op :=
  fltOp f k (fun _ _ _ => true) fun t bt => let v := g t bt; ⟨v.1, v.2, t.trng⟩

/-- A compare; quiet ones set NV for a signalling NaN only (R318). -/
def fcmpExec (f : Long) (quiet : Bool) (cond : Fv → Fv → Bool) (s : State) : Host.Outcome State Fault Refusal :=
  done (s.long f (noModeOp f { dFlt := false } fun t bt =>
    let a := fltIn t.regs f.a t.ftz
    let b := fltIn bt.regs f.b t.ftz
    let nan := a.1.isNan || b.1.isNan
    let nv := if quiet then (snanFlag a.1).or (snanFlag b.1) else Fl.when nan flNV
    (if !nan && cond a.1 b.1 then 2 ^ fWidth f.d - 1 else 0, nv.or (a.2.or b.2))))

/-- FCEQ (R318). -/
def execFceq (f : Long) (s : State) : Host.Outcome State Fault Refusal := fcmpExec f true fvEq s
/-- FCLT (R318). -/
def execFclt (f : Long) (s : State) : Host.Outcome State Fault Refusal := fcmpExec f false fvLt s
/-- FCLE (R318). -/
def execFcle (f : Long) (s : State) : Host.Outcome State Fault Refusal := fcmpExec f false (fun a b => fvLt a b || fvEq a b) s

/-- FCLASS (R319). -/
def execFclass (f : Long) (s : State) : Host.Outcome State Fault Refusal :=
  done (s.long f (noModeOp f { dFlt := false, readsA := false } fun t bt =>
    let b := fltIn bt.regs f.b t.ftz
    (fvClass (fmtOf f.b) (fltPat bt.regs f.b) b.1 % 2 ^ fWidth f.d, b.2)))

/-- An approximation of R320: 0 frcp, 1 frsq, 2 fexp2, 3 flog2. -/
def approxExec (f : Long) (op : Nat) (s : State) : Host.Outcome State Fault Refusal :=
  done (s.long f (noModeOp f { readsA := false } fun t bt =>
    let b := fltIn bt.regs f.b t.ftz
    let v := approximate op (fmtOf f.d) (fmtOf f.b) t.ftz (fltPat bt.regs f.b) b.1
    (v.1, v.2.or b.2)))

/-- FRCP (R320). -/
def execFrcp (f : Long) (s : State) : Host.Outcome State Fault Refusal := approxExec f 0 s
/-- FRSQ (R320). -/
def execFrsq (f : Long) (s : State) : Host.Outcome State Fault Refusal := approxExec f 1 s
/-- FEXP2 (R320). -/
def execFexp2 (f : Long) (s : State) : Host.Outcome State Fault Refusal := approxExec f 2 s
/-- FLOG2 (R320). -/
def execFlog2 (f : Long) (s : State) : Host.Outcome State Fault Refusal := approxExec f 3 s

end Sys2Proof.Machine
end

