-- ==== Sys2Proof/Machine/Loads.lean ====
section
/-! DEFINITION. Loads, stores, prefetch and atomics of a thread: addresses, order and scope, and the result for the
participants (R58-R60, R64-R74, R327-R336). -/
namespace Sys2Proof.Machine

/-- Bytes of an access: width(D) / 8 (R329). -/
def accessN (f : Long) : Nat := fWidth f.d / 8

/-- Offset of an access with an immediate (R329). -/
def offImm (f : Long) (t : Thread) : Nat := (srcOf t.regs f.a 64 false + immOf f.b) % 2 ^ 64

/-- Offset of an access with an index, sign-extended from its own width (R329). -/
def offIdx (f : Long) (t : Thread) : Nat :=
  (srcOf t.regs f.a 64 false + zextI (ival (readSlices t.regs (fStart f.b) (fWidth f.b)) (fWidth f.b) true) 64) % 2 ^ 64

/-- Offset of an atomic: no immediate (R329). -/
def offBase (f : Long) (t : Thread) : Nat := srcOf t.regs f.a 64 false

/-- What follows an acquire of a scope: leases end, for a promoted one whatever its scope (R64, R66, R138, R150). -/
def Chip.acquired (c : Chip) (t : Thread) (scope : Nat) (promoted : Bool) : Chip :=
  let c := if promoted && t.onCompute then c.endLeases t.core else c
  c.acquire t.id scope

/-- One load as an access of the model (R127, R331): value, poison. Orders: 1 acquire, 2 promoted; every acquire of a
latency core is promoted (R129). -/
def Chip.orderedLoad (c : Chip) (t : Thread) (sp off n ord scope : Nat) : Nat × Bool × Chip :=
  if ord = 0 then c.loadN t.id sp off n
  else
    let prom := ord = 2 || t.onHart
    let c := if prom then (c.promote t sp off n).unlease t sp off n else c
    let r := c.loadN t.id sp off n
    (r.1, r.2.1, r.2.2.acquired t scope prom)

/-- How a load of I/O is answered: the package, the physical address and the bytes asked for; the value, and the package then. -/
abbrev Device := Chip → Nat → Nat → Nat × Chip

/-- One load of a thread, of memory or of I/O (R27, R57, R331). -/
def Chip.deviceLoad (io : Device) (c : Chip) (t : Thread) (sp off n ord scope : Nat) : Nat × Bool × Chip :=
  match c.ioAt t sp off .load with
  | none => c.orderedLoad t sp off n ord scope
  | some pa =>
    let r := io c pa n
    (r.1, false, if ord = 0 then r.2 else r.2.acquired t scope (ord = 2 || t.onHart))

/-- A store to I/O: a register of this package takes it as its next write; another package or a device takes it outside (R57,
R123). -/
def Chip.ioStore (c : Chip) (pa v : Nat) : Chip :=
  if bits 50 48 pa = 4 && bits 55 51 pa = c.pkg then
    { c with regWrites := c.regWrites ++ [(BitVec.ofNat 64 pa, BitVec.ofNat 64 v)] }
  else c

/-- One store as an access of the model (R127, R331): order 3 releases first. -/
def Chip.orderedStore (c : Chip) (t : Thread) (sp off n ord scope v : Nat) : Chip :=
  let c := if ord = 0 then c else c.release t.id scope
  match c.ioAt t sp off .store with
  | none => c.storeN t.id sp off n v
  | some pa => c.ioStore pa v

/-- A store that releases waits as a release does (R65, R76). -/
def Chip.storeStop (c : Chip) (t : Thread) (sp off n ord scope : Nat) : Option Stop :=
  (c.accessStop t sp off n .store).or (if ord = 0 then none else c.releaseStop t scope false)

/-- Whether bytes of an access are poisoned, as a read sees it. -/
def Chip.loadPoison (c : Chip) (t : Thread) (sp off n : Nat) : Bool := (c.loadN t.id sp off n).2.1

/-- What stops a load; on a latency core poison does (R74). -/
def Chip.loadStop (c : Chip) (t : Thread) (sp off n : Nat) : Option Stop :=
  match c.accessStop t sp off n .load with
  | some s => some s
  | none => if t.onHart && c.loadPoison t sp off n then some (.trap 28 off) else none

/-- The accesses of an issue: each participant's own, or one by rank 0 whose result goes to all (R330). -/
def memRun (uni : Bool) (access : Chip → Thread → Eff × Chip) (c : Chip) (ts : List Thread) : Chip :=
  let give (c : Chip) (t : Thread) (e : Eff) : Chip := c.onThread t.id fun u => u.apply (c.bars u) e
  if uni then
    match ts with
    | [] => c
    | t0 :: _ =>
      let r := access c t0
      ts.foldl (fun c t => give c t r.1) r.2
  else ts.foldl (fun c t => let r := access c t; give r.2 t r.1) c

/-- A load into D with a way to form its offset (R331). -/
def loadOp (f : Long) (index : Bool) (off : Thread → Nat) (io : Device) : Op :=
  let n := accessN f
  { uses := { strict := [spanI f.a] ++ (if index then [spanI f.b] else []), writes := [spanI f.d] }
    check := fun c _ _ t => (c.loadStop t f.space (off t) n).or
      (if f.order = 2 || (f.order ≠ 0 && t.onHart) then c.promoteStop t f.space (off t) n else none)
    run := memRun (f.u && f.grouped) fun c t =>
      let r := c.deviceLoad io t f.space (off t) n f.order f.scope
      ({ sets := [(fStart f.d, fWidth f.d, r.1)], poison := r.2.1 }, r.2.2) }

/-- A store of D with a way to form its offset (R331). -/
def storeOp (f : Long) (index : Bool) (off : Thread → Nat) : Op :=
  let n := accessN f
  { uses := { strict := [spanI f.a, spanI f.d] ++ (if index then [spanI f.b] else []) }
    check := fun c _ _ t => c.storeStop t f.space (off t) n f.order f.scope
    run := memRun (f.u && f.grouped) fun c t =>
      ({}, c.orderedStore t f.space (off t) n f.order f.scope (readSlices t.regs (fStart f.d) (fWidth f.d))) }

/-- The bytes of a non-faulting load: each resident byte is read, any other is zero (R332, R96). On a latency core a
poisoned byte counts as not resident. -/
def Chip.nonFaulting (c : Chip) (t : Thread) (sp : Nat) (fits : Nat → Bool) : List Nat → List Byte × Bool × Bool × Chip
  | [] => ([], true, false, c)
  | a :: rest =>
    let r := c.resident t sp fits a
    let c := r.2
    let there := match r.1 with | .inr b => b | .inl _ => false
    let x := if there then c.readBytes t.id sp a [a] else ([0], false, c)
    let ok := there && !(t.onHart && x.2.1)
    let b : Byte := if ok then x.1.headD 0 else 0
    let y := x.2.2.nonFaulting t sp fits rest
    (b :: y.1, ok && y.2.1, (ok && x.2.1) || y.2.2.1, y.2.2.2)

/-- A non-faulting load waits at a line whose requests wait at its home, the lines its walks read among them (R76, R96). -/
def Chip.heldStop (c : Chip) (t : Thread) (sp : Nat) : List Nat → Option Stop
  | [] => none
  | a :: rest =>
    let r := c.resident t sp (fun _ => true) a
    match r.1 with
    | .inl w => some (.hold w)
    | .inr _ => r.2.heldStop t sp rest

/-- A non-faulting load of a thread: value, residency, poison (R27, R96, R332). -/
def Chip.residentLoad (io : Device) (c : Chip) (t : Thread) (sp off n : Nat) : Nat × Bool × Bool × Chip :=
  let fits := ioFits off n
  match (c.resident t sp fits off).2.ioAt t sp off .load with
  | some pa =>
    let c := (c.resident t sp fits off).2
    if fits pa then let r := io c pa n; (r.1, true, false, r.2)
    else
      let r := c.nonFaulting t sp fits (accessAddrs sp off n)
      (numOf r.1, r.2)
  | none =>
    let r := c.nonFaulting t sp fits (accessAddrs sp off n)
    (numOf r.1, r.2)

/-- ldnf (R332): bytes and residency flag; an acquire orders whether or not a byte is resident. -/
def ldnfOp (f : Long) (io : Device) : Op :=
  let n := accessN f
  let flagAt := fStart f.d + fWidth f.d / 4
  { uses := { strict := [spanI f.a], writes := [spanI f.d, (flagAt, 1)] }
    check := fun c _ _ t => if t.onHart && f.space ≠ 0 && t.block.isSome then some .depart
      else (c.heldStop t f.space (accessAddrs f.space (offImm f t) n)).or
        (if f.order = 2 || (f.order ≠ 0 && t.onHart) then c.promoteStop t f.space (offImm f t) n else none)
    run := memRun (f.u && f.grouped) fun c t =>
      let off := offImm f t
      let prom := f.order = 2 || (t.onHart && f.order ≠ 0)
      let c := if prom then (c.promote t f.space off n).unlease t f.space off n else c
      let r := c.residentLoad io t f.space off n
      let c := if f.order = 0 then r.2.2.2 else r.2.2.2.acquired t f.scope prom
      ({ sets := [(fStart f.d, fWidth f.d, r.1), (flagAt, 4, flag r.2.1)], poison := r.2.2.1 }, c) }

/-- pf (R333): fill the line of a resident address into the core's L1 unless its lease class is 3; no other effect. -/
def Chip.prefetch (c : Chip) (t : Thread) (sp off : Nat) : Chip :=
  if sp ≠ 0 then c else
  let r := c.resident t 0 (fun _ => false) off
  if r.1 ≠ .inr true then r.2 else
  match r.2.xlate t off .load with
  | none => r.2
  | some p =>
    if r.2.leaseClass p = 3 then r.2
    else (r.2.coreGet t p).2.2

/-- pf as an instruction (R333). -/
def pfOp (f : Long) : Op :=
  { uses := { strict := [spanI f.a] }
    run := memRun (f.u && f.grouped) fun c t => ({}, c.prefetch t f.space (offImm f t)) }

/-- New value of an atomic at w bits (R334, R70). -/
def atomicNew (op : AtomicOp) (w old b cmp : Nat) : Nat :=
  let s (v : Nat) : Int := signedOf w v
  match op with
  | .add => (old + b) % 2 ^ w
  | .and => old &&& b
  | .or => old ||| b
  | .xor => old ^^^ b
  | .min => if s old ≤ s b then old else b
  | .max => if s old ≤ s b then b else old
  | .minu => min old b
  | .maxu => max old b
  | .xchg => b
  | .cas => if old = cmp then b else old
  | .fadd F => roundRne F false (fvAdd 0 (Fmt.value F old) (Fmt.value F b)).1
  | .fmin F => roundRne F false (fvMin (Fmt.value F old) (Fmt.value F b)).1
  | .fmax F => roundRne F false (fvMax (Fmt.value F old) (Fmt.value F b)).1

/-- The operation families of R70: 0 I, 1 I8/I16, 2 F32, 3 F16, 4 F64. -/
def atomicFamily (op : AtomicOp) (w : Nat) : Nat :=
  match op with
  | .fadd F => (match F with | .fp32 => 2 | .fp64 => 4 | _ => 3)
  | .fmin _ => 2
  | .fmax _ => 2
  | _ => if 32 ≤ w then 0 else 1

/-- Support of a home by its location (R70): an L-die home takes I only, a C-die home and the die scratchpad all but
I8/I16, a core scratchpad everything. -/
def atomicSupported (t : Target) (family : Nat) : Bool :=
  match t with
  | .main l => if homeIsLdie l then family = 0 else family ≠ 1
  | .onDie l => if bits 31 29 l = 1 then true else family ≠ 1
  | _ => false

/-- An atomic on bytes where an agent has the line in M, its home or a latency core's cache (R70, R71, R73): it recalls core-owned
bytes, the agent takes the line, every other thread loses its reservation; on poison it has no effect. Old value and poison. -/
def Chip.atomicAt (c : Chip) (at_ : Option Agent) (who : Option Nat) (g : Target) (n : Nat) (new : Nat → Nat) :
    Nat × Bool × Chip :=
  match g with
  | .main l =>
    let c := ((c.recallLine (l / 64)).dirWrite (at_.getD (c.homeOf l)) (l / 64)).ecc l
    let old := cellRead c.mem.bytes l n
    if c.poisonedAt l then (old, true, c)
    else (old, false, (c.breakResv l who).putBytes l (bytesOf (new old) n))
  | .onDie l =>
    let old := cellRead c.mem.bytes l n
    if c.poisonedAt l then (old, true, c) else (old, false, (c.breakResv l who).putBytes l (bytesOf (new old) n))
  | _ => (0, false, c)

/-- A thread's atomic at a target (R70, R71, R75): in the cache of its latency core, or at the home, where the request that it sends
leaves an applied record; one that an earlier member's request carries sends none (R72). -/
def Chip.threadAtomic (c : Chip) (t : Thread) (inCore sends : Bool) (g : Target) (n : Nat) (new : Nat → Nat) : Nat × Bool × Chip :=
  if inCore && t.onHart then c.atomicAt (some t.agent) (some t.id) g n new
  else
    let r := c.atomicAt none (some t.id) g n new
    match g with
    | .main l => (r.1, r.2.1, if sends then r.2.2.noted t.agent (c.homeOf l) r.1 r.2.1 else r.2.2)
    | _ => r

/-- Poison at a target of memory. -/
def Chip.poisonAt (c : Chip) : Target → Bool
  | .main l => c.poisonedAt l
  | .onDie l => c.poisonedAt l
  | _ => false

/-- What stops an atomic: bound, alignment, translation, I/O, support, in the order of R219; on a latency core poison stops
it as it stops a load (R74; notes/assumptions/11). -/
def Chip.atomicStop (c : Chip) (t : Thread) (sends : Bool) (sp off n family : Nat) : Option Stop :=
  let bound := if sp = 0 then none else c.accessStop t sp off n .store
  match bound with
  | some s => some s
  | none =>
    if off % n ≠ 0 then some (.trap 6 off)
    else match c.accessStop t sp off n .store with
      | some s => some s
      | none => match c.locate t sp off off .store with
        | .inl s => some s
        | .inr (.phys p) => match c.targetOf t p.pa with
          | .io => some (.access off .store)
          | g =>
            -- it reads its line (R76)
            let line := match g with | .main l => l / 64 | _ => 0
            if (match g with | .main l => sends && c.refuses (c.homeOf l) | _ => false) then some (.hold .queueFull)
            else if (match g with | .main _ => c.lineHeldFor t.id line true || c.recallWaits line | _ => false) then
              some (.hold (.homePark line))
            else if !atomicSupported g family then some (.trap 30 off)
            else if t.onHart && c.poisonAt g then some (.trap 28 off) else none
        -- in the stack window it reads its bytes as a load does (R216)
        | .inr (.win _) => c.accessStop t sp off n .load
        | .inr (.lane _) => none

/-- One atomic of a thread: in the lane for its lane store and stack window, else at its home, or in the cache of a latency core
where asked (R70, R71, R335, R336). -/
def Chip.atomic (c : Chip) (t : Thread) (inCore sends : Bool) (sp off n : Nat) (acq rel : Bool) (scope : Nat) (new : Nat → Nat) :
    Nat × Bool × Chip :=
  let c := if rel then c.release t.id scope else c
  let c := if acq && t.onHart then c.promote t sp off n else c
  let r := match c.locate t sp off off .store with
    | .inr (.phys p) =>
      -- the core's own L1 drops its copy (R64)
      let g := c.targetOf t p.pa
      let c := match g with
        | .main l => if t.onCompute then c.dropL1 t.core (l / 64) else c
        | _ => c
      c.threadAtomic t (inCore && p.pbmt = 0) sends g n new
    | _ =>
      let r := c.loadN t.id sp off n
      if r.2.1 then r else (r.1, false, r.2.2.storeN t.id sp off n (new r.1))
  if acq then (r.1, r.2.1, r.2.2.acquired t scope t.onHart) else r

/-- Width of an atomic's data. -/
def atomicWidth (f : Long) (flt : Bool) : Nat := destWidth flt f.d

/-- Whether the atomics of one issue at one address go to the home as one request (R72). -/
def combinesAtomic : AtomicOp → Bool
  | .xchg => false
  | .cas => false
  | .fmin _ => false
  | .fmax _ => false
  | _ => true

/-- Whether a member of an issue sends a request of its own: the first at its address of those that combine (R72). -/
def sendsOwn (f : Long) (op : AtomicOp) (ms : List Thread) (t : Thread) : Bool :=
  !combinesAtomic op || !((ms.takeWhile fun u => u.id ≠ t.id).any fun u => offBase f u = offBase f t)

/-- What an acquire and a release of an atomic wait for (R65, R66, R76). -/
def Chip.orderStop (c : Chip) (t : Thread) (sp off n : Nat) (acq rel : Bool) (scope : Nat) : Option Stop :=
  (if rel then c.releaseStop t scope false else none).or (if acq && t.onHart then c.promoteStop t sp off n else none)

/-- An atomic (R334): the participants apply theirs in ascending mask-bit order, which gives each the old value of the
combined requests of R72; of threads that execute on their own, the members of the issue are given. -/
def atomicOp (f : Long) (op : AtomicOp) (peers : List Thread) : Op :=
  let flt := match op with | .fadd _ => true | .fmin _ => true | .fmax _ => true | _ => false
  let signed := op = .min || op = .max
  let cas := op = .cas
  let w := atomicWidth f flt
  let n := w / 8
  let spanD := spanOf flt f.d
  { uses := { strict := [spanI f.a, spanOf flt f.b] ++ (if cas then [spanD] else []), writes := [spanD] }
    check := fun c ts _ t => (c.atomicStop t (sendsOwn f op (if f.grouped then ts else peers) t) f.space (offBase f t) n
      (atomicFamily op w)).or (c.orderStop t f.space (offBase f t) n (f.order % 2 = 1) (2 ≤ f.order) f.scope)
    run := fun c ts => memRun (f.u && f.grouped) (fun c t =>
      let b := if flt then fltPat t.regs f.b else srcOf t.regs f.b w signed
      let cmp := readSlices t.regs (fStart f.d) w
      let r := c.atomic t false (sendsOwn f op (if f.grouped then ts else peers) t) f.space (offBase f t) n (f.order % 2 = 1)
        (2 ≤ f.order) f.scope (fun old => atomicNew op w old b cmp)
      ({ sets := [(fStart f.d, w, r.1)], poison := r.2.1 }, r.2.2)) c ts }

/-- The members of an issue whose atomics are sent: those that nothing stops (R72). -/
def State.atomicPeers (s : State) (f : Long) (op : AtomicOp) : List Thread :=
  match s.issue with
  | none => []
  | some i => (i.parts.filterMap s.chip.thread?).filter fun t => ((atomicOp f op []).stop s.chip [t] 0 t i.word).isNone

/-- Execute an atomic (R334). -/
def State.atomic (s : State) (f : Long) (op : AtomicOp) : State := s.long f (atomicOp f op (s.atomicPeers f op))

end Sys2Proof.Machine
end

