-- ==== Sys2Proof/Machine/Fences.lean ====
section
/-! DEFINITION. Split-phase fences: fen and fenw (R140-R144, R337, R338). -/
namespace Sys2Proof.Machine

/-- Before-mask of fen (R327). -/
def fenBefore (f : Long) : BitVec 4 := f.x.extractLsb' 0 4
/-- After-mask of fen (R327). -/
def fenAfter (f : Long) : BitVec 4 := f.x.extractLsb' 4 4

/-- A class M access: a transfer or a multiply (R127). -/
def MatKind.isAccess : MatKind → Bool
  | .fence => false
  | _ => true

/-- Engine operations of a thread in the classes of a before-mask that have not completed (R140); those of a thread that has moved
to a latency core carry the number of its away entry (R109). -/
def Chip.pendingOps (c : Chip) (t : Thread) (bm : BitVec 4) : List Nat :=
  let ids := if t.onHart then t.id :: ((c.awayEntry t).map (·.id)).toList else [t.id]
  let mine (ts : List Nat) : Bool := ids.any ts.contains
  (if bm.getLsbD 1 then (c.eng.copies.filter fun k => mine k.threads).map (·.id) else []) ++
  (if bm.getLsbD 2 then (c.eng.mats.filter fun m => mine m.members && m.kind.isAccess).map (·.id) else [])

/-- The release side of a fence: T before, and cluster scope or wider or an engine class after (R144, R217). -/
def Chip.fenceRelease (c : Chip) (t : Thread) (bm am : BitVec 4) (scope : Nat) : Chip :=
  if !t.onCompute || !bm.getLsbD 0 then c
  else
    let engine := decide (am &&& 0xE ≠ 0)
    let c := if 2 ≤ scope || engine then (c.windowWrite t.id engine).writeBackAll t.core else c
    c.newEpoch t.core

/-- Whether a fence ends the core's leases when its fenw returns (R144). -/
def fenceEnds (bm am : BitVec 4) (scope : Nat) : Bool := am.getLsbD 0 && (decide (2 ≤ scope) || decide (bm &&& 0xE ≠ 0))

/-- Whether it also discards the clean bytes of the stack window (R150). -/
def fenceForgets (am : BitVec 4) (scope : Nat) : Bool := am.getLsbD 0 && decide (2 ≤ scope)

/-- The acquire side of a fence on a compute core, when its fenw returns (R144, R150). -/
def Chip.fenceAcquire (c : Chip) (t : Thread) (ends forgets : Bool) : Chip :=
  if !t.onCompute then c
  else
    let c := if ends then c.endLeases t.core else c
    if forgets then c.windowForget t.id else c

/-- The lowest slot that is not outstanding (R337). -/
def freeSlot (ts : List Token) : Option Nat := (List.range 4).find? fun i => !(ts.getD i {}).live

/-- The oldest outstanding slot (R143). -/
def oldestSlot (ts : List Token) : Nat :=
  (List.range 4).foldl (fun b i => if (ts.getD i {}).order < (ts.getD b {}).order then i else b) 0

/-- Open a fence: its token slot and the token's value (R337). A slot that is taken again keeps what the fences before it end, for a wait
that still names one of them (notes/assumptions/148). -/
def Chip.openFence (c : Chip) (t : Thread) (bm am : BitVec 4) (scope : Nat) : Nat × Chip :=
  let c := c.fenceRelease t bm am scope
  if t.onHart then (0, c)
  else
    let s := (freeSlot t.tokens).getD 0
    let old := t.tokens.getD s {}
    let ops := c.pendingOps t bm
    let top := t.tokens.foldl (fun m k => max m k.order) 0
    let k : Token := {
      live := !ops.isEmpty, gen := !old.gen, ops := ops, order := top + 1, before := bm, after := am, scope := scope
      ends := fenceEnds bm am scope || old.ends, forgets := fenceForgets am scope || old.forgets }
    (8 + 4 * flag k.gen + s, c.onThread t.id fun t => { t with tokens := listSet t.tokens s k })

/-- FEN as an issue executes it (R337): with four outstanding slots it waits for the oldest; on a latency core it orders
every class before it completes and gives token 0 (R285, R338). -/
def fenOp (f : Long) : Op :=
  { uses := { writes := [spanI f.d] }
    check := fun c _ _ t =>
      if t.onHart then (if (c.pendingOps t 15).isEmpty then none else some (.hold .queueFull))
      else if (freeSlot t.tokens).isNone then some (.hold (.token (oldestSlot t.tokens)))
      else if (fenBefore f).getLsbD 0 then c.releaseStop t (bits 2 0 f.b.toNat) (decide (fenAfter f &&& 0xE ≠ 0)) else none
    run := memRun false fun c t =>
      let r := c.openFence t (fenBefore f) (fenAfter f) (bits 2 0 f.b.toNat)
      ({ sets := [(fStart f.d, 4, r.1)] }, r.2) }

/-- FEN (R337). -/
def execFen (f : Long) (s : State) : Host.Outcome State Fault Refusal := done (s.long f (fenOp f))

/-- The token slot that a slice names, where it holds a token (R338). -/
def Thread.tokenAt (t : Thread) (slice : Nat) : Option (Nat × Token) :=
  let v := readSlices t.regs slice 4
  if v.testBit 3 then some (v % 4, t.tokens.getD (v % 4) {}) else none

/-- Whether the token of a slice is that of its slot's newest fence, which has not completed (R338). -/
def Thread.tokenLive (t : Thread) (slice : Nat) : Bool :=
  let v := readSlices t.regs slice 4
  match t.tokenAt slice with
  | some (_, k) => k.live && k.gen == v.testBit 2
  | none => false

/-- FENW as an issue executes it (R338). GEN does not tell the fences of a slot apart for ever, so the acquire takes what any fence of
the slot asks for (R144). -/
def fenwOp (slice : Nat) : Op :=
  { uses := { reads := [(slice, 1)] }
    check := fun _ _ _ t => match t.tokenAt slice with
      | some (i, _) => if t.tokenLive slice && t.onCompute then some (.hold (.token i)) else none
      | none => none
    run := fun c ts => ts.foldl (fun c t => match t.tokenAt slice with
      | some (_, k) => c.fenceAcquire t k.ends k.forgets
      | none => c) c
    len := 4 }

/-- FENW (R338). -/
def execFenw (sl : BitVec 9) (s : State) : Host.Outcome State Fault Refusal :=
  done (s.issueOp (fenwOp sl.toNat) none)

end Sys2Proof.Machine
end

