-- ==== Sys2Proof/Machine/Control.lean ====
section
/-! DEFINITION. Group masks, phase barriers, footprint, safe points, migration, hook return, the end of a thread and system
information (R106, R199-R212, R224, R344-R357, R361, R366-R368). -/
namespace Sys2Proof.Machine

/-- Execute a short form for the participants (R344). -/
def State.short (s : State) (o : Op) : Host.Outcome State Fault Refusal := done (s.issueOp { o with len := 4 } none)

/-- Change GMk of a thread's issue group, but not in a handler, which sees every mask empty (R199, R228). -/
def Chip.onMask (c : Chip) (t : Thread) (k : Nat) (f : BitVec 32 → BitVec 32) : Chip :=
  match t.place with
  | .slot core q ig _ => if t.handler then c else
    c.onIg core q ig fun g => { g with gm := listSet g.gm k (f (g.gm.getD k 0)) }
  | _ => c

/-- JOIN (R199, R345). -/
def execJoin (k : BitVec 5) (s : State) : Host.Outcome State Fault Refusal :=
  s.short { run := fun c ts => ts.foldl (fun c t => c.onMask t k.toNat fun m => m ||| (1#32 <<< t.bit)) c, native := false }

/-- Test a mask of a thread's issue group again (R200, R201). -/
def Chip.retestFor (c : Chip) (t : Thread) (k : Nat) : Chip :=
  match t.place with
  | .slot core q ig _ => c.retestMask core q ig k
  | _ => c

/-- LEAVE (R199, R345): the waiters are tested again. -/
def execLeave (k : BitVec 5) (s : State) : Host.Outcome State Fault Refusal :=
  s.short { run := fun c ts => ts.foldl (fun c t =>
              (c.onMask t k.toNat fun m => m &&& ~~~(1#32 <<< t.bit)).retestFor t k.toNat) c
            native := false }

/-- Arrival of a thread at a gwait: the last releases all, or every member takes cause 26 where one waits at a collective
(R200, R201). -/
def Chip.gwaitOne (c : Chip) (word : Word) (k id : Nat) : Chip :=
  match c.thread? id with
  | none => c
  | some t =>
    if !(c.gmOf t k).getLsbD t.bit then c.onThread id fun t => { t.complete 4 with arrived := none }
    else
      let c := c.onThread id fun t => { t with wait := .group k false, waitSince := c.tick, early := none, arrived := none }
      let ms := c.membersOf t k
      if ms.all (·.arrivedAt k) && !(ms.all (·.arrivedGwait k)) then c.apart word k ms
      else c.retestFor t k

/-- GWAIT (R200, R345, R346). -/
def execGwait (k : BitVec 5) (s : State) : Host.Outcome State Fault Refusal :=
  let word := match s.issue with | some i => i.word | none => 0
  s.short { run := fun c ts => ts.foldl (fun c t => c.gwaitOne word k.toNat t.id) c, advance := false, native := false }

/-- The block and word of PBk: cause 49 beyond the block's barriers, and for a task (R350). -/
def pbStop (k : Nat) (clean : Bool) (c : Chip) (t : Thread) : Option Stop :=
  match c.blockOf t with
  | none => some (.trap 49 k)
  | some b =>
    if b.isTask || b.nbar ≤ k then some (.trap 49 k)
    else if clean && c.pbPoisoned b k then some (.trap 28 (pbOffset b k)) else none

/-- What an arrival waits for as a release of cluster scope (R76, R352). -/
def arriveStop (k : Nat) (c : Chip) (t : Thread) : Option Stop := (pbStop k true c t).or (c.releaseStop t 2 false)

/-- PBINIT (R350, R351): the phase stays; a poisoned word becomes clean with phase 0. -/
def Chip.pbInit (c : Chip) (t : Thread) (k e : Nat) : Chip :=
  match c.blockOf t with
  | none => c
  | some b =>
    let was := pbPhase (c.pbRead b k)
    let bad := c.pbPoisoned b k
    let phase := !bad && was
    let c := (c.clearPoison (c.pbLoc b k)).pbPut b k (pbWord phase false 0 e e false 0)
    if phase = was then c else c.pbWake b k phase

/-- PBINIT (R350, R351). -/
def execPbinit (k : BitVec 12) (rs1 : BitVec 5) (s : State) : Host.Outcome State Fault Refusal :=
  s.short { uses := { reads := [spanX rs1.toNat] }
            check := fun c _ _ t => pbStop k.toNat false c t
            run := fun c ts => ts.foldl (fun c t => c.pbInit t k.toNat (bits 15 0 (readX t.regs rs1.toNat).toNat)) c
            native := false }

/-- Arrivals that a form counts: 0 counts as 1 (R350). -/
def arrivals (rs1 : BitVec 5) (t : Thread) : Nat :=
  let v := bits 15 0 (readX t.regs rs1.toNat).toNat
  if v = 0 then 1 else v

/-- An arrival: a release of cluster scope, then the update of the word (R351, R352). -/
def Chip.pbArrive (c : Chip) (t : Thread) (k n : Nat) : Chip :=
  match c.blockOf t with
  | none => c
  | some b => (c.release t.id 2).pbApply b k n 0 0

/-- PBARR (R350, R351). -/
def execPbarr (k : BitVec 12) (rs1 : BitVec 5) (s : State) : Host.Outcome State Fault Refusal :=
  s.short { uses := { reads := [spanX rs1.toNat] }
            check := fun c _ _ t => arriveStop k.toNat c t
            run := fun c ts => ts.foldl (fun c t => c.pbArrive t k.toNat (arrivals rs1 t)) c
            native := false }

/-- Phase of PBk as a thread reads it. -/
def Chip.pbPhaseOf (c : Chip) (t : Thread) (k : Nat) : Bool :=
  match c.blockOf t with
  | none => false
  | some b => pbPhase (c.pbRead b k)

/-- Waits past a phase that no longer holds end, whatever wrote the word (R351, R352, R366). -/
def Chip.wakeBarriers (c : Chip) : Chip :=
  (c.threads.filter fun t => match t.wait, c.blockOf t with
    | .barrier k past _, some b => !c.pbPoisoned b k && pbPhase (c.pbRead b k) != past
    | _, _ => false).foldl (fun c t => (c.onThread t.id fun t => { t.complete 4 with arrived := none }).acquire t.id 2) c

/-- Wait past a phase: the thread returns at once where the phase differs, an acquire of cluster scope (R351, R352). -/
def Chip.pbPast (c : Chip) (t : Thread) (k : Nat) (past arrived : Bool) : Chip :=
  if c.pbPhaseOf t k != past then (c.onThread t.id fun t => { t.complete 4 with arrived := none }).acquire t.id 2
  else c.onThread t.id fun t => { t with wait := .barrier k past arrived, waitSince := c.tick }

/-- PBWAIT (R350, R351). -/
def execPbwait (k : BitVec 12) (rs1 : BitVec 5) (s : State) : Host.Outcome State Fault Refusal :=
  s.short { uses := { reads := [spanX rs1.toNat] }
            check := fun c _ _ t => pbStop k.toNat true c t
            run := fun c ts => ts.foldl (fun c t => c.pbPast t k.toNat ((readX t.regs rs1.toNat).getLsbD 0) false) c
            advance := false, native := false }

/-- pbarw for one thread: one atomic for the phase and the arrival; one that has arrived already waits on (R351, R366). -/
def Chip.pbArriveWait (c : Chip) (t : Thread) (k n : Nat) : Chip :=
  match t.arrived with
  | some p => c.pbPast t k p true
  | none =>
    let p := c.pbPhaseOf t k
    (c.pbArrive t k n).pbPast t k p true

/-- PBARW (R350, R351). -/
def execPbarw (k : BitVec 12) (rs1 : BitVec 5) (s : State) : Host.Outcome State Fault Refusal :=
  s.short { uses := { reads := [spanX rs1.toNat] }
            check := fun c _ _ t => arriveStop k.toNat c t
            run := fun c ts => ts.foldl (fun c t => c.pbArriveWait t k.toNat (arrivals rs1 t)) c
            advance := false, native := false }

/-- The slice request of a lane that was made first (R212). -/
def Chip.laneHead (c : Chip) (core q lane : Nat) : Option Thread :=
  let ws := c.threads.filter fun t => t.onCompute && t.lane3 == (core, q, lane) &&
    (match t.wait with | .slices _ => true | _ => false)
  ws.foldl (fun m t => match m with
    | none => some t
    | some u => if t.claimed < u.claimed then some t else m) none

/-- A lane has met a request (R212). -/
def Chip.metLane (c : Chip) (lane : Nat × Nat × Nat) : Chip := { c with laneMet := assocSet c.laneMet lane c.tick }

/-- Serve a lane's slice queue strictly in order, at most n requests (R212): the thread re-executes with its slices. -/
def Chip.serveLane (c : Chip) (core q lane : Nat) : Nat → Chip
  | 0 => c
  | n + 1 =>
    match c.laneHead core q lane with
    | none => c
    | some t =>
      match t.wait with
      | .slices top =>
        if c.laneFree core q lane < top - t.tfoot then c
        else
          let c := c.onThread t.id fun t =>
            if t.arriving then { t with tfoot := max top t.tfoot, arriving := false, wait := .ready }
            else { t.setFoot (max top t.tfoot) with wait := .ready }
          (c.metLane (core, q, lane)).serveLane core q lane n
      | _ => c

/-- Poison bits of the bars below a footprint top (R211). -/
def Thread.keepBars (t : Thread) (n v : Nat) : Thread :=
  let bars := if v ≤ 16 then 0 else barOf t.p0 n (v - 1) + 1
  { t with barPoison := t.barPoison &&& BitVec.ofNat 64 (2 ^ bars - 1) }

/-- give v (R211): the slices above v return to the lane, whose queue is served at once (R354). -/
def Chip.give (c : Chip) (t : Thread) (v : Nat) : Chip :=
  if t.tfoot ≤ v then c
  else
    let c := c.onThread t.id fun u => (u.setFoot v).keepBars (c.bars t) v
    c.serveLane t.lane3.1 t.lane3.2.1 t.lane3.2.2 32

/-- GIVE (R211, R354). -/
def execGive (v : BitVec 12) (s : State) : Host.Outcome State Fault Refusal :=
  s.short { run := fun c ts => ts.foldl (fun c t => c.give t v.toNat) c, native := false }

/-- What holds a claim: slices that the lane lacks, or an earlier request of the lane (R211, R212). -/
def claimStop (v : Nat) (c : Chip) (t : Thread) : Option Stop :=
  let l := t.lane3
  if v ≤ t.tfoot then none
  else if (c.laneHead l.1 l.2.1 l.2.2).isNone && v - t.tfoot ≤ c.laneFree l.1 l.2.1 l.2.2 then none
  else some (.hold (.slices v))

/-- CLAIM (R211, R354). -/
def execClaim (v : BitVec 12) (s : State) : Host.Outcome State Fault Refusal :=
  s.short { check := fun c _ _ t => claimStop v.toNat c t
            run := fun c ts => ts.foldl (fun c t =>
              if v.toNat ≤ t.tfoot then c else (c.onThread t.id fun t => t.setFoot v.toNat).metLane t.lane3) c
            native := false }

/-- The live mask of a park at a safe point: bit 2 forced (R224). -/
def safeMask (f : Long) : BitVec 32 := BitVec.ofNat 32 (Long.liveMask f) ||| 4

/-- A thread parks at a safe point for a pre-emption request; its saved PC is the next instruction's (R224, R226). -/
def Thread.parkSafe (t : Thread) (live : BitVec 32) : Thread :=
  { t with wait := .safePark, live := live, reqPending := false, parkFlags := 1, arrived := none }

/-- safept for one thread (R224): park where a request is pending. -/
def Chip.safePoint (c : Chip) (t : Thread) (live : BitVec 32) : Chip :=
  if t.tsafe then c.onThread t.id fun t => t.parkSafe live else c

/-- SAFEPT as an issue executes it (R224, R355): a cancelled thread ends through cause 52. -/
def safeptOp (f : Long) : Op :=
  { check := fun _ _ _ t => if t.tsafe && t.cancelled then some (.trap 52 0) else none
    run := fun c ts => ts.foldl (fun c t => (c.onThread t.id fun t => { t.complete 8 with arrived := none }).safePoint t (safeMask f)) c
    advance := false }

/-- SAFEPT (R224, R355). -/
def execSafept (f : Long) (s : State) : Host.Outcome State Fault Refusal := done (s.issueOp (safeptOp f) none)

/-- A placement hint (R106): kind, reserved bits, core, die. -/
structure Hint where
  kind : Nat
  bad : Bool
  core : Nat
  die : Nat

/-- Fields of a hint; kind 3 takes bits 2:1 zero (R106). -/
def hintOf (h : Word) : Hint :=
  let v := h.toNat
  let kind := bits 63 62 v
  { kind := kind, bad := bits 61 10 v ≠ 0 || decide (78 < bits 9 3 v) || (kind = 3 && bits 2 1 v ≠ 0)
    core := bits 9 3 v, die := if kind = 3 then bits 0 0 v else bits 2 0 v }

/-- Whether the destination of a hint is where a thread runs (R106). -/
def hintHere (h : Hint) (t : Thread) : Bool :=
  match t.place with
  | .slot core _ _ _ =>
    decide (h.kind < 3) && (t.block.isSome || h.kind = 0 || (h.kind = 1 && h.die = core / 80) ||
      (h.kind = 2 && h.die = core / 80 && h.core = core % 80))
  | .hart l _ => h.kind = 3 && h.die = l
  | _ => false

/-- Whether the named die is fenced (R106, R77). -/
def Chip.hintFenced (c : Chip) (h : Hint) : Bool :=
  match h.kind with
  | 0 => false
  | 3 => h.die = 1 && c.ras.ldie1
  | _ => c.ras.dies.getLsbD h.die

/-- Status of a migrate that does not move, none where it moves (R106). -/
def Chip.migrateStatus (c : Chip) (t : Thread) (h : Hint) : Option Word :=
  if h.bad then some (BitVec.allOnes 64)
  else if hintHere h t then some 0
  else if c.hintFenced h then some (-2)
  else none

/-- The result in rd of a short form, with the poison of its sources (R74). -/
def Chip.giveX (c : Chip) (t : Thread) (rd : Nat) (v : Word) (poison : Bool) : Chip :=
  c.onThread t.id fun u => u.apply (c.bars u) { sets := [(16 * rd, 64, v.toNat)], poison := poison }

/-- migrate for one thread that moves (R106, R108, R111): a compute-core thread waits to depart; a latency-core one leaves
its record, and rd reads 0 on arrival. -/
def Chip.migrateGo (c : Chip) (t : Thread) (rd : Nat) (hint word : Word) : Chip :=
  match t.place with
  | .slot _ _ _ _ => c.onThread t.id fun t => { t with
      wait := .moving .migrate 0 0 (if (hintOf hint).kind = 3 then (hintOf hint).die else 0), waitSince := c.tick
      hint := hint, hintRd := rd }
  | .hart _ _ =>
    c.hartDepart t { t with regs := writeX t.regs rd 0, pc := t.pc + 4, instret := t.instret + 1, arrived := none } hint rd word 0 0
  | _ => c

/-- migrate for one thread (R106, R356). -/
def Chip.migrateOne (c : Chip) (t : Thread) (rd rs1 : Nat) (word : Word) : Chip :=
  let h := readX t.regs rs1
  match c.migrateStatus t (hintOf h) with
  | some v => (c.giveX t rd v (t.poisoned (c.bars t) [spanX rs1])).onThread t.id fun t => { t.complete 4 with arrived := none }
  | none => c.migrateGo t rd h word

/-- MIGRATE (R106, R356). -/
def execMigrate (rd rs1 : BitVec 5) (s : State) : Host.Outcome State Fault Refusal :=
  let word := match s.issue with | some i => i.word | none => 0
  s.short { uses := { reads := [spanX rs1.toNat], writes := [spanX rd.toNat] }
            run := fun c ts => ts.foldl (fun c t => c.migrateOne t rd.toNat rs1.toNat word) c
            advance := false }

/-- TRET (R117, R357): cause 2 with H = 0 and on a latency core. -/
def execTret (s : State) : Host.Outcome State Fault Refusal :=
  s.short { legal := fun _ _ t => t.onCompute && t.hook
            run := fun c ts => ts.foldl (fun c t => c.onThread t.id fun t => { t.leaveHook with arrived := none }) c
            advance := false }

/-- gend on a latency core by a grid or task thread (R361): its record with reason 7, and the slot it held is released. -/
def Chip.hartGend (c : Chip) (t : Thread) (word : Word) : Chip :=
  match t.place with
  | .hart l k =>
    let h := (c.hart? l k).getD {}
    if h.stthr = 0 then c.hartTrap t 2 word.toNat
    else
      let bytes := recordBytes t {
        reason := 7, stored := BitVec.allOnes 32, ctx := Hart.ctx h, foot := if (c.gridOf t).isSome then t.tfoot else 512 }
      let c := c.agentStore (.ldie l) h.stthr.toNat bytes
      let c := match c.awayEntry t with
        | some o => if o.block.isNone then { c with threads := c.threads.filter fun (u : Thread) => u.id ≠ o.id }
          else c.onThread o.id fun o => { o with place := .ended, held := none }
        | none => c
      let c := c.departed t.id t.pc h
      match t.block with
      | some b => c.retireCheck b
      | none => c
  | _ => c

/-- gend for one thread: a handler ends alone; else the window is spilled and the thread ends (R157, R228, R361). -/
def Chip.gendOne (c : Chip) (t : Thread) (word : Word) : Chip :=
  if t.onHart then c.hartGend t word
  else
    let c := c.spillWindow t.id
    if t.handler then c.endHandler t false else c.endThread t.id

/-- The oldest outstanding token slot of a thread, none where all have completed (R361). -/
def Thread.tokenHold (t : Thread) : Option Stop :=
  if t.tokensDone then none
  else some (.hold (.token (((List.range 4).find? fun i => (t.tokens.getD i {}).live).getD 0)))

/-- GEND (R361). -/
def execGend (s : State) : Host.Outcome State Fault Refusal :=
  let word := match s.issue with | some i => i.word | none => 0
  s.short { legal := fun _ _ t => t.block.isSome || t.cancelled
            check := fun _ _ _ t => if t.onHart then none else t.tokenHold
            run := fun c ts => ts.foldl (fun c t => c.gendOne t word) c
            advance := false }

/-- DEVFEATi (R120, R124): the defined feature bits 0-24. -/
def devFeat (i : Nat) : Word := if i = 0 then 0x01FF_FFFF else 0

/-- A value of sysinfo (R367). -/
def Chip.sysItem (c : Chip) (synced : Bool) (item : Nat) : Word :=
  if item < 8 then devFeat item
  else match item with
    | 8 => BitVec.ofNat 64 (c.pkg + 32 * flag (c.members ≠ 0) + 64 * flag synced)
    | 9 => if c.members = 0 then 1 else c.members.setWidth 64
    | 10 => (~~~c.ras.dies).setWidth 64 ||| (if c.ras.ldie1 then 0 else 0x200)
    | 11 => BitVec.ofNat 64 (((List.range 8).filter fun d => !c.ras.dies.getLsbD d).length * 79)
    | _ => BitVec.allOnes 64

/-- Whether the timebase counts as synchronised (R36): a package that is no pod member and a leader always do
(notes/assumptions/27). -/
def State.synced (s : State) : Bool :=
  s.chip.members = 0 || s.plat.pod.leader = s.plat.pod.self || s.plat.link.synced

/-- SYSINFO (R367). -/
def execSysinfo (rd rs1 : BitVec 5) (s : State) : Host.Outcome State Fault Refusal :=
  let synced := s.synced
  s.short { uses := { reads := [spanX rs1.toNat], writes := [spanX rd.toNat] }
            run := fun c ts => ts.foldl (fun c t =>
              c.giveX t rd.toNat (c.sysItem synced (readX t.regs rs1.toNat).toNat) (t.poisoned (c.bars t) [spanX rs1.toNat])) c }

end Sys2Proof.Machine
end

