-- ==== Sys2Proof/Machine/Convert.lean ====
section
/-! DEFINITION. Group 0x5: conversions, block packs and unpacks, scaled FP8 (R311-R315, R321-R326). -/
namespace Sys2Proof.Machine

/-- Rounding code of group 0x5: X bits 2:0 (R313). -/
def modeX (f : Long) : Nat := xBits f.x 2 0

/-- A conversion: the result in the resolved mode, of the executing thread and the one whose B is read (R313, R321). -/
def convOp (f : Long) (k : Kinds) (g : Nat → Thread → Thread → Res) : Op :=
  let small := k.dFlt && smallD f
  fltOp f k (fun _ _ t => (modeFor (modeX f) small t).isSome) fun t bt => g ((modeFor (modeX f) small t).getD 0) t bt

/-- Operands of a conversion (R311). -/
def convKinds (dFlt bFlt : Bool) : Kinds := { dFlt := dFlt, bFlt := bFlt, readsA := false, perm := false }

/-- CVT (R321). -/
def execCvt (f : Long) (s : State) : Host.Outcome State Fault Refusal :=
  done (s.long f (convOp f (convKinds true true) fun rm t bt =>
    let b := fltIn bt.regs f.b t.ftz
    let r := roundTo (fmtOf f.d) rm t.ftz t.trng b.1
    { r with fl := r.fl.or ((snanFlag b.1).or b.2) }))

/-- A conversion to an integer (R321). -/
def toIntExec (f : Long) (sg : Bool) (s : State) : Host.Outcome State Fault Refusal :=
  done (s.long f (convOp f (convKinds false true) fun rm t bt =>
    let b := fltIn bt.regs f.b t.ftz
    let r := toInteger sg (fWidth f.d) rm t.trng b.1
    { r with fl := r.fl.or b.2 }))

/-- CVTFS (R321). -/
def execCvtfs (f : Long) (s : State) : Host.Outcome State Fault Refusal := toIntExec f true s
/-- CVTFZ (R321). -/
def execCvtfz (f : Long) (s : State) : Host.Outcome State Fault Refusal := toIntExec f false s

/-- A conversion from an integer (R321). -/
def ofIntExec (f : Long) (sg : Bool) (s : State) : Host.Outcome State Fault Refusal :=
  done (s.long f (convOp f (convKinds true false) fun rm t bt =>
    let v := ival (readSlices bt.regs (fStart f.b) (fWidth f.b)) (fWidth f.b) sg
    roundTo (fmtOf f.d) rm t.ftz t.trng (ofInteger v)))

/-- CVTSF (R321). -/
def execCvtsf (f : Long) (s : State) : Host.Outcome State Fault Refusal := ofIntExec f true s
/-- CVTZF (R321). -/
def execCvtzf (f : Long) (s : State) : Host.Outcome State Fault Refusal := ofIntExec f false s

/-- Members with their ranks. -/
def ranked (ts : List Thread) : List (Thread × Nat) := ts.zip (List.range ts.length)

/-- Whether any member's B is poisoned (R323, R324). -/
def anyPoison (c : Chip) (ts : List Thread) (p : Span) : Bool := ts.any fun t => t.poisoned (c.bars t) [p]

/-- Inputs of a pack: element r is the member of rank r, its value under rank 0's flush; +0 beyond the members; none of the
elements beyond the members is rounded (R323). -/
def packInputs (f : Long) (ts : List Thread) : List ((Fv × Bool × Word) × Fl) :=
  let ftz := (ts.headD {}).ftz
  (List.range 32).map fun r =>
    match ts[r]? with
    | some t => let b := fltIn t.regs f.b ftz; ((b.1, true, t.trng), b.2)
    | none => ((Fv.zero, false, 0), flNone)

/-- The members receive their lane words (R322, R323). -/
def packGive (f : Long) (b : BlockRes) (bytes : List Nat) (flushes : List Fl) (c : Chip) (ts : List Thread) : Chip :=
  let p := anyPoison c ts (spanF f.b)
  (ranked ts).foldl (fun c m =>
    let r := m.2
    let fl := b.all.or ((b.fls.getD r flNone).or (flushes.getD r flNone))
    let e : Eff := { sets := [(fStart f.d, 16, b.e * 256 + bytes.getD r 0)], poison := p, ff := fl.ff, tf := fl.tf
                     trng := some (b.trngs.getD r m.1.trng) }
    c.setThread (m.1.apply (c.bars m.1) e)) c

/-- Bits of elements of width w, least significant first, as bytes (R244). -/
def elemBytesOf (w : Nat) (els : List Int) (n : Nat) : List Nat :=
  let v := els.foldr (fun e acc => zextI e w + acc * 2 ^ w) 0
  (bytesOf v n).map (·.toNat)

/-- A pack: its block result from the 32 values and the mode, and its record bytes after the exponent (R323). -/
def packOp (f : Long) (g : Nat → List (Fv × Bool × Word) → BlockRes × List Nat) : Op :=
  { uses := { reads := [spanF f.b], writes := [spanI f.d] }
    legal := fun ts _ t => (modeFor (modeX f) true (ts.headD t)).isSome
    run := fun c ts =>
      let ins := packInputs f ts
      let rm := (modeFor (modeX f) true (ts.headD {})).getD 0
      let r := g rm (ins.map (·.1))
      packGive f r.1 r.2 (ins.map (·.2)) c ts }

/-- m of X bits 7:4 (R279). -/
def mOf (f : Long) : Nat := xBits f.x 7 4

/-- BXPK (R323). -/
def execBxpk (f : Long) (s : State) : Host.Outcome State Fault Refusal :=
  done (s.long f (packOp f fun rm vs =>
    let r := packBx (mOf f) rm vs
    (r, elemBytesOf (mOf f) r.els (4 * mOf f))))

/-- The 35 digits of a ternary record: digits 2-4 of the last byte are 0 (R268). -/
def ternBytes (els : List Int) : List Nat :=
  let ds := els ++ [0, 0, 0]
  (List.range 7).map fun j => ternByte ((ds.drop (5 * j)).take 5)

/-- TRPK (R323). -/
def execTrpk (f : Long) (s : State) : Host.Outcome State Fault Refusal :=
  done (s.long f (packOp f fun rm vs => let r := packTern rm vs; (r, ternBytes r.els)))

/-- The kept positions of all eight groups of four, rising (R269). -/
def keptAll (vs : List Fv) : List (Nat × Nat) :=
  (List.range 8).map fun g => keptPair ((vs.drop (4 * g)).take 4)

/-- BXCMP (R323, R269): the dropped values are not rounded. -/
def execBxcmp (f : Long) (s : State) : Host.Outcome State Fault Refusal :=
  done (s.long f (packOp f fun rm vs =>
    let kept := keptAll (vs.map (·.1))
    let isKept (i : Nat) : Bool := let p := kept.getD (i / 4) (0, 0); i % 4 = p.1 || i % 4 = p.2
    let vs' := (vs.zip (List.range 32)).map fun v => (v.1.1, v.1.2.1 && isKept v.2, v.1.2.2)
    let r := packBx (mOf f) rm vs'
    let els := kept.zip (List.range 8) |>.flatMap fun p => [r.els.getD (4 * p.2 + p.1.1) 0, r.els.getD (4 * p.2 + p.1.2) 0]
    let index := kept.foldr (fun p acc => p.1 + 4 * p.2 + 16 * acc) 0
    (r, elemBytesOf (mOf f) els (2 * mOf f) ++ (bytesOf index 4).map (·.toNat))))

/-- Byte j of the record that an unpack reads, 1 to n from the members in rank order (R324). -/
def unpackByte (f : Long) (ts : List Thread) (j : Nat) : Nat :=
  match ts[j - 1]? with
  | some t => if j = 0 then 0 else readSlices t.regs (fStart f.b) 8
  | none => 0

/-- E of an unpack: rank 0's bits 15:8 (R324). -/
def unpackE (f : Long) (ts : List Thread) : Nat := readSlices (ts.headD {}).regs (fStart f.b) 16 / 256

/-- Each member's value rounded under rank 0's mode and flush with its own generator (R324). -/
def unpackOp (f : Long) (value : List Thread → Bool) (g : List Thread → Nat → Fv)
    (fl : List Thread → Fl) : Op :=
  { uses := { reads := [spanI f.b], writes := [spanF f.d] }
    legal := fun ts _ t => (modeFor (modeX f) (smallD f) (ts.headD t)).isSome
    value := value
    run := fun c ts =>
      let t0 := ts.headD {}
      let rm := (modeFor (modeX f) (smallD f) t0).getD 0
      let p := anyPoison c ts (spanI f.b)
      let nanb := Fl.when (unpackE f ts = 255) flNANB
      (ranked ts).foldl (fun c m =>
        let r := roundTo (fmtOf f.d) rm t0.ftz m.1.trng (g ts m.2)
        let flags := r.fl.or (nanb.or (fl ts))
        let e : Eff := { sets := [(fStart f.d, Fmt.width (fmtOf f.d), r.val)], poison := p, ff := flags.ff, tf := flags.tf
                         trng := some r.trng }
        c.setThread (m.1.apply (c.bars m.1) e)) c }

/-- BXUNP (R324). -/
def execBxunp (f : Long) (s : State) : Host.Outcome State Fault Refusal :=
  done (s.long f (unpackOp f (fun _ => false)
    (fun ts r =>
      let m := mOf f
      let v := numOf ((List.range (4 * m)).map fun i => BitVec.ofNat 8 (unpackByte f ts (i + 1)))
      bxValue m (unpackE f ts) (signedOf m (v >>> (m * r))))
    (fun _ => {})))

/-- Whether a member of a ternary unpack reads a reserved byte in a block that has digits (R259, R324). -/
def ternReserved (f : Long) (ts : List Thread) : Bool :=
  let e := unpackE f ts
  decide (1 ≤ e) && decide (e ≤ 254) &&
    (List.range ts.length).any fun r => decide (243 ≤ unpackByte f ts (1 + r / 5))

/-- TRUNP (R324): with rank 0's TTRAP, a reserved byte is cause 2 for every member; tval is the word. -/
def execTrunp (f : Long) (s : State) : Host.Outcome State Fault Refusal :=
  done (s.long f (unpackOp f (fun ts => (ts.headD {}).ttrap && ternReserved f ts)
    (fun ts r => ternValue (unpackE f ts) (ternDigit (unpackByte f ts (1 + r / 5)) (r % 5)))
    (fun ts => Fl.when (ternReserved f ts) flTERN)))

/-- Scale of f8pk and f8unp: rank 0's A in a collective, the thread's own with G = 12 (R325). -/
def scaleOf (f : Long) (ts : List Thread) (t : Thread) : Nat :=
  readSlices (if f.grouped then ts.headD t else t).regs (fStart f.a) 8

/-- A scaled FP8 conversion: rank 0's A scales every member (R325). The result is from E, the mode, the thread. -/
def f8Op (f : Long) (g : Nat → Nat → Thread → Res) : Op :=
  let k : Kinds := { aFlt := false, perm := false }
  { uses := fltUses f k
    -- the scale is read from rank 0
    cross := if f.grouped then [spanI f.a] else [], source := fun ts _ t => ts.headD t
    legal := fun _ _ t => (modeFor (modeX f) (smallD f) t).isSome
    run := regRun (f.u && f.grouped) fun c ts r t =>
      let at_ := if f.grouped then ts.headD t else t
      let v := g (scaleOf f ts t) ((modeFor (modeX f) (smallD f) t).getD 0) t
      let e := fltEff f k (fun _ _ => v) c ts r t
      { e with poison := at_.poisoned (c.bars at_) [spanI f.a] || t.poisoned (c.bars t) [spanF f.b] } }

/-- A finite value times 2^k; other values stay (R325). -/
def fvScale (k : Int) : Fv → Fv
  | .fin n m e => .fin n m (e + k)
  | v => v

/-- F8PK (R325). -/
def execF8pk (f : Long) (s : State) : Host.Outcome State Fault Refusal :=
  done (s.long f (f8Op f fun e rm t =>
    if e = 0 then ⟨0, {}, t.trng⟩
    else if e = 255 then ⟨Fmt.nan (fmtOf f.d), flNANB, t.trng⟩
    else
      let b := fltIn t.regs f.b t.ftz
      let r := roundTo (fmtOf f.d) rm t.ftz t.trng (fvScale (127 - (e : Int)) b.1)
      { r with fl := r.fl.or ((snanFlag b.1).or b.2) }))

/-- F8UNP (R325): a zero result is rounded as any other value (R313), with a step of the generator in mode 5 (R262). -/
def execF8unp (f : Long) (s : State) : Host.Outcome State Fault Refusal :=
  done (s.long f (f8Op f fun e rm t =>
    if e = 0 then roundTo (fmtOf f.d) rm t.ftz t.trng Fv.zero
    else if e = 255 then ⟨Fmt.nan (fmtOf f.d), flNANB, t.trng⟩
    else
      let b := fltIn t.regs f.b t.ftz
      let r := roundTo (fmtOf f.d) rm t.ftz t.trng (fvScale ((e : Int) - 127) b.1)
      { r with fl := r.fl.or b.2 }))

end Sys2Proof.Machine
end

