-- ==== Sys2Proof/Machine/Tiles.lean ====
section
/-! DEFINITION. Tiles: swizzle, geometry, states, definition, release and tile wait (R247-R249, R353, R372, R374, R375). -/
namespace Sys2Proof.Machine

/-- s(i, c): place of byte c of tile row i in its row (R248). -/
def swizzle (mode i c : Nat) : Nat :=
  let rot (span step r : Nat) : Nat := (c - c % span) + ((c + step * r) % span)
  match mode with
  | 0 => c
  | 1 => rot 128 16 (i % 8)
  | 2 => rot 64 16 (i % 4)
  | _ => rot 128 4 (i % 32)

/-- The multiple that row bytes must have (R248). -/
def swizzleMultiple (mode : Nat) : Nat :=
  match mode with
  | 0 => 16
  | 1 => 128
  | 2 => 64
  | _ => 128

/-- Space-1 offset of byte c of row i of a tile (R248). -/
def Tile.at (t : Tile) (i c : Nat) : Nat := t.base + i * t.rowBytes + swizzle t.swz i c

/-- Bytes of a tile. -/
def Tile.bytes (t : Tile) : Nat := t.rows * t.rowBytes

/-- Change tile k of a block. -/
def Chip.onTile (c : Chip) (b : Nat) (k : Nat) (f : Tile → Tile) : Chip :=
  match c.block? b with
  | none => c
  | some b => match b.tiles[k]? with
    | none => c
    | some t => c.setBlock { b with tiles := listSet b.tiles k (f t) }

/-- Whether a tile meets what a wait needs (R249, R375). -/
def TileNeed.met (t : Tile) : TileNeed → Bool
  | .ready => t.state = .ready
  | .unread => t.state = .ready && t.readers = 0
  | .fillable => t.state = .empty || t.state = .filling
  | .empty => t.state = .empty
  | .releasable => t.state = .empty || (t.state = .ready && t.readers = 0)

/-- The wait of an instruction on tile k, none where the tile meets its need. -/
def tileHold (k : Nat) (t : Tile) (need : TileNeed) : Option Stop :=
  if need.met t then none else some (.hold (.tile k need))

/-- A tile becomes ready: its phase flips (R249). -/
def Tile.ready (t : Tile) : Tile := { t with state := .ready, phase := !t.phase, pending := 0 }

/-- A fill of some bytes completes (R249). -/
def Tile.filled (t : Tile) (n : Nat) : Tile := if t.pending ≤ n then t.ready else { t with pending := t.pending - n }

/-- A fill faults: its issued bytes return (R249, R342). -/
def Tile.unfilled (t : Tile) (n : Nat) : Tile := { t with issued := t.issued - n }

/-- A copy-out completes (R249). -/
def Tile.drained (t : Tile) : Tile := { t with state := .empty, phase := !t.phase }

/-- A fill of some bytes is issued (R249). -/
def Tile.filling (t : Tile) (n : Nat) : Tile :=
  match t.state with
  | .empty => { t with state := .filling, issued := n, pending := t.bytes }
  | _ => { t with issued := t.issued + n }

/-- The members' mask, as cause 27 reports it: the group mask, or the thread's own bit with G = 12 (R242). -/
def voteMask (c : Chip) (f : Long) (t : Thread) : Nat :=
  if f.grouped then (c.gmOf t f.g.toNat).toNat else 2 ^ t.bit

/-- Whether every member holds the same value. -/
def allSame (ts : List Thread) (g : Thread → Nat) : Bool := ts.all fun t => g t = g (ts.headD t)

/-- Fields of a definition word (R374). -/
structure TdefWord where
  swz : Nat
  rowBytes : Nat
  rows : Nat
  base : Nat
  tile : Nat

/-- Decode a definition word (R374). -/
def tdefWord (w : Nat) : TdefWord :=
  { swz := bits 42 41 w, rowBytes := (bits 40 32 w + 1) * 16, rows := bits 31 20 w + 1, base := 64 * bits 19 6 w, tile := bits 5 0 w }

/-- Checks of tdef and trel before the tile's state, and the tile wait (R372, R375). -/
def tileWordStop (f : Long) (define : Bool) (c : Chip) (ts : List Thread) (t : Thread) : Option Stop :=
  let w := srcOf t.regs f.a 64 false
  let mask := voteMask c f t
  if f.grouped && !allSame ts (fun u => srcOf u.regs f.a 64 false) then some (.trap 27 mask)
  else match c.blockOf t with
    | none => some (.trap 51 (bits 5 0 w))
    | some b => match b.tiles[bits 5 0 w]? with
      | none => some (.trap 51 (bits 5 0 w))
      | some tile =>
        let d := tdefWord w
        let bound := roundUp b.spbytes 64
        if define && decide (bound < d.base + d.rows * d.rowBytes) then some (.trap 25 (max d.base bound))
        else if define && d.rowBytes % swizzleMultiple d.swz ≠ 0 then some (.trap 27 (mask + 2 ^ 32))
        else tileHold (bits 5 0 w) tile (if define then .empty else .releasable)

/-- tdef or trel as an issue executes it: once for a group, else for each participant; U is ignored (R372). -/
def tileOp (f : Long) (define : Bool) : Op :=
  { uses := { strict := [spanI f.a] }
    legal := fun _ _ t => (if define then srcOf t.regs f.a 64 false >>> 43 else srcOf t.regs f.a 64 false >>> 6) = 0
    check := fun c ts _ t => tileWordStop f define c ts t
    run := fun c ts => match ts with
      | [] => c
      | t :: _ =>
        let w := srcOf t.regs f.a 64 false
        let d := tdefWord w
        match t.block with
        | none => c
        | some b => c.onTile b (bits 5 0 w) fun k =>
          if define then { k with base := d.base, rows := d.rows, rowBytes := d.rowBytes, swz := d.swz, issued := 0
                                  pending := 0, readers := 0 }
          else { k with state := .empty }
    native := false }

/-- The group of an instruction that ignores U (R372). -/
def groupNoU (f : Long) : Option (Nat × Bool) := if f.grouped then some (f.g.toNat, false) else none

/-- TDEF (R375). -/
def execTdef (f : Long) (s : State) : Host.Outcome State Fault Refusal :=
  done (s.issueOp (tileOp f true) (groupNoU f))
/-- TREL (R375). -/
def execTrel (f : Long) (s : State) : Host.Outcome State Fault Refusal :=
  done (s.issueOp (tileOp f false) (groupNoU f))

/-- TWAIT as an issue executes it (R353): its return is an acquire of cluster scope. -/
def twaitOp (k : Nat) : Op :=
  { check := fun c _ _ t => match c.blockOf t with
      | none => some (.trap 51 k)
      | some b => match b.tiles[k]? with
        | none => some (.trap 51 k)
        | some tile => tileHold k tile .ready
    run := fun c ts => ts.foldl (fun c t => c.acquire t.id 2) c
    len := 4, native := false }

/-- TWAIT (R353). -/
def execTwait (k : BitVec 12) (s : State) : Host.Outcome State Fault Refusal :=
  done (s.issueOp (twaitOp k.toNat) none)

end Sys2Proof.Machine
end

