-- ==== Sys2Proof/Machine/Copies.lean ====
section
/-! DEFINITION. Engine accesses and the copy engine: cpy, cpys, tfill, tdrn and their completion (R145, R250, R339-R342). -/
namespace Sys2Proof.Machine

/-- On whose behalf an engine accesses memory: core, context, mode, block (R80, R127). -/
structure Eng where
  core : Nat
  ctx : Ctx
  mode : Mode
  block : Option Nat

/-- No fault: the access waits for a route or at the home of a line, and the operation with it, in flight (R35, R76). -/
def engineWaits (line : Nat) : Nat := 64 + line

/-- The line for which a code says that an engine waits. -/
def waitsFor (code : Option Nat) : Option Nat := code.bind fun n => if 64 ≤ n then some (n - 64) else none

/-- Fault code of R252 for a walk's fault: 1 page or guest-page fault, 2 access fault. -/
def engineCode (f : WalkFault) : Nat :=
  if f.cause = 0 then engineWaits f.gpa else if [12, 13, 15, 20, 21, 23].contains f.cause then 1 else 2

/-- Where a byte of an engine access lies, or its fault code (R80, R340). -/
def Chip.engLocate (c : Chip) (e : Eng) (x : End) (acc : Access) : (Phys ⊕ Nat) × Chip :=
  if x.space = 0 then
    match c.engineTranslate e.core e.ctx e.mode x.addr.toNat acc with
    | (.inr f, c) => (.inr (engineCode f), c)
    | (.inl p, c) =>
      let there : Phys ⊕ Nat := match c.heldLine p.pa 1 acc with
        | some line => .inr (engineWaits line)
        | none => .inl p
      match c.target p.pa with
      | .main _ => (there, c)
      | .onDie _ => (if e.mode = .u then .inr 2 else there, c)
      | _ => (.inr 2, c)
  else match (e.block.bind c.block?).bind fun b => c.spaceAddr b x.space x.addr.toNat with
    | some pa => (.inl ⟨pa, 0, 0⟩, c)
    | none => (.inr 2, c)

/-- Read one byte for an engine at the L2 or the SRAM, past the L2 of a page that Svpbmt marks NC or IO: value and poison (R27,
R145). -/
def Chip.engGet (c : Chip) (e : Eng) (p : Phys) : Byte × Bool × Chip :=
  match p.pbmt, c.target p.pa with
  | 0, _ =>
    let r := c.agentLoad (agentOf e.core) p.pa 1
    (BitVec.ofNat 8 r.1, r.2.1, r.2.2)
  | _, .main l => let c := ((c.rebuildEntry (l / 64)).homeRead (l / 64)).ecc l; (c.getByte l, c.poisonedAt l, c)
  | _, _ =>
    let r := c.agentLoad (agentOf e.core) p.pa 1
    (BitVec.ofNat 8 r.1, r.2.1, r.2.2)

/-- Write one byte for an engine so (R27, R145). -/
def Chip.engPut (c : Chip) (e : Eng) (p : Phys) (b : Byte) : Chip :=
  match p.pbmt, c.target p.pa with
  | 0, _ => c.agentStore (agentOf e.core) p.pa [b]
  | _, .main l => c.plainStore (agentOf e.core) l [b]
  | _, _ => c.agentStore (agentOf e.core) p.pa [b]

/-- Move bytes one after another until a fault: its code, the destinations that received poison (R340, R342). -/
def Chip.engMove (c : Chip) (e : Eng) : List (End × End) → Option Nat × List Nat × Chip
  | [] => (none, [], c)
  | (s, d) :: rest =>
    match c.engLocate e s .load with
    | (.inr f, c) => (some f, [], c)
    | (.inl ps, c) =>
      match c.engLocate e d .store with
      | (.inr f, c) => (some f, [], c)
      | (.inl pd, c) =>
        let r := c.engGet e ps
        let y := (r.2.2.engPut e pd r.1).engMove e rest
        (y.1, (if r.2.1 then [pd.pa] else []) ++ y.2.1, y.2.2)

/-- Clear the poison of the granules that a written range covers whole (R73). -/
def Chip.engCleanse (c : Chip) (e : Eng) (x : End) (n : Nat) : Chip :=
  let g := if x.space = 1 || x.space = 2 then 8 else 64
  let a := x.addr.toNat
  let first := roundUp a g
  (List.range ((a + n - first) / g)).foldl (fun c i =>
    match c.engLocate e ⟨x.space, BitVec.ofNat 64 (first + g * i)⟩ .store with
    | (.inl p, c) => match c.target p.pa with
      | .main l => c.cleanse l g
      | .onDie l => c.cleanse l g
      | _ => c
    | (.inr _, c) => c) c

/-- Poison the granule at a physical address (R73). -/
def Chip.poisonPa (c : Chip) (pa : Nat) : Chip :=
  match c.target pa with
  | .main l => c.setPoison l
  | .onDie l => c.setPoison l
  | _ => c

/-- Move one row: bytes, then clean granules, then carried poison (R73, R340). -/
def Chip.engRow (c : Chip) (e : Eng) (bytes : List (End × End)) (dst : End) (n : Nat) : Option Nat × Chip :=
  let r := c.engMove e bytes
  let c := if r.1.isNone then r.2.2.engCleanse e dst n else r.2.2
  (r.1, r.2.1.foldl (fun c pa => c.poisonPa pa) c)

/-- An end moved by a number of bytes, modulo 2^64. -/
def End.plus (x : End) (n : Nat) : End := { x with addr := x.addr + BitVec.ofNat 64 n }

/-- The bytes of row r of a copy, and its destination range (R340). -/
def CopyOp.row (o : CopyOp) (tiles : List Tile) (r : Nat) : List (End × End) × End :=
  let cp (i : Nat) : End := ⟨1, BitVec.ofNat 64 i⟩
  match o.kind with
  | .fill k first =>
    let t := tiles.getD k {}
    let i := first + r
    ((List.range o.rowBytes).map fun j => ((o.src.plus (r * o.srcStride)).plus j, cp (t.at i j)), cp (t.base + i * t.rowBytes))
  | .drain k =>
    let t := tiles.getD k {}
    ((List.range o.rowBytes).map fun j => (cp (t.at r j), (o.dst.plus (r * o.dstStride)).plus j), o.dst.plus (r * o.dstStride))
  | _ =>
    ((List.range o.rowBytes).map fun j => ((o.src.plus (r * o.srcStride)).plus j, (o.dst.plus (r * o.dstStride)).plus j),
      o.dst.plus (r * o.dstStride))

/-- The rows of a copy from row r of n remaining, until a fault (R342). -/
def Chip.copyRows (c : Chip) (o : CopyOp) (tiles : List Tile) : Nat → Option Nat × Chip
  | 0 => (none, c)
  | n + 1 =>
    let b := o.row tiles (o.rows - (n + 1))
    match c.engRow ⟨o.core, o.ctx, o.mode, o.block⟩ b.1 b.2 o.rowBytes with
    | (some f, c) => (some f, c)
    | (none, c) => c.copyRows o tiles n

/-- Bytes of a copy in 16-byte units, rounded up (R251). -/
def CopyOp.units (o : CopyOp) : Nat := (o.rows * o.rowBytes + 15) / 16

/-- A copy completes: bytes, tile, barrier, tokens, and the block may retire (R342, R250, R251). -/
def Chip.copyComplete (c : Chip) (o : CopyOp) : Chip :=
  let tiles := match o.block.bind c.block? with | some b => b.tiles | none => []
  let r := c.copyRows o tiles o.rows
  match waitsFor r.1 with
  | some line => c.parkUnit (agentOf o.core) line
  | none =>
  let c := { r.2 with eng := { r.2.eng with copies := r.2.eng.copies.filter fun k => k.id ≠ o.id } }
  let total := o.rows * o.rowBytes
  let c := match o.block, o.kind with
    | some b, .fill k _ => c.onTile b k fun t => if r.1.isSome then t.unfilled total else t.filled total
    | some b, .drain k => c.onTile b k Tile.drained
    | _, _ => c
  let c := match o.block.bind c.block? with
    | some b => c.pbApply b o.pb 0 o.units (r.1.getD 0)
    | none => c
  let c := c.opDone o.id
  match o.block with
  | some b => c.retireCheck b
  | none => c

/-- COPY_COMPLETE (R342): its subject is the operation. -/
def execCopyComplete (s : State) : Host.Outcome State Fault Refusal :=
  match s.chip.eng.copies.find? fun k => k.id = s.subject with
  | some o => done { s with chip := s.chip.copyComplete o }
  | none => done s

/-- The kinds of copy instruction. -/
inductive CopyForm where
  | cpy | cpys | tfill | tdrn
  deriving DecidableEq

/-- Operand words of a copy: D, A, B and the stride word of cpys (R327, R339). -/
structure CopyWords where
  d : Nat
  a : Nat
  b : Nat
  s : Nat

/-- The operand words of a thread. -/
def copyWords (f : Long) (t : Thread) : CopyWords :=
  { d := srcOf t.regs f.d 64 false, a := srcOf t.regs f.a 64 false, b := srcOf t.regs f.b 64 false
    s := readSlices t.regs (fStart f.b + 16) 64 }

/-- Scope field of a control word (R339). -/
def copyScope (form : CopyForm) (b : Nat) : Nat := if form = .cpys then bits 38 36 b else bits 42 40 b
/-- Barrier field of a control word (R339). -/
def copyPb (form : CopyForm) (b : Nat) : Nat := if form = .cpys then bits 35 28 b else bits 39 32 b

/-- Step 1 of R341: reserved control or tile bits and the length limits. -/
def copyLegal (form : CopyForm) (w : CopyWords) : Bool :=
  decide (copyScope form w.b ≤ 5) &&
  match form with
  | .cpy => decide (w.b >>> 43 = 0) && decide (bits 31 0 w.b ≤ 2 ^ 24)
  | .cpys => decide (w.b >>> 39 = 0) && decide (1 ≤ bits 15 0 w.b) && decide (bits 15 0 w.b ≤ 8192) &&
      decide ((bits 27 16 w.b + 1) * bits 15 0 w.b ≤ 2 ^ 24)
  | .tfill => decide (w.b >>> 43 = 0) && decide (w.d >>> 30 = 0)
  | .tdrn => decide (w.b >>> 43 = 0) && decide (w.a >>> 6 = 0)

/-- The copy that the words name, without its number; tiles are the block's (R340). -/
def copyOf (f : Long) (form : CopyForm) (t : Thread) (tiles : List Tile) (id : Nat) : CopyOp :=
  let w := copyWords f t
  let src : End := ⟨f.srcSpace, BitVec.ofNat 64 w.a⟩
  let dst : End := ⟨f.dstSpace, BitVec.ofNat 64 w.d⟩
  let base : CopyOp := { id := id, core := t.core, threads := [t.id], block := t.block, kind := .plain, src := src, dst := dst
                         rows := 1, rowBytes := bits 31 0 w.b, srcStride := 0, dstStride := 0, pb := copyPb form w.b
                         scope := max 2 (copyScope form w.b), ctx := t.ctx, mode := t.mode }
  match form with
  | .cpy => base
  | .cpys => { base with kind := .strided, rows := bits 27 16 w.b + 1, rowBytes := bits 15 0 w.b
                         srcStride := bits 63 32 w.s, dstStride := bits 31 0 w.s }
  | .tfill =>
    let k := bits 5 0 w.d
    { base with kind := .fill k (bits 17 6 w.d), rows := bits 29 18 w.d + 1, rowBytes := (tiles.getD k {}).rowBytes
                srcStride := bits 31 0 w.b }
  | .tdrn =>
    let k := bits 5 0 w.a
    { base with kind := .drain k, rows := (tiles.getD k {}).rows, rowBytes := (tiles.getD k {}).rowBytes
                dstStride := bits 31 0 w.b }

/-- The tile that a copy names. -/
def CopyOp.tile (o : CopyOp) : Option Nat :=
  match o.kind with
  | .fill k _ => some k
  | .drain k => some k
  | _ => none

/-- The lower of two optional offsets. -/
def lower : Option Nat → Option Nat → Option Nat
  | some a, some b => some (min a b)
  | some a, none => some a
  | none, b => b

/-- The lowest offset outside the extents of spaces 1-3 among the rows of a copy (R341). -/
def Chip.copyOutside (c : Chip) (b : Option Block) (o : CopyOp) (tiles : List Tile) : Option Nat :=
  let beyond : Option Nat := match o.kind with
    | .fill k first =>
      let t := tiles.getD k {}
      if t.rows < first + o.rows then some (t.base + max first t.rows * t.rowBytes) else none
    | _ => none
  (List.range o.rows).foldl (fun m r =>
    let s := match o.kind with
      | .drain _ => none
      | _ => c.outside b o.src.space (o.src.plus (r * o.srcStride)).addr.toNat o.rowBytes
    let d := match o.kind with
      | .fill _ _ => none
      | _ => c.outside b o.dst.space (o.dst.plus (r * o.dstStride)).addr.toNat o.rowBytes
    lower m (lower s d)) beyond

/-- A copy that moves no byte by a length of 0 has no effect at all (R341). -/
def CopyOp.empty (o : CopyOp) : Bool := o.kind = .plain && o.rowBytes = 0

/-- The checks and waits of R341 after step 1. -/
def Chip.copyStop (c : Chip) (f : Long) (form : CopyForm) (t : Thread) : Option Stop :=
  let b := c.blockOf t
  let tiles := match b with | some b => b.tiles | none => []
  let nbar := match b with | some b => b.nbar | none => 0
  let o := copyOf f form t tiles 0
  if o.pb ≠ 255 && nbar ≤ o.pb then some (.trap 49 o.pb)
  else match (o.tile.bind fun k => if tiles.length ≤ k then some k else none) with
    | some k => some (.trap 51 k)
    | none =>
      match c.copyOutside b o tiles with
      | some x => some (.trap 25 x)
      | none =>
        if o.empty then none
        else
          let total := o.rows * o.rowBytes
          let tileStop : Option Stop := match o.kind with
            | .fill k _ =>
              let tl := tiles.getD k {}
              match tileHold k tl .fillable with
              | some h => some h
              | none =>
                -- R249: issued bytes may not pass the tile's
                if tl.bytes < (if tl.state = .filling then tl.issued else 0) + total then
                  some (.trap 25 (tl.base + tl.bytes)) else none
            | .drain k => tileHold k (tiles.getD k {}) .unread
            | _ => none
          match tileStop with
          | some h => some h
          | none =>
            let full := decide (32 ≤ (c.eng.copies.filter fun k => k.core = t.core).length)
            let fits := match b with | some b => c.pbFits b o.pb o.units | none => true
            if full || !fits then some (.hold .queueFull) else none

/-- A copy issues for some threads with the operands of one (R341). -/
def Chip.copyIssue (c : Chip) (f : Long) (form : CopyForm) (who : List Nat) (t : Thread) : Chip :=
  let b := c.blockOf t
  let tiles := match b with | some b => b.tiles | none => []
  let o := { copyOf f form t tiles c.eng.next with threads := who }
  if o.empty then c
  else
    let c := match b with | some b => c.pbAdd b o.pb o.units | none => c
    let total := o.rows * o.rowBytes
    let c := match t.block, o.kind with
      | some b, .fill k _ => c.onTile b k fun tl => tl.filling total
      | some b, .drain k => c.onTile b k fun tl => { tl with state := .draining }
      | _, _ => c
    { c with eng := { c.eng with copies := c.eng.copies ++ [o], next := c.eng.next + 1 } }

/-- A copy instruction as an issue executes it (R341): the members converge and each issues its own in rank order; with
U = 1 one copy issues with rank 0's operands. -/
def copyOp (f : Long) (form : CopyForm) : Op :=
  { uses := { strict := [spanI f.d, spanI f.a, spanI f.b] ++ (if form = .cpys then [(fStart f.b + 16, 16)] else []) }
    legal := fun _ _ t => copyLegal form (copyWords f t)
    check := fun c _ _ t => c.copyStop f form t
    run := fun c ts => match ts with
      | [] => c
      | t :: _ => c.copyIssue f form (ts.map (·.id)) t
    native := false, each := true }

/-- CPY (R340). -/
def execCpy (f : Long) (s : State) : Host.Outcome State Fault Refusal := done (s.long f (copyOp f .cpy))
/-- TFILL (R340). -/
def execTfill (f : Long) (s : State) : Host.Outcome State Fault Refusal := done (s.long f (copyOp f .tfill))
/-- TDRN (R340). -/
def execTdrn (f : Long) (s : State) : Host.Outcome State Fault Refusal := done (s.long f (copyOp f .tdrn))
/-- CPYS (R340). -/
def execCpys (f : Long) (s : State) : Host.Outcome State Fault Refusal := done (s.long f (copyOp f .cpys))

end Sys2Proof.Machine
end

