-- ==== Sys2Proof/WellFormed.lean ====
section
/-! DEFINITION. Well-formed instructions: the static limits of each row (R284 step 3). -/
namespace Sys2Proof

/-- Whether every field of an instruction lies inside the limits of its definition (R284); a step of another agent has
no encoding and no limit of its own. -/
def Instr.wellFormed : Instr → Bool
  | .bootStage1 _ => true
  | .bootStage3 _ => true
  | .bootStage4 _ _ => true
  | .bootStage6 _ => true
  | .mgattreq _ => true
  | .mgdbgnonce _ => true
  | .mgdbgrec _ => true
  | .registerWrite _ _ => true
  | .stackTemperatureChange _ _ => true
  | .patrolScrub _ _ => true
  | .ucieLaneRepair _ _ => true
  | .dieLinkFenced _ _ => true
  | .lpddrChannelFailed _ _ => true
  | .idleFlit _ _ => true
  | .dataFlit _ _ => true
  | .retryRequest _ _ _ => true
  | .retrainMarker _ _ => true
  | .timebaseFlit _ _ _ => true
  | .retrain _ _ => true
  | .formationClaim _ _ => true
  | .acknowledgement _ _ => true
  | .memberReply _ _ _ => true
  | .image _ _ _ _ => true
  | .formationDone _ _ => true
  | .formed _ _ => true
  | .ownershipNotice _ _ => true
  | .dirtyAgeWriteback _ _ => true
  | .lineEviction _ _ => true
  | .directoryRead _ => true
  | .directoryWrite _ => true
  | .homeAtomic _ => true
  | .faultQueueReplay _ _ => true
  | .frresumeRetry _ _ => true
  | .frresumeMigrate _ _ => true
  | .trgen _ => true
  | .remoteSfenceVma _ _ => true
  | .remoteSfenceVmaAsid _ _ _ => true
  | .remoteHfenceGvmaVmid _ _ _ => true
  | .remoteHfenceGvma _ _ => true
  | .remoteHfenceVvmaAsid _ _ _ _ => true
  | .remoteHfenceVvma _ _ _ => true
  | .recall _ => true
  | .serviceCompletion _ _ _ => true
  | .grupload _ => true
  | .grkick _ => true
  | .capacityReport _ _ => true
  | .sluiceCommit _ _ => true
  | .tailraceRefill _ _ _ => true
  | .issue _ _ _ => true
  | .issueGroupSwap _ _ _ _ => true
  | .sliceGrant _ _ _ => true
  | .sliceStarvation _ _ _ => true
  | .preempt _ => true
  | .movS f => f.oneSource
  | .movZ f => f.oneSource
  | .movi f => f.moviOk
  | .and f => f.twoSource
  | .or f => f.twoSource
  | .xor f => f.twoSource
  | .andn f => f.twoSource
  | .bfi f => f.twoSource
  | .clz f => f.oneSource
  | .ctz f => f.oneSource
  | .popc f => f.oneSource
  | .brev f => f.oneSource
  | .bfxS f => f.twoSource
  | .bfxZ f => f.twoSource
  | .sel f => f.twoSource
  | .shi f => f.shiOk
  | .addS f => f.twoSource
  | .addZ f => f.twoSource
  | .addsS f => f.twoSource
  | .addsZ f => f.twoSource
  | .subS f => f.twoSource
  | .subZ f => f.twoSource
  | .subsS f => f.twoSource
  | .subsZ f => f.twoSource
  | .minS f => f.twoSource
  | .minZ f => f.twoSource
  | .maxS f => f.twoSource
  | .maxZ f => f.twoSource
  | .addminS f => f.twoSource
  | .addminZ f => f.twoSource
  | .addmaxS f => f.twoSource
  | .addmaxZ f => f.twoSource
  | .mulS f => f.twoSource
  | .mulZ f => f.twoSource
  | .mulhS f => f.twoSource
  | .mulhZ f => f.twoSource
  | .madS f => f.twoSource
  | .madZ f => f.twoSource
  | .absdS f => f.twoSource
  | .absdZ f => f.twoSource
  | .cltS f => f.twoSource
  | .cltZ f => f.twoSource
  | .cleS f => f.twoSource
  | .cleZ f => f.twoSource
  | .ceq f => f.twoSource
  | .sll f => f.twoSource
  | .srl f => f.twoSource
  | .sra f => f.twoSource
  | .padd f => f.packedOk
  | .psub f => f.packedOk
  | .padds f => f.packedOk
  | .psubs f => f.packedOk
  | .pmin f => f.packedOk
  | .pmax f => f.packedOk
  | .paddmin f => f.packedOk
  | .paddmax f => f.packedOk
  | .pabsd f => f.packedOk
  | .pmul f => f.packedOk
  | .pmad f => f.packedOk
  | .pceq f => f.packedOk
  | .pclt f => f.packedOk
  | .psll f => f.packedOk
  | .psrl f => f.packedOk
  | .psra f => f.packedOk
  | .fadd f => f.fltTwo
  | .fsub f => f.fltTwo
  | .fmul f => f.fltTwo
  | .fmad f => f.fltTwo
  | .fmsb f => f.fltTwo
  | .fmin f => f.fltTwo
  | .fmax f => f.fltTwo
  | .fabs f => f.fltOne
  | .fceq f => f.fltCompare
  | .fclt f => f.fltCompare
  | .fcle f => f.fltCompare
  | .fclass f => f.fltClass
  | .frcp f => f.fltOne
  | .frsq f => f.fltOne
  | .fexp2 f => f.fltOne
  | .flog2 f => f.fltOne
  | .cvt f => f.cvtFF
  | .cvtfs f => f.cvtFI
  | .cvtfz f => f.cvtFI
  | .cvtsf f => f.cvtIF
  | .cvtzf f => f.cvtIF
  | .bxpk f => f.packM
  | .bxunp f => f.unpackM
  | .trpk f => f.packT
  | .trunp f => f.unpackT
  | .bxcmp f => f.packM
  | .f8pk f => f.packF8
  | .f8unp f => f.unpackF8
  | .ld f => f.loadOk
  | .st f => f.storeOk
  | .ldnf f => f.ldnfOk
  | .pf f => f.pfOk
  | .ldr f => f.loadOk && intOk f.b
  | .str f => f.storeOk && intOk f.b
  | .aadd f => f.atomicOk
  | .aand f => f.atomicOk
  | .aor f => f.atomicOk
  | .axor f => f.atomicOk
  | .amin f => f.atomicOk
  | .amax f => f.atomicOk
  | .aminu f => f.atomicOk
  | .amaxu f => f.atomicOk
  | .axchg f => f.atomicOk
  | .acas f => f.atomicOk
  | .afadd f => f.faddOk
  | .afmin f => f.fminmaxOk
  | .afmax f => f.fminmaxOk
  | .tdef f => f.tileWordOk
  | .trel f => f.tileWordOk
  | .cpy f => f.cpyOk
  | .tfill f => f.tfillOk
  | .tdrn f => f.tdrnOk
  | .cpys f => f.cpysOk
  | .mma f => f.mmaOk
  | .mmas f => f.mmasOk
  | .wbld f => f.wbldOk
  | .accld f => f.accOk 2
  | .acczr f => f.acczrOk
  | .accdr f => f.accOk 4
  | .mld f => f.mldOk
  | .mldt f => f.mldtOk
  | .mxfence f => f.mxfenceOk
  | .vall f => f.voteOk
  | .vany f => f.voteOk
  | .vbal f => f.voteOk
  | .grank f => f.grankOk
  | .redadd f => f.voteOk
  | .redand f => f.voteOk
  | .redor f => f.voteOk
  | .redxor f => f.voteOk
  | .redminS f => f.voteOk
  | .redminZ f => f.voteOk
  | .redmaxS f => f.voteOk
  | .redmaxZ f => f.voteOk
  | .scanadd f => f.voteOk
  | .scanaddx f => f.voteOk
  | .fredadd f => f.fredOk
  | .fscanadd f => f.fredOk
  | .fen f => f.fenOk
  | .safept f => f.safeptOk
  | .rtkt f => f.rtktOk
  | .rfill f => f.rpushOk
  | .rpush f => f.rpushOk
  | .rpop f => f.rpopOk
  | .kpush f => f.rpushOk
  | .kpop f => f.kpopOk
  | .join k => decide (k.toNat ≤ 11)
  | .leave k => decide (k.toNat ≤ 11)
  | .gwait k => decide (k.toNat ≤ 11)
  | .pbinit k _ => decide (k.toNat ≤ 254)
  | .pbarr k _ => decide (k.toNat ≤ 254)
  | .pbwait k _ => decide (k.toNat ≤ 254)
  | .pbarw k _ => decide (k.toNat ≤ 254)
  | .twait k => decide (k.toNat ≤ 63)
  | .fenw _ => true
  | .give v => decide (16 ≤ v.toNat) && decide (v.toNat ≤ 512)
  | .claim v => decide (16 ≤ v.toNat) && decide (v.toNat ≤ 512)
  | .migrate _ _ => true
  | .spawn _ _ => true
  | .gcancel _ _ _ => true
  | .gstat _ _ _ => true
  | .tsub _ _ => true
  | .tcomm _ _ => true
  | .tabort _ _ => true
  | .rfillm _ _ _ _ => true
  | .rpushm _ _ _ _ => true
  | .rpopm _ _ _ _ => true
  | .kpushm _ _ _ _ => true
  | .kpopm _ _ _ _ => true
  | .sysinfo _ _ => true
  | .sbiHartStartStop _ _ => true
  | .bootStage0 => true
  | .bootStage2 => true
  | .bootStage5 => true
  | .bootStage7 => true
  | .lockstepMismatch => true
  | .sessionKeyGeneration => true
  | .attestationReport => true
  | .junctionAbove105 => true
  | .junctionBelow100 => true
  | .junctionAbove115 => true
  | .powerCapExceeded => true
  | .hbmStackFenced => true
  | .cDieFenced => true
  | .lDie1Fenced => true
  | .lDie0Failure => true
  | .pauseExpiry => true
  | .retrainComplete => true
  | .portDown => true
  | .packageLost => true
  | .reachableSetFixed => true
  | .claimResend => true
  | .leaderSilence => true
  | .followerRouteLost => true
  | .recallWriteback => true
  | .directoryEviction => true
  | .requestResend => true
  | .reservationExpiry => true
  | .walk => true
  | .walkComplete => true
  | .faultRecordWrite => true
  | .poolFeed => true
  | .generationRaiseComplete => true
  | .remoteFenceI => true
  | .dtuAcknowledge => true
  | .automaticMoveToCompute => true
  | .automaticMoveToLatency => true
  | .threadPlacement => true
  | .arrivalRingWrite => true
  | .ecall => true
  | .batchClose => true
  | .serviceForward => true
  | .graphValidationDone => true
  | .graphReplayDone => true
  | .blockStart => true
  | .steal => true
  | .sluiceRetry => true
  | .retirementReport => true
  | .gridCompletion => true
  | .hardCancelTimeout => true
  | .yieldEviction => true
  | .taskDispatch => true
  | .taskAging => true
  | .taskCompletion => true
  | .abortTimeout => true
  | .ringTicket => true
  | .ringFill => true
  | .ringPush => true
  | .ringPop => true
  | .ringKpush => true
  | .ringKpop => true
  | .ringWithdrawal => true
  | .preemptionRequest => true
  | .preemptionWatchdog => true
  | .preemptionSave => true
  | .preemptionHandlerTimeout => true
  | .restore => true
  | .restoreHandlerTimeout => true
  | .matrixOperationStart => true
  | .matrixCommit => true
  | .matrixOperandFault => true
  | .transferComplete => true
  | .copyComplete => true
  | .gend => true
  | .tret => true
  | .routeReturn => true
  | .sbiIpi => true

end Sys2Proof
end

