-- ==== Sys2Proof/Decode.lean ====
section
/-! DEFINITION. Lengths, the opcode maps and the fates of encodings (R273-R286, R344), and an encoder written from the
same tables. -/
namespace Sys2Proof

/-- What an instruction word is (R284). -/
inductive Decoded where
  /-- a row of the opcode table, well formed -/
  | op (i : Instr)
  /-- a standard encoding other than ecall (R274) -/
  | std (w : BitVec 32)
  /-- cause 2 by R284 step 1 or 3 -/
  | illegal
  /-- cause 50 by R284 step 2 -/
  | unassigned
  deriving DecidableEq, Repr

/-- Length in bytes that the first parcel decides; 0 for the lengths that raise cause 2 (R273). -/
def parcelLength (p : BitVec 16) : Nat :=
  if p.extractLsb' 0 2 ≠ 3#2 then 2
  else if p.extractLsb' 2 3 ≠ 7#3 then 4
  else if p.extractLsb' 0 7 = 0x3F#7 then 8
  else 0

/-- The fields of a long word (R275). -/
def Long.ofWord (w : BitVec 64) : Long :=
  { d := w.extractLsb' 20 12, a := w.extractLsb' 32 12, b := w.extractLsb' 44 12, x := w.extractLsb' 56 8
    g := w.extractLsb' 16 4, u := w.getLsbD 7 }

/-- The long word with an opcode (R275, R296). -/
def Long.toWord (f : Long) (op : BitVec 8) : BitVec 64 :=
  f.x ++ f.b ++ f.a ++ f.d ++ f.g ++ op ++ BitVec.ofBool f.u ++ 0x3F#7

/-- Opcodes 0x00 onwards (R283). -/
def opsMoves : List (Long → Instr) :=
  [.movS, .movZ, .movi, .and, .or, .xor, .andn, .bfi, .clz, .ctz, .popc, .brev, .bfxS, .bfxZ, .sel, .shi]

/-- Opcodes 0x10 onwards (R283). -/
def opsAddMin : List (Long → Instr) :=
  [.addS, .addZ, .addsS, .addsZ, .subS, .subZ, .subsS, .subsZ, .minS, .minZ, .maxS, .maxZ, .addminS, .addminZ, .addmaxS, .addmaxZ]

/-- Opcodes 0x20 onwards (R283). -/
def opsMulCmp : List (Long → Instr) :=
  [.mulS, .mulZ, .mulhS, .mulhZ, .madS, .madZ, .absdS, .absdZ, .cltS, .cltZ, .cleS, .cleZ, .ceq, .sll, .srl, .sra]

/-- Opcodes 0x30 onwards (R283). -/
def opsPacked : List (Long → Instr) :=
  [.padd, .psub, .padds, .psubs, .pmin, .pmax, .paddmin, .paddmax, .pabsd, .pmul, .pmad, .pceq, .pclt, .psll, .psrl, .psra]

/-- Opcodes 0x40 onwards (R283). -/
def opsFloat : List (Long → Instr) :=
  [.fadd, .fsub, .fmul, .fmad, .fmsb, .fmin, .fmax, .fabs, .fceq, .fclt, .fcle, .fclass, .frcp, .frsq, .fexp2, .flog2]

/-- Opcodes 0x50 onwards (R283). -/
def opsConvert : List (Long → Instr) :=
  [.cvt, .cvtfs, .cvtfz, .cvtsf, .cvtzf, .bxpk, .bxunp, .trpk, .trunp, .bxcmp, .f8pk, .f8unp]

/-- Opcodes 0x60 onwards (R283). -/
def opsMemory : List (Long → Instr) :=
  [.ld, .st, .ldnf, .pf, .ldr, .str]

/-- Opcodes 0x70 onwards (R283). -/
def opsAtomic : List (Long → Instr) :=
  [.aadd, .aand, .aor, .axor, .amin, .amax, .aminu, .amaxu, .axchg, .acas, .afadd, .afmin, .afmax]

/-- Opcodes 0x80 onwards (R283). -/
def opsCopy : List (Long → Instr) :=
  [.tdef, .trel, .cpy, .tfill, .tdrn, .cpys]

/-- Opcodes 0x90 onwards (R283). -/
def opsMatrix : List (Long → Instr) :=
  [.mma, .mmas, .wbld, .accld, .acczr, .accdr, .mld, .mldt, .mxfence]

/-- Opcodes 0xA0 onwards (R283). -/
def opsVote : List (Long → Instr) :=
  [.vall, .vany, .vbal, .grank, .redadd, .redand, .redor, .redxor, .redminS, .redminZ, .redmaxS, .redmaxZ, .scanadd, .scanaddx, .fredadd, .fscanadd]

/-- Opcodes 0xB0 onwards (R283). -/
def opsFence : List (Long → Instr) :=
  [.fen, .safept]

/-- Opcodes 0xC0 onwards (R283). -/
def opsRing : List (Long → Instr) :=
  [.rtkt, .rfill, .rpush, .rpop, .kpush, .kpop]

/-- The opcode map: a row for OP bits 7:4 (R283). -/
def opRow : Nat → List (Long → Instr)
  | 0 => opsMoves
  | 1 => opsAddMin
  | 2 => opsMulCmp
  | 3 => opsPacked
  | 4 => opsFloat
  | 5 => opsConvert
  | 6 => opsMemory
  | 7 => opsAtomic
  | 8 => opsCopy
  | 9 => opsMatrix
  | 10 => opsVote
  | 11 => opsFence
  | 12 => opsRing
  | _ => []

/-- The constructor that an opcode selects, none where R283 assigns nothing. -/
def opSelect (op : BitVec 8) : Option (Long → Instr) := (opRow (op.toNat / 16))[op.toNat % 16]?

/-- A well-formed instruction, or cause 2 (R284 step 3). -/
def checked (i : Instr) : Decoded := if i.wellFormed then .op i else .illegal

/-- A long word (R283, R284). -/
def decodeLong (w : BitVec 64) : Decoded :=
  match opSelect (w.extractLsb' 8 8) with
  | none => .unassigned
  | some c => checked (c (Long.ofWord w))

/-- An instruction whose unused register fields must be zero (R281, R344). -/
def unusedZero (ok : Bool) (i : Instr) : Decoded := if ok then checked i else .illegal

/-- A custom-0 word (R281). -/
def decodeCustom0 (w : BitVec 32) : Decoded :=
  let rd := w.extractLsb' 7 5
  let rs1 := w.extractLsb' 15 5
  let k := w.extractLsb' 20 5
  let imm := w.extractLsb' 20 12
  match (w.extractLsb' 12 3).toNat with
  | 0 =>
    match (w.extractLsb' 25 7).toNat with
    | 0 => unusedZero (rd = 0 && rs1 = 0) (.join k)
    | 1 => unusedZero (rd = 0 && rs1 = 0) (.leave k)
    | 2 => unusedZero (rd = 0 && rs1 = 0) (.gwait k)
    | _ => .unassigned
  | 1 =>
    match rd.toNat with
    | 0 => checked (.pbinit imm rs1)
    | 1 => checked (.pbarr imm rs1)
    | 2 => checked (.pbwait imm rs1)
    | 3 => checked (.pbarw imm rs1)
    | _ => .unassigned
  | 2 => unusedZero (rd = 0 && rs1 = 0) (.twait imm)
  | 3 => unusedZero (rd = 0 && rs1 = 0 && w.extractLsb' 29 3 = 0) (.fenw (w.extractLsb' 20 9))
  | 4 =>
    match rd.toNat with
    | 0 => unusedZero (rs1 = 0) (.give imm)
    | 1 => unusedZero (rs1 = 0) (.claim imm)
    | _ => .unassigned
  | 5 =>
    match (w.extractLsb' 25 7).toNat with
    | 0 => unusedZero (k = 0) (.migrate rd rs1)
    | _ => .unassigned
  | _ => .unassigned

/-- A custom-1 word (R282). -/
def decodeCustom1 (w : BitVec 32) : Decoded :=
  let rd := w.extractLsb' 7 5
  let rs1 := w.extractLsb' 15 5
  let rs2 := w.extractLsb' 20 5
  let f7 := (w.extractLsb' 25 7).toNat
  match (w.extractLsb' 12 3).toNat with
  | 0 =>
    match f7 with
    | 0 => unusedZero (rs2 = 0) (.spawn rd rs1)
    | 1 => checked (.gcancel rd rs1 rs2)
    | 2 => checked (.gstat rd rs1 rs2)
    | 3 => unusedZero (rd = 0 && rs1 = 0 && rs2 = 0) .gend
    | _ => .unassigned
  | 1 =>
    match f7 with
    | 0 => unusedZero (rs2 = 0) (.tsub rd rs1)
    | 1 => unusedZero (rs2 = 0) (.tcomm rd rs1)
    | 2 => unusedZero (rs2 = 0) (.tabort rd rs1)
    | _ => .unassigned
  | 2 =>
    let nw := w.getLsbD 31
    let z := w.extractLsb' 28 3 = 0
    match f7 % 8 with
    | 1 => unusedZero z (.rfillm rd rs1 rs2 nw)
    | 2 => unusedZero z (.rpushm rd rs1 rs2 nw)
    | 3 => unusedZero z (.rpopm rd rs1 rs2 nw)
    | 4 => unusedZero z (.kpushm rd rs1 rs2 nw)
    | 5 => unusedZero z (.kpopm rd rs1 rs2 nw)
    | _ => .unassigned
  | 3 =>
    match f7 with
    | 0 => unusedZero (rd = 0 && rs1 = 0 && rs2 = 0) .tret
    | _ => .unassigned
  | 4 =>
    match f7 with
    | 0 => unusedZero (rs2 = 0) (.sysinfo rd rs1)
    | _ => .unassigned
  | _ => .unassigned

/-- A 32-bit word (R273, R274, R281, R282). -/
def decode32 (w : BitVec 32) : Decoded :=
  if w = 0x73#32 then .op .ecall
  else if w.extractLsb' 0 7 = 0x0B#7 then decodeCustom0 w
  else if w.extractLsb' 0 7 = 0x2B#7 then decodeCustom1 w
  else .std w

/-- The instruction whose bits start a 64-bit string, and its length (R273); a length of 0 is an encoding of 48 or 80
and more bits. -/
def decodeWord (w : BitVec 64) : Nat × Decoded :=
  match parcelLength (w.extractLsb' 0 16) with
  | 2 => (2, .std (w.extractLsb' 0 16 |>.setWidth 32))
  | 4 => (4, decode32 (w.extractLsb' 0 32))
  | 8 => (8, decodeLong w)
  | _ => (0, .illegal)

/-- The number of a little-endian byte string (R273). -/
def wordOfBytes : List Byte → BitVec 64
  | [] => 0
  | b :: r => (b.setWidth 64) ||| (wordOfBytes r <<< 8)

/-- Decode the instruction at the front of a byte string: what it is and the rest; none where the string is shorter than
the instruction. -/
def decode (bs : List Byte) : Option (Decoded × List Byte) :=
  if bs.length < 2 then none else
  let p := parcelLength ((wordOfBytes (bs.take 2)).setWidth 16)
  let n := if p = 0 then 2 else p
  if bs.length < n then none else
  some ((decodeWord (wordOfBytes (bs.take n))).2, bs.drop n)

/-- The opcode and fields of a long instruction (R283). -/
def Instr.longParts : Instr → Option (BitVec 8 × Long)

  | .bootStage1 _ => none
  | .bootStage3 _ => none
  | .bootStage4 _ _ => none
  | .bootStage6 _ => none
  | .mgattreq _ => none
  | .mgdbgnonce _ => none
  | .mgdbgrec _ => none
  | .registerWrite _ _ => none
  | .stackTemperatureChange _ _ => none
  | .patrolScrub _ _ => none
  | .ucieLaneRepair _ _ => none
  | .dieLinkFenced _ _ => none
  | .lpddrChannelFailed _ _ => none
  | .idleFlit _ _ => none
  | .dataFlit _ _ => none
  | .retryRequest _ _ _ => none
  | .retrainMarker _ _ => none
  | .timebaseFlit _ _ _ => none
  | .retrain _ _ => none
  | .formationClaim _ _ => none
  | .acknowledgement _ _ => none
  | .memberReply _ _ _ => none
  | .image _ _ _ _ => none
  | .formationDone _ _ => none
  | .formed _ _ => none
  | .ownershipNotice _ _ => none
  | .dirtyAgeWriteback _ _ => none
  | .lineEviction _ _ => none
  | .directoryRead _ => none
  | .directoryWrite _ => none
  | .homeAtomic _ => none
  | .faultQueueReplay _ _ => none
  | .frresumeRetry _ _ => none
  | .frresumeMigrate _ _ => none
  | .trgen _ => none
  | .remoteSfenceVma _ _ => none
  | .remoteSfenceVmaAsid _ _ _ => none
  | .remoteHfenceGvmaVmid _ _ _ => none
  | .remoteHfenceGvma _ _ => none
  | .remoteHfenceVvmaAsid _ _ _ _ => none
  | .remoteHfenceVvma _ _ _ => none
  | .recall _ => none
  | .serviceCompletion _ _ _ => none
  | .grupload _ => none
  | .grkick _ => none
  | .capacityReport _ _ => none
  | .sluiceCommit _ _ => none
  | .tailraceRefill _ _ _ => none
  | .issue _ _ _ => none
  | .issueGroupSwap _ _ _ _ => none
  | .sliceGrant _ _ _ => none
  | .sliceStarvation _ _ _ => none
  | .preempt _ => none
  | .movS f => some (0x00, f)
  | .movZ f => some (0x01, f)
  | .movi f => some (0x02, f)
  | .and f => some (0x03, f)
  | .or f => some (0x04, f)
  | .xor f => some (0x05, f)
  | .andn f => some (0x06, f)
  | .bfi f => some (0x07, f)
  | .clz f => some (0x08, f)
  | .ctz f => some (0x09, f)
  | .popc f => some (0x0A, f)
  | .brev f => some (0x0B, f)
  | .bfxS f => some (0x0C, f)
  | .bfxZ f => some (0x0D, f)
  | .sel f => some (0x0E, f)
  | .shi f => some (0x0F, f)
  | .addS f => some (0x10, f)
  | .addZ f => some (0x11, f)
  | .addsS f => some (0x12, f)
  | .addsZ f => some (0x13, f)
  | .subS f => some (0x14, f)
  | .subZ f => some (0x15, f)
  | .subsS f => some (0x16, f)
  | .subsZ f => some (0x17, f)
  | .minS f => some (0x18, f)
  | .minZ f => some (0x19, f)
  | .maxS f => some (0x1A, f)
  | .maxZ f => some (0x1B, f)
  | .addminS f => some (0x1C, f)
  | .addminZ f => some (0x1D, f)
  | .addmaxS f => some (0x1E, f)
  | .addmaxZ f => some (0x1F, f)
  | .mulS f => some (0x20, f)
  | .mulZ f => some (0x21, f)
  | .mulhS f => some (0x22, f)
  | .mulhZ f => some (0x23, f)
  | .madS f => some (0x24, f)
  | .madZ f => some (0x25, f)
  | .absdS f => some (0x26, f)
  | .absdZ f => some (0x27, f)
  | .cltS f => some (0x28, f)
  | .cltZ f => some (0x29, f)
  | .cleS f => some (0x2A, f)
  | .cleZ f => some (0x2B, f)
  | .ceq f => some (0x2C, f)
  | .sll f => some (0x2D, f)
  | .srl f => some (0x2E, f)
  | .sra f => some (0x2F, f)
  | .padd f => some (0x30, f)
  | .psub f => some (0x31, f)
  | .padds f => some (0x32, f)
  | .psubs f => some (0x33, f)
  | .pmin f => some (0x34, f)
  | .pmax f => some (0x35, f)
  | .paddmin f => some (0x36, f)
  | .paddmax f => some (0x37, f)
  | .pabsd f => some (0x38, f)
  | .pmul f => some (0x39, f)
  | .pmad f => some (0x3A, f)
  | .pceq f => some (0x3B, f)
  | .pclt f => some (0x3C, f)
  | .psll f => some (0x3D, f)
  | .psrl f => some (0x3E, f)
  | .psra f => some (0x3F, f)
  | .fadd f => some (0x40, f)
  | .fsub f => some (0x41, f)
  | .fmul f => some (0x42, f)
  | .fmad f => some (0x43, f)
  | .fmsb f => some (0x44, f)
  | .fmin f => some (0x45, f)
  | .fmax f => some (0x46, f)
  | .fabs f => some (0x47, f)
  | .fceq f => some (0x48, f)
  | .fclt f => some (0x49, f)
  | .fcle f => some (0x4A, f)
  | .fclass f => some (0x4B, f)
  | .frcp f => some (0x4C, f)
  | .frsq f => some (0x4D, f)
  | .fexp2 f => some (0x4E, f)
  | .flog2 f => some (0x4F, f)
  | .cvt f => some (0x50, f)
  | .cvtfs f => some (0x51, f)
  | .cvtfz f => some (0x52, f)
  | .cvtsf f => some (0x53, f)
  | .cvtzf f => some (0x54, f)
  | .bxpk f => some (0x55, f)
  | .bxunp f => some (0x56, f)
  | .trpk f => some (0x57, f)
  | .trunp f => some (0x58, f)
  | .bxcmp f => some (0x59, f)
  | .f8pk f => some (0x5A, f)
  | .f8unp f => some (0x5B, f)
  | .ld f => some (0x60, f)
  | .st f => some (0x61, f)
  | .ldnf f => some (0x62, f)
  | .pf f => some (0x63, f)
  | .ldr f => some (0x64, f)
  | .str f => some (0x65, f)
  | .aadd f => some (0x70, f)
  | .aand f => some (0x71, f)
  | .aor f => some (0x72, f)
  | .axor f => some (0x73, f)
  | .amin f => some (0x74, f)
  | .amax f => some (0x75, f)
  | .aminu f => some (0x76, f)
  | .amaxu f => some (0x77, f)
  | .axchg f => some (0x78, f)
  | .acas f => some (0x79, f)
  | .afadd f => some (0x7A, f)
  | .afmin f => some (0x7B, f)
  | .afmax f => some (0x7C, f)
  | .tdef f => some (0x80, f)
  | .trel f => some (0x81, f)
  | .cpy f => some (0x82, f)
  | .tfill f => some (0x83, f)
  | .tdrn f => some (0x84, f)
  | .cpys f => some (0x85, f)
  | .mma f => some (0x90, f)
  | .mmas f => some (0x91, f)
  | .wbld f => some (0x92, f)
  | .accld f => some (0x93, f)
  | .acczr f => some (0x94, f)
  | .accdr f => some (0x95, f)
  | .mld f => some (0x96, f)
  | .mldt f => some (0x97, f)
  | .mxfence f => some (0x98, f)
  | .vall f => some (0xA0, f)
  | .vany f => some (0xA1, f)
  | .vbal f => some (0xA2, f)
  | .grank f => some (0xA3, f)
  | .redadd f => some (0xA4, f)
  | .redand f => some (0xA5, f)
  | .redor f => some (0xA6, f)
  | .redxor f => some (0xA7, f)
  | .redminS f => some (0xA8, f)
  | .redminZ f => some (0xA9, f)
  | .redmaxS f => some (0xAA, f)
  | .redmaxZ f => some (0xAB, f)
  | .scanadd f => some (0xAC, f)
  | .scanaddx f => some (0xAD, f)
  | .fredadd f => some (0xAE, f)
  | .fscanadd f => some (0xAF, f)
  | .fen f => some (0xB0, f)
  | .safept f => some (0xB1, f)
  | .rtkt f => some (0xC0, f)
  | .rfill f => some (0xC1, f)
  | .rpush f => some (0xC2, f)
  | .rpop f => some (0xC3, f)
  | .kpush f => some (0xC4, f)
  | .kpop f => some (0xC5, f)
  | .join _ => none
  | .leave _ => none
  | .gwait _ => none
  | .pbinit _ _ => none
  | .pbarr _ _ => none
  | .pbwait _ _ => none
  | .pbarw _ _ => none
  | .twait _ => none
  | .fenw _ => none
  | .give _ => none
  | .claim _ => none
  | .migrate _ _ => none
  | .spawn _ _ => none
  | .gcancel _ _ _ => none
  | .gstat _ _ _ => none
  | .tsub _ _ => none
  | .tcomm _ _ => none
  | .tabort _ _ => none
  | .rfillm _ _ _ _ => none
  | .rpushm _ _ _ _ => none
  | .rpopm _ _ _ _ => none
  | .kpushm _ _ _ _ => none
  | .kpopm _ _ _ _ => none
  | .sysinfo _ _ => none
  | .sbiHartStartStop _ _ => none
  | .bootStage0 => none
  | .bootStage2 => none
  | .bootStage5 => none
  | .bootStage7 => none
  | .lockstepMismatch => none
  | .sessionKeyGeneration => none
  | .attestationReport => none
  | .junctionAbove105 => none
  | .junctionBelow100 => none
  | .junctionAbove115 => none
  | .powerCapExceeded => none
  | .hbmStackFenced => none
  | .cDieFenced => none
  | .lDie1Fenced => none
  | .lDie0Failure => none
  | .pauseExpiry => none
  | .retrainComplete => none
  | .portDown => none
  | .packageLost => none
  | .reachableSetFixed => none
  | .claimResend => none
  | .leaderSilence => none
  | .followerRouteLost => none
  | .recallWriteback => none
  | .directoryEviction => none
  | .requestResend => none
  | .reservationExpiry => none
  | .walk => none
  | .walkComplete => none
  | .faultRecordWrite => none
  | .poolFeed => none
  | .generationRaiseComplete => none
  | .remoteFenceI => none
  | .dtuAcknowledge => none
  | .automaticMoveToCompute => none
  | .automaticMoveToLatency => none
  | .threadPlacement => none
  | .arrivalRingWrite => none
  | .ecall => none
  | .batchClose => none
  | .serviceForward => none
  | .graphValidationDone => none
  | .graphReplayDone => none
  | .blockStart => none
  | .steal => none
  | .sluiceRetry => none
  | .retirementReport => none
  | .gridCompletion => none
  | .hardCancelTimeout => none
  | .yieldEviction => none
  | .taskDispatch => none
  | .taskAging => none
  | .taskCompletion => none
  | .abortTimeout => none
  | .ringTicket => none
  | .ringFill => none
  | .ringPush => none
  | .ringPop => none
  | .ringKpush => none
  | .ringKpop => none
  | .ringWithdrawal => none
  | .preemptionRequest => none
  | .preemptionWatchdog => none
  | .preemptionSave => none
  | .preemptionHandlerTimeout => none
  | .restore => none
  | .restoreHandlerTimeout => none
  | .matrixOperationStart => none
  | .matrixCommit => none
  | .matrixOperandFault => none
  | .transferComplete => none
  | .copyComplete => none
  | .gend => none
  | .tret => none
  | .routeReturn => none
  | .sbiIpi => none

/-- A custom-0 word from its fields (R344). -/
def custom0 (hi : BitVec 12) (rs1 : BitVec 5) (f3 : BitVec 3) (rd : BitVec 5) : BitVec 32 :=
  hi ++ rs1 ++ f3 ++ rd ++ 0x0B#7

/-- A custom-1 word from its fields (R344). -/
def custom1 (f7 : BitVec 7) (rs2 rs1 : BitVec 5) (f3 : BitVec 3) (rd : BitVec 5) : BitVec 32 :=
  f7 ++ rs2 ++ rs1 ++ f3 ++ rd ++ 0x2B#7

/-- funct7 of a memory ring form (R363). -/
def ringF7 (nw : Bool) (k : BitVec 3) : BitVec 7 := BitVec.ofBool nw ++ 0#3 ++ k

/-- The word of a short form (R281, R282). -/
def Instr.shortWord : Instr → Option (BitVec 32)

  | .bootStage1 _ => none
  | .bootStage3 _ => none
  | .bootStage4 _ _ => none
  | .bootStage6 _ => none
  | .mgattreq _ => none
  | .mgdbgnonce _ => none
  | .mgdbgrec _ => none
  | .registerWrite _ _ => none
  | .stackTemperatureChange _ _ => none
  | .patrolScrub _ _ => none
  | .ucieLaneRepair _ _ => none
  | .dieLinkFenced _ _ => none
  | .lpddrChannelFailed _ _ => none
  | .idleFlit _ _ => none
  | .dataFlit _ _ => none
  | .retryRequest _ _ _ => none
  | .retrainMarker _ _ => none
  | .timebaseFlit _ _ _ => none
  | .retrain _ _ => none
  | .formationClaim _ _ => none
  | .acknowledgement _ _ => none
  | .memberReply _ _ _ => none
  | .image _ _ _ _ => none
  | .formationDone _ _ => none
  | .formed _ _ => none
  | .ownershipNotice _ _ => none
  | .dirtyAgeWriteback _ _ => none
  | .lineEviction _ _ => none
  | .directoryRead _ => none
  | .directoryWrite _ => none
  | .homeAtomic _ => none
  | .faultQueueReplay _ _ => none
  | .frresumeRetry _ _ => none
  | .frresumeMigrate _ _ => none
  | .trgen _ => none
  | .remoteSfenceVma _ _ => none
  | .remoteSfenceVmaAsid _ _ _ => none
  | .remoteHfenceGvmaVmid _ _ _ => none
  | .remoteHfenceGvma _ _ => none
  | .remoteHfenceVvmaAsid _ _ _ _ => none
  | .remoteHfenceVvma _ _ _ => none
  | .recall _ => none
  | .serviceCompletion _ _ _ => none
  | .grupload _ => none
  | .grkick _ => none
  | .capacityReport _ _ => none
  | .sluiceCommit _ _ => none
  | .tailraceRefill _ _ _ => none
  | .issue _ _ _ => none
  | .issueGroupSwap _ _ _ _ => none
  | .sliceGrant _ _ _ => none
  | .sliceStarvation _ _ _ => none
  | .preempt _ => none
  | .movS _ => none
  | .movZ _ => none
  | .movi _ => none
  | .and _ => none
  | .or _ => none
  | .xor _ => none
  | .andn _ => none
  | .bfi _ => none
  | .clz _ => none
  | .ctz _ => none
  | .popc _ => none
  | .brev _ => none
  | .bfxS _ => none
  | .bfxZ _ => none
  | .sel _ => none
  | .shi _ => none
  | .addS _ => none
  | .addZ _ => none
  | .addsS _ => none
  | .addsZ _ => none
  | .subS _ => none
  | .subZ _ => none
  | .subsS _ => none
  | .subsZ _ => none
  | .minS _ => none
  | .minZ _ => none
  | .maxS _ => none
  | .maxZ _ => none
  | .addminS _ => none
  | .addminZ _ => none
  | .addmaxS _ => none
  | .addmaxZ _ => none
  | .mulS _ => none
  | .mulZ _ => none
  | .mulhS _ => none
  | .mulhZ _ => none
  | .madS _ => none
  | .madZ _ => none
  | .absdS _ => none
  | .absdZ _ => none
  | .cltS _ => none
  | .cltZ _ => none
  | .cleS _ => none
  | .cleZ _ => none
  | .ceq _ => none
  | .sll _ => none
  | .srl _ => none
  | .sra _ => none
  | .padd _ => none
  | .psub _ => none
  | .padds _ => none
  | .psubs _ => none
  | .pmin _ => none
  | .pmax _ => none
  | .paddmin _ => none
  | .paddmax _ => none
  | .pabsd _ => none
  | .pmul _ => none
  | .pmad _ => none
  | .pceq _ => none
  | .pclt _ => none
  | .psll _ => none
  | .psrl _ => none
  | .psra _ => none
  | .fadd _ => none
  | .fsub _ => none
  | .fmul _ => none
  | .fmad _ => none
  | .fmsb _ => none
  | .fmin _ => none
  | .fmax _ => none
  | .fabs _ => none
  | .fceq _ => none
  | .fclt _ => none
  | .fcle _ => none
  | .fclass _ => none
  | .frcp _ => none
  | .frsq _ => none
  | .fexp2 _ => none
  | .flog2 _ => none
  | .cvt _ => none
  | .cvtfs _ => none
  | .cvtfz _ => none
  | .cvtsf _ => none
  | .cvtzf _ => none
  | .bxpk _ => none
  | .bxunp _ => none
  | .trpk _ => none
  | .trunp _ => none
  | .bxcmp _ => none
  | .f8pk _ => none
  | .f8unp _ => none
  | .ld _ => none
  | .st _ => none
  | .ldnf _ => none
  | .pf _ => none
  | .ldr _ => none
  | .str _ => none
  | .aadd _ => none
  | .aand _ => none
  | .aor _ => none
  | .axor _ => none
  | .amin _ => none
  | .amax _ => none
  | .aminu _ => none
  | .amaxu _ => none
  | .axchg _ => none
  | .acas _ => none
  | .afadd _ => none
  | .afmin _ => none
  | .afmax _ => none
  | .tdef _ => none
  | .trel _ => none
  | .cpy _ => none
  | .tfill _ => none
  | .tdrn _ => none
  | .cpys _ => none
  | .mma _ => none
  | .mmas _ => none
  | .wbld _ => none
  | .accld _ => none
  | .acczr _ => none
  | .accdr _ => none
  | .mld _ => none
  | .mldt _ => none
  | .mxfence _ => none
  | .vall _ => none
  | .vany _ => none
  | .vbal _ => none
  | .grank _ => none
  | .redadd _ => none
  | .redand _ => none
  | .redor _ => none
  | .redxor _ => none
  | .redminS _ => none
  | .redminZ _ => none
  | .redmaxS _ => none
  | .redmaxZ _ => none
  | .scanadd _ => none
  | .scanaddx _ => none
  | .fredadd _ => none
  | .fscanadd _ => none
  | .fen _ => none
  | .safept _ => none
  | .rtkt _ => none
  | .rfill _ => none
  | .rpush _ => none
  | .rpop _ => none
  | .kpush _ => none
  | .kpop _ => none
  | .join k => some (custom0 (0#7 ++ k) 0 0 0)
  | .leave k => some (custom0 (1#7 ++ k) 0 0 0)
  | .gwait k => some (custom0 (2#7 ++ k) 0 0 0)
  | .pbinit k rs1 => some (custom0 k rs1 1 0)
  | .pbarr k rs1 => some (custom0 k rs1 1 1)
  | .pbwait k rs1 => some (custom0 k rs1 1 2)
  | .pbarw k rs1 => some (custom0 k rs1 1 3)
  | .twait k => some (custom0 k 0 2 0)
  | .fenw s => some (custom0 (0#3 ++ s) 0 3 0)
  | .give v => some (custom0 v 0 4 0)
  | .claim v => some (custom0 v 0 4 1)
  | .migrate rd rs1 => some (custom0 0 rs1 5 rd)
  | .spawn rd rs1 => some (custom1 0 0 rs1 0 rd)
  | .gcancel rd rs1 rs2 => some (custom1 1 rs2 rs1 0 rd)
  | .gstat rd rs1 rs2 => some (custom1 2 rs2 rs1 0 rd)
  | .tsub rd rs1 => some (custom1 0 0 rs1 1 rd)
  | .tcomm rd rs1 => some (custom1 1 0 rs1 1 rd)
  | .tabort rd rs1 => some (custom1 2 0 rs1 1 rd)
  | .rfillm rd rs1 rs2 nw => some (custom1 (ringF7 nw 1) rs2 rs1 2 rd)
  | .rpushm rd rs1 rs2 nw => some (custom1 (ringF7 nw 2) rs2 rs1 2 rd)
  | .rpopm rd rs1 rs2 nw => some (custom1 (ringF7 nw 3) rs2 rs1 2 rd)
  | .kpushm rd rs1 rs2 nw => some (custom1 (ringF7 nw 4) rs2 rs1 2 rd)
  | .kpopm rd rs1 rs2 nw => some (custom1 (ringF7 nw 5) rs2 rs1 2 rd)
  | .sysinfo rd rs1 => some (custom1 0 0 rs1 4 rd)
  | .sbiHartStartStop _ _ => none
  | .bootStage0 => none
  | .bootStage2 => none
  | .bootStage5 => none
  | .bootStage7 => none
  | .lockstepMismatch => none
  | .sessionKeyGeneration => none
  | .attestationReport => none
  | .junctionAbove105 => none
  | .junctionBelow100 => none
  | .junctionAbove115 => none
  | .powerCapExceeded => none
  | .hbmStackFenced => none
  | .cDieFenced => none
  | .lDie1Fenced => none
  | .lDie0Failure => none
  | .pauseExpiry => none
  | .retrainComplete => none
  | .portDown => none
  | .packageLost => none
  | .reachableSetFixed => none
  | .claimResend => none
  | .leaderSilence => none
  | .followerRouteLost => none
  | .recallWriteback => none
  | .directoryEviction => none
  | .requestResend => none
  | .reservationExpiry => none
  | .walk => none
  | .walkComplete => none
  | .faultRecordWrite => none
  | .poolFeed => none
  | .generationRaiseComplete => none
  | .remoteFenceI => none
  | .dtuAcknowledge => none
  | .automaticMoveToCompute => none
  | .automaticMoveToLatency => none
  | .threadPlacement => none
  | .arrivalRingWrite => none
  | .ecall => some (0x73#32)
  | .batchClose => none
  | .serviceForward => none
  | .graphValidationDone => none
  | .graphReplayDone => none
  | .blockStart => none
  | .steal => none
  | .sluiceRetry => none
  | .retirementReport => none
  | .gridCompletion => none
  | .hardCancelTimeout => none
  | .yieldEviction => none
  | .taskDispatch => none
  | .taskAging => none
  | .taskCompletion => none
  | .abortTimeout => none
  | .ringTicket => none
  | .ringFill => none
  | .ringPush => none
  | .ringPop => none
  | .ringKpush => none
  | .ringKpop => none
  | .ringWithdrawal => none
  | .preemptionRequest => none
  | .preemptionWatchdog => none
  | .preemptionSave => none
  | .preemptionHandlerTimeout => none
  | .restore => none
  | .restoreHandlerTimeout => none
  | .matrixOperationStart => none
  | .matrixCommit => none
  | .matrixOperandFault => none
  | .transferComplete => none
  | .copyComplete => none
  | .gend => some (custom1 3 0 0 0 0)
  | .tret => some (custom1 0 0 0 3 0)
  | .routeReturn => none
  | .sbiIpi => none

/-- The bits of a thread's instruction and its length in bytes; none for a step of another agent, which has no encoding. -/
def encode (i : Instr) : Option (BitVec 64 × Nat) :=
  match i.longParts, i.shortWord with
  | some (op, f), _ => some (f.toWord op, 8)
  | none, some w => some (w.setWidth 64, 4)
  | none, none => none

/-- The instruction that the decoder reads from bits numbered as the opcode table numbers them: parcels at rising
addresses are the higher bits (R273), so a word's number is its bit string. -/
def decodeTableWord (nbits w : Nat) : Option Instr :=
  match (decodeWord (BitVec.ofNat 64 (w % 2 ^ nbits))).2 with
  | .op i => some i
  | _ => none

end Sys2Proof
end

