-- ==== Sys2Proof/Machine/Registers.lean ====
section
/-! DEFINITION. The device registers of region 4: their places, what they read, what a write does, and a latency core's
access to them (R4, R57, R100, R123, R124, R172, R236). -/
namespace Sys2Proof.Machine

/-- The translation unit and register offset of an offset of the translation block (R100). -/
def unitReg (off : Nat) : Nat × Nat := ((off - 0x1100) / 0x80, (off - 0x1100) % 0x80)

/-- MGPOD's code (R57). -/
def PodState.code : PodState → Nat
  | .solo => 0 | .claiming => 1 | .leading => 2 | .following => 3 | .loading => 4 | .member => 5

/-- Value of a management register (R57). -/
def State.mgmtRead (s : State) (off : Nat) : Word :=
  let t := s.plat.trust
  let p := s.plat.pod
  match off with
  | 0x000 => Config.serial
  | 0x008 => BitVec.ofNat 64 (t.code.toNat * 256 + p.state.code * 32 + flag (s.synced && decide (0 < t.stage)) * 16 + t.stage % 16)
  | 0x010 => BitVec.ofNat 64 ((p.round % 2 ^ 32) * 2 ^ 32 + p.leader % 2 ^ 32)
  | 0x020 => t.attdst
  | 0x028 => t.attsts.setWidth 64
  | 0x030 => if s.chip.ras.log.isEmpty then 0 else Config.errorEntry s.chip.ras.log.length
  | 0x048 => t.dbgsts.setWidth 64
  | _ => 0

/-- Value of a register of a translation unit (R100). -/
def Chip.unitRead (c : Chip) (u r : Nat) : Word :=
  let x := c.unit u
  match r with
  | 0x00 => x.zpbase
  | 0x08 => BitVec.ofNat 64 (x.zplow.toNat * 2 ^ 16 + x.zpsize.toNat)
  | 0x10 => x.zpprod.setWidth 64
  | 0x18 => x.zpcons.setWidth 64
  | 0x20 => x.zlbase
  | 0x28 => x.zlsize.setWidth 64
  | 0x30 => x.zlprod.setWidth 64
  | 0x38 => x.zlcons.setWidth 64
  | 0x40 => x.zmsiaddr
  | 0x48 => x.zmsidata.setWidth 64
  | 0x50 => if 8 ≤ u then 0 else x.frbase
  | 0x58 => if 8 ≤ u then 0 else x.frsize.setWidth 64
  | 0x60 => if 8 ≤ u then 0 else x.frprod.setWidth 64
  | 0x68 => if 8 ≤ u then 0 else x.frcons.setWidth 64
  | 0x78 => BitVec.ofNat 64 (x.badfrm.toNat * 2 ^ 32 + x.records.length % 2 ^ 13 * 2 ^ 16 + x.reserve.length % 2 ^ 7)
  | _ => 0

/-- Value of a register of the translation block (R100). -/
def Chip.xlateRead (c : Chip) (off : Nat) : Word :=
  if 0x1100 ≤ off then (if off < 0x1600 then c.unitRead (unitReg off).1 (unitReg off).2 else 0)
  else match off with
    | 0x1008 => if c.xl.busy.isSome then 1 else 0
    | 0x1010 => if c.xl.leasersw then 1 else 0
    | _ => 0

/-- Bytes of the save pool that are reserved (R236). -/
def Chip.saveUsed (c : Chip) : Nat := c.disp.blocks.foldl (fun n b => n + b.saveSize) 0

/-- Value of a register of the thread block (R124, R172, R236). -/
def Chip.threadRead (c : Chip) (off : Nat) : Word :=
  let d := c.dev
  let l := (off / 0x40) % 2
  if off < 0x2040 then devFeat ((off - 0x2000) / 8)
  else if 0x2100 ≤ off && off < 0x2180 then
    match off % 0x40 with
    | 0x00 => d.arbase.getD l 0
    | 0x08 => (d.arsize.getD l 0).setWidth 64
    | 0x10 => (d.arprod.getD l 0).setWidth 64
    | 0x18 => (d.arcons.getD l 0).setWidth 64
    | 0x20 => d.armsiaddr.getD l 0
    | 0x28 => (d.armsidata.getD l 0).setWidth 64
    | _ => 0
  else match off with
    | 0x2180 => d.jobbase
    | 0x2188 => d.jobsize.setWidth 64
    | 0x2190 => d.svbase
    | 0x2198 => d.svsize.setWidth 64 <<< 12
    | 0x21A0 => BitVec.ofNat 64 c.saveUsed
    | 0x21B0 => BitVec.ofNat 64 (c.disp.blocks.filter fun b => b.preempt = .saved).length
    | _ => 0

/-- Value of a register of the graph block (R124). -/
def Chip.graphRead (c : Chip) (off : Nat) : Word :=
  let d := c.dev
  match off with
  | 0x3000 => d.grstage
  | 0x3010 => BitVec.ofNat 64 (d.grupnum.toNat * 256 + d.grupsts.toNat)
  | 0x3020 => BitVec.ofNat 64 (d.grentry.toNat * 2 ^ 48 + flag d.grlost * 256 + d.grcode.toNat)
  | 0x3028 => d.grmsiaddr
  | 0x3030 => d.grmsidata.setWidth 64
  | _ => 0

/-- Value of a device register; a write-only one and a reserved field read zero (R4). -/
def State.regRead (s : State) (off : Nat) : Word :=
  if off < 0x1000 then s.mgmtRead off
  else if off < 0x2000 then s.chip.xlateRead off
  else if off < 0x3000 then s.chip.threadRead off
  else s.chip.graphRead off

/-- Store the written fields of a register of a translation unit (R100). -/
def Chip.unitWrite (c : Chip) (u r : Nat) (v : Word) : Chip :=
  let x := c.unit u
  match r with
  | 0x00 => c.setUnit u { x with zpbase := v }
  | 0x08 => c.setUnit u { x with zplow := v.extractLsb' 16 16, zpsize := v.setWidth 5 }
  | 0x10 => c.setUnit u { x with zpprod := v.setWidth 32 }
  | 0x20 => c.setUnit u { x with zlbase := v }
  | 0x28 => c.setUnit u { x with zlsize := v.setWidth 5 }
  | 0x38 => c.setUnit u { x with zlcons := v.setWidth 32 }
  | 0x40 => c.setUnit u { x with zmsiaddr := v }
  | 0x48 => c.setUnit u { x with zmsidata := v.setWidth 32 }
  | 0x50 => if 8 ≤ u then c else c.setUnit u { x with frbase := v }
  | 0x58 => if 8 ≤ u then c else c.setUnit u { x with frsize := v.setWidth 5 }
  | 0x68 => if 8 ≤ u then c else c.setUnit u { x with frcons := v.setWidth 32 }
  | _ => c

/-- Store the written fields of a register of the thread and graph blocks (R124, R172, R236). -/
def DevRegs.write (d : DevRegs) (off : Nat) (v : Word) : DevRegs :=
  let l := (off / 0x40) % 2
  if 0x2100 ≤ off && off < 0x2180 then
    match off % 0x40 with
    | 0x00 => { d with arbase := listSet d.arbase l v }
    | 0x08 => { d with arsize := listSet d.arsize l (v.setWidth 4) }
    | 0x18 => { d with arcons := listSet d.arcons l (v.setWidth 32) }
    | 0x20 => { d with armsiaddr := listSet d.armsiaddr l v }
    | 0x28 => { d with armsidata := listSet d.armsidata l (v.setWidth 32) }
    | _ => d
  else match off with
    | 0x2180 => { d with jobbase := v }
    | 0x2188 => { d with jobsize := v.setWidth 5 }
    | 0x2190 => { d with svbase := v }
    | 0x2198 => { d with svsize := v.extractLsb' 12 28 }
    | 0x3000 => { d with grstage := v }
    | 0x3028 => { d with grmsiaddr := v }
    | 0x3030 => { d with grmsidata := v.setWidth 32 }
    | _ => d

/-- Store the written fields of a register, ignoring read-only and reserved ones (R4). -/
def State.regWrite (s : State) (off : Nat) (v : Word) : State :=
  if off < 0x1000 then
    let t := s.plat.trust
    match off with
    | 0x020 => { s with plat := { s.plat with trust := { t with attdst := v } } }
    | 0x028 => { s with plat := { s.plat with trust := { t with attsts := t.attsts &&& ~~~(v.setWidth 2) } } }
    | _ => s
  else if off < 0x2000 then
    if 0x1100 ≤ off then { s with chip := s.chip.unitWrite (unitReg off).1 (unitReg off).2 v }
    else if off = 0x1010 then { s with chip := { s.chip with xl := { s.chip.xl with leasersw := v.getLsbD 0 } } }
    else s
  else { s with chip := { s.chip with dev := s.chip.dev.write off v } }

/-- Whether a physical address is that of a device register of this package (R57, R123). -/
def Chip.isReg (c : Chip) (pa : Nat) : Bool :=
  c.target pa = .io && bits 50 48 pa = 4 && bits 55 51 pa = c.pkg && regListed (regOff pa)

/-- REGISTER_WRITE (R4): a write at a physical address to a register with no behaviour of its own. -/
def execRegisterWrite (addr v : Word) (s : State) : Host.Outcome State Fault Refusal :=
  done (if s.chip.isReg addr.toNat then s.regWrite (regOff addr.toNat) v else s)

/-- What a write of a register makes the device do, as its next step: the step of the register's own behaviour, or the plain
write (R45, R50, R87, R99, R114, R125, R126, R225). -/
def regStep (off : Nat) (addr v : Word) : Option Instr :=
  match off with
  | 0x018 => some (.mgattreq v)
  | 0x038 => some (.mgdbgnonce v)
  | 0x040 => some (.mgdbgrec v)
  | 0x1000 => some (.trgen v)
  | 0x2040 => some (.recall v)
  | 0x21A8 => some (.preempt v)
  | 0x3008 => some (.grupload v)
  | 0x3018 => some (.grkick v)
  | _ =>
    if 0x1100 ≤ off && off < 0x1500 && (unitReg off).2 = 0x70 then
      match bits 1 0 v.toNat with
      | 0 => some (.frresumeRetry (unitReg off).1 (bits 47 32 v.toNat))
      | 1 => some (.frresumeMigrate (unitReg off).1 (bits 47 32 v.toNat))
      | _ => none
    else some (.registerWrite addr v)

/-- What a load of n bytes of I/O gives (R57, R123): a register of this package its value; a register of another package or a
device a free one (notes/assumptions/51, 118). -/
def State.ioLoad (s : State) : Device := fun c pa n =>
  if bits 50 48 pa = 4 && bits 55 51 pa = c.pkg then (({ s with chip := c }.regRead (regOff pa)).toNat, c)
  else (c.freeWord.toNat % 2 ^ (8 * n), c.drew n)

/-- A long load, at an offset (R331). -/
def ldState (f : Long) (index : Bool) (off : Thread → Nat) (s : State) : Host.Outcome State Fault Refusal :=
  done (s.long f (loadOp f index off s.ioLoad))

/-- A long store, at an offset (R331). -/
def stState (f : Long) (index : Bool) (off : Thread → Nat) (s : State) : Host.Outcome State Fault Refusal :=
  done (s.long f (storeOp f index off))

/-- LD (R331). -/
def execLd (f : Long) (s : State) : Host.Outcome State Fault Refusal := ldState f false (offImm f) s
/-- ST (R331). -/
def execSt (f : Long) (s : State) : Host.Outcome State Fault Refusal := stState f false (offImm f) s
/-- LDR (R331). -/
def execLdr (f : Long) (s : State) : Host.Outcome State Fault Refusal := ldState f true (offIdx f) s
/-- STR (R331). -/
def execStr (f : Long) (s : State) : Host.Outcome State Fault Refusal := stState f true (offIdx f) s
/-- LDNF (R96, R332). -/
def execLdnf (f : Long) (s : State) : Host.Outcome State Fault Refusal := done (s.long f (ldnfOp f s.ioLoad))
/-- PF (R333). -/
def execPf (f : Long) (s : State) : Host.Outcome State Fault Refusal := done (s.long f (pfOp f))
/-- AADD (R334). -/
def execAadd (f : Long) (s : State) : Host.Outcome State Fault Refusal := done (s.atomic f .add)
/-- AAND (R334). -/
def execAand (f : Long) (s : State) : Host.Outcome State Fault Refusal := done (s.atomic f .and)
/-- AOR (R334). -/
def execAor (f : Long) (s : State) : Host.Outcome State Fault Refusal := done (s.atomic f .or)
/-- AXOR (R334). -/
def execAxor (f : Long) (s : State) : Host.Outcome State Fault Refusal := done (s.atomic f .xor)
/-- AMIN (R334). -/
def execAmin (f : Long) (s : State) : Host.Outcome State Fault Refusal := done (s.atomic f .min)
/-- AMAX (R334). -/
def execAmax (f : Long) (s : State) : Host.Outcome State Fault Refusal := done (s.atomic f .max)
/-- AMINU (R334). -/
def execAminu (f : Long) (s : State) : Host.Outcome State Fault Refusal := done (s.atomic f .minu)
/-- AMAXU (R334). -/
def execAmaxu (f : Long) (s : State) : Host.Outcome State Fault Refusal := done (s.atomic f .maxu)
/-- AXCHG (R334). -/
def execAxchg (f : Long) (s : State) : Host.Outcome State Fault Refusal := done (s.atomic f .xchg)
/-- ACAS (R334). -/
def execAcas (f : Long) (s : State) : Host.Outcome State Fault Refusal := done (s.atomic f .cas)
/-- AFADD (R334). -/
def execAfadd (f : Long) (s : State) : Host.Outcome State Fault Refusal := done (s.atomic f (.fadd (fmtOf f.d)))
/-- AFMIN (R334). -/
def execAfmin (f : Long) (s : State) : Host.Outcome State Fault Refusal := done (s.atomic f (.fmin (fmtOf f.d)))
/-- AFMAX (R334). -/
def execAfmax (f : Long) (s : State) : Host.Outcome State Fault Refusal := done (s.atomic f (.fmax (fmtOf f.d)))

end Sys2Proof.Machine
end

