-- ==== Sys2Proof/Machine/Standard.lean ====
section
/-! DEFINITION. The standard instructions of the Tarust user profile (R101, R128, R129, R260, R274): decoding of 16- and
32-bit words and their meanings. They are no rows of the opcode table; step runs them. -/
namespace Sys2Proof.Machine

/-- Integer operations of two operands: RV64I, M, Zba, Zbb, Zbs and Zicond (R101). -/
inductive Alu where
  | add | sub | sll | slt | sltu | xor | srl | sra | or | and
  | sh1add | sh2add | sh3add | addUw | sh1addUw | sh2addUw | sh3addUw | slliUw
  | andn | orn | xnor | min | max | minu | maxu | rol | ror | bclr | bset | binv | bext | czeroEqz | czeroNez
  | mul | mulh | mulhsu | mulhu | div | divu | rem | remu
  deriving DecidableEq, Repr

/-- Integer operations of one operand: Zbb (R101). -/
inductive Una where
  | clz | ctz | cpop | clzw | ctzw | cpopw | sextB | sextH | zextH | orcB | rev8
  deriving DecidableEq, Repr

/-- Operations of the A extension (R71). -/
inductive Amo where
  | add | swap | xor | or | and | min | max | minu | maxu
  deriving DecidableEq, Repr

/-- Floating operations of two operands in one format (R101). -/
inductive Fop where
  | add | sub | mul | div | min | max | sgnj | sgnjn | sgnjx | le | lt | eq
  deriving DecidableEq, Repr

/-- Privileged instructions that only latency cores execute (R105, R274; notes/assumptions/8). -/
inductive Priv where
  | sret | mret | wfi | sfenceVma | hfenceVvma | hfenceGvma
  deriving DecidableEq, Repr

/-- A decoded standard instruction. Registers are numbers; immediates are sign-extended. -/
inductive Std where
  | lui (rd : Nat) (imm : Word)
  | auipc (rd : Nat) (imm : Word)
  | alu (op : Alu) (w : Bool) (rd rs1 rs2 : Nat)
  | aluI (op : Alu) (w : Bool) (rd rs1 : Nat) (imm : Word)
  | una (op : Una) (rd rs1 : Nat)
  | jal (rd : Nat) (off : Word)
  | jalr (rd rs1 : Nat) (off : Word)
  | branch (cond rs1 rs2 : Nat) (off : Word)
  | load (n : Nat) (signed : Bool) (rd rs1 : Nat) (off : Word)
  | store (n rs1 rs2 : Nat) (off : Word)
  | lr (n rd rs1 : Nat) (aq rl : Bool)
  | sc (n rd rs1 rs2 : Nat) (aq rl : Bool)
  | amo (op : Amo) (n rd rs1 rs2 : Nat) (aq rl : Bool)
  | fence
  | fenceI
  | ebreak
  /-- kind: 1 write, 2 set, 3 clear; the source is a register or a 5-bit immediate -/
  | csr (kind : Nat) (imm : Bool) (rd csr src : Nat)
  | fop (op : Fop) (F : Fmt) (rd rs1 rs2 rm : Nat)
  /-- (± rs1 * rs2) ± rs3 -/
  | fma (negProd negAdd : Bool) (F : Fmt) (rd rs1 rs2 rs3 rm : Nat)
  | fsqrt (F : Fmt) (rd rs1 rm : Nat)
  | fclass (F : Fmt) (rd rs1 : Nat)
  | fcvtFF (D S : Fmt) (rd rs1 rm : Nat)
  | fcvtFI (F : Fmt) (signed : Bool) (w rd rs1 rm : Nat)
  | fcvtIF (F : Fmt) (signed : Bool) (w rd rs1 rm : Nat)
  | priv (op : Priv)
  /-- hlv and hlvx: a load as of a guest (R101); whether execute permission stands for read -/
  | hlv (n : Nat) (signed exec : Bool) (rd rs1 : Nat)
  /-- hsv: a store as of a guest (R101) -/
  | hsv (n rs1 rs2 : Nat)
  /-- another SYSTEM encoding: it migrates on a compute core, and is illegal on a latency core (R105, R274) -/
  | system
  /-- cause 2 (R274) -/
  | illegal
  deriving DecidableEq, Repr

/-- Sign extension of a w-bit number to a dword (R3). -/
def sx (w v : Nat) : Word := BitVec.ofNat 64 (extendTo (v % 2 ^ w) w 64 true)

/-- Format of the two fmt bits of a floating instruction: S, D, H; none for Q (R274). -/
def stdFmt (code : Nat) : Option Fmt :=
  match code with
  | 0 => some .fp32
  | 1 => some .fp64
  | 2 => some .fp16
  | _ => none

/-- OP and OP-32 (R101). -/
def decodeOp (f7 f3 : Nat) (w : Bool) : Option Alu :=
  match f7, f3, w with
  | 0x00, 0, _ => some .add
  | 0x20, 0, _ => some .sub
  | 0x00, 1, _ => some .sll
  | 0x00, 5, _ => some .srl
  | 0x20, 5, _ => some .sra
  | 0x00, 2, false => some .slt
  | 0x00, 3, false => some .sltu
  | 0x00, 4, false => some .xor
  | 0x00, 6, false => some .or
  | 0x00, 7, false => some .and
  | 0x01, 0, _ => some .mul
  | 0x01, 1, false => some .mulh
  | 0x01, 2, false => some .mulhsu
  | 0x01, 3, false => some .mulhu
  | 0x01, 4, _ => some .div
  | 0x01, 5, _ => some .divu
  | 0x01, 6, _ => some .rem
  | 0x01, 7, _ => some .remu
  | 0x10, 2, false => some .sh1add
  | 0x10, 4, false => some .sh2add
  | 0x10, 6, false => some .sh3add
  | 0x04, 0, true => some .addUw
  | 0x10, 2, true => some .sh1addUw
  | 0x10, 4, true => some .sh2addUw
  | 0x10, 6, true => some .sh3addUw
  | 0x20, 7, false => some .andn
  | 0x20, 6, false => some .orn
  | 0x20, 4, false => some .xnor
  | 0x05, 4, false => some .min
  | 0x05, 5, false => some .minu
  | 0x05, 6, false => some .max
  | 0x05, 7, false => some .maxu
  | 0x30, 1, _ => some .rol
  | 0x30, 5, _ => some .ror
  | 0x24, 1, false => some .bclr
  | 0x24, 5, false => some .bext
  | 0x34, 1, false => some .binv
  | 0x14, 1, false => some .bset
  | 0x07, 5, false => some .czeroEqz
  | 0x07, 7, false => some .czeroNez
  | _, _, _ => none

/-- Whether an operation of two operands takes its 32-bit form, sign-extended, in OP-32. -/
def Alu.narrows : Alu → Bool
  | .addUw => false | .sh1addUw => false | .sh2addUw => false | .sh3addUw => false | .slliUw => false | _ => true

/-- OP-IMM (R101). -/
def decodeOpImm (rd rs1 f3 imm : Nat) : Std :=
  let s := sx 12 imm
  let sh := BitVec.ofNat 64 (bits 5 0 imm)
  let hi := bits 11 6 imm
  match f3 with
  | 0 => .aluI .add false rd rs1 s
  | 2 => .aluI .slt false rd rs1 s
  | 3 => .aluI .sltu false rd rs1 s
  | 4 => .aluI .xor false rd rs1 s
  | 6 => .aluI .or false rd rs1 s
  | 7 => .aluI .and false rd rs1 s
  | 1 =>
    if hi = 0 then .aluI .sll false rd rs1 sh
    else if hi = 0x0A then .aluI .bset false rd rs1 sh
    else if hi = 0x12 then .aluI .bclr false rd rs1 sh
    else if hi = 0x1A then .aluI .binv false rd rs1 sh
    else match imm with
      | 0x600 => .una .clz rd rs1
      | 0x601 => .una .ctz rd rs1
      | 0x602 => .una .cpop rd rs1
      | 0x604 => .una .sextB rd rs1
      | 0x605 => .una .sextH rd rs1
      | _ => .illegal
  | _ =>
    if hi = 0 then .aluI .srl false rd rs1 sh
    else if hi = 0x10 then .aluI .sra false rd rs1 sh
    else if hi = 0x12 then .aluI .bext false rd rs1 sh
    else if hi = 0x18 then .aluI .ror false rd rs1 sh
    else match imm with
      | 0x287 => .una .orcB rd rs1
      | 0x6B8 => .una .rev8 rd rs1
      | _ => .illegal

/-- OP-IMM-32 (R101). -/
def decodeOpImm32 (rd rs1 f3 imm : Nat) : Std :=
  let sh := BitVec.ofNat 64 (bits 4 0 imm)
  let f7 := bits 11 5 imm
  match f3 with
  | 0 => .aluI .add true rd rs1 (sx 12 imm)
  | 1 =>
    if f7 = 0 then .aluI .sll true rd rs1 sh
    else if bits 11 6 imm = 2 then .aluI .slliUw false rd rs1 (BitVec.ofNat 64 (bits 5 0 imm))
    else match imm with
      | 0x600 => .una .clzw rd rs1
      | 0x601 => .una .ctzw rd rs1
      | 0x602 => .una .cpopw rd rs1
      | _ => .illegal
  | 5 =>
    if f7 = 0 then .aluI .srl true rd rs1 sh
    else if f7 = 0x20 then .aluI .sra true rd rs1 sh
    else if f7 = 0x30 then .aluI .ror true rd rs1 sh
    else .illegal
  | _ => .illegal

/-- AMO (R71). -/
def decodeAmo (f5 f3 rd rs1 rs2 : Nat) (aq rl : Bool) : Std :=
  if f3 ≠ 2 && f3 ≠ 3 then .illegal else
  let n := if f3 = 2 then 4 else 8
  match f5 with
  | 0x02 => if rs2 = 0 then .lr n rd rs1 aq rl else .illegal
  | 0x03 => .sc n rd rs1 rs2 aq rl
  | 0x00 => .amo .add n rd rs1 rs2 aq rl
  | 0x01 => .amo .swap n rd rs1 rs2 aq rl
  | 0x04 => .amo .xor n rd rs1 rs2 aq rl
  | 0x08 => .amo .or n rd rs1 rs2 aq rl
  | 0x0C => .amo .and n rd rs1 rs2 aq rl
  | 0x10 => .amo .min n rd rs1 rs2 aq rl
  | 0x14 => .amo .max n rd rs1 rs2 aq rl
  | 0x18 => .amo .minu n rd rs1 rs2 aq rl
  | 0x1C => .amo .maxu n rd rs1 rs2 aq rl
  | _ => .illegal

/-- OP-FP as Zfinx, Zdinx and Zhinx define it (R101, R274). -/
def decodeOpFp (f5 : Nat) (F : Fmt) (rm rd rs1 rs2 : Nat) : Std :=
  match f5 with
  | 0x00 => .fop .add F rd rs1 rs2 rm
  | 0x01 => .fop .sub F rd rs1 rs2 rm
  | 0x02 => .fop .mul F rd rs1 rs2 rm
  | 0x03 => .fop .div F rd rs1 rs2 rm
  | 0x0B => if rs2 = 0 then .fsqrt F rd rs1 rm else .illegal
  | 0x04 => match rm with
    | 0 => .fop .sgnj F rd rs1 rs2 0
    | 1 => .fop .sgnjn F rd rs1 rs2 0
    | 2 => .fop .sgnjx F rd rs1 rs2 0
    | _ => .illegal
  | 0x05 => match rm with
    | 0 => .fop .min F rd rs1 rs2 0
    | 1 => .fop .max F rd rs1 rs2 0
    | _ => .illegal
  | 0x14 => match rm with
    | 0 => .fop .le F rd rs1 rs2 0
    | 1 => .fop .lt F rd rs1 rs2 0
    | 2 => .fop .eq F rd rs1 rs2 0
    | _ => .illegal
  | 0x1C => if rs2 = 0 && rm = 1 then .fclass F rd rs1 else .illegal
  | 0x08 => match stdFmt rs2 with
    | some S => if S = F then .illegal else .fcvtFF F S rd rs1 rm
    | none => .illegal
  | 0x18 => if rs2 < 4 then .fcvtFI F (rs2 % 2 = 0) (if rs2 < 2 then 32 else 64) rd rs1 rm else .illegal
  | 0x1A => if rs2 < 4 then .fcvtIF F (rs2 % 2 = 0) (if rs2 < 2 then 32 else 64) rd rs1 rm else .illegal
  | _ => .illegal

/-- Loads and stores of the H extension (R101). -/
def decodeHyper (rd rs1 rs2 f7 : Nat) : Std :=
  let n := 2 ^ (f7 / 2 % 4)
  if f7 / 8 ≠ 6 then .system
  else if f7 % 2 = 1 then (if rd = 0 then .hsv n rs1 rs2 else .system)
  else match rs2 with
    | 0 => .hlv n true false rd rs1
    | 1 => if n < 8 then .hlv n false false rd rs1 else .system
    | 3 => if n = 2 || n = 4 then .hlv n false true rd rs1 else .system
    | _ => .system

/-- SYSTEM, but for ecall (R105, R274). -/
def decodeSystem (w rd rs1 f3 imm : Nat) : Std :=
  if f3 = 0 then
    if w = 0x00100073 then .ebreak
    else if w = 0x10200073 then .priv .sret
    else if w = 0x30200073 then .priv .mret
    else if w = 0x10500073 then .priv .wfi
    else if rd = 0 && bits 11 5 imm = 0x09 then .priv .sfenceVma
    else if rd = 0 && bits 11 5 imm = 0x11 then .priv .hfenceVvma
    else if rd = 0 && bits 11 5 imm = 0x31 then .priv .hfenceGvma
    else .system
  else if f3 = 4 then decodeHyper rd rs1 (bits 24 20 w) (bits 31 25 w)
  else .csr (f3 % 4) (4 ≤ f3) rd imm rs1

/-- A 32-bit standard word (R274). -/
def decodeStd32 (word : BitVec 32) : Std :=
  let w := word.toNat
  let rd := bits 11 7 w
  let f3 := bits 14 12 w
  let rs1 := bits 19 15 w
  let rs2 := bits 24 20 w
  let f7 := bits 31 25 w
  let imm := bits 31 20 w
  let aq := bitAt 26 w
  let rl := bitAt 25 w
  match bits 6 2 w with
  | 0x0D => .lui rd (sx 32 (w - w % 4096))
  | 0x05 => .auipc rd (sx 32 (w - w % 4096))
  | 0x1B => .jal rd (sx 21 (bits 30 21 w * 2 + bits 20 20 w * 2048 + bits 19 12 w * 4096 + bits 31 31 w * 2 ^ 20))
  | 0x19 => if f3 = 0 then .jalr rd rs1 (sx 12 imm) else .illegal
  | 0x18 =>
    if f3 = 2 || f3 = 3 then .illegal
    else .branch f3 rs1 rs2 (sx 13 (bits 11 8 w * 2 + bits 30 25 w * 32 + bits 7 7 w * 2048 + bits 31 31 w * 4096))
  | 0x00 => if f3 = 7 then .illegal else .load (2 ^ (f3 % 4)) (f3 < 4) rd rs1 (sx 12 imm)
  | 0x08 => if 3 < f3 then .illegal else .store (2 ^ f3) rs1 rs2 (sx 12 (bits 11 7 w + f7 * 32))
  | 0x04 => decodeOpImm rd rs1 f3 imm
  | 0x06 => decodeOpImm32 rd rs1 f3 imm
  | 0x0C => match decodeOp f7 f3 false with
    | some op => .alu op false rd rs1 rs2
    | none => .illegal
  | 0x0E =>
    if f7 = 4 && f3 = 4 then (if rs2 = 0 then .una .zextH rd rs1 else .illegal)
    else match decodeOp f7 f3 true with
      | some op => .alu op op.narrows rd rs1 rs2
      | none => .illegal
  | 0x03 => if w = 0x0100000F then .aluI .add false 0 0 0 else if f3 = 0 then .fence else if f3 = 1 then .fenceI else .illegal
  | 0x0B => decodeAmo (bits 31 27 w) f3 rd rs1 rs2 aq rl
  | 0x14 => match stdFmt (bits 26 25 w) with
    | some F => decodeOpFp (bits 31 27 w) F f3 rd rs1 rs2
    | none => .illegal
  | 0x1C => decodeSystem w rd rs1 f3 imm
  | k =>
    if 0x10 ≤ k && k ≤ 0x13 then
      match stdFmt (bits 26 25 w) with
      | some F => .fma (k = 0x12 || k = 0x13) (k = 0x11 || k = 0x13) F rd rs1 rs2 (bits 31 27 w) f3
      | none => .illegal
    else .illegal

/-- A 16-bit word of RV64C; the forms that name f registers are illegal (R274). -/
def decodeC (word : BitVec 16) : Std :=
  let w := word.toNat
  let rd := bits 11 7 w
  let rs2 := bits 6 2 w
  let r1 := 8 + bits 9 7 w
  let r2 := 8 + bits 4 2 w
  let imm6 := sx 6 (bits 12 12 w * 32 + bits 6 2 w)
  let sh := BitVec.ofNat 64 (bits 12 12 w * 32 + bits 6 2 w)
  let offW := bits 5 5 w * 64 + bits 12 10 w * 8 + bits 6 6 w * 4
  let offD := bits 6 5 w * 64 + bits 12 10 w * 8
  let u (v : Nat) : Word := BitVec.ofNat 64 v
  match bits 1 0 w, bits 15 13 w with
  | 0, 0 =>
    let v := bits 10 7 w * 64 + bits 12 11 w * 16 + bits 5 5 w * 8 + bits 6 6 w * 4
    if v = 0 then .illegal else .aluI .add false r2 2 (u v)
  | 0, 2 => .load 4 true r2 r1 (u offW)
  | 0, 3 => .load 8 true r2 r1 (u offD)
  | 0, 6 => .store 4 r1 r2 (u offW)
  | 0, 7 => .store 8 r1 r2 (u offD)
  | 1, 0 => .aluI .add false rd rd imm6
  | 1, 1 => if rd = 0 then .illegal else .aluI .add true rd rd imm6
  | 1, 2 => .aluI .add false rd 0 imm6
  | 1, 3 =>
    if rd = 2 then
      let v := bits 12 12 w * 512 + bits 4 3 w * 128 + bits 5 5 w * 64 + bits 2 2 w * 32 + bits 6 6 w * 16
      if v = 0 then .illegal else .aluI .add false 2 2 (sx 10 v)
    else
      let v := bits 12 12 w * 2 ^ 17 + bits 6 2 w * 4096
      if v = 0 then .illegal else .lui rd (sx 18 v)
  | 1, 4 =>
    match bits 11 10 w with
    | 0 => .aluI .srl false r1 r1 sh
    | 1 => .aluI .sra false r1 r1 sh
    | 2 => .aluI .and false r1 r1 imm6
    | _ =>
      match bits 12 12 w, bits 6 5 w with
      | 0, 0 => .alu .sub false r1 r1 r2
      | 0, 1 => .alu .xor false r1 r1 r2
      | 0, 2 => .alu .or false r1 r1 r2
      | 0, _ => .alu .and false r1 r1 r2
      | _, 0 => .alu .sub true r1 r1 r2
      | _, 1 => .alu .add true r1 r1 r2
      | _, _ => .illegal
  | 1, 5 =>
    .jal 0 (sx 12 (bits 12 12 w * 2048 + bits 8 8 w * 1024 + bits 10 9 w * 256 + bits 6 6 w * 128 + bits 7 7 w * 64 +
      bits 2 2 w * 32 + bits 11 11 w * 16 + bits 5 3 w * 2))
  | 1, k =>
    .branch (if k = 6 then 0 else 1) r1 0
      (sx 9 (bits 12 12 w * 256 + bits 6 5 w * 64 + bits 2 2 w * 32 + bits 11 10 w * 8 + bits 4 3 w * 2))
  | 2, 0 => .aluI .sll false rd rd sh
  | 2, 2 => if rd = 0 then .illegal else .load 4 true rd 2 (u (bits 3 2 w * 64 + bits 12 12 w * 32 + bits 6 4 w * 4))
  | 2, 3 => if rd = 0 then .illegal else .load 8 true rd 2 (u (bits 4 2 w * 64 + bits 12 12 w * 32 + bits 6 5 w * 8))
  | 2, 4 =>
    match bits 12 12 w with
    | 0 => if rs2 = 0 then (if rd = 0 then .illegal else .jalr 0 rd 0) else .alu .add false rd 0 rs2
    | _ =>
      if rs2 = 0 then (if rd = 0 then .ebreak else .jalr 1 rd 0)
      else .alu .add false rd rd rs2
  | 2, 6 => .store 4 2 rs2 (u (bits 8 7 w * 64 + bits 12 9 w * 4))
  | 2, 7 => .store 8 2 rs2 (u (bits 9 7 w * 64 + bits 12 10 w * 8))
  | _, _ => .illegal

/-- A standard instruction of a length (R273, R274). -/
def decodeStd (w : BitVec 32) (len : Nat) : Std := if len = 2 then decodeC (w.setWidth 16) else decodeStd32 w

/-- The upper half of a product. -/
def mulHi (a b : Int) : Nat := ((a * b) / 2 ^ 64 % 2 ^ 64).toNat

/-- Division of RISC-V at w bits: by zero all ones, on overflow the dividend (R101). -/
def divI (a b : Int) (w : Nat) (sg : Bool) : Int :=
  if b = 0 then -1 else if sg && a = -(2 ^ (w - 1)) && b = -1 then a else Int.tdiv a b

/-- Remainder of RISC-V at w bits (R101). -/
def remI (a b : Int) (w : Nat) (sg : Bool) : Int :=
  if b = 0 then a else if sg && a = -(2 ^ (w - 1)) && b = -1 then 0 else Int.tmod a b

/-- Rotate left at w bits. -/
def rotl (a n w : Nat) : Nat := ((a <<< n) ||| (a >>> (w - n))) % 2 ^ w

/-- Value of an operation of two operands at w bits, 64 or 32 (R101). -/
def aluVal (op : Alu) (w a b : Nat) : Nat :=
  let sa : Int := signedOf w a
  let sb : Int := signedOf w b
  let ua := a % 2 ^ w
  let ub := b % 2 ^ w
  let n := b % w
  let lo := a % 2 ^ 32
  let z (v : Int) : Nat := (v % 2 ^ 64).toNat
  match op with
  | .add => a + b
  | .sub => z ((a : Int) - b)
  | .sll => a <<< n
  | .slt => flag (decide (sa < sb))
  | .sltu => flag (decide (ua < ub))
  | .xor => a ^^^ b
  | .srl => ua >>> n
  | .sra => z (sa / 2 ^ n)
  | .or => a ||| b
  | .and => a &&& b
  | .sh1add => 2 * a + b
  | .sh2add => 4 * a + b
  | .sh3add => 8 * a + b
  | .addUw => lo + b
  | .sh1addUw => 2 * lo + b
  | .sh2addUw => 4 * lo + b
  | .sh3addUw => 8 * lo + b
  | .slliUw => lo <<< (b % 64)
  | .andn => ua &&& (2 ^ w - 1 - ub)
  | .orn => ua ||| (2 ^ w - 1 - ub)
  | .xnor => 2 ^ w - 1 - (ua ^^^ ub)
  | .min => if sa ≤ sb then a else b
  | .max => if sa ≤ sb then b else a
  | .minu => min ua ub
  | .maxu => max ua ub
  | .rol => rotl ua n w
  | .ror => rotl ua (w - n) w
  | .bclr => ua &&& (2 ^ w - 1 - 2 ^ n)
  | .bset => ua ||| 2 ^ n
  | .binv => ua ^^^ 2 ^ n
  | .bext => flag (ua.testBit n)
  | .czeroEqz => if ub = 0 then 0 else a
  | .czeroNez => if ub = 0 then a else 0
  | .mul => a * b
  | .mulh => mulHi sa sb
  | .mulhsu => mulHi sa ub
  | .mulhu => mulHi ua ub
  | .div => z (divI sa sb w true)
  | .divu => if ub = 0 then 2 ^ w - 1 else ua / ub
  | .rem => z (remI sa sb w true)
  | .remu => if ub = 0 then ua else ua % ub

/-- Result of an operation of two operands: a 32-bit one is sign-extended (R101). -/
def aluRes (op : Alu) (w32 : Bool) (a b : Word) : Word :=
  if w32 then sx 32 (aluVal op 32 a.toNat b.toNat) else BitVec.ofNat 64 (aluVal op 64 a.toNat b.toNat)

/-- Leading zeros of a w-bit number. -/
def clzN (w v : Nat) : Nat := if v = 0 then w else w - 1 - Nat.log2 v
/-- Trailing zeros of a w-bit number. -/
def ctzN (w v : Nat) : Nat := ((List.range w).find? fun i => v.testBit i).getD w
/-- Bits set of a w-bit number. -/
def popN (w v : Nat) : Nat := ((List.range w).filter fun i => v.testBit i).length

/-- Result of an operation of one operand (R101). -/
def unaRes (op : Una) (a : Word) : Word :=
  let v := a.toNat
  let l := v % 2 ^ 32
  match op with
  | .clz => BitVec.ofNat 64 (clzN 64 v)
  | .ctz => BitVec.ofNat 64 (ctzN 64 v)
  | .cpop => BitVec.ofNat 64 (popN 64 v)
  | .clzw => BitVec.ofNat 64 (clzN 32 l)
  | .ctzw => BitVec.ofNat 64 (ctzN 32 l)
  | .cpopw => BitVec.ofNat 64 (popN 32 l)
  | .sextB => sx 8 v
  | .sextH => sx 16 v
  | .zextH => BitVec.ofNat 64 (v % 2 ^ 16)
  | .orcB => BitVec.ofNat 64 (numOf ((bytesOf v 8).map fun b => if b = 0 then 0 else 0xFF))
  | .rev8 => BitVec.ofNat 64 (numOf (bytesOf v 8).reverse)

/-- A value of x_k as an effect (R206). -/
def setX (rd : Nat) (v : Word) : List (Nat × Nat × Nat) := [(16 * rd, 64, v.toNat)]

/-- A standard instruction that computes rd from registers: sources read, and the value (R74, R206). -/
def calcOp (len rd : Nat) (srcs : List Nat) (g : Thread → Word) : Op :=
  { uses := { reads := srcs.map spanX, writes := [spanX rd] }
    run := fun c ts => ts.foldl (fun c t => c.onThread t.id fun u => u.apply (c.bars u)
      { sets := setX rd (g t), poison := t.poisoned (c.bars t) (srcs.map spanX) }) c
    len := len }

/-- A jump to a target that links to rd (R74: a poisoned target traps). -/
def jumpOp (len rd : Nat) (srcs : List Nat) (target : Thread → Word) : Op :=
  { uses := { strict := srcs.map spanX, writes := [spanX rd] }
    run := fun c ts => ts.foldl (fun c t => c.onThread t.id fun u =>
      { (u.apply (c.bars u) { sets := setX rd (t.pc + BitVec.ofNat 64 len) }) with
        pc := target t, instret := u.instret + 1, arrived := none }) c
    len := len, advance := false }

/-- Condition of a branch. -/
def branchTaken (cond : Nat) (a b : Word) : Bool :=
  match cond with
  | 0 => a == b
  | 1 => a != b
  | 4 => a.slt b
  | 5 => !a.slt b
  | 6 => a.ult b
  | _ => !a.ult b

/-- A branch (R74: a poisoned operand traps). -/
def branchOp (len cond rs1 rs2 : Nat) (off : Word) : Op :=
  { uses := { strict := [spanX rs1, spanX rs2] }
    run := fun c ts => ts.foldl (fun c t =>
      let d := if branchTaken cond (readX t.regs rs1) (readX t.regs rs2) then off else BitVec.ofNat 64 len
      c.onThread t.id fun u => { u with pc := t.pc + d, instret := u.instret + 1, arrived := none }) c
    len := len, advance := false }

/-- Address of a standard access. -/
def stdAddr (rs1 : Nat) (off : Word) (t : Thread) : Nat := (readX t.regs rs1 + off).toNat

/-- Value of a loaded field in a register. -/
def loadVal (n : Nat) (signed : Bool) (v : Nat) : Word := if signed then sx (8 * n) v else BitVec.ofNat 64 v

/-- A standard load: relaxed, space 0 (R128). -/
def stdLoadOp (len n : Nat) (signed : Bool) (rd rs1 : Nat) (off : Word) (io : Device) : Op :=
  { uses := { strict := [spanX rs1], writes := [spanX rd] }
    check := fun c _ _ t => c.loadStop t 0 (stdAddr rs1 off t) n
    run := memRun false fun c t =>
      let r := c.deviceLoad io t 0 (stdAddr rs1 off t) n 0 0
      ({ sets := setX rd (loadVal n signed r.1), poison := r.2.1 }, r.2.2)
    len := len }

/-- A standard store: relaxed, space 0 (R128). -/
def stdStoreOp (len n rs1 rs2 : Nat) (off : Word) : Op :=
  { uses := { strict := [spanX rs1, spanX rs2] }
    check := fun c _ _ t => c.accessStop t 0 (stdAddr rs1 off t) n .store
    run := memRun false fun c t => ({}, c.orderedStore t 0 (stdAddr rs1 off t) n 0 0 (readX t.regs rs2).toNat)
    len := len }

/-- The operation of an A-extension atomic as an atomic of R70. -/
def Amo.op : Amo → AtomicOp
  | .add => .add | .swap => .xchg | .xor => .xor | .or => .or | .and => .and
  | .min => .min | .max => .max | .minu => .minu | .maxu => .maxu

/-- An A-extension atomic, in pod scope: in the cache of a latency core, at the home otherwise (R71, R128). -/
def amoOp (op : Amo) (n rd rs1 rs2 : Nat) (aq rl : Bool) : Op :=
  { uses := { strict := [spanX rs1, spanX rs2], writes := [spanX rd] }
    check := fun c _ _ t => (c.atomicStop t true 0 (stdAddr rs1 0 t) n 0).or (c.orderStop t 0 (stdAddr rs1 0 t) n aq rl 5)
    run := memRun false fun c t =>
      let b := (readX t.regs rs2).toNat % 2 ^ (8 * n)
      let r := c.atomic t true true 0 (stdAddr rs1 0 t) n aq rl 5 (fun old => atomicNew op.op (8 * n) old b 0)
      ({ sets := setX rd (loadVal n true r.1), poison := r.2.1 }, r.2.2)
    len := 4 }

/-- The granule of a reservation: that of the location; a stack window's own where no translation is held (R71, R216). -/
def Chip.granuleAt (c : Chip) (t : Thread) (va : Nat) : Nat :=
  match c.xlate t va .load with
  | some p => (match c.targetOf t p.pa with | .main l => l / 64 | .onDie l => l / 64 | _ => 2 ^ 64 + va / 64)
  | none => 2 ^ 64 + va / 64

/-- What stops an LR: alignment, then a load's checks, and I/O (R60, R71, R27). -/
def Chip.lrStop (c : Chip) (t : Thread) (va n : Nat) : Option Stop :=
  if va % n ≠ 0 then some (.trap 6 va)
  else match c.loadStop t 0 va n with
    | some s => some s
    | none => match c.locate t 0 va va .load with
      | .inr (.phys p) => if c.targetOf t p.pa = .io then some (.access va .load) else none
      | _ => none

/-- A latency core executes LR in its own cache once it has the line in M (R71). -/
def Chip.lrTake (c : Chip) (t : Thread) (va : Nat) : Chip :=
  if !t.onHart then c
  else match c.locate t 0 va va .load with
    | .inr (.phys p) => match p.pbmt, c.targetOf t p.pa with
      | 0, .main l => (c.recallLine (l / 64)).dirWrite t.agent (l / 64)
      | _, _ => c
    | _ => c

/-- LR (R71): it reads as a load does, so a compute core may serve it from its own copy under lease (notes/assumptions/126). -/
def lrOp (n rd rs1 : Nat) (aq rl : Bool) : Op :=
  { uses := { strict := [spanX rs1], writes := [spanX rd] }
    check := fun c _ _ t => (c.lrStop t (stdAddr rs1 0 t) n).or (c.orderStop t 0 (stdAddr rs1 0 t) n aq rl 5)
    run := memRun false fun c t =>
      let va := stdAddr rs1 0 t
      let c := (if rl then c.release t.id 5 else c).lrTake t va
      let r := c.orderedLoad t 0 va n (if aq then 1 else 0) 5
      let c := r.2.2.dropResv t.id
      let c := { c with mem := { c.mem with resv := c.mem.resv ++ [⟨t.id, c.granuleAt t va, c.tick⟩] } }
      ({ sets := setX rd (loadVal n true r.1), poison := r.2.1 }, c)
    len := 4 }

/-- SC: it stores and gives 0 while the reservation holds, else gives 1 (R71); the reservation is gone after it. -/
def scOp (n rd rs1 rs2 : Nat) (aq rl : Bool) : Op :=
  { uses := { strict := [spanX rs1, spanX rs2], writes := [spanX rd] }
    check := fun c _ _ t => (c.atomicStop t true 0 (stdAddr rs1 0 t) n 0).or (c.orderStop t 0 (stdAddr rs1 0 t) n aq rl 5)
    run := memRun false fun c t =>
      let va := stdAddr rs1 0 t
      let held := c.mem.resv.any fun r => r.thread = t.id && r.granule = c.granuleAt t va && decide (c.tick < r.since + 1024)
      let c' := c.dropResv t.id
      if !held then ({ sets := setX rd 1 }, c')
      else
        let r := c'.atomic t true true 0 va n aq rl 5 (fun _ => (readX t.regs rs2).toNat % 2 ^ (8 * n))
        ({ sets := setX rd (if r.2.1 then 1 else 0), poison := r.2.1 }, r.2.2)
    len := 4 }

/-- fence: before- and after-mask T, pod scope, and its wait (R128). -/
def fenceOp : Op :=
  { check := fun c _ _ t => c.releaseStop t 5 false
    run := fun c ts => ts.foldl (fun c t => (c.fenceRelease t 1 1 5).fenceAcquire t (fenceEnds 1 1 5) (fenceForgets 1 5)) c
    len := 4 }

/-- fence.i: the core's earlier stores precede its later fetches (R128). -/
def fenceIOp : Op :=
  { check := fun c _ _ t => c.releaseStop t 5 false
    run := fun c ts => ts.foldl (fun c t =>
      if !t.onCompute then c
      else
        let c := (c.windowWrite t.id false).writeBackAll t.core
        { c with mem := { c.mem with icache := c.mem.icache.filter fun l => l.core ≠ t.core } }) c
    len := 4 }

/-- ebreak: cause 3 with the PC (R218). -/
def ebreakOp (len : Nat) : Op :=
  { check := fun _ _ _ t => some (.trap 3 t.pc.toNat), run := fun c _ => c, len := len }

/-- CSRs that every core has: fcsr and its parts, the counters, and 0x800-0x80F (R274). -/
def userCsr (csr : Nat) : Bool :=
  (1 ≤ csr && csr ≤ 3) || (0xC00 ≤ csr && csr ≤ 0xC02) || (0x800 ≤ csr && csr ≤ 0x80F)

/-- The latency core of a thread. -/
def Chip.hartOf (c : Chip) (t : Thread) : Option Hart :=
  match t.place with
  | .hart l k => c.hart? l k
  | _ => none

/-- Whether mcountinhibit stops a counter of a latency core: 0 cycles, 2 retired instructions (R101). -/
def Hart.stops (h : Hart) (i : Nat) : Bool := (assocGet h.events 0x320 (0 : Word)).getLsbD i

/-- What a latency core's counter adds to a running count: mcycle's or minstret's own value stands while it is stopped (R101). -/
def Hart.count (h : Hart) (i : Nat) (running : Nat) : Word :=
  let base := if i = 0 then h.cycleBase else h.instretBase
  if h.stops i then base else BitVec.ofNat 64 running + base

/-- A counter of a latency core takes a value (R101). -/
def Hart.setCount (h : Hart) (i : Nat) (running : Nat) (v : Word) : Hart :=
  let base := if h.stops i then v else v - BitVec.ofNat 64 running
  if i = 0 then { h with cycleBase := base } else { h with instretBase := base }

/-- The cycles and retired instructions that a thread reads (R101). -/
def Chip.counts (c : Chip) (t : Thread) (i : Nat) : Word :=
  let running := if i = 0 then c.cycle else t.instret
  match c.hartOf t with
  | some h => h.count i running
  | none => BitVec.ofNat 64 running

/-- Value of a user CSR (R101, R102, R274). -/
def readUserCsr (c : Chip) (t : Thread) (csr : Nat) : Word :=
  match csr with
  | 1 => (t.fcsr &&& 0x1F).setWidth 64
  | 2 => (t.fcsr >>> 5).setWidth 64
  | 3 => t.fcsr.setWidth 64
  | 0xC00 => c.counts t 0
  | 0xC01 => BitVec.ofNat 64 c.tick
  | 0xC02 => c.counts t 2
  | _ => readX8 c t csr

/-- Write a user CSR (R274, R368). -/
def Thread.writeUserCsr (t : Thread) (csr : Nat) (v : Word) : Thread :=
  match csr with
  | 1 => { t with fcsr := (t.fcsr &&& 0xE0) ||| (v.setWidth 8 &&& 0x1F) }
  | 2 => { t with fcsr := (t.fcsr &&& 0x1F) ||| (v.setWidth 8 <<< 5) }
  | 3 => { t with fcsr := v.setWidth 8 }
  | _ => t.writeX8 csr v

/-- Whether a CSR cannot be written (R274, R368). -/
def userCsrRo (csr : Nat) : Bool := 0xC00 ≤ csr || (0x800 ≤ csr && roX8 csr)

/-- Bits of mstatus that sstatus shows: SIE, SPIE, SPP, SUM, MXR (notes/assumptions/8). -/
def sstatusMask : Word := 0xC0122

/-- Bits of mstatus that it holds: SIE, MIE, SPIE, MPIE, SPP, MPP, MPRV, SUM, MXR, TVM, TW, TSR, GVA, MPV (notes/assumptions/8). -/
def mstatusMask : Word := 0xC0_007E_19AA

/-- What the XL fields read: 64 bits in U mode, and of mstatus in S mode too (notes/assumptions/8). -/
def uxl : Word := 0x2_0000_0000
def sxl : Word := 0x8_0000_0000

/-- Bits of hstatus that it holds: GVA, SPV, SPVP, HU, VTVM, VTW, VTSR (notes/assumptions/8). -/
def hstatusMask : Word := 0x70_03C0

/-- Causes that hedeleg cannot delegate: environment calls from HS, VS and M mode, and the guest's causes (notes/assumptions/8). -/
def hedelegMask : Word := ~~~0xF0_0E00

/-- Interrupts of VS mode (notes/assumptions/8). -/
def vsBits : Word := 0x444

/-- Bits by a mask from a new value, the rest from the old. -/
def maskIn (m old new : Word) : Word := (old &&& ~~~m) ||| (new &&& m)

/-- The CSR that a supervisor's name means in VS mode (R101; notes/assumptions/8). -/
def vsName (csr : Nat) : Nat :=
  if [0x100, 0x104, 0x105, 0x140, 0x141, 0x142, 0x143, 0x144, 0x180].contains csr then csr + 0x100 else csr

/-- Whether a CSR selects an event or stops a counter (R101). -/
def eventCsr (csr : Nat) : Bool := csr = 0x320 || (decide (0x323 ≤ csr) && decide (csr ≤ 0x33F))

/-- Value of a privileged CSR of a latency core, none where the model has no such CSR (R79, R101, R111; notes/assumptions/8). -/
def Hart.read (h : Hart) (csr : Nat) : Option Word :=
  match csr with
  | 0x5C0 => some h.stthr
  | 0x100 => some ((h.mstatus &&& sstatusMask) ||| uxl)
  | 0x104 => some h.sie
  | 0x105 => some h.stvec
  | 0x106 => some h.scounteren
  | 0x10A => some 0
  | 0x140 => some h.sscratch
  | 0x141 => some h.sepc
  | 0x142 => some h.scause
  | 0x143 => some h.stval
  | 0x144 => some h.sip
  | 0x180 => some h.satp
  | 0x200 => some (h.vsstatus ||| uxl)
  | 0x204 => some ((h.hie &&& h.hideleg &&& vsBits) >>> 1)
  | 0x205 => some h.vstvec
  | 0x240 => some h.vsscratch
  | 0x241 => some h.vsepc
  | 0x242 => some h.vscause
  | 0x243 => some h.vstval
  | 0x244 => some ((h.hvip &&& h.hideleg &&& vsBits) >>> 1)
  | 0x280 => some h.vsatp
  | 0x600 => some (h.hstatus ||| (2 <<< 32))
  | 0x602 => some h.hedeleg
  | 0x603 => some h.hideleg
  | 0x604 => some h.hie
  | 0x605 => some h.htimedelta
  | 0x606 => some h.hcounteren
  | 0x607 => some h.hgeie
  | 0x60A => some h.henvcfg
  | 0x643 => some h.htval
  | 0x644 => some h.hvip
  | 0x645 => some h.hvip
  | 0x64A => some h.htinst
  | 0x680 => some h.hgatp
  | 0xE12 => some 0
  | 0x300 => some (h.mstatus ||| uxl ||| sxl)
  -- misa: RV64 with A, C, H, I, M, S, U and X
  | 0x301 => some 0x8000_0000_0094_1185
  | 0x302 => some h.medeleg
  | 0x303 => some h.mideleg
  | 0x304 => some (h.mie ||| h.sie ||| h.hie)
  | 0x305 => some h.mtvec
  | 0x306 => some h.mcounteren
  | 0x30A => some h.menvcfg
  | 0x340 => some h.mscratch
  | 0x341 => some h.mepc
  | 0x342 => some h.mcause
  | 0x343 => some h.mtval
  | 0x344 => some (h.mip ||| h.sip ||| h.hvip)
  | 0x34A => some h.mtinst
  | 0x34B => some h.mtval2
  -- their values come from the running counts
  | 0xB00 => some h.cycleBase
  | 0xB02 => some h.instretBase
  | 0xF11 => some 0
  | 0xF12 => some 0
  | 0xF13 => some 0
  | 0xF14 => some (BitVec.ofNat 64 (48 * h.ldie + h.core))
  | 0xF15 => some 0
  | _ => if eventCsr csr then some (assocGet h.events csr 0) else none

/-- Write a privileged CSR of a latency core; stthr is 64-byte aligned (R79, R101, R111; notes/assumptions/8). -/
def Hart.write (h : Hart) (csr : Nat) (v : Word) : Hart :=
  match csr with
  | 0x5C0 => { h with stthr := v &&& ~~~63 }
  | 0x100 => { h with mstatus := maskIn sstatusMask h.mstatus v }
  | 0x104 => { h with sie := v }
  | 0x105 => { h with stvec := v }
  | 0x106 => { h with scounteren := v }
  | 0x140 => { h with sscratch := v }
  | 0x141 => { h with sepc := v &&& ~~~1 }
  | 0x142 => { h with scause := v }
  | 0x143 => { h with stval := v }
  | 0x144 => { h with sip := v }
  | 0x180 => { h with satp := v }
  | 0x200 => { h with vsstatus := maskIn sstatusMask h.vsstatus v }
  | 0x204 => { h with hie := maskIn (h.hideleg &&& vsBits) h.hie (v <<< 1) }
  | 0x205 => { h with vstvec := v }
  | 0x240 => { h with vsscratch := v }
  | 0x241 => { h with vsepc := v &&& ~~~1 }
  | 0x242 => { h with vscause := v }
  | 0x243 => { h with vstval := v }
  -- software sets its own software interrupt only
  | 0x244 => { h with hvip := maskIn (h.hideleg &&& 4) h.hvip (v <<< 1) }
  | 0x280 => { h with vsatp := v }
  | 0x600 => { h with hstatus := maskIn hstatusMask h.hstatus v }
  | 0x602 => { h with hedeleg := v &&& hedelegMask }
  | 0x603 => { h with hideleg := v &&& vsBits }
  | 0x604 => { h with hie := v &&& vsBits }
  | 0x605 => { h with htimedelta := v }
  | 0x606 => { h with hcounteren := v }
  | 0x607 => { h with hgeie := v &&& ~~~1 }
  | 0x60A => { h with henvcfg := v }
  | 0x643 => { h with htval := v }
  | 0x644 => { h with hvip := maskIn 4 h.hvip v }
  | 0x645 => { h with hvip := v &&& vsBits }
  | 0x64A => { h with htinst := v }
  | 0x680 => { h with hgatp := v }
  | 0x300 => { h with mstatus := maskIn mstatusMask h.mstatus v }
  | 0x302 => { h with medeleg := v &&& ~~~0x800 }
  | 0x303 => { h with mideleg := v }
  | 0x304 => { h with mie := v &&& 0x888, sie := v &&& ~~~(0x888 ||| vsBits), hie := v &&& vsBits }
  | 0x305 => { h with mtvec := v }
  | 0x306 => { h with mcounteren := v }
  | 0x30A => { h with menvcfg := v }
  | 0x340 => { h with mscratch := v }
  | 0x341 => { h with mepc := v &&& ~~~1 }
  | 0x342 => { h with mcause := v }
  | 0x343 => { h with mtval := v }
  | 0x344 => { h with mip := v &&& 0x888, sip := v &&& ~~~(0x888 ||| vsBits), hvip := v &&& vsBits }
  | 0x34A => { h with mtinst := v }
  | 0x34B => { h with mtval2 := v }
  | _ => if eventCsr csr then { h with events := assocSet h.events csr v } else h

/-- Privilege of a mode: U 0, S 1, M 3. -/
def Mode.level : Mode → Nat
  | .u => 0 | .s => 1 | .m => 3

/-- What stops a thread on a latency core that names a privileged CSR: cause 2, or 22 from a virtual mode where HS mode may name it
(R101; notes/assumptions/8). -/
def Chip.csrStop (c : Chip) (t : Thread) (csr : Nat) (writes : Bool) : Option Nat :=
  match c.hartOf t with
  | none => some 2
  | some h =>
    let virt := h.virt && decide (t.mode ≠ .m)
    let need := bits 9 8 csr
    let level := if t.mode = .m then 3 else if t.mode = .s then (if virt then 1 else 2) else 0
    if (h.read csr).isNone || (writes && bits 11 10 csr = 3) then some 2
    else if level < need then some (if virt && decide (need < 3) then 22 else 2)
    else if csr = 0x180 && virt && h.hstatus.getLsbD 20 then some 22
    else if (csr = 0x180 || csr = 0x680) && t.mode = .s && !virt && h.mstatus.getLsbD 20 then some 2
    else none

/-- What stops a thread on a latency core that reads a counter: the enables of the levels above it (R101; notes/assumptions/8). -/
def Chip.counterStop (c : Chip) (t : Thread) (csr : Nat) : Option Nat :=
  match c.hartOf t with
  | none => none
  | some h =>
    let i := csr - 0xC00
    if t.mode = .m then none
    else if !h.mcounteren.getLsbD i then some 2
    else if h.virt && !h.hcounteren.getLsbD i then some 22
    else if t.mode = .u && !h.scounteren.getLsbD i then some (if h.virt then 22 else 2)
    else none

/-- The event counters of Zihpm, which only latency cores have; machine mode's names for the counters too (R101). -/
def hpmCsr (csr : Nat) : Bool := (0xC03 ≤ csr && csr ≤ 0xC1F) || (0xB03 ≤ csr && csr ≤ 0xB1F)

/-- The CSR that a thread's name means: VS mode has its own supervisor CSRs (R101). -/
def Chip.csrName (c : Chip) (t : Thread) (csr : Nat) : Nat :=
  if t.mode = .s && ((c.hartOf t).any (·.virt)) then vsName csr else csr

/-- Value of a CSR for a thread; the spec states no event and no count of an event counter (notes/assumptions/111). A virtual mode
reads the time with htimedelta added (R101). -/
def Chip.csrRead (c : Chip) (t : Thread) (csr : Nat) : Word :=
  let delta : Word := match c.hartOf t with
    | some h => if csr = 0xC01 && h.virt && decide (t.mode ≠ .m) then h.htimedelta else 0
    | none => 0
  if userCsr csr then readUserCsr c t csr + delta
  else if hpmCsr csr then c.freeWord
  else if csr = 0xB00 || csr = 0xB02 then c.counts t (csr - 0xB00)
  else match c.hartOf t with
    | some h => (h.read (c.csrName t csr)).getD 0
    | none => 0

/-- Write a CSR for a thread. -/
def Chip.csrWrite (c : Chip) (t : Thread) (csr : Nat) (v : Word) : Chip :=
  if userCsr csr then c.onThread t.id fun u => u.writeUserCsr csr v
  else match c.hartOf t with
    | none => c
    | some h => c.setHart (
      if csr = 0xB00 then h.setCount 0 c.cycle v
      else if csr = 0xB02 then h.setCount 2 t.instret v
      else if csr = 0x320 then
        -- a counter keeps its value when it stops or goes on
        ((h.write csr v).setCount 0 c.cycle (c.counts t 0)).setCount 2 t.instret (c.counts t 2)
      else h.write (c.csrName t csr) v)

/-- New value of a CSR: 1 write, 2 set, 3 clear. -/
def csrNew (kind : Nat) (old v : Word) : Word :=
  match kind with
  | 1 => v
  | 2 => old ||| v
  | _ => old &&& ~~~v

/-- A CSR instruction (R74, R101, R105, R274, R368): a set or clear of register x0 or of immediate 0 writes nothing; a
poisoned source of a write traps; another CSR migrates from a compute core. -/
def csrOp (word : Word) (kind : Nat) (imm : Bool) (rd csr src : Nat) : Op :=
  let writes := kind = 1 || src ≠ 0
  let from_ : List Span := if imm || !writes then [] else [spanX src]
  { uses := { strict := from_, writes := [spanX rd] }
    legal := fun _ _ _ => if userCsr csr then !(writes && userCsrRo csr) else true
    check := fun c _ _ t =>
      if userCsr csr then (if 0xC00 ≤ csr then (c.counterStop t csr).map fun n => .trap n word.toNat else none)
      else if t.onCompute then some (.hold (.moving .automatic 48 word 0))
      else if 0xC03 ≤ csr && csr ≤ 0xC1F then
        (if writes then some (.trap 2 word.toNat) else (c.counterStop t csr).map fun n => .trap n word.toNat)
      else if hpmCsr csr then (if t.mode = .m then none else some (.trap 2 word.toNat))
      else (c.csrStop t csr writes).map fun n => .trap n word.toNat
    run := fun c ts => ts.foldl (fun c t =>
      let old := c.csrRead t csr
      let v : Word := if imm then BitVec.ofNat 64 src else readX t.regs src
      let c := if writes then c.csrWrite t csr (csrNew kind old v) else c
      let c := if hpmCsr csr && !userCsr csr then c.drew 8 else c
      c.onThread t.id fun u => u.apply (c.bars u) { sets := setX rd old }) c
    len := 4 }

/-- A value in x_k of a floating format: the low bits (R101: Zfinx). -/
def xFlt (t : Thread) (F : Fmt) (k : Nat) : Nat := (readX t.regs k).toNat % 2 ^ Fmt.width F

/-- A floating result in x_k: sign-extended (R101: Zfinx). -/
def fltX (F : Fmt) (v : Nat) : Word := sx (Fmt.width F) v

/-- Rounding mode of a standard instruction; none gives cause 2 (R260). -/
def stdMode (rm : Nat) (t : Thread) : Option Nat :=
  if rm ≤ 4 then some rm else if rm = 7 && t.frm ≤ 4 then some t.frm else none

/-- A floating standard instruction: sources, whether it uses a mode, and rd's value and flags (R101, R260). -/
def fstdOp (rd : Nat) (srcs : List Nat) (rm : Option Nat) (g : Nat → Thread → Word × Fl) : Op :=
  { uses := { reads := srcs.map spanX, writes := [spanX rd] }
    legal := fun _ _ t => match rm with | some m => (stdMode m t).isSome | none => true
    run := fun c ts => ts.foldl (fun c t =>
      let m := match rm with | some m => (stdMode m t).getD 0 | none => 0
      let v := g m t
      c.onThread t.id fun u => u.apply (c.bars u)
        { sets := setX rd v.1, poison := t.poisoned (c.bars t) (srcs.map spanX), ff := v.2.ff }) c
    len := 4 }

/-- Round an exact result into x_k (R261, R263); standard instructions never flush (R265). -/
def roundX (F : Fmt) (m : Nat) (v : Fv × Fl) : Word × Fl :=
  let r := roundTo F m false 1 v.1
  (fltX F r.val, r.fl.or v.2)

/-- A sign injection. -/
def signInject (F : Fmt) (a b : Nat) (k : Nat) : Nat :=
  let s := Fmt.signBit F
  let sa := decide (s ≤ a)
  let sb := decide (s ≤ b)
  let neg := if k = 0 then sb else if k = 1 then !sb else sa != sb
  a % s + (if neg then s else 0)

/-- A compare: the quiet one signals for signalling NaNs only. -/
def fltCmp (quiet : Bool) (cond : Fv → Fv → Bool) (a b : Fv) : Word × Fl :=
  let nan := a.isNan || b.isNan
  let fl := if quiet then (snanFlag a).or (snanFlag b) else Fl.when nan flNV
  (if !nan && cond a b then 1 else 0, fl)

/-- Value and flags of an operation of two operands (R101). -/
def fopVal (op : Fop) (F : Fmt) (m : Nat) (pa pb : Nat) : Word × Fl :=
  let a := Fmt.value F pa
  let b := Fmt.value F pb
  match op with
  | .add => roundX F m (fvAdd m a b)
  | .sub => roundX F m (fvAdd m a b.negate)
  | .mul => roundX F m (fvMul a b)
  | .div => roundX F m (fvDiv a b)
  | .min => roundX F 0 (fvMin a b)
  | .max => roundX F 0 (fvMax a b)
  | .sgnj => (fltX F (signInject F pa pb 0), {})
  | .sgnjn => (fltX F (signInject F pa pb 1), {})
  | .sgnjx => (fltX F (signInject F pa pb 2), {})
  | .le => fltCmp false (fun a b => fvLt a b || fvEq a b) a b
  | .lt => fltCmp false fvLt a b
  | .eq => fltCmp true fvEq a b

/-- Whether an operation of two operands uses a rounding mode. -/
def Fop.rounds : Fop → Bool
  | .add => true | .sub => true | .mul => true | .div => true | _ => false

/-- The cause of a privileged instruction that a mode may not execute: 2, or 22 from a virtual mode where HS mode may (R101;
notes/assumptions/8). -/
def Hart.privStop (h : Hart) (mode : Mode) (op : Priv) : Option Nat :=
  let virt := h.virt && decide (mode ≠ .m)
  -- the bit of hstatus and of mstatus that traps it
  let bit : Nat := match op with | .sret => 22 | .wfi => 21 | _ => 20
  match op with
  | .mret => if mode = .m then none else some 2
  | .hfenceVvma => if virt then some 22 else if mode = .u then some 2 else none
  | .hfenceGvma =>
    if virt then some 22 else if mode = .u then some 2
    else if mode = .s && h.mstatus.getLsbD 20 then some 2 else none
  | _ =>
    if mode = .m then none
    else if mode = .u then some (if virt then 22 else 2)
    else if h.mstatus.getLsbD bit && !virt then some 2
    else if virt && h.hstatus.getLsbD bit then some 22 else none

/-- A privileged instruction on a latency core (R101, R105, R274; notes/assumptions/8). -/
def privOp (word : Word) (op : Priv) : Op :=
  { check := fun c _ _ t =>
      if t.onCompute then some (.hold (.moving .automatic 48 word 0))
      else (((c.hartOf t).getD {}).privStop t.mode op).map fun n => .trap n word.toNat
    run := fun c ts => ts.foldl (fun c t =>
      match op with
      | .sret => c.hartSret t
      | .mret => c.hartMret t
      | .wfi => c.onThread t.id fun t => t.complete 4
      | _ =>
        -- the hart's translations go
        let c := match t.place with
          | .hart l k => { c with xl := { c.xl with tlb := c.xl.tlb.filter fun e => e.level ≠ TlbLevel.hart l k } }
          | _ => c
        c.onThread t.id fun t => t.complete 4) c
    len := 4, advance := false }

/-- The package as an access of hlv, hlvx or hsv sees it: V = 1, with the privilege of hstatus.SPVP (R101; notes/assumptions/8). -/
def Chip.asGuest (c : Chip) (t : Thread) : Chip × Thread :=
  match c.hartOf t with
  | none => (c, t)
  | some h =>
    let u : Thread := { t with mode := if h.hstatus.getLsbD 8 then .s else .u }
    ((c.setHart { h with virt := true }).setThread u, u)

/-- The thread's own mode again. -/
def Chip.asHost (c : Chip) (t : Thread) : Chip :=
  let c := match c.hartOf t with | some h => c.setHart { h with virt := false } | none => c
  c.onThread t.id fun u => { u with mode := t.mode }

/-- What a stopped guest access leaves: a walk, a wait, or a trap with a guest address (R101; notes/assumptions/8). -/
def Chip.guestStop (c : Chip) (t : Thread) (word : Word) (exec : Bool) (s : Stop) : Chip :=
  let trap (c : Chip) (cause va gpa : Nat) : Chip :=
    let cause := if exec then (match cause with | 12 => 13 | 20 => 21 | 1 => 5 | n => n) else cause
    c.hartFault t (BitVec.ofNat 64 cause) va gpa true
  match s, t.place with
  | .miss va acc, .hart l k =>
    let g := c.asGuest t
    let h := (g.1.hart? l k).getD {}
    match g.1.walk ⟨8 + l, h.walkCtx, g.2.mode, h.sum, acc, false, va, t.isMgmt⟩ (.hart l k) va with
    | (.inl e, c) => (c.install e).asHost t
    | (.inr f, c) => if f.cause = 0 then (c.asHost t).homeWait t f.gpa else trap (c.asHost t) f.cause va f.gpa
  | .access va acc, _ => trap c acc.accessFault va 0
  | .trap cause tval, _ => trap c cause tval 0
  | _, _ => c.applyStop t.id word s

/-- Who may execute hlv, hlvx and hsv: M and HS mode, and U mode with hstatus.HU (R101; notes/assumptions/8). -/
def Chip.hyperStop (c : Chip) (t : Thread) (word : Word) : Option Stop :=
  if t.onCompute then some (.hold (.moving .automatic 48 word 0))
  else match c.hartOf t with
    | none => none
    | some h =>
      if h.virt && decide (t.mode ≠ .m) then some (.trap 22 word.toNat)
      else if t.mode = .u && !h.hstatus.getLsbD 9 then some (.trap 2 word.toNat)
      else none

/-- The bytes that hlvx reads, with execute permission, page by page (R60, R101): values and whether any is poisoned. -/
def Chip.execBytes (c : Chip) (t : Thread) (off : Nat) : List Nat → List Byte × Bool × Chip
  | [] => ([], false, c)
  | a :: r => match c.locate t 0 off a .fetch with
    | .inl _ => ([], false, c)
    | .inr l =>
      let x := c.readByte t l
      let y := x.2.2.execBytes t off r
      (x.1 :: y.1, x.2.1 || y.2.1, y.2.2)

/-- hlv and hlvx (R60, R74, R101). -/
def hlvOp (word : Word) (n : Nat) (signed exec : Bool) (rd rs1 : Nat) (io : Device) : Op :=
  { uses := { strict := [spanX rs1], writes := [spanX rd] }
    check := fun c _ _ t => c.hyperStop t word
    run := fun c ts => ts.foldl (fun c t =>
      let va := (readX t.regs rs1).toNat
      let g := c.asGuest t
      let give (v : Nat) (c : Chip) : Chip := (c.asHost t).onThread t.id fun u =>
        { (u.apply (c.bars u) { sets := setX rd (loadVal n signed v) }).complete 4 with arrived := none }
      if exec then
        match g.1.accessStop g.2 0 va n .fetch with
        | some s => c.guestStop t word true s
        | none =>
          let r := g.1.execBytes g.2 va (accessAddrs 0 va n)
          if r.2.1 then c.guestStop t word true (.trap 28 va) else give (numOf r.1) r.2.2
      else match g.1.loadStop g.2 0 va n with
        | some s => c.guestStop t word false s
        | none => let r := g.1.deviceLoad io g.2 0 va n 0 0; give r.1 r.2.2) c
    len := 4, advance := false }

/-- hsv (R101). -/
def hsvOp (word : Word) (n rs1 rs2 : Nat) : Op :=
  { uses := { strict := [spanX rs1, spanX rs2] }
    check := fun c _ _ t => c.hyperStop t word
    run := fun c ts => ts.foldl (fun c t =>
      let va := (readX t.regs rs1).toNat
      let g := c.asGuest t
      match g.1.accessStop g.2 0 va n .store with
      | some s => c.guestStop t word false s
      | none => ((g.1.orderedStore g.2 0 va n 0 0 (readX t.regs rs2).toNat).asHost t).onThread t.id fun u => { u.complete 4 with arrived := none }) c
    len := 4, advance := false }

/-- An encoding that migrates from a compute core and that the model gives no meaning on a latency core (R105). -/
def systemOp (word : Word) (len : Nat) : Op :=
  { check := fun _ _ _ t =>
      if t.onCompute then some (.hold (.moving .automatic 48 word 0)) else some (.trap 2 word.toNat)
    run := fun c _ => c, len := len }

/-- An illegal encoding: cause 2 with the word (R274, R284). -/
def illegalOp (len : Nat) : Op := { legal := fun _ _ _ => false, run := fun c _ => c, len := len }

/-- An unassigned encoding: cause 50 with the word (R284). -/
def unassignedOp (word : Word) (len : Nat) : Op :=
  { check := fun _ _ _ _ => some (.trap 50 word.toNat), run := fun c _ => c, len := len }

/-- The operation of a standard instruction of a length; loads may reach I/O (R57, R101). -/
def stdOp (word : Word) (len : Nat) (i : Std) (io : Device) : Op :=
  match i with
  | .lui rd imm => calcOp len rd [] fun _ => imm
  | .auipc rd imm => calcOp len rd [] fun t => t.pc + imm
  | .alu op w rd rs1 rs2 => calcOp len rd [rs1, rs2] fun t => aluRes op w (readX t.regs rs1) (readX t.regs rs2)
  | .aluI op w rd rs1 imm => calcOp len rd [rs1] fun t => aluRes op w (readX t.regs rs1) imm
  | .una op rd rs1 => calcOp len rd [rs1] fun t => unaRes op (readX t.regs rs1)
  | .jal rd off => jumpOp len rd [] fun t => t.pc + off
  | .jalr rd rs1 off => jumpOp len rd [rs1] fun t => (readX t.regs rs1 + off) &&& ~~~1
  | .branch cond rs1 rs2 off => branchOp len cond rs1 rs2 off
  | .load n sg rd rs1 off => stdLoadOp len n sg rd rs1 off io
  | .store n rs1 rs2 off => stdStoreOp len n rs1 rs2 off
  | .lr n rd rs1 aq rl => lrOp n rd rs1 aq rl
  | .sc n rd rs1 rs2 aq rl => scOp n rd rs1 rs2 aq rl
  | .amo op n rd rs1 rs2 aq rl => amoOp op n rd rs1 rs2 aq rl
  | .fence => fenceOp
  | .fenceI => fenceIOp
  | .ebreak => ebreakOp len
  | .csr kind imm rd csr src => csrOp word kind imm rd csr src
  | .fop op F rd rs1 rs2 rm =>
    fstdOp rd [rs1, rs2] (if op.rounds then some rm else none) fun m t => fopVal op F m (xFlt t F rs1) (xFlt t F rs2)
  | .fma np na F rd rs1 rs2 rs3 rm =>
    fstdOp rd [rs1, rs2, rs3] (some rm) fun m t =>
      let a := Fmt.value F (xFlt t F rs1)
      let d := Fmt.value F (xFlt t F rs3)
      roundX F m (fvMad m (if np then a.negate else a) (Fmt.value F (xFlt t F rs2)) (if na then d.negate else d))
  | .fsqrt F rd rs1 rm => fstdOp rd [rs1] (some rm) fun m t => roundX F m (fvSqrt (Fmt.value F (xFlt t F rs1)))
  | .fclass F rd rs1 =>
    fstdOp rd [rs1] none fun _ t => (BitVec.ofNat 64 (fvClass F (xFlt t F rs1) (Fmt.value F (xFlt t F rs1))), {})
  | .fcvtFF D S rd rs1 rm =>
    fstdOp rd [rs1] (some rm) fun m t => let x := Fmt.value S (xFlt t S rs1); roundX D m (x, snanFlag x)
  | .fcvtFI F sg w rd rs1 rm =>
    fstdOp rd [rs1] (some rm) fun m t =>
      let r := toInteger sg w m 1 (Fmt.value F (xFlt t F rs1))
      (sx w r.val, r.fl)
  | .fcvtIF F sg w rd rs1 rm =>
    fstdOp rd [rs1] (some rm) fun m t => roundX F m (ofInteger (ival (readX t.regs rs1).toNat w sg), {})
  | .priv op => privOp word op
  | .hlv n sg ex rd rs1 => hlvOp word n sg ex rd rs1 io
  | .hsv n rs1 rs2 => hsvOp word n rs1 rs2
  | .system => systemOp word len
  | .illegal => illegalOp len

/-- Execute a standard instruction for the participants (R101). -/
def State.standard (s : State) (word : Word) (len : Nat) (i : Std) : State := s.issueOp (stdOp word len i s.ioLoad) none

end Sys2Proof.Machine
end

