-- ==== Sys2Proof/Machine/Issue.lean ====
section
/-! DEFINITION. Which threads issue: PC selection, issue ports, active and pending issue groups, the slice queues, and the
fetch of an instruction (R193-R198, R212, R286). -/
namespace Sys2Proof.Machine

/-- What a wait needs before its instruction can be tried again (R196, R366). -/
def Chip.wakes (c : Chip) (t : Thread) : Bool :=
  match t.wait with
  | .ready => true
  | .token s => !(t.tokens.getD s {}).live
  | .tile k need => match (c.blockOf t).bind fun b => b.tiles[k]? with
    | some tile => need.met tile
    | none => true
  -- a latency core whose thread has departed goes on with an interrupt (R111)
  | .idle => (c.irqOf t).isSome
  | _ => false

/-- A thread that could take part in an issue, once its instruction is fetched: resident and not waiting (R196). -/
def Chip.canIssue (c : Chip) (t : Thread) : Bool := (t.onCompute || t.onHart) && c.wakes t && !t.recalled

/-- The lowest PC of some threads. -/
def lowestPc : List Thread → Option Word
  | [] => none
  | t :: ts => match lowestPc ts with
    | none => some t.pc
    | some p => some (if t.pc.ult p then t.pc else p)

/-- The selected PC of an issue group's candidates: the oldest of those aged 64 issues, ties to the lowest PC, else the lowest
PC (R196). -/
def selectPc (cand : List Thread) : Option Word :=
  let aged := cand.filter fun t => 64 ≤ t.age
  let top := aged.foldl (fun m t => max m t.age) 0
  if aged.isEmpty then lowestPc cand else lowestPc (aged.filter fun t => t.age = top)

/-- Where an instruction byte lies, or what stops its fetch (R83, R286); poisoned bytes are not executed
(notes/assumptions/14). -/
def Chip.fetchByte (c : Chip) (t : Thread) (a : Nat) : Stop ⊕ Nat :=
  match c.xlate t a .fetch with
  | none => .inl (.miss a .fetch)
  | some p => match c.targetOf t p.pa with
    | .main l =>
      if c.lineHeldFor t.id (l / 64) true || c.recallWaits (l / 64) then .inl (.hold (.homePark (l / 64))) else if c.poisonedAt l then .inl (.access a .fetch) else .inr l
    | .onDie l => if c.cutOff (bits 55 51 p.pa) then .inl (.hold (.homePark (p.pa / 64))) else if t.mode = .u || c.poisonedAt l then .inl (.access a .fetch) else .inr l
    | _ => .inl (.access a .fetch)

/-- An instruction byte as a thread's core fetches it: through a compute core's instruction cache (R61, R89), whose copy may
be old until a fence.i or a remote fence. -/
def Chip.codeByte (c : Chip) (t : Thread) (l : Nat) : Byte :=
  if t.onHart then
    -- a latency core fetches coherently, with core-owned bytes
    match c.mem.l1.find? fun k => k.line = l / 64 && k.dirty.getLsbD (l % 64) with
    | some k => lineByte k.data (l % 64)
    | none => c.getByte l
  else match c.mem.icache.find? fun k => k.core = t.core && k.line = l / 64 with
    | some k => lineByte k.data (l % 64)
    | none => c.getByte l

/-- The bytes at some addresses, or the first stop. -/
def Chip.fetchBytes (c : Chip) (t : Thread) : List Nat → Stop ⊕ List (Nat × Byte)
  | [] => .inr []
  | a :: r =>
    match c.fetchByte t a with
    | .inl s => .inl s
    | .inr l => match c.fetchBytes t r with
      | .inl s => .inl s
      | .inr bs => .inr ((l, c.codeByte t l) :: bs)

/-- Fetch the instruction at a PC whole: its bits, its length, and the lines it came from (R273, R286). An encoding of 48 or
80 and more bits has no length of its own: its first parcel stands for it. -/
def Chip.fetch (c : Chip) (t : Thread) (pc : Word) : Stop ⊕ (Word × Nat × List Nat) :=
  let at_ (i n : Nat) : List Nat := (List.range n).map fun j => (pc.toNat + i + j) % 2 ^ 64
  match c.fetchBytes t (at_ 0 2) with
  | .inl s => .inl s
  | .inr b0 =>
    let len := parcelLength (BitVec.ofNat 16 (numOf (b0.map (·.2))))
    match c.fetchBytes t (at_ 2 (len - 2)) with
    | .inl s => .inl s
    | .inr b1 =>
      let bs := b0 ++ b1
      .inr (wordOfBytes (bs.map (·.2)), len, (bs.map fun b => b.1 / 64).eraseDups)

/-- What stops the fetch of a thread's next instruction, none where it is fetched (R286). -/
def Chip.fetchStop (c : Chip) (t : Thread) : Option Stop :=
  match c.fetch t t.pc with
  | .inl s => some s
  | .inr _ => none

/-- The candidates of an issue group in ascending bit order: ready, with their instructions fetched (R196). -/
def Chip.candidates (c : Chip) (core q ig : Nat) : List Thread :=
  (List.range 32).filterMap fun b => c.threads.find? fun t =>
    t.place = .slot core q ig b && c.canIssue t && (c.fetchStop t).isNone

/-- The threads of a quarter's active issue groups whose fetch a miss, a fault or a wait stops take it (R97, R196, R286). -/
def Chip.fetchQuarter (c : Chip) (core q : Nat) : Chip :=
  let active (t : Thread) : Bool := c.groups.any fun g => g.core = core && g.qtr = q && g.active && t.inGroup core q g.ig
  ((c.threads.filter fun t => active t && c.canIssue t).filterMap fun t => (c.fetchStop t).map fun s => (t.id, s)).foldl
    (fun c p => c.applyStop p.1 0 p.2) c

/-- The candidate at a PC whose instruction is issued: the oldest of those aged 64 issues, else the first (R196). -/
def leadOf (ts : List Thread) : Option Thread :=
  let aged := ts.filter fun t => 64 ≤ t.age
  match aged with
  | [] => ts.head?
  | a :: _ => some (aged.foldl (fun m t => if m.age < t.age then t else m) a)

/-- The participants at the selected PC: the candidates there whose instruction it is (R193, R196). In another address space the
same PC may hold another one (notes/assumptions/13). -/
def Chip.participants (c : Chip) (cand : List Thread) (pc : Word) : List Thread :=
  let ts := cand.filter fun t => t.pc = pc
  match leadOf ts with
  | none => []
  | some t0 =>
    let same (t : Thread) : Bool := match c.fetch t pc, c.fetch t0 pc with
      | .inr a, .inr b => a.1 = b.1 && a.2.1 = b.2.1
      | _, _ => false
    ts.filter fun t => (c.ctxOf t = c.ctxOf t0 && t.mode = t0.mode) || same t

/-- Lines that a fetch leaves in a compute core's instruction cache (R61). -/
def Chip.fillCode (c : Chip) (t : Thread) (ls : List Nat) : Chip :=
  if !t.onCompute then c
  else ls.foldl (fun c l =>
    if c.mem.icache.any fun k => k.core = t.core && k.line = l then c
    else
      let c := c.dirRead (agentOf t.core) l
      { c with mem := { c.mem with icache := c.mem.icache ++ [⟨t.core, l, c.lineAt l 64 0⟩] } }) c

/-- Whether a standard instruction goes to the uniform port: a branch or a jump (R194). -/
def Std.uniform : Std → Bool
  | .jal _ _ => true
  | .jalr _ _ _ => true
  | .branch _ _ _ _ => true
  | _ => false

/-- The port of an instruction (R194, R224): the uniform one takes branches, jumps, U = 1 with a group, custom-0 and custom-1
forms and safept. -/
def portOf (w : Word) : IssuePort :=
  let r := decodeWord w
  match r.2 with
  | .std v => if (decodeStd v r.1).uniform then .uniform else .perLane
  | .op i => match i.longParts with
    | some (op, f) => if (f.u && f.grouped) || op = 0xB1 then .uniform else .perLane
    | none => if r.1 = 4 && i ≠ .ecall then .uniform else .perLane
  | _ => .perLane

/-- What an issue group would issue: its PC, participants and port (R194, R196). -/
def Chip.nextIssue (c : Chip) (core q ig : Nat) : Option (Issue × IssuePort) :=
  let cand := c.candidates core q ig
  match selectPc cand with
  | none => none
  | some pc =>
    let ts := c.participants cand pc
    match ts with
    | [] => none
    | t :: _ =>
      let port := match c.fetch t pc with
        | .inr r => portOf r.1
        | .inl _ => .perLane
      some ({ parts := ts.map (·.id), pc := pc }, port)

/-- Ages after an issue of a group (R196). -/
def Chip.ageGroup (c : Chip) (core q ig : Nat) (parts : List Nat) : Chip :=
  let ids := (c.candidates core q ig).map (·.id)
  { c with threads := c.threads.map fun t =>
      if parts.contains t.id then { t with age := 0 } else if ids.contains t.id then { t with age := t.age + 1 } else t }

/-- tprio of an issue group (R194). -/
def Chip.groupPrio (c : Chip) (g : IssueGroup) : Nat :=
  (c.threads.filter fun t => t.inGroup g.core g.qtr g.ig).foldl (fun m t => max m t.tprio) 0

/-- Cycles with a ready thread for a port without an issue. -/
def IssueGroup.idle (g : IssueGroup) (p : IssuePort) : Nat := match p with | .perLane => g.idleLane | .uniform => g.idleUniform

/-- The issue group that a port takes (R194): one idle for 32 cycles, the lowest-numbered first; else the highest tprio,
round-robin. -/
def Chip.chooseGroup (c : Chip) (core q : Nat) (p : IssuePort) : Option (IssueGroup × Issue) :=
  let ready := c.groups.filterMap fun g =>
    if g.core = core && g.qtr = q && g.active then
      match c.nextIssue core q g.ig with
      | some (i, r) => if r = p then some (g, i) else none
      | none => none
    else none
  let better (a b : IssueGroup × Issue) : Bool :=
    let sa := decide (32 ≤ a.1.idle p)
    let sb := decide (32 ≤ b.1.idle p)
    if sa != sb then sa
    else if sa then a.1.ig < b.1.ig
    else if c.groupPrio a.1 ≠ c.groupPrio b.1 then c.groupPrio b.1 < c.groupPrio a.1
    else a.1.lastIssue < b.1.lastIssue
  ready.foldl (fun m g => match m with
    | none => some g
    | some b => if better g b then some g else some b) none

/-- Counters of a quarter's issue groups after a port took one, or none (R194, R198). -/
def Chip.tickGroups (c : Chip) (core q : Nat) (p : IssuePort) (taken : Option Nat) : Chip :=
  let top := c.groups.foldl (fun m g => max m g.lastIssue) 0
  let upd (g : IssueGroup) : IssueGroup :=
    if g.core ≠ core || g.qtr ≠ q then g
    else
      let ready := match c.nextIssue core q g.ig with | some (_, r) => decide (r = p) | none => false
      let count (n : Nat) : Nat := if taken = some g.ig || !ready then 0 else n + 1
      -- each cycle asks each port once, and the per-lane port counts it
      let g := if !g.active then
          (if p = .uniform then g else { g with starved := if (c.nextIssue core q g.ig).isSome then g.starved + 1 else 0 })
        else match p with
          | .perLane => { g with idleLane := count g.idleLane }
          | .uniform => { g with idleUniform := count g.idleUniform }
      if taken = some g.ig then { g with lastIssue := top + 1 } else g
  { c with groups := c.groups.map upd }

/-- Whether a wait is one that lets a stalled issue group be swapped out (R198). -/
def Wait.swappable : Wait → Bool
  | .miss => true
  | .queueFull => true
  | .queueAt _ _ => true
  | .spilledCall _ => true
  | .tableEntry => true
  | .homePark _ => true
  | .drain _ => true
  | .tile _ _ => true
  | .barrier _ _ _ => true
  | .group _ _ => true
  | .token _ => true
  | .ring _ => true
  | _ => false

/-- Whether R198 makes a swap of an active and a pending issue group. -/
def Chip.maySwap (c : Chip) (core q active pending : Nat) : Bool :=
  let mine := c.groups.filter fun g => g.core = core && g.qtr = q
  let ready (ig : Nat) : Bool := !(c.candidates core q ig).isEmpty
  match mine.find? fun g => g.ig = pending && !g.active with
  | none => false
  | some p =>
    let longest := mine.all fun g => g.active || g.starved ≤ p.starved
    match mine.find? fun g => g.ig = active with
    | none => ready pending && decide ((mine.filter (·.active)).length < 8)
    | some a =>
      let vacant := !c.threads.any fun t => t.inGroup core q active
      a.active && (vacant && ready pending ||
      ((!ready active && (c.threads.any fun t => t.inGroup core q active && t.wait.swappable) && ready pending && longest) ||
       (decide (512 ≤ p.starved) && mine.all fun g => !g.active || decide (a.lastIssue ≤ g.lastIssue))))

/-- An active issue group and a pending one change places (R198). -/
def Chip.swapGroups (c : Chip) (core quarter active pending : Nat) : Chip :=
  let top := c.groups.foldl (fun m g => max m g.lastIssue) 0
  let c := c.onIg core quarter active fun g => { g with active := false, starved := 0, idleLane := 0, idleUniform := 0 }
  c.onIg core quarter pending fun g => { g with active := true, starved := 0, lastIssue := top + 1 }

/-- ISSUE_GROUP_SWAP (R198): an active issue group and a pending one change places. -/
def execIssueGroupSwap (core quarter active pending : Nat) (s : State) : Host.Outcome State Fault Refusal :=
  if !s.chip.maySwap core quarter active pending then done s
  else done { s with chip := s.chip.swapGroups core quarter active pending }

/-- A swap that R198 makes in a quarter now: active and pending issue group. -/
def Chip.dueSwap (c : Chip) (core q : Nat) : Option (Nat × Nat) :=
  let mine := c.groups.filter fun g => g.core = core && g.qtr = q
  -- a slot that no group has is free as well
  let slots := (mine.filter (·.active)).map (·.ig) ++ [16]
  (mine.filter fun g => !g.active).findSome? fun p => (slots.find? fun a => c.maySwap core q a p.ig).map fun a => (a, p.ig)

/-- An issue of a port: fetches, the issue chosen, if there is one, and the counters of the cycle (R194, R196). -/
def State.issuePort (s : State) (core quarter : Nat) (port : IssuePort) : State :=
  let s := { s with chip := s.chip.fetchQuarter core quarter }
  match s.chip.chooseGroup core quarter port with
  | none => { s with chip := s.chip.tickGroups core quarter port none }
  | some (g, i) =>
    { s with chip := (s.chip.ageGroup core quarter g.ig i.parts).tickGroups core quarter port (some g.ig), issue := some i }

/-- ISSUE (R194, R196): the port's issue becomes the next instruction that step runs. -/
def execIssue (core quarter : Nat) (port : IssuePort) (s : State) : Host.Outcome State Fault Refusal :=
  done (s.issuePort core quarter port)

/-- SLICE_GRANT (R212): the lane's oldest request is served once enough slices are free. -/
def execSliceGrant (core quarter lane : Nat) (s : State) : Host.Outcome State Fault Refusal :=
  done { s with chip := s.chip.serveLane core quarter lane 1 }

end Sys2Proof.Machine
end

