-- ==== Sys2Proof/Machine/Place.lean ====
section
/-! DEFINITION. Placing blocks, tasks and moving threads: demands, free resources, save areas, the start state of threads, and
which waiting work a free place goes to (R107, R153-R161, R183, R185, R208, R214, R230). -/
namespace Sys2Proof.Machine

/-- What a block or a task asks of a core or twin (R154, R177). -/
structure Demand where
  nthr : Nat
  foot : Nat
  lsbytes : Nat := 0
  swbytes : Nat := 0
  spbytes : Nat := 0
  nbar : Nat := 0
  acc : Nat := 0
  wb : Nat := 0
  ntile : Nat := 0
  detecting : Bool := false
  twinRequired : Bool := false
  groupLog : Nat := 0
  handler : Bool := false
  deriving DecidableEq, Repr

/-- Issue groups of the block (R154). -/
def Demand.n (d : Demand) : Nat := (d.nthr + 31) / 32

/-- Bytes of its scratchpad allocation (R154). -/
def Demand.sp (d : Demand) : Nat := roundUp d.spbytes 64 + roundUp (8 * d.nbar) 64

/-- Slices of a lane in its protection mode (R154, R208). -/
def Demand.cap (d : Demand) : Nat := if d.detecting then 13824 else 12288

/-- Issue groups that go to a quarter of core ci, on one core or a twin (R155). -/
def Demand.groupsOn (d : Demand) (cores ci q : Nat) : List Nat :=
  (List.range d.n).filter fun i => i % 4 = q && (cores ≠ 2 || (i / 4) % 2 = ci)

/-- Threads of issue group i (R155). -/
def Demand.threadsIn (d : Demand) (i : Nat) : Nat := min 32 (d.nthr - 32 * i)

/-- Threads in a lane of a quarter of core ci (R155, R191). -/
def Demand.laneThreads (d : Demand) (cores ci q lane : Nat) : Nat :=
  (d.groupsOn cores ci q).foldl (fun n i => n + flag (lane < d.threadsIn i) + flag (lane + 16 < d.threadsIn i)) 0

/-- k(c) of R154: the threads in lane 0 of quarter 0 of the first core. -/
def Demand.k (d : Demand) (cores : Nat) : Nat := d.laneThreads cores 0 0 0

/-- fits(c) of R154, the limits of R151 apart. -/
def Demand.fits (d : Demand) (cores : Nat) : Bool :=
  decide (d.n ≤ 64 * cores) && decide (d.sp ≤ 327680 * cores) && decide (d.ntile ≤ 64) &&
  decide (d.k cores * (d.foot - 16) ≤ d.cap) && decide (d.k cores * (d.lsbytes + d.swbytes) ≤ 8192) &&
  decide (d.acc ≤ 262144) && decide (d.wb ≤ 1048576)

/-- Whether a block takes a twin (R154). -/
def Demand.twin (d : Demand) : Bool := d.twinRequired || !d.fits 1

/-- Blocks of one unit of dealing (R156). -/
def Demand.unit (d : Demand) : Nat := 2 ^ d.groupLog

/-- The demands of a grid's block (R151, R154). -/
def Descriptor.demand (d : Descriptor) : Demand :=
  { nthr := d.nthr, foot := d.foot, lsbytes := d.lsbytes, swbytes := d.swbytes, spbytes := d.spbytes, nbar := d.nbar
    acc := d.accbytes, wb := d.wbbytes, ntile := d.ntile, detecting := d.flags.testBit 0, twinRequired := d.flags.testBit 2
    groupLog := bits 4 3 d.flags, handler := d.preh ≠ 0 }

/-- The demands of a task (R177, R185). -/
def Task.demand (k : Task) : Demand := { nthr := k.nthr, foot := k.foot, swbytes := k.swbytes }

/-- The demands of a block that was placed once (R234). -/
def Block.demand (b : Block) (foot : Nat) : Demand :=
  { nthr := b.nthr, foot := foot, lsbytes := b.lsbytes, swbytes := b.swbytes, spbytes := b.spbytes, nbar := b.nbar
    acc := b.accbytes, wb := b.wbbytes, ntile := b.tiles.length, detecting := b.detecting, twinRequired := b.twin
    groupLog := b.groupLog, handler := b.preh ≠ 0 }

/-- Whether a block holds resources of cores (R228, R230). -/
def Block.resident (b : Block) : Bool := b.preempt != .saved

/-- Whether no issue group of a quarter holds a thread (R208). -/
def Chip.quarterEmpty (c : Chip) (core q : Nat) : Bool := !(c.groups.any fun g => g.core = core && g.qtr = q)

/-- Free issue groups of a quarter, lowest first (R155). -/
def Chip.freeGroups (c : Chip) (core q : Nat) : List Nat :=
  (List.range 16).filter fun ig => (c.ig? core q ig).isNone

/-- Threads of a resident block in a lane (R155). -/
def Block.laneThreads (b : Block) (core q lane : Nat) : Nat :=
  (b.igs.zip (List.range b.igs.length)).foldl (fun n p =>
    if p.1.1 = core && p.1.2.1 = q then
      let m := min 32 (b.nthr - 32 * p.2)
      n + flag (lane < m) + flag (lane + 16 < m)
    else n) 0

/-- Free lane-store bytes of a lane (R154, R214, R215). -/
def Chip.laneStoreFree (c : Chip) (core q lane : Nat) : Nat :=
  let blocks := (c.disp.blocks.filter (·.resident)).foldl (fun n b => n + b.laneThreads core q lane * (b.lsbytes + b.swbytes)) 0
  let own := (c.threads.filter fun t => t.onCompute && t.block.isNone && t.lane3 == (core, q, lane)).foldl (fun n t => n + t.win.cap) 0
  8192 - blocks - own

/-- The lowest start of size bytes below a limit that meets none of the used ranges. -/
def firstFit (used : List (Nat × Nat)) (size limit : Nat) : Option Nat :=
  let clear (o : Nat) : Bool := decide (o + size ≤ limit) && used.all fun r => decide (o + size ≤ r.1) || decide (r.2 ≤ o)
  if size = 0 then some 0
  else (0 :: used.map (·.2)).foldl (fun m o => if clear o then (match m with | none => some o | some k => some (min k o)) else m) none

/-- Where the gap ends that begins at a start: at the next used range, or the limit. -/
def gapEnd (used : List (Nat × Nat)) (o limit : Nat) : Nat :=
  used.foldl (fun m r => if o ≤ r.1 then min m r.1 else m) limit

/-- How many ranges of a size fit one after another into at most a number of gaps. -/
def gapsFit (used : List (Nat × Nat)) (size limit : Nat) : Nat → Nat
  | 0 => 0
  | gaps + 1 => match firstFit used size limit with
    | none => 0
    | some o =>
      let k := (gapEnd used o limit - o) / size
      k + gapsFit ((o, o + k * size) :: used) size limit gaps

/-- How many ranges of a size fit one after another, at most n. -/
def countFit (used : List (Nat × Nat)) (size limit n : Nat) : Nat := min n (gapsFit used size limit (used.length + 1))

/-- Blocks that hold resources of a core. -/
def Chip.residents (c : Chip) (core : Nat) : List Block :=
  c.disp.blocks.filter fun b => b.resident && b.cores.contains core

/-- Scratchpad ranges in use on a core (R58, R154). -/
def Chip.spUsed (c : Chip) (core : Nat) : List (Nat × Nat) :=
  (c.residents core).filterMap fun b =>
    let top := b.spBase + b.extent
    if b.extent = 0 then none
    else if b.core = core then some (b.spBase, min top 327680)
    else if 327680 < top then some (0, top - 327680) else none

/-- Accumulator ranges in use on a core (R154). -/
def Chip.accUsed (c : Chip) (core : Nat) : List (Nat × Nat) :=
  ((c.residents core).filter (·.accbytes ≠ 0)).map fun b => (b.accOn core, b.accOn core + b.accbytes)

/-- Weight-buffer ranges in use on a core (R154). -/
def Chip.wbUsed (c : Chip) (core : Nat) : List (Nat × Nat) :=
  ((c.residents core).filter (·.wbbytes ≠ 0)).map fun b => (b.wbOn core, b.wbOn core + b.wbbytes)

/-- Tile descriptors in use on a core (R154). -/
def Chip.tilesUsed (c : Chip) (core : Nat) : Nat :=
  (c.disp.blocks.filter fun b => b.resident && b.core = core).foldl (fun n b => n + b.tiles.length) 0

/-- Room for the block's issue groups, slices and lane-store bytes in a quarter (R154, R155, R208); the slices that a lane
must hold are given. -/
def Chip.quarterRoom (c : Chip) (d : Demand) (cores ci core q : Nat) (slices : Nat → Nat) : Bool :=
  let gs := d.groupsOn cores ci q
  gs.isEmpty ||
  ((c.quarterEmpty core q || c.quarterDetecting core q == d.detecting) &&
   decide (gs.length ≤ (c.freeGroups core q).length) &&
   (List.range 16).all fun lane =>
     decide (slices lane ≤ if c.quarterEmpty core q then d.cap else c.laneFree core q lane) &&
     decide (d.laneThreads cores ci q lane * (d.lsbytes + d.swbytes) ≤ c.laneStoreFree core q lane))

/-- Where the scratchpad part of a block starts: anywhere in the first core, or across the whole of it (R58, R154). -/
def Chip.spFit (c : Chip) (d : Demand) (cores : List Nat) : Option Nat :=
  match cores with
  | [] => none
  | k :: r =>
    if d.sp ≤ 327680 then firstFit (c.spUsed k) d.sp 327680
    else match r with
      | [] => none
      | j :: _ =>
        if firstFit (c.spUsed k) 327680 327680 = some 0 && (c.spUsed j).all fun u => decide (d.sp - 327680 ≤ u.1) then some 0 else none

/-- A place for a block: its issue groups and the starts of its regions (R154, R155). -/
structure Spot where
  igs : List (Nat × Nat × Nat)
  sp : Nat
  acc : Nat
  acc2 : Nat
  wb : Nat
  wb2 : Nat

/-- A place on a core, or on a twin, for a block whose lanes must hold some slices: by core of the twin, quarter and lane
(R154, R155). -/
def Chip.spotFor (c : Chip) (d : Demand) (slices : Nat → Nat → Nat → Nat) (cores : List Nat) : Option Spot :=
  let nc := cores.length
  let room := (cores.zip (List.range nc)).all fun p => (List.range 4).all fun q =>
    c.quarterRoom d nc p.2 p.1 q fun lane => slices p.2 q lane
  let lead := cores.headD 0
  let last := cores.getLastD lead
  if !room || decide (64 < c.tilesUsed lead + d.ntile) then none
  else
    match c.spFit d cores, firstFit (c.accUsed lead) d.acc 262144, firstFit (c.accUsed last) d.acc 262144,
      firstFit (c.wbUsed lead) d.wb 1048576, firstFit (c.wbUsed last) d.wb 1048576 with
    | some sp, some a, some a2, some w, some w2 =>
      let igs := (List.range d.n).map fun i =>
        let core := if nc = 2 && (i / 4) % 2 = 1 then last else lead
        (core, i % 4, (c.freeGroups core (i % 4)).getD (if nc = 2 then i / 8 else i / 4) 0)
      some { igs := igs, sp := sp, acc := a, acc2 := a2, wb := w, wb2 := w2 }
    | _, _, _, _, _ => none

/-- Slices of a starting block's lanes. -/
def Demand.startSlices (d : Demand) (ci q lane : Nat) : Nat := d.laneThreads (if d.twin then 2 else 1) ci q lane * (d.foot - 16)

/-- Distinct cores for some members of a cluster group, each with room for its member (R156, R233). -/
def assignCores (room : Nat → List Nat → Bool) : List Nat → List Nat → Option (List (List Nat))
  | [], _ => some []
  | j :: js, ks => ks.findSome? fun k =>
    if room j [k] then (assignCores room js (ks.filter (· ≠ k))).map ([k] :: ·) else none

/-- Cores of a die on which one unit is placed: a core, a twin, or g cores of a cluster, the lowest with room (R154-R156,
R159); a list of cores for each block of the unit. The room of a block is a function of its member number and cores. -/
def placeUnit (twin : Bool) (g die : Nat) (room : Nat → List Nat → Bool) : Option (List (List Nat)) :=
  let base := 80 * die
  if twin then
    ((List.range 39).find? fun j => room 0 [base + 2 * j, base + 2 * j + 1]).map fun j => [[base + 2 * j, base + 2 * j + 1]]
  else if g = 1 then
    ((List.range 79).find? fun k => room 0 [base + k]).map fun k => [[base + k]]
  else
    (List.range 10).findSome? fun cl =>
      assignCores room (List.range g) ((List.range 8).filterMap fun i => if 8 * cl + i < 79 then some (base + 8 * cl + i) else none)

/-- Places for a unit of blocks that start (R159). -/
def Chip.unitSpot (c : Chip) (d : Demand) (die : Nat) : Option (List (List Nat × Spot)) :=
  let spot (cores : List Nat) : Option Spot := c.spotFor d d.startSlices cores
  match placeUnit d.twin d.unit die fun _ cores => (spot cores).isSome with
  | none => none
  | some cs => some (cs.filterMap fun k => (spot k).map fun s => (k, s))

/-- Size of a save area (R230). -/
def areaSize (d : Demand) : Nat :=
  let cores := if d.twin then 2 else 1
  let sections := [64, 64 * d.n, roundUp (32 * d.ntile) 64, roundUp (8 * d.nbar) 64, 512 * d.nthr, d.lsbytes * d.nthr] ++
    (if d.handler then [] else [roundUp d.spbytes 64, cores * d.acc, cores * d.wb])
  roundUp (sections.foldl (fun n x => n + roundUp x 64) 0) 4096

/-- Bytes of the save pool that each C-die has (R236). -/
def Chip.poolShare (c : Chip) : Nat := (c.dev.svsize.toNat / 8) * 4096

/-- Start of a C-die's share of the save pool (R236). -/
def Chip.poolBase (c : Chip) (die : Nat) : Nat := c.dev.svbase.toNat + die * c.poolShare

/-- Reserve a save area in a C-die's share; none while it has no room (R230, R236). -/
def Chip.reserveArea (c : Chip) (die size : Nat) : Option Nat :=
  let base := c.poolBase die
  let used := (c.disp.blocks.filter fun b => b.core / 80 = die).map fun b => (b.saveBase - base, b.saveBase - base + b.saveSize)
  (firstFit used size c.poolShare).map (base + ·)

/-- Areas of a size that a C-die's share can still hold, at most n. -/
def Chip.areasFit (c : Chip) (die size n : Nat) : Nat :=
  let base := c.poolBase die
  let used := (c.disp.blocks.filter fun b => b.core / 80 = die).map fun b => (b.saveBase - base, b.saveBase - base + b.saveSize)
  countFit used size c.poolShare n

/-- Die-scratchpad ranges in use on a die (R159). -/
def Chip.dieSpUsed (c : Chip) (die : Nat) : List (Nat × Nat) :=
  c.disp.grids.flatMap fun g => (g.dieSp.filter fun p => p.1 = die).map fun p => (p.2, p.2 + g.desc.dsbytes)

/-- Where a grid's die-scratchpad bytes lie on a die, or would (R159). -/
def Chip.dieSpFit (c : Chip) (g : Grid) (die : Nat) : Option Nat :=
  match g.dieSp.find? fun p => p.1 = die with
  | some p => some p.2
  | none => firstFit (c.dieSpUsed die) g.desc.dsbytes (2 ^ 26)

/-- Blocks of a grid that could start at once on a core or twin, at most n (R154, R158). -/
def Chip.coreCapacity (c : Chip) (d : Demand) (cores : List Nat) (n : Nat) : Nat :=
  let nc := cores.length
  let per (have_ need : Nat) : Nat := if need = 0 then n else have_ / need
  let quarter (ci core q : Nat) : Nat :=
    let gs := (d.groupsOn nc ci q).length
    if gs = 0 then n
    else if !(c.quarterEmpty core q || c.quarterDetecting core q == d.detecting) then 0
    else (List.range 16).foldl (fun m lane =>
      let u := d.laneThreads nc ci q lane
      let sl := if c.quarterEmpty core q then d.cap else c.laneFree core q lane
      min m (min (per sl (u * (d.foot - 16))) (per (c.laneStoreFree core q lane) (u * (d.lsbytes + d.swbytes)))))
      (per (c.freeGroups core q).length gs)
  let lead := cores.headD 0
  let qs := (cores.zip (List.range nc)).foldl (fun m p => (List.range 4).foldl (fun m q => min m (quarter p.2 p.1 q)) m) n
  let own := cores.foldl (fun m k =>
    min m (min (if d.acc = 0 then n else countFit (c.accUsed k) d.acc 262144 n) (if d.wb = 0 then n else countFit (c.wbUsed k) d.wb 1048576 n))) n
  let sp := if d.sp = 0 then n else if d.sp ≤ 327680 then countFit (c.spUsed lead) d.sp 327680 n else flag (c.spFit d cores).isSome
  min (min qs own) (min sp (per (64 - c.tilesUsed lead) d.ntile))

/-- Units that a cluster can start at once: the most rounds in which g distinct cores take one block each (R156). -/
def clusterUnits (g : Nat) (per : List Nat) : Nat → Nat
  | 0 => 0
  | t + 1 => if g * (t + 1) ≤ (per.map (min · (t + 1))).foldl (· + ·) 0 then t + 1 else clusterUnits g per t

/-- Units of a grid that could start at once on a die (R158, R159, R230). -/
def Chip.dieCapacity (c : Chip) (g : Grid) (die : Nat) : Nat :=
  let d := g.desc.demand
  if c.ras.dies.getLsbD die || (c.dieSpFit g die).isNone then 0
  else
    let base := 80 * die
    let units :=
      if d.twin then (List.range 39).foldl (fun n j => n + c.coreCapacity d [base + 2 * j, base + 2 * j + 1] 128) 0
      else if d.unit = 1 then (List.range 79).foldl (fun n k => n + c.coreCapacity d [base + k] 64) 0
      else (List.range 10).foldl (fun n cl =>
        n + clusterUnits d.unit ((List.range 8).map fun i => if 8 * cl + i < 79 then c.coreCapacity d [base + 8 * cl + i] 64 else 0) 512) 0
    min units (c.areasFit die (areaSize d) (units * d.unit) / d.unit)

/-- The free capacity that this package reports (R158). -/
def Chip.capacity (c : Chip) (g : Grid) : Nat := (List.range 8).foldl (fun n d => n + c.dieCapacity g d) 0

/-- The package with no grid, task or migrated thread resident (R152). -/
def Chip.cleared (c : Chip) : Chip :=
  { c with threads := [], groups := [], disp := { c.disp with grids := [], blocks := [] } }

/-- Clear bytes of on-die memory and their poison (R157). -/
def Chip.zeroRange (c : Chip) (lo n : Nat) : Chip :=
  { c with mem := { c.mem with
      bytes := cellClear c.mem.bytes lo (lo + n), poison := c.mem.poison.filter fun g => !(decide (lo ≤ g) && decide (g < lo + n)) } }

/-- Clear a block's scratchpad, accumulator and weight-buffer allocations (R157). -/
def Chip.zeroBlock (c : Chip) (b : Block) : Chip :=
  let first := min b.extent 327680
  let c := c.zeroRange (spAddr c b 0) first
  let c := if 327680 < b.extent then c.zeroRange (spAddr c b 327680) (b.extent - 327680) else c
  b.cores.foldl (fun c k =>
    let a := k * 2 ^ 18 + b.accOn k
    let w := k * 2 ^ 20 + b.wbOn k
    let out (lo n : Nat) (l : List Nat) : List Nat := l.filter fun g => !(decide (lo ≤ g) && decide (g < lo + n))
    { c with mem := { c.mem with
        acc := cellClear c.mem.acc a (a + b.accbytes), wb := cellClear c.mem.wb w (w + b.wbbytes)
        accPoison := out a b.accbytes c.mem.accPoison, wbPoison := out w b.wbbytes c.mem.wbPoison } }) c

/-- Add an issue group: active while its quarter has fewer than eight active ones (R198). -/
def Chip.addGroup (c : Chip) (core q ig : Nat) (gm0 : BitVec 32) : Chip :=
  let active := (c.groups.filter fun g => g.core = core && g.qtr = q && g.active).length
  { c with groups := c.groups ++
      [{ core := core, qtr := q, ig := ig, gm := gm0 :: List.replicate 11 0, active := decide (active < 8) }] }

/-- GM0 of a group of m threads (R157). -/
def firstBits (m : Nat) : BitVec 32 := BitVec.ofNat 32 (2 ^ m - 1)

/-- Add a block with its issue groups (R155, R157). -/
def Chip.addBlock (c : Chip) (b : Block) : Chip :=
  let c := { c with disp := { c.disp with blocks := c.disp.blocks ++ [b], order := c.disp.order + 1 } }
  (b.igs.zip (List.range b.igs.length)).foldl (fun c p =>
    c.addGroup p.1.1 p.1.2.1 p.1.2.2 (firstBits (min 32 (b.nthr - 32 * p.2)))) c

/-- The slot of thread t of a block (R155). -/
def Block.slotOf (b : Block) (t : Nat) : Nat × Nat × Nat × Nat :=
  let i := b.igs.getD (t / 32) (b.core, 0, 0)
  (i.1, i.2.1, i.2.2, t % 32)

/-- The role of thread t (R151). -/
def roleOf (roles : List Nat) (t : Nat) : Nat :=
  ((roles.find? fun e => decide (bits 31 20 e ≤ t) && decide (t ≤ bits 19 8 e)).map fun e => e % 256).getD 0

/-- The stack pointer of a thread of a grid's block or of a task (R157, R185). -/
def startSp (stkbase : Word) (stkbytes n : Nat) : Word := if stkbytes = 0 then 0 else stkbase + BitVec.ofNat 64 (n * stkbytes)

/-- What the start state of a thread depends on (R157, R185). -/
structure StartArgs where
  ctx : Ctx
  entry : Word
  a0 : Word
  handle : Word
  foot : Nat
  roles : List Nat := []
  prio : Nat
  /-- this package, for identities as spawners (R164) -/
  pkg : Nat
  /-- sp of thread t -/
  sp : Nat → Word

/-- The identity as a spawner of a thread that starts in a package: no other thread of the pod has it (R164; notes/assumptions/10). -/
def spawnerId (pkg id : Nat) : Nat := pkg * 2 ^ 27 + id % 2 ^ 27

/-- Thread t of a starting block (R157, R185). -/
def startThreadOf (b : Block) (a : StartArgs) (id t : Nat) : Thread :=
  let sp := a.sp t
  let top := roundUp sp.toNat 64
  let p := b.slotOf t
  { id := id, place := .slot p.1 p.2.1 p.2.2.1 p.2.2.2, pc := a.entry
    regs := writeX (writeX 0 10 a.a0) 2 sp
    trng := ((BitVec.ofNat 64 (b.index * 2 ^ 12 ||| t)) ^^^ (a.handle <<< 20)) ||| 1
    tfoot := a.foot, tgrid := a.handle, tblk := b.index, ttid := t, trole := roleOf a.roles t, tprio := a.prio
    block := some b.id, ctx := a.ctx, spawner := spawnerId a.pkg id, lsbytes := b.lsbytes
    win := { lo := top, hi := top, cap := b.swbytes, top := top, fixed := true } }

/-- Start the threads of a block (R157). -/
def Chip.startThreads (c : Chip) (b : Block) (a : StartArgs) : Chip :=
  let id := c.eng.next
  { c with
    threads := c.threads ++ (List.range b.nthr).map fun t => startThreadOf b a (id + t) t
    eng := { c.eng with next := id + b.nthr } }

/-- The handle of a task of this package. -/
def Chip.taskHandle (c : Chip) (k : Task) : Word := handleOf c.pkg k.entry k.gen true

/-- Start one block of a grid on its cores, which end their leases (R146, R157); none where no save area can be reserved (R230). -/
def Chip.startBlock (c : Chip) (g : Grid) (index member : Nat) (cores : List Nat) (s : Spot) : Option Chip :=
  let d := g.desc
  let lead := cores.headD 0
  let size := areaSize d.demand
  match c.reserveArea (lead / 80) size with
  | none => none
  | some area =>
    let b : Block := {
      id := c.eng.next, owner := g.slot, job := d.job, index := index, core := lead, twin := decide (cores.length = 2), member := member
      groupLog := bits 4 3 d.flags, igs := s.igs, nthr := d.nthr, spBase := s.sp, spbytes := d.spbytes, nbar := d.nbar
      tiles := List.replicate d.ntile {}, accBase := s.acc, accBase2 := s.acc2, accbytes := d.accbytes, wbBase := s.wb
      wbBase2 := s.wb2, wbbytes := d.wbbytes, lsbytes := d.lsbytes, swbytes := d.swbytes, prio := d.prio
      detecting := d.flags.testBit 0, preh := d.preh, resh := d.resh, started := c.disp.order, saveBase := area, saveSize := size
      saveDie := lead / 80 }
    let c := { c with eng := { c.eng with next := c.eng.next + 1 } }
    let c := ((cores.foldl (fun c k => c.endLeases k) c).addBlock b).zeroBlock b
    some (c.startThreads b {
      ctx := g.ctx, entry := d.entry, a0 := d.arg, handle := c.gridHandle g, foot := d.foot, roles := d.roles, prio := d.prio, pkg := c.pkg
      sp := fun t => startSp d.stkbase d.stkbytes (d.nthr * index + t + 1) })

/-- Allocate a grid's die-scratchpad bytes on a die, zero, when its first block starts there (R157, R159). -/
def Chip.takeDieSp (c : Chip) (slot die : Nat) : Chip :=
  match c.grid? slot with
  | none => c
  | some g =>
    if g.desc.dsbytes = 0 || g.dieSp.any fun p => p.1 = die then c
    else match c.dieSpFit g die with
      | none => c
      | some o =>
        let c := c.setGrid { g with dieSp := g.dieSp ++ [(die, o)] }
        c.zeroRange (c.pkg * 2 ^ 51 + 3 * 2 ^ 48 + die * 2 ^ 26 + o) g.desc.dsbytes

/-- Start a unit of a grid on a die from a block index; none while it has no place there (R156, R159). -/
def Chip.startUnit (c : Chip) (slot die index : Nat) : Option Chip :=
  match c.grid? slot with
  | none => none
  | some g =>
    if decide (8 ≤ die) || c.ras.dies.getLsbD die || (c.dieSpFit g die).isNone then none
    else match c.unitSpot g.desc.demand die with
      | none => none
      | some spots =>
        let c := c.takeDieSp slot die
        (spots.zip (List.range spots.length)).foldl (fun (r : Option Chip) p => match r with
          | none => none
          | some c => c.startBlock g (index + p.2) p.2 p.1.1 p.1.2) (some c)

/-- Whether the grids of a spawner before this one that this package takes part in let it begin here: each has started a block, or
has no share (R164). -/
def Chip.turnOf (c : Chip) (g : Grid) : Bool :=
  c.disp.grids.all fun e => !(e.spawner = g.spawner && decide (e.seq < g.seq)) || e.begun || (e.cut && e.dieRanges.isEmpty) ||
    !(e.desc.named (c.headOf e)).contains c.pkg

/-- Whether a gang grid that has waited at this package's sluice for more than 1 ms holds a grid back (R162); places that are held already
stay held (notes/assumptions/147). -/
def Chip.sluiceBlocks (c : Chip) (g : Grid) : Bool :=
  c.disp.grids.any fun e => e.gated && !e.remote && decide (e.order < g.order) && decide (1000000 < c.tick - e.gateSince)

/-- Whether undealt blocks of a grid may still go from one place to another (R159, R160, R168). -/
def Grid.open (g : Grid) : Bool := g.cut && !g.gated && !g.soft && !g.hard

/-- Whether a grid may start undealt blocks of a die now (R159, R162, R164). -/
def Chip.mayDeal (c : Chip) (g : Grid) : Bool := g.open && c.turnOf g && !c.sluiceBlocks g

/-- The lowest range of a die, with something undealt (R159). -/
def Grid.rangeOf (g : Grid) (die : Nat) : Option Range :=
  (g.dieRanges.filter fun r => r.who = die && decide (r.lo < r.hi)).foldl (fun m r => match m with
    | none => some r
    | some k => if r.lo < k.lo then some r else some k) none

/-- Take the lowest unit of a die's ranges. -/
def Grid.dealt (g : Grid) (die : Nat) : Grid :=
  match g.rangeOf die with
  | none => g
  | some low =>
    let rs := g.dieRanges.map fun r => if r = low then { r with lo := r.lo + g.desc.demand.unit } else r
    { g with begun := true, dieRanges := rs.filter fun r => r.lo < r.hi }

/-- The largest undealt range that stealing may split: more than one unit; ties to the lower number (R160). -/
def largestRange (unit : Nat) (rs : List Range) : Option Range :=
  (rs.filter fun r => unit < r.hi - r.lo).foldl (fun m r => match m with
    | none => some r
    | some b => if b.hi - b.lo < r.hi - r.lo || (b.hi - b.lo = r.hi - r.lo && r.who < b.who) then some r else m) none

/-- Move the upper half of a range, rounded down to units, to another (R160). -/
def stealFrom (unit who : Nat) (r : Range) (rs : List Range) : List Range × Range :=
  let half := ((r.hi - r.lo) / unit / 2) * unit
  (rs.map fun k => if k = r then { k with hi := k.hi - half } else k, { who := who, lo := r.hi - half, hi := r.hi })

/-- Start the lowest undealt unit of a die's range (R159). -/
def Chip.dealOne (c : Chip) (slot die : Nat) : Option Chip :=
  match c.grid? slot with
  | none => none
  | some g => match g.rangeOf die with
    | none => none
    | some r => match c.startUnit slot die r.lo with
      | none => none
      | some c => match c.grid? slot with
        | none => none
        | some g => some (c.setGrid (g.dealt die))

end Sys2Proof.Machine
end

