-- ==== Sys2Proof/Machine/Grids.lean ====
section
/-! DEFINITION. Grids: spawn, cancellation and status, the cutting of ranges, stealing, the sluice, reports and completion
(R151-R170, R358-R360, R410). -/
namespace Sys2Proof.Machine

/-- The descriptor in 128 bytes (R151). -/
def descOf (bs : List Byte) : Descriptor :=
  let n (o k : Nat) : Nat := numOf ((bs.drop o).take k)
  let w (o : Nat) : Word := BitVec.ofNat 64 (n o 8)
  { entry := w 0, arg := w 8, cword := w 0x10, srec := w 0x18, preh := w 0x20, resh := w 0x28, stkbase := w 0x30
    stkbytes := n 0x38 4, nblk := n 0x3C 4, pkgmask := n 0x40 4, job := n 0x44 4, nthr := n 0x48 2, foot := n 0x4A 2
    lsbytes := n 0x4C 2, swbytes := n 0x4E 2, spbytes := n 0x50 4, dsbytes := n 0x54 4, accbytes := n 0x58 4
    wbbytes := n 0x5C 4, ntile := n 0x60 1, nbar := n 0x61 1, flags := n 0x62 1, cscope := n 0x63 1, policy := n 0x64 1
    prio := n 0x65 1, yield := n 0x66 2, roles := [n 0x68 4, n 0x6C 4, n 0x70 4, n 0x74 4], reserved := n 0x78 8 }

/-- A multiple of k from lo to hi. -/
def within (v k lo hi : Nat) : Bool := v % k = 0 && decide (lo ≤ v) && decide (v ≤ hi)

/-- Limits, reserved bits and alignments of a descriptor (R151, R156). -/
def Descriptor.ok (d : Descriptor) : Bool :=
  d.entry.toNat % 2 = 0 && d.cword ≠ 0 && d.cword.toNat % 8 = 0 && d.srec.toNat % 64 = 0 &&
  ((d.preh == 0) == (d.resh == 0)) && d.stkbytes % 64 = 0 && d.nblk ≠ 0 && within d.nthr 1 1 4096 && within d.foot 1 16 512 &&
  within d.lsbytes 64 0 8192 && within d.swbytes 64 0 1024 && within d.spbytes 1 0 655360 && within d.dsbytes 4096 0 (2 ^ 26) &&
  within d.accbytes 4096 0 (2 ^ 18) && within d.wbbytes 4096 0 (2 ^ 20) && within d.ntile 1 0 64 && decide (d.flags < 32) &&
  within d.cscope 1 3 5 && within d.policy 1 0 3 && within d.prio 1 0 63 && d.reserved = 0 &&
  d.nblk % 2 ^ bits 4 3 d.flags = 0

/-- Units of a grid. -/
def Descriptor.units (d : Descriptor) : Nat := d.nblk / 2 ^ bits 4 3 d.flags

/-- What an empty package could hold of a grid's units: this one's dies that are not fenced, eight dies of another (R152;
notes/assumptions/17). -/
def Chip.emptyCapacity (c : Chip) (d : Descriptor) (pkg : Nat) : Nat :=
  let e := { c.cleared with ras := if pkg = c.pkg then c.ras else {} }
  (List.range 8).foldl (fun n k => n + e.dieCapacity { desc := d } k) 0

/-- The status of a spawn that starts nothing, by the first check that fails (R152, R154, R173). -/
def Chip.spawnStatus (c : Chip) (d : Descriptor) : Option Word :=
  let q := d.demand
  if !d.ok || !c.jobOk d.job then some (-1)
  else if !q.fits 2 || (decide (1 < q.unit) && q.twin) || (q.unit = 8 && decide (2048 < d.nthr)) then some (-2)
  else if d.flags.testBit 1 && decide ((d.named c.pkg).foldl (fun n p => n + c.emptyCapacity d p) 0 < d.units) then some (-3)
  else if (if c.members = 0 then decide (1 < d.pkgmask)
           else (d.named c.pkg).any fun p => !c.members.toNat.testBit p || c.ras.lost.toNat.testBit p) then some (-4)
  else if 4096 ≤ (c.disp.grids.filter fun g => !g.remote).length then some (-5)
  else none

/-- The lowest free grid-table slot (R153; notes/assumptions/18). -/
def Chip.freeSlot (c : Chip) : Nat :=
  ((List.range 4096).find? fun s => !(c.disp.grids.any fun g => g.slot = s)).getD 0

/-- The generation after one, skipping 0 (R153). -/
def nextGen (g : Nat) : Nat := if g % 65536 = 65535 then 1 else g % 65536 + 1

/-- The 128 bytes of a descriptor (R151). -/
def Descriptor.bytes (d : Descriptor) : List Byte :=
  bytesOf d.entry.toNat 8 ++ bytesOf d.arg.toNat 8 ++ bytesOf d.cword.toNat 8 ++ bytesOf d.srec.toNat 8 ++ bytesOf d.preh.toNat 8 ++
  bytesOf d.resh.toNat 8 ++ bytesOf d.stkbase.toNat 8 ++ bytesOf d.stkbytes 4 ++ bytesOf d.nblk 4 ++ bytesOf d.pkgmask 4 ++
  bytesOf d.job 4 ++ bytesOf d.nthr 2 ++ bytesOf d.foot 2 ++ bytesOf d.lsbytes 2 ++ bytesOf d.swbytes 2 ++ bytesOf d.spbytes 4 ++
  bytesOf d.dsbytes 4 ++ bytesOf d.accbytes 4 ++ bytesOf d.wbbytes 4 ++ bytesOf d.ntile 1 ++ bytesOf d.nbar 1 ++ bytesOf d.flags 1 ++
  bytesOf d.cscope 1 ++ bytesOf d.policy 1 ++ bytesOf d.prio 1 ++ bytesOf d.yield 2 ++ (d.roles.flatMap fun r => bytesOf r 4) ++
  bytesOf d.reserved 8

/-- The 32 bytes of a context, as a record has them (R110). -/
def Ctx.bytes (x : Ctx) : List Byte := bytesOf x.satp.toNat 8 ++ bytesOf x.vsatp.toNat 8 ++ bytesOf x.hgatp.toNat 8 ++ bytesOf x.flags 8

/-- A context from its bytes. -/
def ctxOfBytes (bs : List Byte) : Ctx := recCtx (List.replicate 0x150 0 ++ bs)

/-- A thread's identity as a spawner; one that it does not have yet is given to it now (R164; notes/assumptions/10). -/
def Chip.spawnerOf (c : Chip) (t : Thread) : Nat × Chip :=
  if t.spawner ≠ 0 then (t.spawner, c) else (spawnerId c.pkg c.eng.next, { c with eng := { c.eng with next := c.eng.next + 1 } })

/-- A spawner's identity and sequence stay with the thread, and on a latency core in the record at stthr (R110, R164;
notes/assumptions/10). -/
def Chip.keepSpawner (c : Chip) (t : Thread) (who seq : Nat) : Chip :=
  let c := c.onThread t.id fun t => { t with spawner := who, spawnSeq := seq }
  match t.place with
  | .hart l k =>
    let h := (c.hart? l k).getD {}
    if h.stthr = 0 then c else c.agentStore (.ldie l) (h.stthr.toNat + 0x1A8) (bytesOf (spawnerTag { t with spawner := who, spawnSeq := seq }) 8)
  | _ => c

/-- Enter a grid, and broadcast it to the other packages that it names (R152, R153, R158, R162, R164). -/
def Chip.enterGrid (c : Chip) (t : Thread) (d : Descriptor) : Word × Chip :=
  let slot := c.freeSlot
  let gen := nextGen (assocGet c.disp.gridGens slot 0)
  let x := c.ctxOf t
  let sp := c.spawnerOf t
  let g : Grid := {
    slot := slot, gen := gen, desc := d, ctx := x, spawner := sp.1, seq := t.spawnSeq, order := c.disp.order
    gated := d.flags.testBit 1, gateSince := c.tick }
  let c := sp.2.keepSpawner t sp.1 (t.spawnSeq + 1)
  let c := { c with disp := { c.disp with
    grids := c.disp.grids ++ [g], gridGens := assocSet c.disp.gridGens slot gen, order := c.disp.order + 1 } }
  (c.gridHandle g, c.tellOthers g (.offer · d.bytes x.bytes g.spawner g.seq))

/-- The first stop of a class Q read of n 8-byte words by a thread, taken as a load of an address would take it: the descriptor's for
spawn, the faulting one for tsub (R151, R175, R358); on a latency core poison raises cause 28 (R74). -/
def Chip.recordStop (c : Chip) (t : Thread) (va n : Nat) (at_ : Option Nat) : Option Stop :=
  (List.range n).findSome? fun i =>
    let a := (va + 8 * i) % 2 ^ 64
    let v := at_.getD a
    match c.xlate t a .load with
    | none => some (.recordMiss a v)
    | some p => match c.target p.pa with
      | .main l => if t.onHart && c.poisonedAt l then some (.trap 28 v) else none
      | .onDie l => if t.mode = .u then some (.access v .load) else if t.onHart && c.poisonedAt l then some (.trap 28 v) else none
      | _ => some (.access v .load)

/-- The bytes of a class Q read of n 8-byte words by a thread (R151, R175). -/
def Chip.recordRead (c : Chip) (t : Thread) (va n : Nat) : List Byte × Chip :=
  (List.range n).foldl (fun (r : List Byte × Chip) i =>
    match r.2.xlate t ((va + 8 * i) % 2 ^ 64) .load with
    | none => r
    | some p => let x := r.2.agentLoad t.agent p.pa 8; (r.1 ++ bytesOf x.1 8, x.2.2)) ([], c)

/-- What stops a spawn or tsub at the dispatcher inbound queue: it is spilled to the ring of its job, or takes cause 31, or waits in
line; a job outside its limits gives its status (R152, R177, R188-R190). The job is the one that the record or descriptor names
(notes/assumptions/137). -/
def Chip.callStop (c : Chip) (t : Thread) (job : Nat) : Option Stop :=
  let inLine : Stop := .hold (.queueAt QueueKind.inbound.code 0)
  if t.called || !c.jobOk job then none
  else if !c.mustSpill .inbound 0 job c.inboundLength then
    (if t.block.isSome || c.firstInLine .inbound 0 (some t.id) then none else some inLine)
  else if c.spillFits job then some (.hold (.spilledCall job))
  else if t.block.isNone && job = 0 then some inLine
  else some (.trap 31 job)

/-- A spawn or tsub that waits keeps the record that it has read (R151, R175). -/
def Stop.keeping (record : List Byte) : Stop → Stop
  | .hold w => .keep w record
  | s => s

/-- The descriptor of a spawn: as read when it issued, where it has waited since (R151). -/
def Chip.descRead (c : Chip) (t : Thread) (va : Nat) : List Byte × Chip :=
  if t.record.isEmpty then c.recordRead t va 16 else (t.record, c)

/-- What stops a spawn before it acts: no Sv57 root on a latency core gives cause 2; then its descriptor, read once, the queue, and the
release (R78, R146, R151, R358, R366). -/
def Chip.spawnStop (c : Chip) (t : Thread) (word : Word) (va : Nat) : Option Stop :=
  if t.onHart && !(c.ctxOf t).sv57 then some (.trap 2 word.toNat)
  else if va % 64 ≠ 0 then c.releaseStop t 5 false
  else match (if t.record.isEmpty then c.recordStop t va 16 (some va) else none) with
    | some s => some s
    | none =>
      let bytes := (c.descRead t va).1
      ((c.callStop t (descOf bytes).job).or (c.releaseStop t 5 false)).map (Stop.keeping bytes)

/-- A thread's spawn or tsub has left the dispatcher inbound queue. -/
def Chip.callDone (c : Chip) (id : Nat) : Chip := (c.onThread id fun t => { t with called := false, record := [] }).unqueue id

/-- spawn for one thread (R146, R152, R358): a release of pod scope, then the descriptor. -/
def Chip.spawnOne (c : Chip) (t : Thread) (rd va : Nat) : Chip :=
  let c := (c.callDone t.id).release t.id 5
  if va % 64 ≠ 0 then c.giveX t rd (-1) false
  else
    let r := c.descRead t va
    let d := descOf r.1
    match r.2.spawnStatus d with
    | some v => r.2.giveX t rd v false
    | none => let e := r.2.enterGrid t d; e.2.giveX t rd e.1 false

/-- SPAWN (R151-R153, R358). -/
def execSpawn (rd rs1 : BitVec 5) (s : State) : Host.Outcome State Fault Refusal :=
  let word := match s.issue with | some i => i.word | none => 0
  s.short { uses := { strict := [spanX rs1.toNat], writes := [spanX rd.toNat] }
            check := fun c _ _ t => c.spawnStop t word (readX t.regs rs1.toNat).toNat
            run := fun c ts => ts.foldl (fun c t => match c.thread? t.id with
              | some t => c.spawnOne t rd.toNat (readX t.regs rs1.toNat).toNat
              | none => c) c }

/-- The live grid that a handle names (R153). -/
def Chip.gridByHandle (c : Chip) (h : Word) : Option Grid := c.disp.grids.find? fun g => c.gridHandle g = h

/-- The live grid of an address space that a handle names, headed by this package (R359). -/
def Chip.gridOfSpace (c : Chip) (x : Ctx) (h : Word) : Option Grid := (c.gridByHandle h).filter fun g => !g.remote && x.sameRoot g.ctx

/-- gcancel of a grid that this package heads, from an address space (R168, R359); of a complete one it has no effect. -/
def Chip.gcancelHere (c : Chip) (x : Ctx) (h how : Word) : Word × Chip :=
  match c.gridOfSpace x h with
  | none => (-1, c)
  | some g =>
    if how >>> 1 ≠ 0 then (-2, c)
    else (0, if how.getLsbD 0 then c.cancelHard g.slot else c.cancelSoft g.slot)

/-- A call about a handle of another package: it is sent there (R178, R359; notes/assumptions/51). -/
def Chip.callAway (c : Chip) (t : Thread) (h : Word) (what : PodCall) : Chip :=
  (c.drew 1).post (bits 36 32 h.toNat) (.call h.toNat what (c.ctxOf t).bytes)

/-- gcancel for one thread (R168, R359); a grid of another package is cancelled there and gives that package's answer. -/
def Chip.gcancelOne (c : Chip) (t : Thread) (h how : Word) : Word × Chip :=
  if c.elsewhere h false then (c.freeOf [-1, if how >>> 1 ≠ 0 then -2 else 0], c.callAway t h (.gcancel how))
  else c.gcancelHere (c.ctxOf t) h how

/-- GCANCEL (R168, R359). -/
def execGcancel (rd rs1 rs2 : BitVec 5) (s : State) : Host.Outcome State Fault Refusal :=
  s.short { uses := { strict := [spanX rs1.toNat], reads := [spanX rs2.toNat], writes := [spanX rd.toNat] }
            run := fun c ts => ts.foldl (fun c t =>
              let r := c.gcancelOne t (readX t.regs rs1.toNat) (readX t.regs rs2.toNat)
              r.2.giveX t rd.toNat r.1 (t.poisoned (c.bars t) [spanX rs2.toNat])) c }

/-- Maximal runs of a rising list, as first index and count (R166). -/
def runsOf : List Nat → List (Nat × Nat)
  | [] => []
  | i :: r => match runsOf r with
    | (a, n) :: k => if i + 1 = a then (i, n + 1) :: k else (i, 1) :: (a, n) :: k
    | [] => [(i, 1)]

/-- The status record of a grid, with a state (R166). -/
def Chip.statusRecord (c : Chip) (g : Grid) (state : Nat) : List Byte :=
  let runs := runsOf g.completed
  let pad (bs : List Byte) (n : Nat) : List Byte := bs ++ List.replicate (n - bs.length) 0
  bytesOf (c.gridHandle g).toNat 8 ++ bytesOf state 1 ++
  bytesOf (g.flags ||| (if 64 < runs.length then 8 else 0)).toNat 1 ++ bytesOf (min 8 g.reports.length) 1 ++
  bytesOf (min 64 runs.length) 1 ++ bytesOf 0 4 ++ bytesOf g.completed.length 4 ++ bytesOf g.cancelled.length 4 ++
  bytesOf g.neverStarted 4 ++ bytesOf g.faulted.length 4 ++
  ((List.range 64).flatMap fun k => bytesOf (min (assocGet g.causes k 0) 0xFFFF_FFFF) 4) ++
  pad ((g.reports.take 8).flatMap (·.bytes)) 256 ++ pad ((runs.take 64).flatMap fun r => bytesOf r.1 4 ++ bytesOf r.2 4) 512

/-- A dword of the live status record of a grid that this package heads, for an address space (R360). -/
def Chip.gstatHere (c : Chip) (x : Ctx) (h which : Word) : Word :=
  match c.gridOfSpace x h with
  | none => -1
  | some g => if 2 < which.toNat then -2
    else BitVec.ofNat 64 (numOf (((c.statusRecord g 0).drop (8 + 8 * which.toNat)).take 8))

/-- A dword of the live status record (R360); a grid of another package gives that package's answer. -/
def Chip.gstatOne (c : Chip) (t : Thread) (h which : Word) : Word :=
  if c.elsewhere h false then (if 2 < which.toNat then c.freeOf [-1, -2] else c.freeWord)
  else c.gstatHere (c.ctxOf t) h which

/-- GSTAT (R166, R360). -/
def execGstat (rd rs1 rs2 : BitVec 5) (s : State) : Host.Outcome State Fault Refusal :=
  s.short { uses := { strict := [spanX rs1.toNat], reads := [spanX rs2.toNat], writes := [spanX rd.toNat] }
            run := fun c ts => ts.foldl (fun c t =>
              (c.drew (if c.elsewhere (readX t.regs rs1.toNat) false then 8 else 0)).giveX t rd.toNat
                (c.gstatOne t (readX t.regs rs1.toNat) (readX t.regs rs2.toNat)) (t.poisoned (c.bars t) [spanX rs2.toNat])) c }

/-- Cut [lo, hi) in proportion to capacities, rounded down to units; the last with a capacity takes the remainder; equal
shares where all report zero (R158). -/
def cutRange (unit lo hi : Nat) (caps : List (Nat × Nat)) : List Range :=
  let sum (l : List (Nat × Nat)) : Nat := l.foldl (fun n k => n + k.2) 0
  let caps := if sum caps = 0 then caps.map fun k => (k.1, 1) else caps.filter (·.2 ≠ 0)
  let total := sum caps
  let last := (caps.getLast?.map (·.1)).getD 0
  let r := caps.foldl (fun (r : List Range × Nat) k =>
    let n := if k.1 = last then hi - r.2 else ((hi - lo) / unit * k.2 / total) * unit
    (r.1 ++ [{ who := k.1, lo := r.2, hi := r.2 + n }], r.2 + n)) ([], lo)
  r.1.filter fun r => r.lo < r.hi

/-- A package deals a range to its dies (R159); with every die fenced the package dispatcher, as number 8, holds it undealt (R158,
R170). -/
def Chip.dealDies (c : Chip) (g : Grid) (r : Range) : List Range :=
  let dies := (List.range 8).filter fun d => !c.ras.dies.getLsbD d
  if dies.isEmpty then [{ r with who := 8 }] else cutRange g.desc.demand.unit r.lo r.hi (dies.map fun d => (d, c.dieCapacity g d))

/-- A gang grid's share fills the dies in ascending order (R162; notes/assumptions/19); what finds no room stays with the package
dispatcher, as number 8. -/
def Chip.fillDies (c : Chip) (g : Grid) (r : Range) : List Range :=
  let unit := g.desc.demand.unit
  let x := (List.range 8).foldl (fun (x : List Range × Nat) d =>
    let n := min (c.dieCapacity g d * unit) (r.hi - x.2)
    (if n = 0 then x.1 else x.1 ++ [{ who := d, lo := x.2, hi := x.2 + n }], x.2 + n)) ([], r.lo)
  if x.2 < r.hi then x.1 ++ [{ who := 8, lo := x.2, hi := r.hi }] else x.1

/-- The head cuts a grid's blocks and deals the other packages their shares (R158): this package's capacity is its own, the others'
are reported. A gang grid is cut only when it fits at once, and its commit is asked for (R162). -/
def Chip.cutGrid (c : Chip) (g : Grid) (caps : List (Nat × Nat)) : Chip :=
  let named := g.desc.named c.pkg
  let all := named.map fun p => (p, if p = c.pkg then c.capacity g else assocGet caps p (assocGet g.reported p 0))
  let gang := g.desc.flags.testBit 1
  if gang && decide (all.foldl (fun n k => n + k.2) 0 < g.desc.units) then c
  else
    let rs := cutRange g.desc.demand.unit 0 g.desc.nblk all
    let mine := rs.filter fun r => r.who = c.pkg
    let others := rs.filter fun r => r.who ≠ c.pkg
    let c := c.setGrid { g with
      cut := true, pkgRanges := others, elsewhere := others, returned := [], answers := []
      dieRanges := mine.flatMap fun r => if gang then c.fillDies g r else c.dealDies g r }
    let h := (c.gridHandle g).toNat
    (c.partners g).foldl (fun c p =>
      let r := (others.find? fun r => r.who = p).getD { who := p, lo := 0, hi := 0 }
      let c := c.post p (.share h r.lo r.hi)
      if gang then c.post p (.commit h) else c) c

/-- CAPACITY_REPORT (R158): this package reports to the head of a grid of another package; its own grids are cut once every named
package has reported. -/
def execCapacityReport (slot : Nat) (capacities : List (Nat × Nat)) (s : State) : Host.Outcome State Fault Refusal :=
  let c := s.chip
  match c.grid? slot with
  | none => done s
  | some g =>
    let reported := (g.desc.named c.pkg).all fun p => p = c.pkg || (capacities ++ g.reported).any fun k => k.1 = p
    if g.cut then done s
    else if g.remote then done { s with chip := c.tellHead g (.capacity · (c.capacity g)) }
    else if reported && g.retryAt = 0 then done { s with chip := c.cutGrid g capacities }
    else done s

/-- Put a stolen range with a die's or a package's others. -/
def Chip.giveRange (c : Chip) (g : Grid) (unit die : Nat) : Option Chip :=
  (largestRange unit g.dieRanges).map fun r =>
    let x := stealFrom unit die r g.dieRanges
    c.setGrid { g with dieRanges := x.1 ++ [x.2] }

/-- The grids whose undealt blocks may start, the highest priority and then the oldest first (R161). -/
def Chip.dealable (c : Chip) : List Grid :=
  let gs := c.disp.grids.filter c.mayDeal
  let before (a b : Grid) : Bool := b.desc.prio < a.desc.prio || (a.desc.prio = b.desc.prio && a.order < b.order)
  gs.foldl (fun l g => (l.filter fun k => before k g) ++ [g] ++ l.filter fun k => !before k g) []

/-- A die whose range of a grid is exhausted and that has room takes from another die (R160). -/
def Chip.stealDie (c : Chip) (die : Nat) : Chip :=
  (c.dealable.findSome? fun g =>
    if (g.rangeOf die).isSome || c.ras.dies.getLsbD die || (c.dieSpFit g die).isNone || (c.unitSpot g.desc.demand die).isNone then none
    else c.giveRange g g.desc.demand.unit die).getD c

/-- Take n undealt indices off the top of some ranges, highest first. -/
def takeTop (rs : List Range) (n : Nat) : List Range × List Range :=
  let sorted := rs.foldl (fun l r => (l.filter fun k => r.lo < k.lo) ++ [r] ++ l.filter fun k => k.lo < r.lo) []
  let x := sorted.foldl (fun (x : List Range × List Range × Nat) r =>
    let k := min x.2.2 (r.hi - r.lo)
    (x.1 ++ [{ r with hi := r.hi - k }], if k = 0 then x.2.1 else x.2.1 ++ [{ r with lo := r.hi - k }], x.2.2 - k)) ([], [], n)
  (x.1.filter fun r => r.lo < r.hi, x.2.1)

/-- Indices in some ranges. -/
def indicesIn (rs : List Range) : Nat := rs.foldl (fun n r => n + (r.hi - r.lo)) 0

/-- What each package but one has not dealt of a grid, as the head knows it, as a range of that many indices (R160). -/
def Chip.undealtBy (c : Chip) (g : Grid) (pkg : Nat) : List Range :=
  ((c.pkg :: c.partners g).filter (· ≠ pkg)).map fun p =>
    { who := p, lo := 0, hi := indicesIn (if p = c.pkg then g.dieRanges else g.elsewhere.filter fun r => r.who = p) }

/-- The head moves to a package the upper half of the largest undealt range among the others (R160): this one's own at once, another
one's by asking it. -/
def Chip.stealFor (c : Chip) (g : Grid) (pkg : Nat) : Option Chip :=
  let unit := g.desc.demand.unit
  let h := (c.gridHandle g).toNat
  (largestRange unit (c.undealtBy g pkg)).map fun from_ =>
    let half := (from_.hi / unit / 2) * unit
    if from_.who = c.pkg then
      let x := takeTop g.dieRanges half
      let theirs := x.2.map fun r => { r with who := pkg }
      let c := c.setGrid { g with dieRanges := x.1, pkgRanges := g.pkgRanges ++ theirs, elsewhere := g.elsewhere ++ theirs }
      theirs.foldl (fun c r => c.post pkg (.share h r.lo r.hi)) c
    else
      let rest := takeTop (g.elsewhere.filter fun r => r.who = from_.who) half
      (c.setGrid { g with elsewhere := (g.elsewhere.filter fun r => r.who ≠ from_.who) ++ rest.1 }).post from_.who (.giveUp h pkg)

/-- This package, with no undealt block of a grid left, takes from the others through the head (R160). -/
def Chip.stealHere (c : Chip) : Chip :=
  (c.dealable.findSome? fun g =>
    if !g.dieRanges.isEmpty || !(g.desc.named (c.headOf g)).contains c.pkg then none
    else if g.remote then some (c.tellHead g .ask)
    else c.stealFor g c.pkg).getD c

/-- Another package asks the head, this one (R160). -/
def Chip.stealThere (c : Chip) (pkg : Nat) : Chip :=
  ((c.disp.grids.filter (·.open)).findSome? fun g =>
    if g.remote || !(g.desc.named c.pkg).contains pkg || pkg = c.pkg || g.elsewhere.any fun r => r.who = pkg then none
    else c.stealFor g pkg).getD c

/-- STEAL (R160): by die 0-7, by this package (8), or by package p of the pod (16 + p). -/
def execSteal (s : State) : Host.Outcome State Fault Refusal :=
  let n := s.subject
  done { s with chip := if n < 8 then s.chip.stealDie n else if n < 16 then s.chip.stealHere else s.chip.stealThere (n - 16) }

/-- Start every unit of some ranges, or none of them (R162). -/
def Chip.startRanges (c : Chip) (slot unit : Nat) (rs : List Range) : Option Chip :=
  rs.foldl (fun (m : Option Chip) r =>
    (List.range ((r.hi - r.lo) / unit)).foldl (fun (m : Option Chip) i => match m with
      | none => none
      | some c => c.startUnit slot r.who (r.lo + i * unit)) m) (some c)

/-- A retired block reaches the head's counts: 0 completed, 1 faulted, 2 cancelled (R165-R167). -/
def Grid.account (g : Grid) (index outcome : Nat) : Grid :=
  match outcome with
  | 0 => { g with completed := setInsert index g.completed }
  | 1 => { g with faulted := g.faulted ++ [index] }
  | _ => { g with cancelled := g.cancelled ++ [index] }

/-- Indices that another package reports: those of its ranges, in any order; 3 never started (R165, R168). -/
def Grid.retiredBy (g : Grid) (pkg lo hi outcome : Nat) : Grid :=
  let hit (r : Range) : Bool := r.who = pkg && decide (max lo r.lo < min hi r.hi)
  let is := (g.pkgRanges.filter hit).flatMap fun r => (List.range (min hi r.hi - max lo r.lo)).map (max lo r.lo + ·)
  let rest := g.pkgRanges.flatMap fun r =>
    if hit r then [{ r with hi := max lo r.lo }, { r with lo := min hi r.hi }].filter fun r => decide (r.lo < r.hi) else [r]
  let back := if outcome < 2 then [] else
    (g.pkgRanges.filter hit).map fun r => (({ who := pkg, lo := max lo r.lo, hi := min hi r.hi } : Range), outcome)
  let g := { g with pkgRanges := rest, returned := g.returned ++ back }
  if outcome = 3 then { g with neverStarted := g.neverStarted + is.length } else is.foldl (fun g i => g.account i outcome) g

/-- Whether the head of a grid is lost to this package (R35, R170). -/
def Chip.headLost (c : Chip) (g : Grid) : Bool := g.remote && c.ras.lost.getLsbD (c.headOf g)

/-- RETIREMENT_REPORT (R165): subject the grid's slot. This package's retired blocks reach its own counts, or go to the head as index
ranges, with what is left undealt here (R160); a grid whose head is lost ends without a word once its blocks are gone (R170). -/
def execRetirementReport (s : State) : Host.Outcome State Fault Refusal :=
  let c := s.chip
  match c.grid? s.subject with
  | none => done s
  | some g =>
    if !g.remote then
      done { s with chip := c.setGrid (g.unreported.foldl (fun (g : Grid) r => g.account r.1 r.2) { g with unreported := [] }) }
    else if c.headLost g then
      let left := c.disp.blocks.any fun b => !b.isTask && b.owner = g.slot
      done { s with chip := if left then c else { c with disp := { c.disp with grids := c.disp.grids.filter fun k => k.slot ≠ g.slot } } }
    else
      let runs (o : Nat) : List (Nat × Nat) :=
        runsOf ((g.unreported.filter fun r => r.2 = o).foldl (fun l r => setInsert r.1 l) [])
      let c := [0, 1, 2].foldl (fun c o => (runs o).foldl (fun c r => c.tellHead g (.retired · r.1 (r.1 + r.2) o)) c) c
      let c := c.tellHead g (.undealt · (g.dieRanges.map fun r => (r.lo, r.hi)))
      done { s with chip := c.setGrid { g with unreported := [] } }

/-- Outcome of a grid: 3 cancelled, 2 with a faulted block, else 1 (R165, R166). -/
def Grid.outcome (g : Grid) : Nat := if g.soft || g.hard then 3 else if g.faulted.isEmpty then 1 else 2

/-- The completion word (R165). -/
def Grid.word (g : Grid) : List Byte := bytesOf g.completed.length 4 ++ bytesOf (g.outcome * 2 ^ 24) 4

/-- Remove a completed grid, in every package; its die-scratchpad bytes come free (R159, R410). -/
def Chip.dropGrid (c : Chip) (slot : Nat) : Chip :=
  let c := match c.grid? slot with
    | some g => c.tellOthers g .finished
    | none => c
  { c with disp := { c.disp with grids := c.disp.grids.filter fun g => g.slot ≠ slot } }

/-- The head writes the status record, then the completion word; a write that faults parks (R165, R410). -/
def Chip.headFinish (c : Chip) (slot : Nat) : Chip :=
  match c.grid? slot with
  | none => c
  | some g =>
    let status := if g.statusDone || g.desc.srec = 0 then (none, c)
      else match c.headStore g.ctx g.desc.srec.toNat (c.statusRecord g g.outcome) with
        | (.inl _, c) => (none, c)
        | (.inr f, c) => let r := c.parkHead g.ctx f slot (.statusParked 0 0); (some r.1, r.2)
    match status with
    | (some w, c) => c.setGrid { g with write := w }
    | (none, c) =>
      match c.headStore g.ctx g.desc.cword.toNat g.word with
      | (.inl _, c) => c.dropGrid slot
      | (.inr f, c) =>
        let r := c.parkHead g.ctx f slot (.wordParked 0 0)
        r.2.setGrid { g with statusDone := true, write := r.1 }

/-- GRID_COMPLETION (R165, R410). -/
def execGridCompletion (s : State) : Host.Outcome State Fault Refusal :=
  match s.chip.grid? s.subject with
  | none => done s
  | some g => if g.complete && g.write = .none && !g.remote then done { s with chip := s.chip.headFinish s.subject } else done s

/-- End a cancelled thread where it stands after 100 µs (R168, R182). -/
def Chip.cancelTimeout (c : Chip) (id : Nat) (task : Bool) : Chip :=
  match c.thread? id with
  | none => c
  | some t =>
    match c.blockOf t with
    | none => c
    | some b => if t.cancelled && t.onCompute && b.isTask = task && 100000 ≤ c.tick - t.cancelSince then c.endThread id else c

/-- HARD_CANCEL_TIMEOUT (R168). -/
def execHardCancelTimeout (s : State) : Host.Outcome State Fault Refusal :=
  done { s with chip := s.chip.cancelTimeout s.subject false }

/-- ABORT_TIMEOUT (R182). -/
def execAbortTimeout (s : State) : Host.Outcome State Fault Refusal :=
  done { s with chip := s.chip.cancelTimeout s.subject true }

end Sys2Proof.Machine
end

