-- ==== Sys2Proof/Machine/Preempt.lean ====
section
/-! DEFINITION. Pre-emption: requests, parking, the handler, the save area, and restore (R163, R212, R224-R236). -/
namespace Sys2Proof.Machine

/-- A request reaches a block (R225): merged, held during a restore, or pending from now on. -/
def Chip.requestOne (c : Chip) (bid : Nat) : Chip :=
  match c.block? bid with
  | none => c
  | some b =>
    if b.cancelled then c
    else match b.preempt with
      | .none => c.setBlock { b with preempt := .requested c.tick }
      | .restoring _ => c.setBlock { b with heldRequest := true }
      | _ => c

/-- Whether a block belongs to a gang grid (R163). -/
def Chip.isGang (c : Chip) (b : Block) : Bool :=
  !b.isTask && (match c.grid? b.owner with | some g => g.desc.flags.testBit 1 | none => false)

/-- Every resident block of a gang grid in this package is requested (R163). -/
def Chip.requestGang (c : Chip) (slot : Nat) : Chip :=
  let c := match c.grid? slot with
    | some g => if g.remote || g.gated then c else c.setGrid { g with evicted := true }
    | none => c
  ((c.disp.blocks.filter fun k => !k.isTask && k.owner = slot && k.resident).map (·.id)).foldl (fun c k => c.requestOne k) c

/-- A request for a block; for a gang grid, one for every block of it, in every package (R163, R225). -/
def Chip.requestBlock (c : Chip) (bid : Nat) : Chip :=
  match c.block? bid with
  | none => c
  | some b =>
    if !c.isGang b then c.requestOne bid
    else
      let c := c.requestGang b.owner
      match c.grid? b.owner with
      | none => c
      | some g => if b.preempt ≠ .none then c else if g.remote then c.tellHead g .save else c.tellOthers g .save

/-- A write of a handle to PREEMPT (R225, R236): every resident block of that grid or that task. -/
def Chip.requestHandle (c : Chip) (h : Word) : Chip :=
  let grid := c.gridByHandle h
  let task := c.disp.tasks.find? fun k => c.taskHandle k = h
  let mine (b : Block) : Bool := b.resident &&
    (if b.isTask then (match task with | some k => k.entry = b.owner | none => false)
     else match grid with | some g => g.slot = b.owner | none => false)
  ((c.disp.blocks.filter mine).map (·.id)).foldl (fun c k => c.requestBlock k) c

/-- PREEMPT (R225, R236). -/
def execPreempt (handle : Word) (s : State) : Host.Outcome State Fault Refusal :=
  done { s with chip := s.chip.requestHandle handle }

/-- A thread parks where it stands: its wait is abandoned, every register live (R226, R227). -/
def Thread.parkHere (t : Thread) (flags : Nat) : Thread :=
  { t with
    wait := .safePark, live := 0xFFFF_FFFE, reqPending := false, converged := false, called := false, record := []
    parkFlags := BitVec.ofNat 8 flags }

/-- A thread that waits for the slices of its arrival takes their number with it when it leaves the lane queue (R109, R212). -/
def Thread.settleFoot (t : Thread) : Thread :=
  match t.wait with
  | .slices top => if t.arriving then { t with tfoot := max top t.tfoot, arriving := false } else t
  | _ => t

/-- The cause and tval of the fault record that holds a thread (R98, R232). -/
def Chip.recordOf (c : Chip) (u n : Nat) : Nat × Word :=
  match (c.unit u).records.find? fun r => r.number = n with
  | some r => (r.cause, r.va)
  | none => (0, 0)

/-- Park a waiting thread for a pending request, by the table of R226; a ring request is withdrawn first (R365). -/
def Chip.parkWaiting (c : Chip) (t : Thread) : Chip :=
  let park (flags : Nat) (f : Thread → Thread) : Chip := c.onThread t.id fun t => f (t.settleFoot.parkHere flags)
  match t.wait with
  | .group _ _ => park 2 id
  | .barrier _ past arrived =>
    let keep := if arrived then some past else none
    park 2 fun u => { u with arrived := keep }
  | .tile _ _ => park 2 id
  | .token _ => park 2 id
  | .slices _ => park 16 id
  | .parked u n =>
    let r := c.recordOf u n
    (c.unpark t.id).onThread t.id fun t => { t.parkHere 4 with parkCause := r.1, parkTval := r.2 }
  | .ring req => c.withdraw fun q => q.id = req
  | _ => c

/-- Threads that met a pending request in a wait, or entered one since, park at once (R226). -/
def Chip.parkEntered (c : Chip) : Chip :=
  let ts := c.threads.filter fun t => t.reqPending && t.onCompute && !t.handler
  ts.foldl (fun c t => c.parkWaiting t) c

/-- A request arrives at a block's threads: tsafe reads 1 in every resident thread that has not parked for it (R224, R226). -/
def Chip.arriveRequest (c : Chip) (bid : Nat) : Chip :=
  let mark (t : Thread) : Thread :=
    if t.ofBlock bid && t.onCompute && t.wait ≠ .safePark then { t with reqPending := true } else t
  ({ c with threads := c.threads.map mark } : Chip).parkEntered

/-- PREEMPTION_REQUEST (R226): subject the block. -/
def execPreemptionRequest (s : State) : Host.Outcome State Fault Refusal :=
  match s.chip.block? s.subject with
  | none => done s
  | some b => match b.preempt with
    | .requested _ => done { s with chip := s.chip.arriveRequest b.id }
    | _ => done s

/-- Stop a thread at its instruction boundary by the watchdog (R227); a move in flight, a service call, and a request at a home
complete first (R115, R226). -/
def Chip.watchdogStop (c : Chip) (t : Thread) : Chip :=
  let stop : Chip := ((c.unpark t.id).unqueue t.id).onThread t.id fun t => t.parkHere 32
  match t.wait with
  | .ready => stop
  | .miss => stop
  | .queueFull => stop
  | .queueAt _ _ => stop
  | .spilledCall _ => stop.unspill .inbound t.id
  | .tableEntry => stop
  | .drain _ => stop
  | _ => c

/-- PREEMPTION_WATCHDOG (R227): subject the block. -/
def execPreemptionWatchdog (s : State) : Host.Outcome State Fault Refusal :=
  let c := s.chip
  match c.block? s.subject with
  | none => done s
  | some b => match b.preempt with
    | .requested since =>
      let unparked := c.threads.filter fun t => t.ofBlock b.id && t.onCompute && t.wait ≠ .safePark
      if c.tick - since < 100000 || unparked.isEmpty then done s
      else
        let c := c.arriveRequest b.id
        let c := unparked.foldl (fun c t => match c.thread? t.id with | some t => c.watchdogStop t | none => c) c
        done { s with chip := c.setBlock { b with watchdog := true } }
    | _ => done s

/-- The physical address that is o bytes into a save area. -/
def Block.areaAt (b : Block) (o : Nat) : Nat := b.saveBase + o

/-- Offsets of the sections of a save area (R230): groups, tiles, barriers, threads, lane stores, scratchpad, accumulators,
weight buffers. -/
structure AreaMap where
  groups : Nat
  tiles : Nat
  bars : Nat
  threads : Nat
  lanes : Nat
  sp : Nat
  acc : Nat
  wb : Nat

/-- The sections of a block's save area (R230). -/
def Block.area (b : Block) : AreaMap :=
  let d := b.demand 16
  let cores := if b.twin then 2 else 1
  let tiles := 64 + 64 * d.n
  let bars := tiles + roundUp (32 * d.ntile) 64
  let threads := bars + roundUp (8 * b.nbar) 64
  let lanes := threads + 512 * b.nthr
  let sp := lanes + roundUp (b.lsbytes * b.nthr) 64
  let acc := sp + (if d.handler then 0 else roundUp b.spbytes 64)
  { groups := 64, tiles := tiles, bars := bars, threads := threads, lanes := lanes, sp := sp, acc := acc
    wb := acc + (if d.handler then 0 else cores * b.accbytes) }

/-- Where a thread stands, in the form of R98: its slot, or the one it holds. -/
def Thread.slotLocator (t : Thread) : Nat :=
  match t.held with
  | some (k, q, i, b) => locatorOf (.slot k q i b)
  | none => locatorOf t.place

/-- Locator of thread t of a block by its placement. -/
def Block.locator (b : Block) (t : Nat) : Nat :=
  let p := b.slotOf t
  locatorOf (.slot p.1 p.2.1 p.2.2.1 p.2.2.2)

/-- Per-slice poison of the stored registers of a save (R209, R232). -/
def Thread.savedPoison (t : Thread) (n : Nat) (live : BitVec 32) : BitVec 512 :=
  if t.barPoison = 0 && t.corrupt = 0 then 0
  else (List.range 512).foldl (fun (m : BitVec 512) a =>
    if decide (16 ≤ a) && decide (a < t.tfoot) && live.getLsbD (a / 16) && (t.slicePoison n a || t.corrupt.getLsbD a)
    then m ||| (1#512 <<< a) else m) 0

/-- A thread's record in a save area (R232). -/
def Chip.saveRecord (c : Chip) (b : Block) (t : Thread) : List Byte :=
  let blank (reason flags : Nat) : List Byte :=
    List.replicate 0x194 0 ++ bytesOf (reason + flags * 2 ^ 16) 8 ++ bytesOf (b.locator t.ttid) 4 ++ List.replicate 0x60 0
  match t.place with
  | .ended => blank 7 0
  | .slot _ _ _ _ =>
    let arr := match t.arrived with | some p => 64 + 128 * flag p | none => 0
    let p := t.savedPoison (c.bars t) t.live
    let mask := (List.range 32).foldl (fun m k => if (p.extractLsb' (16 * k) 16) ≠ 0 then m + 2 ^ k else m) 0
    recordBytes t {
      reason := 6, cause := t.parkCause, flags := t.parkFlags.toNat % 64 + arr, tval := t.parkTval, live := t.live.toNat
      locator := b.locator t.ttid, stored := t.live, poisonMask := mask, slices := p, ctx := t.ctx, foot := t.tfoot }
  | _ => blank 6 8

/-- Write one thread's record (R228, R232). -/
def Chip.writeRecord (c : Chip) (b : Block) (t : Thread) : Chip :=
  c.agentStore (.cdie (b.core / 80)) (b.areaAt (b.area.threads + 512 * t.ttid)) (c.saveRecord b t)

/-- Threads of a block in ttid order. -/
def Chip.threadsOf (c : Chip) (b : Block) : List Thread :=
  (List.range b.nthr).filterMap fun i => c.threads.find? fun t => t.ofBlock b.id && t.ttid = i

/-- The elected thread: the parked thread of lowest ttid (R228). -/
def Chip.elected (c : Chip) (b : Block) : Option Thread :=
  (c.threadsOf b).find? fun t => t.onCompute && t.wait = .safePark

/-- Whether every resident thread of a block is parked (R109, R228). -/
def Chip.allParked (c : Chip) (b : Block) : Bool :=
  c.threads.all fun t => !(t.ofBlock b.id && t.onCompute) || t.wait = .safePark

/-- Whether copies, matrix and ring operations of a block are performed, its tokens complete, and its lines can be written back (R76,
R228). -/
def Chip.drained (c : Chip) (b : Block) : Bool :=
  c.quiet b.id && c.homesTake b.cores &&
  c.threads.all fun t => !(t.ofBlock b.id && t.onCompute) ||
    (t.tokensDone && !(c.disp.ringReqs.any fun r => r.thread = t.id))

/-- The elected thread's slot runs a handler (R228, R234): its slices, but for a0 and a1, which are written clean, above its footprint
top too. -/
def Thread.runHandler (t : Thread) (n : Nat) (entry a0 : Word) : Thread :=
  let t := t.apply n { sets := [(160, 64, a0.toNat), (176, 64, t.tblk)] }
  { t with handler := true, wait := .ready, pc := entry, mode := .u, reqPending := false, arrived := none }

/-- The header of a save area (R231). -/
def Chip.areaHeader (c : Chip) (b : Block) (handle : Word) : List Byte :=
  -- one that a latency core runs is away once
  let away := (c.threads.filter fun t => t.ofBlock b.id && t.away).length
  let flags := flag b.twin + 2 * flag (b.preh ≠ 0) + 4 * flag b.watchdog + 8 * flag (c.isGang b) + 16 * flag b.handlerFailed +
    32 * flag b.detecting
  bytesOf handle.toNat 8 ++ bytesOf b.index 4 ++ bytesOf b.nthr 2 ++ bytesOf (b.demand 16).n 1 ++ bytesOf flags 1 ++
  bytesOf (b.core / 80) 1 ++ bytesOf b.member 1 ++ bytesOf b.groupLog 1 ++ bytesOf away 1 ++ bytesOf b.saveSize 4 ++
  bytesOf c.tick 8 ++ List.replicate 32 0

/-- The record of issue group i of a block (R231). -/
def Chip.groupRecord (c : Chip) (b : Block) (i : Nat) (p : Nat × Nat × Nat) : List Byte :=
  let gm := match c.ig? p.1 p.2.1 p.2.2 with | some g => g.gm | none => []
  let occ := (List.range 32).foldl (fun m k =>
    if c.threads.any fun t => t.ofBlock b.id && t.ttid = 32 * i + k && t.place ≠ .ended then m + 2 ^ k else m) 0
  ((List.range 12).flatMap fun k => bytesOf (gm.getD k 0).toNat 4) ++ bytesOf occ 4 ++ bytesOf i 1 ++ List.replicate 11 0

/-- Number of a tile's state in its record (R231). -/
def TileState.code : TileState → Nat
  | .empty => 0 | .filling => 1 | .ready => 2 | .draining => 0

/-- The record of a tile (R231). -/
def tileRecord (k : Tile) : List Byte :=
  let filling := k.state = .filling
  bytesOf k.base 4 ++ bytesOf k.rows 2 ++ bytesOf k.rowBytes 2 ++ bytesOf k.swz 1 ++ bytesOf (k.state.code + 4 * flag k.phase) 1 ++
  bytesOf 0 2 ++ bytesOf (if filling then k.issued else 0) 4 ++ bytesOf (if filling then k.pending else 0) 4 ++ bytesOf 0 12

/-- Copy bytes of an on-chip memory into a save area in 64-byte pieces; a piece with poison poisons its bytes there (R73). -/
def Chip.saveImage (c : Chip) (b : Block) (o n : Nat) (get : Nat → Byte) (bad : Nat → Bool) : Chip :=
  (List.range ((n + 63) / 64)).foldl (fun c i =>
    let k := min 64 (n - 64 * i)
    let pa := b.areaAt (o + 64 * i)
    let c := c.agentStore (.cdie (b.core / 80)) pa ((List.range k).map fun j => get (64 * i + j))
    if (List.range k).any fun j => bad (64 * i + j) then
      match c.target pa with | .main l => c.setPoison l | .onDie l => c.setPoison l | _ => c
    else c) c

/-- Byte o of a block's space 1 as its location (R58). -/
def Chip.spLoc (c : Chip) (b : Block) (o : Nat) : Nat := spAddr c b o

/-- Write the images that a block without a handler leaves (R229, R230). -/
def Chip.saveImages (c : Chip) (b : Block) : Chip :=
  let a := b.area
  let m := c.mem
  let c := c.saveImage b a.sp (roundUp b.spbytes 64) (fun o => cellGet m.bytes (c.spLoc b o)) fun o => c.poisonedAt (c.spLoc b o)
  (b.cores.zip (List.range 2)).foldl (fun c p =>
    let acc := p.1 * 2 ^ 18 + b.accOn p.1
    let wb := p.1 * 2 ^ 20 + b.wbOn p.1
    let c := c.saveImage b (a.acc + p.2 * b.accbytes) b.accbytes (fun o => cellGet m.acc (acc + o)) fun o =>
      m.accPoison.contains (roundDown (acc + o) 8)
    c.saveImage b (a.wb + p.2 * b.wbbytes) b.wbbytes (fun o => cellGet m.wb (wb + o)) fun o =>
      m.wbPoison.contains (roundDown (wb + o) 8)) c

/-- Bytes of a save area and their poison, piece by piece. -/
def Chip.areaRead (c : Chip) (b : Block) (o n : Nat) : List Byte :=
  ((List.range ((n + 63) / 64)).foldl (fun (r : List Byte × Chip) i =>
    let k := min 64 (n - 64 * i)
    let x := r.2.agentLoad (.cdie (b.core / 80)) (b.areaAt (o + 64 * i)) k
    (r.1 ++ bytesOf x.1 k, x.2.2)) ([], c)).1

/-- Steps 3 and 4 of a save (R228, R230-R232): windows and lines written, the area, then the core is free. -/
def Chip.saveBlock (c : Chip) (b : Block) : Chip :=
  let die : Agent := .cdie (b.core / 80)
  let ts := c.threadsOf b
  let c := ts.foldl (fun c t => if t.onCompute then (c.spillWindow t.id).dropResv t.id else c) c
  let c := b.cores.foldl (fun c k => c.writeBackAll k) c
  let handle := (ts.head?.map (·.tgrid)).getD 0
  let a := b.area
  let c := c.agentStore die b.saveBase (c.areaHeader b handle)
  let c := (b.igs.zip (List.range b.igs.length)).foldl (fun c p =>
    c.agentStore die (b.areaAt (a.groups + 64 * p.2)) (c.groupRecord b p.2 p.1)) c
  let c := (b.tiles.zip (List.range b.tiles.length)).foldl (fun c p =>
    c.agentStore die (b.areaAt (a.tiles + 32 * p.2)) (tileRecord p.1)) c
  let m := c.mem
  let c := c.saveImage b a.bars (8 * b.nbar) (fun o => cellGet m.bytes (c.pbLoc b (o / 8) + o % 8)) fun o => c.poisonedAt (c.pbLoc b (o / 8))
  -- with a handler, the elected thread's record was written before it ran
  let skip : Option Nat := if b.preempt = .saving then (c.elected b).map (·.id) else none
  let c := ts.foldl (fun c t => if skip = some t.id then c else
    match c.thread? t.id with | some t => c.writeRecord b t | none => c) c
  let c := ts.foldl (fun c t => if t.lsbytes = 0 then c else
    c.saveImage b (a.lanes + b.lsbytes * t.ttid) b.lsbytes (fun o => cellGet t.lane o) fun o => t.lanePoison.contains (roundDown o 8)) c
  let c := if b.preh = 0 then c.saveImages b else c
  let gone (g : IssueGroup) : Bool := b.igs.any fun i => i.1 = g.core && i.2.1 = g.qtr && i.2.2 = g.ig
  let out (t : Thread) : Thread := if t.ofBlock b.id && t.onCompute then { t with place := .saved, wait := .safePark } else t
  let c := { c with threads := c.threads.map out, groups := c.groups.filter fun g => !gone g }
  -- the elected thread's footprint is that of its record, whatever its handler made of it
  let c := match skip with
    | none => c
    | some id => c.onThread id fun t => { t with tfoot := recField (c.areaRead b (a.threads + 512 * t.ttid) 512) 0x190 4 }
  let c := c.setBlock { b with preempt := .saved }
  if b.isTask then c else c.gangSaved b.owner

/-- The pre-emption of a block goes on once its threads are parked: the handler first, then the save (R228). -/
def Chip.saveStep (c : Chip) (b : Block) : Chip :=
  match b.preempt with
  | .requested _ =>
    if !c.allParked b then c
    else match (if b.preh = 0 then none else c.elected b) with
      | some t => ((c.writeRecord b t).onThread t.id fun t => t.runHandler (c.bars t) b.preh 0).setBlock { b with preempt := .handler c.tick }
      | none => if c.drained b then c.saveBlock b else c
  | .saving => if c.allParked b && c.drained b then c.saveBlock b else c
  | _ => c

/-- PREEMPTION_HANDLER_TIMEOUT (R228): subject the block; neither counted nor reported. -/
def execPreemptionHandlerTimeout (s : State) : Host.Outcome State Fault Refusal :=
  let c := s.chip
  match c.block? s.subject with
  | none => done s
  | some b => match b.preempt, c.threads.find? fun t => t.ofBlock b.id && t.handler with
    | .handler since, some t => if 1000000 ≤ c.tick - since then done { s with chip := c.endHandler t true } else done s
    | _, _ => done s

/-- RESTORE_HANDLER_TIMEOUT (R234): subject the block. -/
def execRestoreHandlerTimeout (s : State) : Host.Outcome State Fault Refusal :=
  let c := s.chip
  match c.block? s.subject with
  | none => done s
  | some b => match b.preempt, c.threads.find? fun t => t.ofBlock b.id && t.handler with
    | .restoring since, some t => if 1000000 ≤ c.tick - since then done { s with chip := c.endHandler t true } else done s
    | _, _ => done s

/-- Whether byte o of a save area is poisoned. -/
def Chip.areaBad (c : Chip) (b : Block) (o : Nat) : Bool :=
  match c.target (b.areaAt o) with | .main l => c.poisonedAt l | .onDie l => c.poisonedAt l | _ => false

/-- Slices that the saved threads of a block need in a lane of a core of its twin (R234). -/
def Chip.savedSlices (c : Chip) (b : Block) (cores ci q lane : Nat) : Nat :=
  (c.threads.filter fun t => t.ofBlock b.id && t.place = .saved && (t.ttid / 32) % 4 = q && t.ttid % 16 = lane &&
    (cores ≠ 2 || (t.ttid / 128) % 2 = ci)).foldl (fun n t => n + (t.tfoot - 16)) 0

/-- A place for a saved block (R233, R234). -/
def Chip.savedSpot (c : Chip) (b : Block) (cores : List Nat) : Option Spot :=
  c.spotFor (b.demand 16) (c.savedSlices b cores.length) cores

/-- Per-bar poison from the per-slice bits of a record (R234): every bar that holds a poisoned slice. -/
def Thread.barsOf (t : Thread) (n : Nat) (slices : Nat) : BitVec 64 :=
  if slices = 0 then 0
  else (List.range t.tfoot).foldl (fun (m : BitVec 64) a =>
    if 16 ≤ a && slices.testBit a then m ||| (1#64 <<< barOf t.p0 n a) else m) 0

/-- The architectural state and the translation context that a save-area record restores (R79); every token slot starts at generation 0 (R234, R337). -/
def Chip.reload (c : Chip) (b : Block) (t : Thread) : Thread :=
  let bs := c.areaRead b (b.area.threads + 512 * t.ttid) 512
  let u := { t.loadRecord bs with tfoot := recField bs 0x190 4, arrived := recArrived bs, corrupt := 0, barPoison := 0, fresh := 0, ctx := recCtx bs }
  let lo := roundDown (readX u.regs 2).toNat 64
  { u with
    barPoison := u.barsOf (barSize b.detecting) (recField bs 0x1C0 64), parkFlags := 0, parkCause := 0, parkTval := 0, live := 0
    tokens := noTokens, win := { u.win with lo := lo, hi := lo, units := [] } }

/-- The lane store of a thread from its image (R230, R234). -/
def Chip.reloadLane (c : Chip) (b : Block) (t : Thread) : Thread :=
  let o := b.area.lanes + b.lsbytes * t.ttid
  let bs := c.areaRead b o b.lsbytes
  { t with
    lane := cellWrite [] 0 (numOf bs) b.lsbytes
    lanePoison := ((List.range (b.lsbytes / 8)).filter fun i => c.areaBad b (o + 8 * i)).map (8 * ·) }

/-- A tile from its record; readers are zero (R231, R234). -/
def tileOf (bs : List Byte) : Tile :=
  let st := recField bs 9 1
  { base := recField bs 0 4, rows := recField bs 4 2, rowBytes := recField bs 6 2, swz := recField bs 8 1
    state := if st % 4 = 1 then .filling else if st % 4 = 2 then .ready else .empty, phase := st.testBit 2
    issued := recField bs 0xC 4, pending := recField bs 0x10 4 }

/-- Write the saved bytes of a block's on-chip memories back (R234). -/
def Chip.loadImages (c : Chip) (b : Block) : Chip :=
  let a := b.area
  let put (c : Chip) (o : Nat) (x : Byte) : Chip :=
    let l := c.spLoc b o
    let c := { c with mem := { c.mem with bytes := cellSet c.mem.bytes l x } }
    if c.areaBad b (a.sp + o) then c.setPoison l else c
  let sp := c.areaRead b a.sp (roundUp b.spbytes 64)
  let c := (sp.zip (List.range sp.length)).foldl (fun c p => put c p.2 p.1) c
  (b.cores.zip (List.range 2)).foldl (fun c p =>
    let acc := p.1 * 2 ^ 18 + b.accOn p.1
    let wb := p.1 * 2 ^ 20 + b.wbOn p.1
    let ao := a.acc + p.2 * b.accbytes
    let wo := a.wb + p.2 * b.wbbytes
    let as := c.areaRead b ao b.accbytes
    let ws := c.areaRead b wo b.wbbytes
    let bad (o base n : Nat) : List Nat := ((List.range (n / 8)).filter fun i => c.areaBad b (o + 8 * i)).map fun i => base + 8 * i
    { c with mem := { c.mem with
        acc := cellWrite c.mem.acc acc (numOf as) b.accbytes, wb := cellWrite c.mem.wb wb (numOf ws) b.wbbytes
        accPoison := (bad ao acc b.accbytes).foldl (fun l g => setInsert g l) c.mem.accPoison
        wbPoison := (bad wo wb b.wbbytes).foldl (fun l g => setInsert g l) c.mem.wbPoison } }) c

/-- Resume the threads of a restored block together, each with an acquire of pod scope; a held request takes effect (R225,
R234 step 5). -/
def Chip.resumeBlock (c : Chip) (b : Block) : Chip :=
  let req := b.heldRequest
  let ids := (c.threads.filter fun t => t.ofBlock b.id && t.onCompute).map (·.id)
  let c := ids.foldl (fun c id => (c.onThread id fun t => { t with wait := .ready, reqPending := req }).acquire id 5) c
  c.setBlock { b with preempt := if req then .requested c.tick else .none, heldRequest := false, handlerFailed := false }

/-- The restore handler is over: its thread's state is written again and the block goes on (R234). -/
def Chip.endRestore (c : Chip) (b : Block) : Chip :=
  match b.preempt with
  | .restoring _ =>
    if c.threads.any fun t => t.ofBlock b.id && t.handler then c
    else
      let c := match c.elected b with
        | some t => c.setThread { c.reload b t with wait := .safePark, handler := false }
        | none => c
      c.resumeBlock b
  | _ => c

/-- Restores whose handler has ended go on at once (R234). -/
def Chip.endRestores (c : Chip) : Chip :=
  (c.disp.blocks.filter fun b => match b.preempt with | .restoring _ => true | _ => false).foldl (fun c b => c.endRestore b) c

/-- Restore a saved block on its cores (R234). -/
def Chip.restoreBlock (c : Chip) (b0 : Block) (cores : List Nat) (s : Spot) : Chip :=
  let a := b0.area
  let b : Block := { b0 with
    core := cores.headD 0, igs := s.igs, spBase := s.sp, accBase := s.acc, accBase2 := s.acc2, wbBase := s.wb, wbBase2 := s.wb2
    started := c.disp.order, preempt := .restoring c.tick, watchdog := false, yieldFor := false
    tiles := (List.range b0.tiles.length).map fun k => tileOf (c.areaRead b0 (a.tiles + 32 * k) 32) }
  let c := { c with disp := { c.disp with order := c.disp.order + 1 } }
  let c := (c.setBlock b).zeroBlock b
  let c := if b.preh = 0 then c.loadImages b else c
  let c := (List.range b.nbar).foldl (fun c k =>
    let bad := c.areaBad b (a.bars + 8 * k)
    let c := c.pbPut b k (numOf (c.areaRead b (a.bars + 8 * k) 8))
    if bad then c.setPoison (c.pbLoc b k) else c) c
  let c := (b.igs.zip (List.range b.igs.length)).foldl (fun c p =>
    let bs := c.areaRead b (a.groups + 64 * p.2) 64
    let c := c.addGroup p.1.1 p.1.2.1 p.1.2.2 0
    c.onIg p.1.1 p.1.2.1 p.1.2.2 fun g => { g with gm := (List.range 12).map fun k => BitVec.ofNat 32 (recField bs (4 * k) 4) }) c
  let back (t : Thread) : Thread :=
    if !t.ofBlock b.id then t
    else
      let p := b.slotOf t.ttid
      match t.place with
      | .saved =>
        let u := { t with place := .slot p.1 p.2.1 p.2.2.1 p.2.2.2, age := 0 }
        { c.reloadLane b (c.reload b u) with place := u.place, wait := .safePark }
      | .ended => t
      | _ => { t with held := some p }
  let c := { c with threads := c.threads.map back }
  match (if b.resh = 0 then none else c.elected b) with
  | some t => c.onThread t.id fun t => t.runHandler (c.bars t) b.resh (if b.handlerFailed then 2 else 1)
  | none => c.resumeBlock b

/-- The saved blocks that a saved block is restored with: its cluster group's members, which go back together (R233). -/
def Chip.savedUnit (c : Chip) (b : Block) : List Block :=
  let ms := c.disp.blocks.filter fun k => k.isTask = b.isTask && k.owner = b.owner &&
    k.index / 2 ^ b.groupLog = b.index / 2 ^ b.groupLog
  if b.groupLog = 0 then [b] else ms

/-- Restore a saved block, with its cluster group, on the die that saved it (R233, R234); none while they have no place, or a
member is not saved yet. -/
def Chip.restoreUnit (c : Chip) (b : Block) : Option Chip :=
  let ms := c.savedUnit b
  let die := b.saveDie
  if c.ras.dies.getLsbD die || !(ms.all fun k => k.preempt = .saved) then none
  else
    let base := 80 * die
    let room (k : Block) (cores : List Nat) : Bool := (c.savedSpot k cores).isSome
    let cores : Option (List (List Nat)) :=
      if b.groupLog = 0 then placeUnit b.twin 1 die fun _ cs => room b cs
      else
        let member (j : Nat) : Block := ms.getD j b
        (List.range 10).findSome? fun cl =>
          assignCores (fun j cs => room (member j) cs) (List.range ms.length)
            ((List.range 8).filterMap fun i => if 8 * cl + i < 79 then some (base + 8 * cl + i) else none)
    match cores with
    | none => none
    | some cs => (ms.zip cs).foldl (fun (m : Option Chip) p => match m with
      | none => none
      | some c => (c.savedSpot p.1 p.2).map fun s => c.restoreBlock p.1 p.2 s) (some c)

/-- Restore what a saved block goes back with: its unit, or the whole of a gang grid at once (R163, R233). -/
def Chip.restoreWhole (c : Chip) (b : Block) : Option Chip :=
  if c.isGang b then
    let all := c.disp.blocks.filter fun k => !k.isTask && k.owner = b.owner
    if !(all.all fun k => k.preempt = .saved) then none
    else all.foldl (fun (m : Option Chip) k => match m with
      | none => none
      | some c => match c.block? k.id with
        | none => some c
        | some k => if k.preempt = .saved then c.restoreUnit k else some c) (some c)
  else c.restoreUnit b

/-- SLICE_STARVATION (R212): a lane without a met request for 10 µs whose threads all wait pre-empts its block of the lowest
priority, the youngest. -/
def execSliceStarvation (core quarter lane : Nat) (s : State) : Host.Outcome State Fault Refusal :=
  let c := s.chip
  let ts := c.threads.filter fun t => t.onCompute && t.lane3 == (core, quarter, lane)
  let held (t : Thread) : Bool := match t.wait with
    | .slices _ => true | .group _ _ => true | .barrier _ _ _ => true | .ring _ => true | .tile _ _ => true | .token _ => true | _ => false
  match c.laneHead core quarter lane with
  | none => done s
  | some h =>
    let since := max h.waitSince (assocGet c.laneMet (core, quarter, lane) 0)
    if c.tick - since < 10000 || !(ts.all held) then done s
    else
      let bs := c.disp.blocks.filter fun b => ts.any fun t => t.ofBlock b.id
      let pick := bs.foldl (fun (m : Option Block) b => match m with
        | none => some b
        | some k => if b.prio < k.prio || (b.prio = k.prio && k.started < b.started) then some b else some k) none
      match pick with
      | none => done s
      | some b => done { s with chip := c.requestBlock b.id }

end Sys2Proof.Machine
end

