-- ==== Sys2Proof/Machine/Tasks.lean ====
section
/-! DEFINITION. Tasks: submission, dependence and renaming, commit and abort, ageing, completion, and graph replays (R124-R126,
R172-R185, R362). -/
namespace Sys2Proof.Machine

/-- A region record of 16 bytes (R176). -/
def regionOf (bs : List Byte) (isWrite : Bool) : RegionRec × Nat :=
  let n (o k : Nat) : Nat := numOf ((bs.drop o).take k)
  ({ base := n 0 8, length := n 8 4, patch := n 12 2, renamable := (n 14 1).testBit 0, versions := n 15 1, isWrite := isWrite }, n 14 1)

/-- The fields of a task record that its limits concern beside those of a task (R175). -/
structure TaskRecord where
  task : Task
  flags : Nat
  reads : Nat
  writes : Nat
  reserved : Nat
  regionFlags : List Nat

/-- A task record and its region records (R175, R176). -/
def taskRecordOf (bs : List Byte) : TaskRecord :=
  let n (o k : Nat) : Nat := numOf ((bs.drop o).take k)
  let w (o : Nat) : Word := BitVec.ofNat 64 (n o 8)
  let nr := n 0x32 1
  let nw := n 0x33 1
  let rs := (List.range (min nr 6 + min nw 2)).map fun i => regionOf (bs.drop (64 + 16 * i)) (decide (nr ≤ i))
  { task := {
      pc := w 0, argBlock := w 8, cword := w 0x10, stkbase := w 0x18, stkbytes := n 0x20 4, job := n 0x24 4, argBytes := n 0x28 2
      foot := n 0x2A 2, swbytes := n 0x2C 2, nthr := n 0x2E 1, prio := n 0x2F 1, cscope := n 0x30 1, spec := (n 0x31 1).testBit 0
      placement := n 0x34 1, level := n 0x2F 1, regions := rs.map (·.1) }
    flags := n 0x31 1, reads := nr, writes := nw, reserved := n 0x35 11, regionFlags := rs.map (·.2) }

/-- Number of 8-byte words of a task record with its region records (R175). -/
def TaskRecord.words (r : TaskRecord) : Nat := 8 + 2 * (r.reads + r.writes)

/-- Whether the counts of regions are within their limits (R175). -/
def TaskRecord.countsOk (r : TaskRecord) : Bool := decide (r.reads ≤ 6) && decide (r.writes ≤ 2)

/-- Limits of a region record (R176). -/
def RegionRec.ok (g : RegionRec) (argBytes : Nat) : Bool :=
  g.base % 256 = 0 && within g.length 256 256 0x4000_0000 && (g.patch = 0xFFFF || (g.patch % 8 = 0 && decide (g.patch < argBytes))) &&
  (if g.renamable then within g.versions 1 2 16 else g.versions = 0)

/-- Status -1 of R177 aside: every field within its limits, and no base twice in one set (R175-R177). -/
def TaskRecord.ok (r : TaskRecord) : Bool :=
  let k := r.task
  let bases (w : Bool) : List Nat := (k.regions.filter fun g => g.isWrite = w).map (·.base)
  r.countsOk && k.pc.toNat % 2 = 0 && k.argBlock.toNat % 8 = 0 && k.cword.toNat % 8 = 0 && k.stkbytes % 64 = 0 &&
  within k.argBytes 8 8 4096 && within k.foot 1 16 512 && within k.swbytes 64 0 1024 && within k.nthr 1 1 32 &&
  within k.prio 1 0 63 && within k.cscope 1 1 5 && decide (r.flags < 2) && (decide (k.placement < 8) || k.placement = 0xFF) &&
  r.reserved = 0 && r.regionFlags.all (· < 2) && k.regions.all (·.ok k.argBytes) &&
  (bases false).eraseDups.length = (bases false).length && (bases true).eraseDups.length = (bases true).length

/-- First byte beyond a region's span (R176). -/
def RegionRec.stop (g : RegionRec) : Nat := g.base + (if g.renamable then g.versions * g.length else g.length)

/-- Whether two regions' spans overlap; they are made of 256-byte granules (R176, R178). -/
def RegionRec.overlaps (a b : RegionRec) : Bool := decide (a.base < b.stop) && decide (b.base < a.stop)

/-- Tasks in flight in the table: not settled (R178). -/
def Chip.inFlight (c : Chip) : List Task := c.disp.tasks.filter fun k => !k.settled

/-- Status -3 of R177: a renamable base of another shape, or an overlap with a region of another base. -/
def Chip.clashes (c : Chip) (g : RegionRec) : Bool :=
  c.inFlight.any fun k => k.regions.any fun h =>
    (h.base = g.base && (h.renamable || g.renamable) && (h.length ≠ g.length || h.versions ≠ g.versions)) ||
    (h.base ≠ g.base && g.overlaps h)

/-- The status of a submission that enters nothing, by the first check that fails (R177). -/
def Chip.taskStatus (c : Chip) (r : TaskRecord) : Option Word :=
  if !r.ok then some (-1)
  else if !c.jobOk r.task.job then some (-2)
  else if r.task.regions.any c.clashes then some (-3)
  else if !r.task.demand.fits 1 then some (-4)
  else none

/-- The lowest free dependence-table entry (R177; notes/assumptions/18). -/
def Chip.freeEntry (c : Chip) : Option Nat :=
  if 65536 ≤ c.disp.tasks.length then none
  else (List.range (c.disp.tasks.length + 1)).find? fun e => !(c.disp.tasks.any fun k => k.entry = e)

/-- The task that writes version v of a region (R178). -/
def Chip.writerOf (c : Chip) (base v : Nat) : Option Task :=
  c.disp.tasks.find? fun k => k.state ≠ .aborted && k.state ≠ .failed &&
    k.regions.any fun r => r.isWrite && r.renamable && r.base = base && r.bound = some v

/-- Whether a task has not completed yet. -/
def Task.pending (k : Task) : Bool := k.state = .waiting || k.state = .running

/-- Bind a read region of a new task (R178): its version, the edges it adds, and the core of a completed task of core scope that
wrote the version (R147). -/
def Chip.bindRead (c : Chip) (g : RegionRec) : RegionRec × List Nat × List Nat :=
  if g.renamable then
    let r := c.region? g.base
    let v := (r.map (·.lw)).getD 0
    let cores := match r with | some r => (r.writers.filter fun w => w.1 = v).map (·.2) | none => []
    ({ g with bound := some v }, match c.writerOf g.base v with | some k => if k.pending then [k.entry] else [] | none => [], cores)
  else
    let over_ := c.inFlight.filter fun k => k.regions.any fun h => h.isWrite && g.overlaps h
    (g, (over_.filter (·.pending)).map (·.entry), (over_.filter fun k => k.state = .completed && decide (k.cscope < 2)).map (·.core))

/-- Bind a write region of a new task, and the newest version of its region (R178, R179). -/
def Chip.bindWrite (c : Chip) (g : RegionRec) : RegionRec × List Nat × Chip :=
  if g.renamable then
    let r := (c.region? g.base).getD { base := g.base, length := g.length, versions := g.versions, lw := 0, committed := 0 }
    match c.freeVersion r with
    | some v => ({ g with bound := some v }, [], c.setRegion { r with lw := v })
    | none => (g, [], c)
  else (g, (c.inFlight.filter fun k => k.pending && k.regions.any fun h => g.overlaps h).map (·.entry), c)

/-- Regions of a new task that the table does not hold yet, with version 0 newest and committed (R178). -/
def Chip.addRegions (c : Chip) (gs : List RegionRec) : Chip :=
  gs.foldl (fun c g => if !g.renamable || (c.region? g.base).isSome then c
    else { c with disp := { c.disp with
      regions := c.disp.regions ++ [{ base := g.base, length := g.length, versions := g.versions, lw := 0, committed := 0 }] } }) c

/-- Enter a task in the table: its regions bound, its edges added, its job's count raised (R174, R177, R178). -/
def Chip.enterTask (c : Chip) (k : Task) (entry : Nat) : Word × Chip :=
  let gen := nextGen (assocGet c.disp.taskGens entry 0)
  let reads := (k.regions.filter fun g => !g.isWrite)
  let writes := (k.regions.filter (·.isWrite))
  -- the new task stands in the table while its versions are bound, so that it frees none of them
  let new : Task := { k with entry := entry, gen := gen, order := c.disp.order, state := .waiting, level := k.prio }
  let c := (c.addRegions k.regions).jobCount k.job true
  let rs := reads.map c.bindRead
  let c := { c with disp := { c.disp with
    tasks := c.disp.tasks ++ [{ new with regions := rs.map (·.1) }], order := c.disp.order + 1
    taskGens := assocSet c.disp.taskGens entry gen } }
  let ws := writes.foldl (fun (x : List (RegionRec × List Nat) × Chip) g =>
    let y := x.2.bindWrite g
    (x.1 ++ [(y.1, y.2.1)], y.2.2)) ([], c)
  let edges := ((rs.flatMap (·.2.1)) ++ ws.1.flatMap (·.2)).eraseDups.filter (· ≠ entry)
  let done_ : Task := { new with regions := rs.map (·.1) ++ ws.1.map (·.1), edges := edges, promote := rs.flatMap (·.2.2) }
  (handleOf c.pkg entry gen true, ws.2.setTask done_)

/-- The C-die of a submitter; a latency core's is the lowest one in use (R183; notes/assumptions/23). -/
def Chip.dieOf (c : Chip) (t : Thread) : Nat := if t.onCompute then t.core / 80 else c.firstDie

/-- Words of a task record and its region records, by what its first 64 bytes say (R175). -/
def Chip.taskWords (c : Chip) (t : Thread) (va : Nat) : Nat :=
  let head := taskRecordOf (c.recordRead t va 8).1
  if head.countsOk then head.words else 8

/-- The record of a tsub: as read when it issued, where it has waited since (R175). -/
def Chip.taskRead (c : Chip) (t : Thread) (va : Nat) : List Byte × Chip :=
  if t.record.isEmpty then c.recordRead t va (c.taskWords t va) else (t.record, c)

/-- What holds a tsub whose record is read while the dependence table is full (R177); one that returns a status does not wait. -/
def Chip.tableStop (c : Chip) (t : Thread) (r : TaskRecord) : Option Stop :=
  let others := (c.threads.filter fun u => u.called && u.id ≠ t.id && (u.wait = .tableEntry || u.wait = .ready)).length
  if (c.taskStatus r).isSome then none
  else if 65536 ≤ c.disp.tasks.length + (if t.called then 0 else others) then some (.hold .tableEntry) else none

/-- What stops a tsub before it acts: its record, read once, the dispatcher inbound queue, a full table, where it waits in that queue in
its order, and the release (R147, R175, R177, R188, R362, R366). -/
def Chip.tsubStop (c : Chip) (t : Thread) (va : Nat) : Option Stop :=
  if va % 64 ≠ 0 then c.releaseStop t 5 false
  else match (if t.record.isEmpty then (c.recordStop t va 8 none).or (c.recordStop t va (c.taskWords t va) none) else none) with
    | some s => some s
    | none =>
      let bytes := (c.taskRead t va).1
      let r := taskRecordOf bytes
      (((c.callStop t r.task.job).or (c.tableStop t r)).or (c.releaseStop t 5 false)).map (Stop.keeping bytes)

/-- tsub for one thread (R147, R177, R362). -/
def Chip.tsubOne (c : Chip) (t : Thread) (rd va : Nat) : Chip :=
  let c := (c.callDone t.id).release t.id 5
  if va % 64 ≠ 0 then c.giveX t rd (-1) false
  else
    let x := c.taskRead t va
    let r := taskRecordOf x.1
    match x.2.taskStatus r, x.2.freeEntry with
    | some v, _ => x.2.giveX t rd v false
    | none, none => x.2
    | none, some e =>
      let y := x.2.enterTask { r.task with ctx := c.ctxOf t, subDie := c.dieOf t } e
      y.2.giveX t rd y.1 false

/-- TSUB (R175-R178, R362). -/
def execTsub (rd rs1 : BitVec 5) (s : State) : Host.Outcome State Fault Refusal :=
  s.short { uses := { strict := [spanX rs1.toNat], writes := [spanX rd.toNat] }
            check := fun c _ _ t => c.tsubStop t (readX t.regs rs1.toNat).toNat
            run := fun c ts => ts.foldl (fun c t => match c.thread? t.id with
              | some t => c.tsubOne t rd.toNat (readX t.regs rs1.toNat).toNat
              | none => c) c }

/-- The task of an address space that a handle names, not settled (R181, R362). -/
def Chip.taskOfSpace (c : Chip) (x : Ctx) (h : Word) : Option Task :=
  c.inFlight.find? fun k => c.taskHandle k = h && x.sameRoot k.ctx

/-- Whether a completed task settles: committed if speculative, and every version it reads committed (R180, R181). -/
def Chip.confirmed (c : Chip) (k : Task) : Bool :=
  (!k.spec || k.commit) &&
  k.regions.all fun r => r.isWrite || !r.renamable ||
    (match r.bound with
     | none => true
     | some v => match c.writerOf r.base v with
       | some w => w.settled || w.entry = k.entry
       | none => true)

/-- Settle completed tasks until none is left that may settle, in at most n rounds (R180, R181). -/
def Chip.settleAll (c : Chip) : Nat → Chip
  | 0 => c
  | n + 1 =>
    match c.disp.tasks.find? fun k => k.state = .completed && !k.settled && c.confirmed k with
    | none => c
    | some k => (c.settle k.entry 1).settleAll n

/-- tcomm of a task of this package, from an address space (R181, R362). -/
def Chip.tcommHere (c : Chip) (x : Ctx) (h : Word) : Word × Chip :=
  match c.taskOfSpace x h with
  | none => (-1, c)
  | some k => if !k.spec then (-2, c) else (0, (c.setTask { k with commit := true }).settleAll (c.disp.tasks.length + 1))

/-- tcomm for one thread (R181, R362); of a task of another package it is forwarded and gives that package's answer (R178). -/
def Chip.tcommOne (c : Chip) (t : Thread) (h : Word) : Word × Chip :=
  if c.elsewhere h true then (c.freeOf [0, -1, -2], c.callAway t h .tcomm) else c.tcommHere (c.ctxOf t) h

/-- TCOMM (R181, R362). -/
def execTcomm (rd rs1 : BitVec 5) (s : State) : Host.Outcome State Fault Refusal :=
  s.short { uses := { strict := [spanX rs1.toNat], writes := [spanX rd.toNat] }
            run := fun c ts => ts.foldl (fun c t =>
              let r := c.tcommOne t (readX t.regs rs1.toNat)
              r.2.giveX t rd.toNat r.1 false) c }

/-- What tabort of a task of this package returns, from an address space, and the task that it aborts (R181, R362). -/
def Chip.tabortHere (c : Chip) (x : Ctx) (h : Word) : Word × Option Nat :=
  match c.taskOfSpace x h with
  | none => (-1, none)
  | some k => if !k.spec then (-2, none) else (0, some k.entry)

/-- tabort for one thread (R181, R182, R362): rd is written before an abort of its own task ends it; of a task of another package
it is forwarded and gives that package's answer (R178). -/
def Chip.tabortOne (c : Chip) (t : Thread) (rd : Nat) (h : Word) : Chip :=
  if c.elsewhere h true then (c.callAway t h .tabort).giveX t rd (c.freeOf [0, -1, -2]) false
  else
    let r := c.tabortHere (c.ctxOf t) h
    let c := c.giveX t rd r.1 false
    match r.2 with
    | some e => c.abortTask e false
    | none => c

/-- TABORT (R181, R182, R362). -/
def execTabort (rd rs1 : BitVec 5) (s : State) : Host.Outcome State Fault Refusal :=
  s.short { uses := { strict := [spanX rs1.toNat], writes := [spanX rd.toNat] }
            run := fun c ts => ts.foldl (fun c t => c.tabortOne t rd.toNat (readX t.regs rs1.toNat)) c }

/-- Whether a task is ready: no edge left, every write version bound (R178). -/
def Task.isReady (k : Task) : Bool :=
  k.state = .waiting && k.edges.isEmpty && k.regions.all fun r => !r.isWrite || !r.renamable || r.bound.isSome

/-- Versions of aborted tasks come free, and tasks that have become ready begin their wait (R182, R184). -/
def Chip.markReady (c : Chip) : Chip :=
  let c := c.freeLingering
  if c.disp.tasks.isEmpty then c
  else { c with disp := { c.disp with
    tasks := c.disp.tasks.map fun k => if k.isReady && !k.ready then { k with ready := true, levelSince := c.tick } else k } }

/-- A place for a task on a die: the lowest-numbered core with one (R183, R185). -/
def Chip.taskSpot (c : Chip) (k : Task) (die : Nat) : Option (List Nat × Spot) :=
  if c.ras.dies.getLsbD die then none
  else match c.unitSpot k.demand die with
    | some (p :: _) => if (c.reserveArea die (areaSize k.demand)).isSome then some p else none
    | _ => none

/-- Store the bound versions' bases at the patch offsets; a store that faults parks the start on a fault record (R180;
notes/assumptions/24). -/
def Chip.patch (c : Chip) (k : Task) : Bool × Chip :=
  (k.regions.filter fun r => r.patch ≠ 0xFFFF).foldl (fun (x : Bool × Chip) r =>
    if !x.1 then x
    else
      let base := r.base + (if r.renamable then (r.bound.getD 0) * r.length else 0)
      match x.2.headStore k.ctx ((k.argBlock.toNat + r.patch) % 2 ^ 64) (bytesOf base 8) with
      | (.inl _, c) => (true, c)
      | (.inr f, c) =>
        let r := c.parkHead k.ctx f k.entry (.statusParked 0 0)
        (false, r.2.setTask { k with write := r.1 })) (true, c)

/-- Start a ready task on a core (R147, R180, R185). -/
def Chip.startTask (c : Chip) (k : Task) (core : Nat) (s : Spot) : Chip :=
  let die := core / 80
  match c.patch k with
  | (false, c) => c
  | (true, c) =>
    let size := areaSize k.demand
    let b : Block := {
      id := c.eng.next, owner := k.entry, isTask := true, job := k.job, core := core, igs := s.igs, nthr := k.nthr, swbytes := k.swbytes
      prio := k.level, started := c.disp.order, saveBase := (c.reserveArea die size).getD 0, saveSize := size, saveDie := die }
    let c := { c with eng := { c.eng with next := c.eng.next + 1 } }
    -- a dispatch outside a predecessor's scope is promoted (R147)
    let c := (k.promote.filter (· ≠ core)).foldl (fun c p => c.writeBackAll p) c
    let c := (c.endLeases core).addBlock b
    let c := c.startThreads b {
      ctx := k.ctx, entry := k.pc, a0 := k.argBlock, handle := c.taskHandle k, foot := k.foot, prio := k.level, pkg := c.pkg
      sp := fun t => k.stkbase + BitVec.ofNat 64 ((t + 1) * k.stkbytes) }
    c.setTask { k with state := .running, core := core, promote := [] }

/-- Age limit in ticks of a level of a job; none where it disables ageing (R173, R184). -/
def Chip.ageLimit (c : Chip) (j level : Nat) : Option Nat :=
  let v := c.devRead (c.jobAddr j + 0x28 + 2 * (level / 16)) 2
  if v = 0 then none else some (1000 * v)

/-- A ready task rises one level (R184). -/
def Chip.ageTask (c : Chip) (k : Task) : Task :=
  match c.ageLimit k.job k.level with
  | none => k
  | some n =>
    let top := max (c.devRead (c.jobAddr k.job + 9) 1) k.prio
    if n < c.tick - k.levelSince && k.level < min top 63 then { k with level := k.level + 1, levelSince := c.tick } else k

/-- The resident block or task that a task of level 48 or above pre-empts (R184). -/
def Chip.victim (c : Chip) (level : Nat) : Option Block :=
  (c.disp.blocks.filter fun b => b.resident && decide (b.prio + 16 ≤ level)).foldl (fun (m : Option Block) b => match m with
    | none => some b
    | some k => if b.prio < k.prio || (b.prio = k.prio && k.started < b.started) then some b else some k) none

/-- TASK_AGING (R184): subject the task's entry. -/
def execTaskAging (s : State) : Host.Outcome State Fault Refusal :=
  let c := s.chip
  match c.task? s.subject with
  | none => done s
  | some k =>
    if !(k.isReady && k.ready) then done s
    else
      let k := c.ageTask k
      let c := c.setTask k
      let place := (List.range 8).any fun d => (c.taskSpot k d).isSome
      if k.level < 48 || place then done { s with chip := c }
      else match c.victim k.level with
        | none => done { s with chip := c }
        | some b => done { s with chip := c.requestBlock b.id }

/-- Whether every thread of a task has ended, its engine work is done, and its lines can be written back (R76, R185, R361). -/
def Chip.taskOver (c : Chip) (b : Block) : Bool :=
  (c.threads.all fun t => !t.ofBlock b.id || t.place = .ended) && c.quiet b.id && c.homesTake b.cores

/-- A completed task's versions, and the core that holds them where its scope is the core (R147). -/
def Chip.noteWriters (c : Chip) (k : Task) (core : Nat) : Chip :=
  (k.regions.filter fun r => r.isWrite && r.renamable).foldl (fun c r =>
    match c.region? r.base, r.bound with
    | some g, some v =>
      let rest := g.writers.filter fun w => w.1 ≠ v
      c.setRegion { g with writers := if k.cscope < 2 then rest ++ [(v, core)] else rest }
    | _, _ => c) c

/-- A task completes: a release of its scope, successors without it, then settlement where it is confirmed (R147, R180). -/
def Chip.completeTask (c : Chip) (k : Task) (b : Block) : Chip :=
  let c := if 2 ≤ k.cscope then c.writeBackAll b.core else c
  let c := (c.dropBlock b).noteWriters k b.core
  let after (j : Task) : Task :=
    if j.edges.contains k.entry && k.cscope < 2 then { j with promote := j.promote ++ [b.core] } else j
  let c := { c with disp := { c.disp with tasks := c.disp.tasks.map after } }
  ((c.setTask { k with state := .completed }).dropEdges k.entry).settleAll (c.disp.tasks.length + 1)

/-- TASK_COMPLETION (R180, R185): subject the task's entry; of an aborted or failed task it frees what its threads held
(R182). -/
def execTaskCompletion (s : State) : Host.Outcome State Fault Refusal :=
  let c := s.chip
  match c.task? s.subject, c.disp.blocks.find? fun b => b.isTask && b.owner = s.subject with
  | some k, some b =>
    if !c.taskOver b || !b.resident then done s
    else match k.state with
      | .running => done { s with chip := c.completeTask k b }
      | .aborted => done { s with chip := ((c.writeBackAll b.core).dropBlock b).freeTask k.entry }
      | .failed => done { s with chip := ((c.writeBackAll b.core).dropBlock b).freeTask k.entry }
      | _ => done s
  | _, _ => done s

/-- n bytes at an offset of the staging window (R124-R126). -/
def Chip.stage (c : Chip) (o n : Nat) : List Byte := bytesOf (c.devRead (c.dev.grstage.toNat + o) n) n

/-- Whether bytes lie within the 64 MiB staging window, in region 2 (R124). -/
def Chip.staged (c : Chip) (o n : Nat) : Bool :=
  decide (o + n ≤ 2 ^ 26) && bits 50 48 c.dev.grstage.toNat = 2 && c.usable (c.dev.grstage.toNat + o) n

/-- GRUPLOAD (R124, R125): a write starts validation; one that comes during another is ignored (notes/assumptions/22). -/
def execGrupload (v : Word) (s : State) : Host.Outcome State Fault Refusal :=
  let c := s.chip
  if c.dev.grupsts = 1 then done s
  else done { s with chip := { c with dev := { c.dev with grupload := bits 39 0 v.toNat, grupsts := 1 } } }

/-- The task records of a graph image, one after another from an offset, at most n; none where one is malformed (R125). -/
def graphTasks (img : List Byte) (o : Nat) : Nat → Option (List TaskRecord)
  | 0 => some []
  | n + 1 =>
    if img.length < o + 64 then none
    else
      let r := taskRecordOf (img.drop o)
      if !r.countsOk || decide (img.length < o + 8 * r.words) then none
      else (graphTasks img (o + 8 * r.words) n).map (r :: ·)

/-- A valid graph's tasks (R125): header, records under their rules, argument blocks inside the image. -/
def Chip.graphOf (c : Chip) (img : List Byte) : Option (List TaskRecord) :=
  let n (o k : Nat) : Nat := numOf ((img.drop o).take k)
  let count := n 4 4
  let arg := n 8 4
  if n 0 4 ≠ 0x4752_4150 || !within count 1 1 16384 || !within arg 8 0 4096 || n 12 4 ≠ img.length then none
  else match graphTasks img 64 count with
    | none => none
    | some rs =>
      if rs.all fun r => r.ok && c.jobOk r.task.job && r.task.demand.fits 1 && decide (r.task.argBytes ≤ arg) &&
        decide (r.task.argBlock.toNat + arg ≤ img.length) then some rs else none

/-- GRAPH_VALIDATION_DONE (R125): the image is copied and takes the lowest free number, or is rejected. -/
def execGraphValidationDone (s : State) : Host.Outcome State Fault Refusal :=
  let c := s.chip
  let o := c.dev.grupload
  let len := numOf (c.stage (o + 12) 4)
  let img := if c.staged o 64 && c.staged o len && o % 4096 = 0 then c.stage o len else []
  let num := (List.range 256).find? fun k => !(c.dev.graphs.any fun g => g.1 = k)
  if c.dev.grupsts ≠ 1 then done s
  else match c.graphOf img, num with
    | some _, some k =>
      done { s with chip := { c with dev := { c.dev with
        grupsts := 2, grupnum := BitVec.ofNat 8 k, graphs := c.dev.graphs ++ [(k, img)] } } }
    | _, _ => done { s with chip := { c with dev := { c.dev with grupsts := 3 } } }

/-- The failure of entry i of a patch table, none where it passes: codes 6, 7 and 8 of R126. -/
def entryCode (e : List Byte) (i len tasks arg : Nat) : Option Nat :=
  let n (o k : Nat) : Nat := numOf ((e.drop o).take k)
  let size := if n 0 1 = 1 then 4 else 8
  if n 0 1 < 1 || 3 < n 0 1 then some 6
  else if n 1 1 ≠ 0 || tasks ≤ n 2 2 || arg < n 4 4 + size then some 7
  else if len < 16 + 16 * (i + 1) then some 8
  else none

/-- What a kick is rejected with: a code and an entry (R126). -/
def Chip.kickCode (c : Chip) (graph len o : Nat) (img : Option (List Byte)) : Option (Nat × Nat) :=
  match img with
  | none => some (3, 0)
  | some img =>
    let h := c.stage o 16
    let n (a k : Nat) : Nat := numOf ((h.drop a).take k)
    let tasks := numOf ((img.drop 4).take 4)
    let arg := numOf ((img.drop 8).take 4)
    if o % 16 ≠ 0 || !c.staged o len then some (4, 0)
    else if len < 16 || n 0 4 ≠ 0x5054_4142 || n 8 4 ≠ graph || n 12 4 ≠ 0 then some (5, 0)
    else (List.range (min (n 4 4) 4097)).findSome? fun i =>
      -- an entry past the staging window lies past the table's end too
      (if c.staged (o + 16 + 16 * i) 16 then entryCode (c.stage (o + 16 + 16 * i) 16) i len tasks arg else some 8).map fun k => (k, i)

/-- Patch an argument block by the entries of its task (R126). -/
def patchBlock (stageBase : Nat) (entries : List (List Byte)) (task : Nat) (block : List Byte) : List Byte :=
  entries.foldl (fun bs e =>
    let n (o k : Nat) : Nat := numOf ((e.drop o).take k)
    if n 2 2 ≠ task then bs
    else
      let size := if n 0 1 = 1 then 4 else 8
      let v := if n 0 1 = 3 then n 8 8 + stageBase else n 8 8
      bs.take (n 4 4) ++ bytesOf v size ++ bs.drop (n 4 4 + size)) block

/-- The tasks of an accepted replay, each with its patched argument block (R125, R126). -/
def Chip.replayTasks (c : Chip) (img : List Byte) (entries : List (List Byte)) (rs : List TaskRecord) : List (Task × List Byte) :=
  let arg := numOf ((img.drop 8).take 4)
  (rs.zip (List.range rs.length)).map fun p =>
    (p.1.task, patchBlock c.dev.grstage.toNat entries p.2 ((img.drop p.1.task.argBlock.toNat).take arg))

/-- Submit waiting tasks of the replay in order, at most n: each argument block is placed in device memory. A full table, and a
region that clashes with one in flight, let the rest wait; a job outside its limits fails its task (R126, R177). -/
def Chip.replaySubmit (c : Chip) : Nat → Chip
  | 0 => c
  | n + 1 =>
    match c.dev.replayRest with
    | [] => c
    | (k, block) :: rest =>
      let next : Chip := { c with dev := { c.dev with replayRest := rest } }
      match c.freeEntry with
      | none => c
      | some e =>
        if !c.jobOk k.job then ({ next with dev := { next.dev with replayFailed := true } } : Chip).replaySubmit n
        else if k.regions.any c.clashes then c
        else
          let at_ := Config.graphBlock c.free
          let c := ({ next with free := c.free + 1 } : Chip).agentStore (.cdie c.firstDie) at_.toNat block
          let x := c.enterTask { k with argBlock := at_, subDie := c.firstDie } e
          ({ x.2 with dev := { x.2.dev with replay := x.2.dev.replay ++ [x.1] } } : Chip).replaySubmit n

/-- Tasks of the replay that waited are submitted as soon as they can be (R126, R177). -/
def Chip.replayMore (c : Chip) : Chip := if c.dev.replayRest.isEmpty then c else c.replaySubmit c.dev.replayRest.length

/-- GRKICK (R126). -/
def execGrkick (v : Word) (s : State) : Host.Outcome State Fault Refusal :=
  let c := s.chip
  let graph := bits 63 56 v.toNat
  let len := bits 55 40 v.toNat
  let o := bits 39 0 v.toNat
  let img := (c.dev.graphs.find? fun g => g.1 = graph).map (·.2)
  if c.dev.grcode = 1 then done { s with chip := { c with dev := { c.dev with grlost := true } } }
  else match c.kickCode graph len o img, img with
    | none, some img =>
      let n := numOf ((c.stage (o + 4) 4))
      let entries := (List.range n).map fun i => c.stage (o + 16 + 16 * i) 16
      let c := { c with dev := { c.dev with grcode := 1, grentry := 0, grlost := false, replay := [], replayFailed := false } }
      let rest := c.replayTasks img entries ((c.graphOf img).getD [])
      done { s with chip := ({ c with dev := { c.dev with replayRest := rest } } : Chip).replayMore }
    | some (k, i), _ =>
      let c := { c with dev := { c.dev with grcode := BitVec.ofNat 8 k, grentry := BitVec.ofNat 16 i } }
      done { s with chip := c.sendMsi c.dev.grmsiaddr c.dev.grmsidata }
    | none, none => done s

/-- GRAPH_REPLAY_DONE (R126): once no task of the replay waits or is left in the table. -/
def execGraphReplayDone (s : State) : Host.Outcome State Fault Refusal :=
  let c := s.chip
  let live := c.disp.tasks.any fun k => c.dev.replay.contains (c.taskHandle k)
  if c.dev.grcode ≠ 1 || live || !c.dev.replayRest.isEmpty then done s
  else
    let c := { c with dev := { c.dev with grcode := if c.dev.replayFailed then 10 else 2, replay := [], replayFailed := false } }
    done { s with chip := c.sendMsi c.dev.grmsiaddr c.dev.grmsidata }

end Sys2Proof.Machine
end

