-- ==== Sys2Proof/Machine/Rings.lean ====
section
/-! DEFINITION. Rings: the forms that send a request, the ring engine's operations on reorder and keyed rings, withdrawals,
and the refill of spilled queues (R148, R174, R186-R190, R363-R365). -/
namespace Sys2Proof.Machine

/-- The type of ring that an operation is for (R186, R187). -/
def RingOp.kind : RingOp → Nat
  | .kpush => 2 | .kpop => 2 | _ => 1

/-- Whether an operation puts an entry in (R148). -/
def RingOp.puts : RingOp → Bool
  | .fill => true | .push => true | .kpush => true | _ => false

/-- Whether an operation takes an entry out (R148). -/
def RingOp.takes : RingOp → Bool
  | .pop => true | .kpop => true | _ => false

/-- Bytes from a header to the end of the leaf page that maps it (R186). -/
def Chip.leafRoom (c : Chip) (t : Thread) (va : Nat) : Option Nat :=
  let x := c.walkCtxOf t
  let bare := bits 63 60 (if x.v then x.vsatp.toNat else x.satp.toNat) = 0 && !x.v
  let at_ : List TlbLevel × Bool := match t.place with
    | .hart l k => ([.hart l k], (((c.hart? l k).getD {}).viewOf t.mode .store).1.sum)
    | _ => ([.core t.core, .die (t.core / 80)], true)
  let page := va / 4096
  let ok (e : TlbEntry) : Bool := at_.1.contains e.level && e.serves c x page && e.permits .store (c.modeOf t .store) at_.2 x page
  if t.onHart && (c.modeOf t .store = .m || bare) then none
  else (c.xl.tlb.find? ok).map fun e => (page / e.leaf + 1) * e.leaf * 4096 - va

/-- The fields of a header (R186). -/
structure RingHead where
  kind : Nat
  log : Nat
  size : Nat
  job : Nat
  /-- next ticket or sequence -/
  next : Nat
  /-- head, or entries held -/
  head : Nat
  /-- every zero field is zero -/
  zeros : Bool

/-- The header in 64 bytes (R186). -/
def ringHeadOf (v : Nat) : RingHead :=
  { kind := bits 7 0 v, log := bits 15 8 v, size := bits 23 16 v, job := bits 63 32 v, next := bits 127 64 v, head := bits 191 128 v
    zeros := bits 31 24 v = 0 && bits 511 192 v = 0 }

/-- Bytes of a slot or an entry (R186). -/
def RingHead.slot (h : RingHead) : Nat := if h.kind = 1 then 2 ^ h.size else 24

/-- Bytes of the whole ring (R186). -/
def RingHead.extent (h : RingHead) : Nat := 64 + 2 ^ h.log * h.slot

/-- Bytes of a payload (R363). -/
def RingHead.payload (h : RingHead) : Nat := if h.kind = 1 then 2 ^ h.size - 8 else 8

/-- Whether the fields are within the table for an operation (R186, R187). -/
def RingHead.ok (h : RingHead) (op : RingOp) : Bool :=
  h.zeros && h.kind = op.kind && decide (4 ≤ h.log) && decide (h.log ≤ 16) &&
  (if h.kind = 1 then decide (4 ≤ h.size) && decide (h.size ≤ 6) else h.size = 0)

/-- What a served request returns (R187, R363, R364). -/
structure RingResult where
  /-- 0, or the magnitude of the negative status -/
  status : Nat := 0
  /-- ticket or key -/
  value : Nat := 0
  /-- sequence of a keyed entry -/
  seq : Nat := 0
  payload : List Byte := []
  /-- something that was read is poisoned (R74) -/
  poison : Bool := false

/-- An entry of a keyed ring (R186). -/
structure HeapEntry where
  key : Nat
  seq : Nat
  payload : Nat
  poison : Bool

/-- The order of a keyed ring: key, then sequence, both unsigned (R187). -/
def HeapEntry.below (x y : HeapEntry) : Bool := decide (x.key < y.key) || (x.key = y.key && decide (x.seq < y.seq))

/-- Read entry i of a keyed ring (R186). -/
def Chip.heapGet (c : Chip) (a : Agent) (ring i : Nat) : HeapEntry × Chip :=
  let r := c.agentLoad a (ring + 64 + 24 * i) 24
  ({ key := bits 63 0 r.1, seq := bits 127 64 r.1, payload := bits 191 128 r.1, poison := r.2.1 }, r.2.2)

/-- Poison a physical address that an engine writes poison to (R73). -/
def Chip.poisonPut (c : Chip) (bad : Bool) (pa : Nat) : Chip :=
  if bad then (match c.target pa with | .main l => c.setPoison l | .onDie l => c.setPoison l | _ => c) else c

/-- Write entry i of a keyed ring (R186). -/
def Chip.heapPut (c : Chip) (a : Agent) (ring i : Nat) (e : HeapEntry) : Chip :=
  let pa := ring + 64 + 24 * i
  ((c.agentStore a pa (bytesOf e.key 8 ++ bytesOf e.seq 8 ++ bytesOf e.payload 8)).poisonPut e.poison pa).poisonPut e.poison (pa + 23)

/-- Place an entry at i or above it, towards the root (R187). -/
def Chip.heapUp (c : Chip) (a : Agent) (ring : Nat) (e : HeapEntry) : Nat → Nat → Chip
  | 0, i => c.heapPut a ring i e
  | n + 1, i =>
    if i = 0 then c.heapPut a ring 0 e
    else
      let p := c.heapGet a ring ((i - 1) / 2)
      if e.below p.1 then (p.2.heapPut a ring i p.1).heapUp a ring e n ((i - 1) / 2) else p.2.heapPut a ring i e

/-- Place an entry at i or below it, in a heap of a number of entries (R187). -/
def Chip.heapDown (c : Chip) (a : Agent) (ring held : Nat) (e : HeapEntry) : Nat → Nat → Chip
  | 0, i => c.heapPut a ring i e
  | n + 1, i =>
    let l := 2 * i + 1
    if held ≤ l then c.heapPut a ring i e
    else
      let x := c.heapGet a ring l
      let y := x.2.heapGet a ring (l + 1)
      let right := decide (l + 1 < held) && y.1.below x.1
      let child := if right then y.1 else x.1
      let c := if l + 1 < held then y.2 else x.2
      if child.below e then (c.heapPut a ring i child).heapDown a ring held e n (if right then l + 1 else l)
      else c.heapPut a ring i e

/-- Remember who put an entry in, for the pop that returns it (R148). -/
def Chip.pushed (c : Chip) (q : RingReq) (n : Nat) : Chip :=
  { c with disp := { c.disp with
      pushers := (q.header, n, q.core) :: c.disp.pushers.filter fun p => !(p.1 = q.header && p.2.1 = n) } }

/-- The pop that returns an entry synchronises with its push (R148), as an acquire of core scope (notes/assumptions/147), which is
promoted across cores (R66). The count that falls with it is a release of pod scope of what came before: both cores' lines are written
back (R174). -/
def Chip.popped (c : Chip) (q : RingReq) (n : Nat) : Chip :=
  match c.disp.pushers.find? fun p => p.1 = q.header && p.2.1 = n with
  | none => c
  | some (_, _, k) =>
    let c := { c with disp := { c.disp with pushers := c.disp.pushers.filter fun p => !(p.1 = q.header && p.2.1 = n) } }
    let c := match k with | some k => c.writeBackAll k | none => c
    let c := match q.core with | some k => c.writeBackAll k | none => c
    match (if q.from_.isSome then none else c.thread? q.thread) with
    | some t => c.acquired t 1 (decide (k ≠ q.core))
    | none => c

/-- The two operands of a request: ticket or key, and payload of n bytes; a memory form reads them from its buffer (R363,
R364). -/
def Chip.ringOperands (c : Chip) (a : Agent) (q : RingReq) (n : Nat) : Nat × List Byte × Bool × Chip :=
  match q.dest with
  | .slices _ => (q.key, bytesOf (numOf q.payload) n, false, c)
  | .memory _ buf _ =>
    if q.op = .push then
      let r := c.agentLoad a buf n
      (0, bytesOf r.1 n, r.2.1, r.2.2)
    else if q.op = .fill || q.op = .kpush then
      let r := c.agentLoad a buf (8 + n)
      (bits 63 0 r.1, bytesOf (r.1 >>> 64) n, r.2.1, r.2.2)
    else (0, [], false, c)

/-- Threads that wait for a request. -/
def Chip.ringWaiters (c : Chip) (id : Nat) : List Nat := (c.threads.filter fun t => t.wait = .ring id).map (·.id)

/-- A popped entry reaches the buffer of a memory form (R363); it is discarded where no thread waits for it any longer (R365). -/
def Chip.ringBuffer (c : Chip) (a : Agent) (q : RingReq) (bs : List Byte) (bad : Bool) : Chip :=
  match q.dest with
  | .memory _ buf _ => if q.from_.isNone && (c.ringWaiters q.id).isEmpty then c else (c.agentStore a buf bs).poisonPut bad buf
  | .slices _ => c

/-- fill of R187: the status, and the slot written. -/
def Chip.ringFill (c : Chip) (a : Agent) (q : RingReq) (h : RingHead) (next t : Nat) (bs : List Byte) (bad : Bool) :
    Nat × Bool × Chip :=
  let at_ := q.header + 64 + (t % 2 ^ h.log) * h.slot
  let ctl := c.agentLoad a at_ 8
  if next ≤ t || t < h.head || ctl.1 = t + 1 then (2, ctl.2.1, ctl.2.2)
  else
    let c := (ctl.2.2.agentStore a (at_ + 8) bs).poisonPut bad (at_ + 8)
    (0, ctl.2.1, (c.agentStore a at_ (bytesOf (t + 1) 8)).pushed q t)

/-- A request on a ring whose header stands within the table (R187); none holds it. -/
def Chip.ringApply (c : Chip) (u : Nat) (q : RingReq) (h : RingHead) (bad : Bool) : Option RingResult × Chip :=
  let a := unitAgent u
  let full := decide (2 ^ h.log ≤ (h.next + 2 ^ 64 - h.head) % 2 ^ 64)
  let x := c.ringOperands a q h.payload
  let c' := x.2.2.2
  match q.op with
  | .ticket =>
    if full then (none, c)
    else (some { value := h.next, poison := bad }, (c.agentStore a (q.header + 8) (bytesOf (h.next + 1) 8)).jobCount h.job true)
  | .fill =>
    let r := c'.ringFill a q h h.next x.1 x.2.1 x.2.2.1
    (some { status := r.1, poison := bad || r.2.1 }, r.2.2)
  | .push =>
    if full then (none, c)
    else
      let c := (c'.agentStore a (q.header + 8) (bytesOf (h.next + 1) 8)).jobCount h.job true
      let r := c.ringFill a q h (h.next + 1) h.next x.2.1 x.2.2.1
      (some { status := r.1, value := h.next, poison := bad || r.2.1 }, r.2.2)
  | .pop =>
    let at_ := q.header + 64 + (h.head % 2 ^ h.log) * h.slot
    let ctl := c.agentLoad a at_ 8
    if ctl.1 ≠ h.head + 1 then (none, c)
    else
      let p := ctl.2.2.agentLoad a (at_ + 8) h.payload
      let bs := bytesOf p.1 h.payload
      let c := p.2.2.agentStore a (q.header + 16) (bytesOf (h.head + 1) 8)
      (some { value := h.head, payload := bs, poison := bad || ctl.2.1 || p.2.1 },
       ((c.ringBuffer a q bs p.2.1).popped q h.head).jobCount h.job false)
  | .kpush =>
    if h.head = 2 ^ h.log then (none, c)
    else
      let e : HeapEntry := { key := x.1, seq := h.next, payload := numOf x.2.1, poison := x.2.2.1 }
      let c := (c'.heapUp a q.header e 17 h.head).agentStore a (q.header + 8) (bytesOf (h.next + 1) 8 ++ bytesOf (h.head + 1) 8)
      (some { poison := bad }, (c.jobCount h.job true).pushed q h.next)
  | .kpop =>
    if h.head = 0 then (none, c)
    else
      let e := c.heapGet a q.header 0
      let l := e.2.heapGet a q.header (h.head - 1)
      let c := if h.head = 1 then e.2 else l.2.heapDown a q.header (h.head - 1) l.1 17 0
      let c := c.agentStore a (q.header + 16) (bytesOf (h.head - 1) 8)
      let bs := bytesOf e.1.payload 8
      (some { value := e.1.key, seq := e.1.seq, payload := bs, poison := bad || e.1.poison },
       ((c.ringBuffer a q (bytesOf e.1.key 8 ++ bs) e.1.poison).popped q e.1.seq).jobCount h.job false)

/-- The engine of a ring of this package serves a request, or holds it (none) (R186, R187). -/
def Chip.ringServe (c : Chip) (q : RingReq) : Option RingResult × Chip :=
  let u := c.engineOf q.header
  let r := c.agentLoad (unitAgent u) q.header 64
  let h := ringHeadOf r.1
  let leaves := match q.room with | some n => decide (n < h.extent) | none => false
  if !h.ok q.op || leaves then (some { status := 3, poison := r.2.1 }, r.2.2)
  else if !r.2.2.jobOk h.job then (some { status := 4, poison := r.2.1 }, r.2.2)
  else r.2.2.ringApply u q h r.2.1

/-- The status or the positive result of a word (R363, R364). -/
def RingResult.word (r : RingResult) (ok : Nat) : Nat := if r.status = 0 then ok else 2 ^ 64 - r.status

/-- What a result writes for the thread that asked (R363, R364). -/
def RingReq.effect (op : RingOp) (dest : RingDest) (r : RingResult) : Eff :=
  let good (v : Nat) : Nat := if r.status = 0 then v else 0
  match dest with
  | .memory rd _ _ =>
    let v := match op with
      | .fill => 0 | .kpush => 0 | .kpop => r.seq | _ => r.value
    { sets := [(16 * rd, 64, r.word v)], poison := r.poison }
  | .slices d =>
    let s := fStart d
    match op with
    | .pop => { sets := [(s, fWidth d, good (numOf r.payload)), (s + fWidth d / 4, 4, r.status)], poison := r.poison }
    | .kpop => { sets := [(s, 64, good r.value), (s + 16, 64, good (numOf r.payload)), (s + 32, 4, r.status)], poison := r.poison }
    | .fill => { sets := [(s, 64, r.word 0)], poison := r.poison }
    | .kpush => { sets := [(s, 64, r.word 0)], poison := r.poison }
    | _ => { sets := [(s, 64, r.word r.value)], poison := r.poison }

/-- Length of the instruction behind a destination. -/
def RingDest.len : RingDest → Nat
  | .memory _ _ _ => 4
  | .slices _ => 8

/-- A ring instruction completes for a thread with its result; a pending request then parks it (R365). Poison on a latency
core raises cause 28 (R74). -/
def Chip.ringGive (c : Chip) (id : Nat) (op : RingOp) (dest : RingDest) (r : RingResult) (va : Nat) : Chip :=
  match c.thread? id with
  | none => c
  | some t =>
    if t.onHart && r.poison then (c.onThread id fun t => { t with wait := .ready }).hartTrap t 28 va
    else
      let e := RingReq.effect op dest r
      let u : Thread := { (t.apply (c.bars t) e).complete dest.len with arrived := none }
      let c := c.setThread u
      let c := if touchesSp (e.sets.map fun s => (s.1, s.2.1 / 4)) then c.windowUpdate id else c
      if t.reqPending && t.onCompute && !t.handler && t.wait ≠ .ready then c.onThread id fun t => t.parkHere 0 else c

/-- A request leaves the engine. -/
def Chip.dropRing (c : Chip) (id : Nat) : Chip :=
  ({ c with disp := { c.disp with ringReqs := c.disp.ringReqs.filter fun q => q.id ≠ id } } : Chip).unspill .ring id

/-- A served request answers every thread that waits for it (R364), or the package that sent it (R187). -/
def Chip.ringAnswer (c : Chip) (q : RingReq) (r : RingResult) : Chip :=
  let c := c.dropRing q.id
  match q.from_ with
  | some (p, req) => c.post p (.ringAnswer req r.status r.value r.seq r.payload r.poison)
  | none => (c.ringWaiters q.id).foldl (fun c t => c.ringGive t q.op q.dest r q.va) c

/-- Held requests of a ring that can be served now, in arrival order (R187). -/
def Chip.ringRetry (c : Chip) (header : Nat) : Nat → Chip
  | 0 => c
  | n + 1 =>
    let held := c.disp.ringReqs.filter fun q => q.header = header && q.held
    match held.findSome? fun q => match c.ringServe q with | (some r, c) => some (q, r, c) | (none, _) => none with
    | none => c
    | some (q, r, c) => (c.ringAnswer q r).ringRetry header n

/-- The next request of a ring in arrival order (R187). -/
def Chip.ringNext (c : Chip) (header : Nat) : Option RingReq :=
  c.disp.ringReqs.find? fun q => q.header = header && !q.held && !q.sent && !c.isSpilled .ring q.id

/-- Number of an operation in a message: in the order ticket, fill, push, pop, kpush, kpop. -/
def RingOp.number : RingOp → Nat
  | .ticket => 0 | .fill => 1 | .push => 2 | .pop => 3 | .kpush => 4 | .kpop => 5

/-- A request on a ring of another package leaves for it, its withdrawal behind it, as soon as its message finds room (R32, R187, R365;
notes/assumptions/101). -/
def Chip.ringSend (c : Chip) (q : RingReq) (p : Nat) : Chip :=
  if Config.outboxSlots + 1 ≤ c.outbox.length then c
  else
    let c := { c with disp := { c.disp with ringReqs := c.disp.ringReqs.map fun (k : RingReq) => if k.id = q.id then { k with sent := true } else k } }
    let buffer := match q.dest with | .memory _ b _ => some b | .slices _ => none
    let c := c.post p (.ring q.id q.op.number q.noWait q.header q.key q.payload buffer q.room q.job)
    if q.withdrawn then c.post p (.ringGone q.id) else c

/-- An engine takes up the next request of a ring: it serves it, holds it, or answers -1 (R187, R363); one on a ring of another package
goes there. -/
def Chip.ringTake (c : Chip) (id : Nat) (op : RingOp) : Chip :=
  match c.disp.ringReqs.find? fun q => q.id = id with
  | none => c
  | some q =>
    if q.op ≠ op || (c.ringNext q.header).map (·.id) ≠ some id then c
    else if 16 ≤ c.engineOf q.header then c.ringSend q (c.engineOf q.header - 16)
    else match c.ringServe q with
      | (some r, c) => (c.ringAnswer q r).ringRetry q.header c.disp.ringReqs.length
      | (none, c) =>
        if q.noWait then c.ringAnswer q { status := 1 }
        else { c with disp := { c.disp with ringReqs := c.disp.ringReqs.map fun k => if k.id = id then { k with held := true } else k } }

/-- RING_TICKET (R187): subject the request. -/
def execRingTicket (s : State) : Host.Outcome State Fault Refusal := done { s with chip := s.chip.ringTake s.subject .ticket }
/-- RING_FILL (R187). -/
def execRingFill (s : State) : Host.Outcome State Fault Refusal := done { s with chip := s.chip.ringTake s.subject .fill }
/-- RING_PUSH (R187). -/
def execRingPush (s : State) : Host.Outcome State Fault Refusal := done { s with chip := s.chip.ringTake s.subject .push }
/-- RING_POP (R187). -/
def execRingPop (s : State) : Host.Outcome State Fault Refusal := done { s with chip := s.chip.ringTake s.subject .pop }
/-- RING_KPUSH (R187). -/
def execRingKpush (s : State) : Host.Outcome State Fault Refusal := done { s with chip := s.chip.ringTake s.subject .kpush }
/-- RING_KPOP (R187). -/
def execRingKpop (s : State) : Host.Outcome State Fault Refusal := done { s with chip := s.chip.ringTake s.subject .kpop }

/-- A thread whose request was withdrawn: it parks, departs for a RECALL, or re-executes (R114, R226, R365). -/
def Chip.ringAbandon (c : Chip) (id : Nat) : Chip :=
  c.onThread id fun t =>
    if t.reqPending && t.onCompute && !t.handler then t.parkHere 2
    else if t.recalled then { t with wait := .moving .recall 0 0 0, waitSince := c.tick, recalled := false }
    else { t with wait := .ready, converged := false }

/-- A withdrawn request is over (R365): its threads go their way, or the package that sent it hears of it. -/
def Chip.ringGoes (c : Chip) (q : RingReq) : Chip :=
  match q.from_ with
  | some (p, req) => (c.dropRing q.id).post p (.ringAnswer req 7 0 0 [] false)
  | none => (c.ringWaiters q.id).foldl (fun c t => c.ringAbandon t) (c.dropRing q.id)

/-- Whether a request has left for a package that is lost since (R35). -/
def Chip.ringLost (c : Chip) (q : RingReq) : Bool := q.sent && c.ras.lost.getLsbD (c.engineOf q.header - 16)

/-- RING_WITHDRAWAL (R365): subject the request, which the engine took up before the withdrawal, or which is spilled. -/
def execRingWithdrawal (s : State) : Host.Outcome State Fault Refusal :=
  let c := s.chip
  match c.disp.ringReqs.find? fun q => q.id = s.subject with
  | none => done s
  | some q =>
    if !q.withdrawn || !(q.held || c.isSpilled .ring q.id || c.ringLost q) then done s
    else done { s with chip := c.ringGoes q }

/-- The answer of the package that homes a ring reaches the threads that wait for it (R187): 7 ends a withdrawn request (R365), 31 is a
spill that was not made (R190). A popped entry reaches the buffer, and its pop is promoted (R148). -/
def Chip.ringAnswered (c : Chip) (req : Nat) (r : RingResult) : Chip :=
  match c.disp.ringReqs.find? fun q => q.id = req && q.sent with
  | none => c
  | some q =>
    let ids := c.ringWaiters req
    if r.status = 7 then c.ringGoes q
    else if r.status = 31 then ids.foldl (fun c t => c.takeTrap t 31 (q.job.getD 0) 0) (c.dropRing req)
    else
      let bs := if q.op = .kpop then bytesOf r.value 8 ++ r.payload else r.payload
      let took := q.op.takes && r.status = 0
      let c := if took then c.ringBuffer (match q.core with | some k => .cdie (k / 80) | none => .cdie c.firstDie) q bs r.poison else c
      let c := c.dropRing req
      ids.foldl (fun c t =>
        let c := match (if took then c.thread? t else none) with | some u => c.acquired u 1 true | none => c
        c.ringGive t q.op q.dest r q.va) c

/-- The die in whose engine queue a request waits: its ring's, or for a ring of another package the requester's (R32, R188). -/
def Chip.queueDie (c : Chip) (q : RingReq) : Nat :=
  let u := c.engineOf q.header
  if u < 16 then u
  else match q.core, (c.thread? q.thread).map (·.place) with
    | some k, _ => k / 80
    | none, some (.hart l _) => 8 + l
    | none, _ => 8

/-- Requests in a queue of a die that are not spilled (R188). -/
def Chip.queueLength (c : Chip) (q : QueueKind) (die : Nat) : Nat :=
  match q with
  | .inbound => c.inboundLength
  | .batch => (c.eng.batches.filter fun b => b.closed && b.core / 80 = die && !c.isSpilled .batch b.id).length
  | .ring => (c.disp.ringReqs.filter fun r => c.queueDie r = die && !r.sent && !c.isSpilled .ring r.id).length
  | .walk => c.walkLength die

/-- The queue of a number in a spill record (R188). -/
def queueOf : Nat → Option QueueKind
  | 1 => some .inbound | 2 => some .batch | 3 => some .ring | 4 => some .walk | _ => none

/-- A spilled request is in its queue again (R188): a ring request at its end; a spawn or tsub executes with a place there. -/
def Chip.refilled (c : Chip) (k : QueueKind) (what : Nat) : Chip :=
  match k with
  | .ring =>
    let back := c.disp.ringReqs.filter fun q => q.id = what
    { c with disp := { c.disp with ringReqs := (c.disp.ringReqs.filter fun q => q.id ≠ what) ++ back } }
  | .inbound => c.onThread what fun t => match t.wait with
    | .spilledCall _ => { t with wait := .ready, called := true }
    | _ => t
  | _ => c

/-- TAILRACE_REFILL (R188, R190): a queue with room takes back the oldest spilled record of a job; nothing comes of one that was
withdrawn. -/
def execTailraceRefill (queue die job : Nat) (s : State) : Host.Outcome State Fault Refusal :=
  let c := s.chip
  match queueOf queue with
  | none => done s
  | some k =>
    match c.disp.spilled.find? fun r => r.queue = k && r.die = die && r.job = job with
    | none => done s
    | some r =>
      if k.capacity ≤ c.queueLength k die && r.what ≠ 0 then done s
      else
        let a := c.jobAddr job
        let c := c.devWrite (a + 0x3C) 4 ((c.devRead (a + 0x3C) 4 + 1) % 2 ^ 32)
        let c := c.devWrite (a + 0x18) 8 ((c.devRead (a + 0x18) 8 + 2 ^ 64 - 64) % 2 ^ 64)
        let c := { c with disp := { c.disp with spilled := c.disp.spilled.erase r } }
        done { s with chip := if r.what = 0 then c else c.refilled k r.what }

/-- A ring instruction of a thread before it is sent: its form, addresses and operands (R363, R364). -/
structure RingCall where
  op : RingOp
  noWait : Bool
  /-- header -/
  va : Nat
  /-- buffer of a memory form -/
  buf : Option Nat := none
  key : Nat := 0
  payload : List Byte := []
  /-- rd of a memory form, D of a long one -/
  rd : Nat := 0
  d : BitVec 12 := 0

/-- The status of a call that sends nothing: a misaligned buffer, then a misaligned header (R363, R364). -/
def RingCall.early (k : RingCall) : Option Nat :=
  if (match k.buf with | some b => decide (b % 64 ≠ 0) | none => false) then some 5
  else if k.va % 64 ≠ 0 then some 3 else none

/-- A translation that the engine uses: to main memory, or for a buffer to on-die memory (R27, R186). -/
def Chip.ringPage (c : Chip) (t : Thread) (va : Nat) (acc : Access) (onDie : Bool) : Stop ⊕ Nat :=
  match c.need t va acc with
  | .inl s => .inl s
  | .inr p => match c.target p.pa with
    | .main _ => .inr p.pa
    | .onDie _ => if onDie then .inr p.pa else .inl (.access va acc)
    | _ => .inl (.access va acc)

/-- How a buffer is translated: as a load for what puts an entry in, as a store otherwise (R363). -/
def RingOp.bufferAccess (op : RingOp) : Access := if op.puts then .load else .store

/-- The request of a ring instruction, with the physical addresses of its header and buffer (R363, R364). -/
def Chip.ringReq (c : Chip) (t : Thread) (k : RingCall) (pa buf : Nat) : RingReq :=
  { id := c.eng.next, thread := t.id, header := pa, op := k.op, noWait := k.noWait, key := k.key, payload := k.payload
    dest := match k.buf with | some v => .memory k.rd buf v | none => .slices k.d
    va := k.va, room := c.leafRoom t k.va, core := if t.onCompute then some t.core else none, job := c.jobOf t }

/-- Admission of a request to an engine's queue (R188-R190). -/
def Chip.ringAdmit (c : Chip) (t : Thread) (q : RingReq) : Option Chip :=
  let u := c.queueDie q
  c.enqueueIn .ring u (q.job.getD 0) (c.queueLength .ring u) q.id (if q.job.isNone then some t.id else none)

/-- What stops a ring instruction before its request is sent (R188-R190, R363, R364). -/
def Chip.ringStop (c : Chip) (t : Thread) (k : RingCall) : Option Stop :=
  if k.early.isSome then none
  else match c.ringPage t k.va .store false with
    | .inl s => some s
    | .inr pa =>
      match (match k.buf with | some b => c.ringPage t b k.op.bufferAccess true | none => .inr 0) with
      | .inl s => some s
      | .inr b =>
        let q := c.ringReq t k pa b
        match c.ringAdmit t q with
        | some _ => none
        | none => match q.job with
          | some j => some (.trap 31 j)
          | none => some (.hold (.queueAt QueueKind.ring.code (c.queueDie q)))

/-- A ring instruction sends its request and its threads wait; what puts an entry in is a release of core scope (R148, R187,
R363, R364). -/
def Chip.ringCall (c : Chip) (who : List Nat) (t : Thread) (k : RingCall) : Chip :=
  let dest (b : Nat) : RingDest := match k.buf with | some v => .memory k.rd b v | none => .slices k.d
  match k.early with
  | some n => who.foldl (fun c id => c.ringGive id k.op (dest 0) { status := n } k.va) c
  | none => match c.ringPage t k.va .store false with
    | .inl _ => c
    | .inr pa =>
      let b := match k.buf with
        | some b => (match c.ringPage t b k.op.bufferAccess true with | .inr p => p | .inl _ => 0)
        | none => 0
      let q := c.ringReq t k pa b
      let c := match k.buf with | some v => if t.onCompute then c.spillRange t v (v + 64) else c | none => c
      let c := if k.op.puts then c.release t.id 1 else c
      let q := { q with id := c.eng.next }
      match c.ringAdmit t q with
      | none => c
      | some c =>
        let c := { c with
          eng := { c.eng with next := q.id + 1 }
          disp := { c.disp with ringReqs := c.disp.ringReqs ++ [q] } }
        who.foldl (fun c m => c.onThread m fun t => { t with wait := .ring q.id, waitSince := c.tick, converged := false }) c

/-- The call of a long ring form (R364). -/
def ringLong (f : Long) (op : RingOp) (t : Thread) : RingCall :=
  { op := op, noWait := f.x.getLsbD 0, va := srcOf t.regs f.a 64 false, key := srcOf t.regs f.d 64 false
    payload := bytesOf (readSlices t.regs (fStart f.b) (fWidth f.b)) ((fWidth f.b + 7) / 8), d := f.d }

/-- A long ring form as an issue executes it: slices of D and B that it reads, and those it writes (R364). -/
def ringOp (f : Long) (op : RingOp) : Op :=
  let s := fStart f.d
  let src : List Span := match op with
    | .fill => [spanI f.d, spanI f.b] | .push => [spanI f.b] | .kpush => [spanI f.d, spanI f.b] | _ => []
  let dst : List Span := match op with
    | .pop => [spanI f.d, (s + fWidth f.d / 4, 1)] | .kpop => [(s, 32), (s + 32, 1)] | _ => [spanI f.d]
  { uses := { strict := spanI f.a :: src, writes := dst }
    check := fun c _ _ t => c.ringStop t (ringLong f op t)
    run := fun c ts => match ts with
      | [] => c
      | t :: _ => c.ringCall (ts.map (·.id)) t (ringLong f op t)
    advance := false, each := true }

/-- RTKT (R364). -/
def execRtkt (f : Long) (s : State) : Host.Outcome State Fault Refusal := done (s.long f (ringOp f .ticket))
/-- RFILL (R364). -/
def execRfill (f : Long) (s : State) : Host.Outcome State Fault Refusal := done (s.long f (ringOp f .fill))
/-- RPUSH (R364). -/
def execRpush (f : Long) (s : State) : Host.Outcome State Fault Refusal := done (s.long f (ringOp f .push))
/-- RPOP (R364). -/
def execRpop (f : Long) (s : State) : Host.Outcome State Fault Refusal := done (s.long f (ringOp f .pop))
/-- KPUSH (R364). -/
def execKpush (f : Long) (s : State) : Host.Outcome State Fault Refusal := done (s.long f (ringOp f .kpush))
/-- KPOP (R364). -/
def execKpop (f : Long) (s : State) : Host.Outcome State Fault Refusal := done (s.long f (ringOp f .kpop))

/-- The call of a memory ring form (R363). -/
def ringShort (op : RingOp) (rd rs1 rs2 : BitVec 5) (noWait : Bool) (t : Thread) : RingCall :=
  { op := op, noWait := noWait, va := (readX t.regs rs1.toNat).toNat, buf := some (readX t.regs rs2.toNat).toNat, rd := rd.toNat }

/-- A memory ring form (R363). -/
def State.ringForm (s : State) (op : RingOp) (rd rs1 rs2 : BitVec 5) (noWait : Bool) : Host.Outcome State Fault Refusal :=
  s.short { uses := { strict := [spanX rs1.toNat, spanX rs2.toNat], writes := [spanX rd.toNat] }
            check := fun c _ _ t => c.ringStop t (ringShort op rd rs1 rs2 noWait t)
            run := fun c ts => ts.foldl (fun c t => c.ringCall [t.id] t (ringShort op rd rs1 rs2 noWait t)) c
            advance := false }

/-- RFILLM (R363). -/
def execRfillm (rd rs1 rs2 : BitVec 5) (noWait : Bool) (s : State) : Host.Outcome State Fault Refusal :=
  s.ringForm .fill rd rs1 rs2 noWait
/-- RPUSHM (R363). -/
def execRpushm (rd rs1 rs2 : BitVec 5) (noWait : Bool) (s : State) : Host.Outcome State Fault Refusal :=
  s.ringForm .push rd rs1 rs2 noWait
/-- RPOPM (R363). -/
def execRpopm (rd rs1 rs2 : BitVec 5) (noWait : Bool) (s : State) : Host.Outcome State Fault Refusal :=
  s.ringForm .pop rd rs1 rs2 noWait
/-- KPUSHM (R363). -/
def execKpushm (rd rs1 rs2 : BitVec 5) (noWait : Bool) (s : State) : Host.Outcome State Fault Refusal :=
  s.ringForm .kpush rd rs1 rs2 noWait
/-- KPOPM (R363). -/
def execKpopm (rd rs1 rs2 : BitVec 5) (noWait : Bool) (s : State) : Host.Outcome State Fault Refusal :=
  s.ringForm .kpop rd rs1 rs2 noWait

end Sys2Proof.Machine
end

