-- ==== Sys2Proof/Machine/Caches.lean ====
section
/-! DEFINITION. What bounds the caches and the time of a write-back: capacities, dirty age, soft errors, and the queues at the
homes, as each step leaves them (R61, R65, R67, R76, R84-R86, R209). -/
namespace Sys2Proof.Machine

/-- The members of an overfull set among entries that a key sorts into sets, where any is. -/
def overfull [BEq κ] (xs : List α) (key : α → κ) (ways : κ → Nat) : Option (List α) :=
  xs.findSome? fun x =>
    let set := xs.filter fun y => key y == key x
    if ways (key x) < set.length then some set else none

/-- Evict from overfull sets, at most n entries; which one a set gives up is a free choice (notes/assumptions/123). -/
def evictWhile [BEq κ] (entries : Chip → List α) (key : α → κ) (ways : κ → Nat) (evict : Chip → α → Chip) :
    Nat → Chip → Chip
  | 0, c => c
  | n + 1, c => match overfull (entries c) key ways with
    | none => c
    | some set => match set[Config.victim c.free % set.length]? with
      | none => c
      | some victim => evictWhile entries key ways evict n ((evict c victim).drew 1)

/-- L1 data caches: 256 KiB in 8 ways are 512 sets of 64-byte lines (R61); a line's number gives its set
(notes/assumptions/123). -/
def Chip.trimL1 (c : Chip) : Chip :=
  if c.mem.l1.length ≤ 8 then c
  else evictWhile (·.mem.l1) (fun l => (l.core, l.line % 512)) (fun _ => 8) (fun c l => c.dropL1 l.core l.line) c.mem.l1.length c

/-- L1 instruction caches: 64 KiB in 4 ways are 256 sets (R61). -/
def Chip.trimCode (c : Chip) : Chip :=
  if c.mem.icache.length ≤ 4 then c
  else evictWhile (·.mem.icache) (fun l => (l.core, l.line % 256)) (fun _ => 4)
    (fun c l => { c with mem := { c.mem with icache := c.mem.icache.filter (· ≠ l) } }) c.mem.icache.length c

/-- The L2 slice of a line: the exclusive or of the six-bit groups of physical address bits 47:6 (R61). -/
def sliceOf (line : Nat) : Nat := (List.range 7).foldl (fun x i => x ^^^ bits (6 * i + 5) (6 * i) line) 0

/-- The set of a line in an agent's cache (R61): an L2 has 64 slices of 2,048 sets of 16 ways; the manual gives no sets for the
latency cores' caches, which count as one. -/
def cacheSet (a : Agent) (line : Nat) : Agent × Nat × Nat :=
  match a with
  | .cdie _ => (a, sliceOf line, line / 64 % 2048)
  | _ => (a, 0, 0)

/-- Lines of a set: 16 ways of an L2; 64 KiB and 2 MiB for each latency core of an L-die; other agents keep what they ask (R61). -/
def setWays (k : Agent × Nat × Nat) (lines : Nat) : Nat :=
  match k.1 with
  | .cdie _ => 16
  | .ldie _ => 48 * (1024 + 32768)
  | _ => lines

/-- The copies that this package's agents hold. -/
def Chip.copies (c : Chip) : List (Agent × Nat) := c.mem.dir.flatMap fun e => (e.owner.toList ++ e.sharers).map fun a => (a, e.line)

/-- L2s and the latency cores' caches (R61): what they evict goes to memory where they own it (R69). -/
def Chip.trimAgents (c : Chip) : Chip :=
  if c.mem.dir.length ≤ 16 then c
  else
    let n := c.copies.length
    evictWhile (·.copies) (fun k => cacheSet k.1 k.2) (fun k => setWays k n) (fun c k => c.agentEvict k.1 k.2) n c

/-- The home cache of an L-die: 64 MiB of 64-byte lines (R61); the manual gives no sets. -/
def Chip.trimHomes (c : Chip) : Chip :=
  if c.mem.homeLines.length ≤ 2 ^ 20 then c
  else evictWhile (·.mem.homeLines) (fun l => c.homeOf (64 * l)) (fun _ => 2 ^ 20)
    (fun c l => { c with mem := { c.mem with homeLines := c.mem.homeLines.filter (· ≠ l) } }) c.mem.homeLines.length c

/-- The set of a TLB entry: 32 sets in a core's TLB, 4,096 in a die's (R84, R85); the page's number gives it. -/
def tlbSet (e : TlbEntry) : TlbLevel × Nat :=
  match e.level with
  | .core _ => (e.level, e.vpage / e.pages % 32)
  | .die _ => (e.level, e.vpage / e.pages % 4096)
  | .hart _ _ => (e.level, 0)

/-- Ways of a TLB: 8 in a core's, 12 in a die's; the manual gives none for a latency core's (R84, R85). -/
def tlbWays (entries : Nat) (k : TlbLevel × Nat) : Nat :=
  match k.1 with
  | .core _ => 8
  | .die _ => 12
  | .hart _ _ => entries

/-- The TLBs (R84, R85). -/
def Chip.trimTlb (c : Chip) : Chip :=
  if c.xl.tlb.length ≤ 8 then c
  else evictWhile (·.xl.tlb) tlbSet (tlbWays c.xl.tlb.length)
    (fun c e => { c with xl := { c.xl with tlb := c.xl.tlb.filter (· ≠ e) } }) c.xl.tlb.length c

/-- The walk caches of 2,048 non-leaf PTEs (R86). -/
def Chip.trimWalks (c : Chip) : Chip :=
  if c.xl.walks.length ≤ 2048 then c
  else evictWhile (·.xl.walks) (·.die) (fun _ => 2048)
    (fun c w => { c with xl := { c.xl with walks := c.xl.walks.filter (· ≠ w) } }) c.xl.walks.length c

/-- Every cache within its size (R61, R84-R86). -/
def Chip.trim (c : Chip) : Chip := c.trimL1.trimCode.trimAgents.trimHomes.trimTlb.trimWalks

/-- Ticks after its dirty age of 256 by which a line's write-back has reached its die's L2 (R65, R67). The L2 has the line in M with it,
also where the manual allows more time for that, 60 ticks between dies and 1,200 a hop (notes/assumptions/146). -/
def performTicks : Nat := 20

/-- The lines whose dirty age has passed 256 ticks by more than their write-back may take (R65, R67). -/
def Chip.overdue (c : Chip) : List (Nat × Nat) :=
  (c.mem.l1.filter fun l => l.dirty ≠ 0 && decide (l.since + 256 + performTicks ≤ c.tick)).map fun l => (l.core, l.line)

/-- Those lines are written back, and their stores performed (R65, R67). -/
def Chip.writeBackOverdue (c : Chip) : Chip := c.overdue.foldl (fun c k => c.writeBack k.1 k.2) c

/-- Threads' requests in the fault queues whose threads no longer make them go (R76, R226). -/
def Chip.dropStale (c : Chip) : Chip :=
  if c.mem.parked.isEmpty then c
  else
    let live (r : ParkedReq) : Bool := match r.thread with
      | none => true
      | some id => match c.thread? id with
        | none => false
        | some t => (t.onCompute || t.onHart) && (t.wait = .homePark r.line || t.wait = .ready)
    { c with mem := { c.mem with parked := c.mem.parked.filter live } }

/-- An uncorrectable error in a thread's lane store, at an offset of its allocation, poisons the granule of 8 bytes (R73, R214): of space
4, or of the stack window, whose units lie there by their addresses (notes/assumptions/117). -/
def Thread.laneError (t : Thread) (off : Nat) : Thread :=
  if off < t.lsbytes then { t with lanePoison := setInsert (roundDown off 8) t.lanePoison }
  else
    let o := off - t.lsbytes
    let struck (u : WinUnit) : WinUnit :=
      if o < t.win.cap && u.base % t.win.cap = roundDown o 64 then { u with poison := u.poison ||| (1#8 <<< (o % 64 / 8)) } else u
    { t with win := { t.win with units := t.win.units.map struck } }

/-- An error in a register bar of a thread (R209): a single-bit error of a correcting bar waits for a read; a second one there, a
double-bit error or a parity error marks slices corrupted. -/
def Thread.barError (t : Thread) (n a bit : Nat) (single : Bool) : Thread :=
  -- a double-bit error marks the slices of its bar, a parity error those that hold bits of its group of nine
  let first := a - (t.p0 + a - 16) % n
  let group := (4 * (a - first) + bit % 4) / 9
  let same (i : Nat) : Bool := decide (16 ≤ i) && decide (i < t.tfoot) && barOf t.p0 n i = barOf t.p0 n a
  let hit (i : Nat) : Bool := same i && (n = 8 || (decide (9 * group / 4 ≤ i - first) && decide (i - first ≤ (9 * group + 8) / 4)))
  let bar := (List.range 512).filter same
  if n = 8 && single && !(bar.any fun i => t.flipped.getLsbD i) then { t with flipped := t.flipped ||| (1#512 <<< a) }
  else
    { t with
      corrupt := (List.range 512).foldl (fun m i => if hit i then m ||| (1#512 <<< i) else m) t.corrupt
      flipped := bar.foldl (fun m i => m &&& ~~~(1#512 <<< i)) t.flipped }

/-- A soft error strikes (R19, R22, R73, R76, R209, R214, R245, R246): one that main memory, a directory or a correcting register bar
holds waits for an access; other SRAM shows it at once, a corrected one only in the log. -/
def Chip.strike (c : Chip) (k : Strike) : Chip :=
  match k.place with
  | .store loc =>
    if bits 50 48 loc = 3 then (if k.kind = .hard then (c.logEvent 73).setPoison loc else c.logEvent 73)
    else { c with mem := { c.mem with latent := c.mem.latent ++ [(granuleOf loc, k.kind)] } }
  | .dirEntry line => if k.kind = .corrected then c.logEvent 76 else { c with mem := { c.mem with dirBad := setInsert line c.mem.dirBad } }
  | .lane id off =>
    let c := c.logEvent 73
    if k.kind ≠ .hard then c else c.onThread id fun t => t.laneError off
  | .acc core off =>
    let c := c.logEvent 73
    if k.kind ≠ .hard then c
    else { c with mem := { c.mem with accPoison := setInsert (roundDown (accAddr core off) 8) c.mem.accPoison } }
  | .wb core off =>
    let c := c.logEvent 73
    if k.kind ≠ .hard then c
    else { c with mem := { c.mem with wbPoison := setInsert (roundDown (wbAddr core off) 8) c.mem.wbPoison } }
  | .slice id a bit => match c.thread? id with
    | none => c
    | some t =>
      if !t.onCompute || decide (a < 16) || decide (t.tfoot ≤ a) then c
      else c.setThread (t.barError (c.bars t) a bit (k.kind ≠ .hard))

/-- The soft errors that are due strike. -/
def State.struck (s : State) : State :=
  if s.strikes.isEmpty then s
  else
    let due := s.strikes.filter fun k => decide (k.tick ≤ s.chip.tick)
    { s with
      chip := due.foldl (fun c k => c.strike k) s.chip
      strikes := s.strikes.filter fun k => decide (s.chip.tick < k.tick) }

end Sys2Proof.Machine
end

