-- ==== Sys2Proof/Machine/Schedule.lean ====
section
/-! DEFINITION. What step adds around the meanings: the fetch of the selected issue, the passing of time, and the default
schedule that picks a thread when no step of another agent comes (R2, R101, R193, R286; notes/assumptions/9). -/
namespace Sys2Proof.Machine

/-- A field of n bytes at an offset of the record at stthr, as the homes hold it. -/
def Chip.peek (c : Chip) (pa n : Nat) : Nat :=
  match c.target pa with
  | .main l => cellRead c.mem.bytes l n
  | _ => 0

/-- In U mode a latency core runs the thread that the record at stthr names: its identifier, grid, block, index, role and
spawner tag (R102, R110-R112, R164; notes/assumptions/21). -/
def Chip.adopt (c : Chip) (t : Thread) : Thread :=
  match t.place with
  | .hart l k =>
    let h := (c.hart? l k).getD {}
    if t.mode ≠ .u then t
    else if h.stthr = 0 then
      { t with
        tgrid := 0, tblk := 0, ttid := 0, trole := 0, osid := 0, block := none, cancelled := false, spawner := spawnerId c.pkg t.id }
    else
      let f (o n : Nat) : Nat := c.peek (h.stthr.toNat + o) n
      -- an arrival at a phase barrier that it has made, and the phase before it (R110, R366)
      let flags := f 0x196 1
      let arrived := if flags.testBit 6 then some (flags.testBit 7) else none
      let t := { t with
        arrived := if t.arrived.isSome || t.pc.toNat ≠ f 0 8 then t.arrived else arrived, osid := BitVec.ofNat 64 (f 0x170 8), tgrid := BitVec.ofNat 64 (f 0x178 8), tblk := f 0x180 4, ttid := f 0x188 4
        trole := f 0x18C 1, spawner := f 0x1A8 4, spawnSeq := f 0x1AC 4 }
      match c.awayEntry t with
      | some o => { t with block := o.block, cancelled := o.cancelled }
      | none => { t with block := none, cancelled := false }
  | _ => t

/-- The thread whose fetch stands for the participants (R193). -/
def State.lead (s : State) : Option (Issue × Thread) :=
  match s.issue with
  | none => none
  | some i => match i.parts with
    | [] => none
    | id :: _ => (s.chip.thread? id).map fun t => (i, s.chip.adopt t)

/-- Ticks by which a slewing timebase differs from its own count after e more ticks of it: one more or one less in each 1000 (R36). -/
def Link.slew (l : Link) (e : Nat) : Nat × Nat × Link :=
  let n := (l.slewed + e) / 1000
  let up := min n l.gain
  let down := if l.gain = 0 then min n l.lag else 0
  (up, down, { l with
    gain := l.gain - up, lag := l.lag - down, slewed := if l.gain = 0 && l.lag = 0 then 0 else (l.slewed + e) % 1000 })

/-- Time passes: the timebase, and the arithmetic cycles of 1.4 GHz that belong to it (R2, R101; notes/assumptions/5). What is due
by then happens: write-backs of aged lines, and soft errors (R65, R67, R76). -/
def State.pass (s : State) : State :=
  let e := Config.elapsedTicks s.chip.free
  let x := s.plat.link.slew e
  let tick := s.chip.tick + e + x.1 - x.2.1
  let s := { s with
    plat := { s.plat with link := x.2.2 }, chip := { s.chip with tick := tick, cycle := tick * 7 / 5, free := s.chip.free + 1 } }
  ({ s with chip := s.chip.writeBackOverdue }).struck

/-- The state once the instruction of the issue is fetched, and what it decodes to; none where the fetch stopped (R286). -/
def State.fetched (s : State) : Option (State × Decoded) × State :=
  match s.lead with
  | none => (none, { s with issue := none })
  | some (i, t) =>
    match s.chip.fetch t i.pc with
    | .inl stop => (none, { s with issue := none, chip := i.parts.foldl (fun c id => c.applyStop id 0 stop) s.chip })
    | .inr (w, len, lines) =>
      let chip := if t.onHart then s.chip.setThread t else s.chip.fillCode t lines
      let s' := { s with issue := some { i with word := w, len := len }, chip := chip }
      (some (s', (decodeWord w).2), s')

/-- What the default schedule gives a turn: a latency core's thread, or a port of a quarter. -/
inductive Turn where
  | hart (thread : Nat)
  | port (core quarter : Nat) (p : IssuePort)
  deriving DecidableEq

/-- The turns that may do something: each runnable thread of a latency core, and both ports of each quarter with a ready thread
(R194, R196). -/
def Chip.turns (c : Chip) : List Turn :=
  let qs := (c.groups.map fun g => (g.core, g.qtr)).eraseDups.filter fun q => c.threads.any fun t => c.canIssue t && match t.place with
    | .slot core r _ _ => core = q.1 && r = q.2
    | _ => false
  ((c.threads.filter fun t => t.onHart && c.canIssue t).map fun t => .hart t.id) ++
  qs.flatMap fun q => [.port q.1 q.2 .perLane, .port q.1 q.2 .uniform]

/-- The tsub that has waited longest for a dependence-table entry (R177). -/
def Chip.nextTsub (c : Chip) : Option Nat :=
  ((c.threads.filter fun t => t.wait = .tableEntry).foldl (fun (m : Option Thread) t => match m with
    | none => some t
    | some u => if t.waitSince < u.waitSince then some t else some u) none).map (·.id)

/-- Whether a thread that waits for room in a queue or table may try again: any at a queue that does not spill; the first in the line
at one that does (R177, R189, R341, R366, R373). -/
def Chip.mayRetry (c : Chip) (t : Thread) : Bool :=
  match t.wait with
  | .queueFull => true
  | .drain _ => true
  | .queueAt q die => match queueOf q with
    | some k => c.firstInLine k die (some t.id) && (decide (c.queueLength k die < k.capacity) || c.spillFits 0)
    | none => true
  | .tableEntry => c.nextTsub = some t.id && c.freeEntry.isSome
  | _ => false

/-- Those threads execute their instructions again. -/
def Chip.retryFull (c : Chip) : Chip :=
  { c with threads := c.threads.map fun t => if c.mayRetry t then { t with wait := .ready } else t }

/-- The default schedule, where no step of another agent comes: latency cores and the ports of the quarters take turns; a quarter
first makes the swap that is due (R194-R198; notes/assumptions/9). -/
def State.schedule (s : State) : State :=
  let c := s.chip
  let ts := c.turns
  match ts[s.turn % ts.length]? with
  | none => { s with chip := c.retryFull }
  | some t =>
    let s := { s with turn := s.turn + 1 }
    match t with
    | .hart id => match c.thread? id with
      -- an interrupt that is due comes before the next instruction (R101, R111)
      | some t => if (c.irqOf t).isSome then { s with chip := c.takeIrq id } else { s with issue := some { parts := [id], pc := t.pc } }
      | none => s
    | .port core q p => match c.dueSwap core q with
      | some (a, b) => { s with chip := c.swapGroups core q a b }
      | none => s.issuePort core q p

/-- Where the program of withFetchWord lies, and the physical address it is mapped to. -/
def startAt : Nat := 0x4000

/-- A thread that runs at a PC in slot 0 of core 0, with all its slices and a mapping of the first 8 MiB of HBM: how a
program comes to run stands in notes/assumptions/15. -/
def Chip.startThread (c : Chip) : Chip × Nat :=
  let id := c.eng.next
  let t : Thread := { id := id, place := .slot 0 0 0 0, pc := BitVec.ofNat 64 startAt, tfoot := 512, ctx := { satp := 10#64 <<< 60 } }
  let g : IssueGroup := { core := 0, qtr := 0, ig := 0, gm := List.replicate 12 0 }
  let e : TlbEntry := {
    level := .core 0, v := false, vmid := 0, asid := 0, global := false, gen := c.genOf false 0 0, vpage := 0, pages := 2048
    ppage := 0, leaf := 2048, r := true, w := true, x := true, user := true, dirty := 15, pbmt := 0, rsw := 0 }
  ({ c with
     threads := t :: c.threads.filter fun u => u.place ≠ .slot 0 0 0 0
     groups := g :: c.groups.filter fun k => !(k.core = 0 && k.qtr = 0 && k.ig = 0)
     eng := { c.eng with next := id + 1 }
     xl := { c.xl with tlb := e :: c.xl.tlb } }, id)

/-- Store code bytes where a thread fetches them: at their homes, with no older copy in an instruction cache (R61). -/
def Chip.placeCode (c : Chip) (t : Thread) (pc : Word) : Nat → List Byte → Option Chip
  | _, [] => some c
  | i, b :: r =>
    match c.fetchByte t ((pc.toNat + i) % 2 ^ 64) with
    | .inl _ => none
    | .inr l =>
      let c := c.putByte l b
      let c := { c with mem := { c.mem with
        icache := c.mem.icache.filter fun k => k.line ≠ l / 64, l1 := c.mem.l1.filter fun k => k.line ≠ l / 64 } }
      c.placeCode t pc (i + 1) r

end Sys2Proof.Machine
end

