-- ==== Sys2Proof/Machine/Moves.lean ====
section
/-! DEFINITION. Service batches and moves between latency and compute cores: departures, arrival rings, recalls (R104-R119,
R149, R366). -/
namespace Sys2Proof.Machine

/-- The open batch that an ecall joins (R118). -/
def Chip.openBatch (c : Chip) (core q ig : Nat) (key : Word) : Option Batch :=
  c.eng.batches.find? fun b => !b.closed && b.core = core && b.qtr = q && b.ig = ig && b.key = key && decide (b.members.length < 32)

/-- Remove a batch. -/
def Chip.dropBatch (c : Chip) (id : Nat) : Chip :=
  ({ c with eng := { c.eng with batches := c.eng.batches.filter fun b => b.id ≠ id } } : Chip).unspill .batch id

/-- A batch closes and enters the die's service queue, spilled where it must be; where the spill is not made, its members take
cause 31, or it waits (R118, R188-R190). -/
def Chip.closeBatch (c : Chip) (id : Nat) : Chip :=
  match c.eng.batches.find? fun b => b.id = id with
  | none => c
  | some b =>
    let die := b.core / 80
    let job := (b.members.head?.bind c.thread?).bind c.jobOf
    match c.enqueueIn .batch die (job.getD 0) (c.queueLength .batch die) id none with
    | some c => { c with eng := { c.eng with batches := c.eng.batches.map fun k => if k.id = id then { k with closed := true } else k } }
    | none => match job with
      | some j => b.members.foldl (fun c t => c.takeTrap t 31 j 0x73) (c.dropBatch id)
      | none => c

/-- An ecall of a compute-core thread joins a batch, as a release of device scope (R118, R119). -/
def Chip.joinBatch (c : Chip) (t : Thread) : Chip :=
  match t.place with
  | .slot core q ig _ =>
    let key := readX t.regs 17
    let c := c.release t.id 4
    let fresh : Batch := {
      id := c.eng.next, core := core, qtr := q, ig := ig, key := key, members := [], since := c.tick, closed := false }
    let c := match c.openBatch core q ig key with
      | some _ => c
      | none => { c with eng := { c.eng with batches := c.eng.batches ++ [fresh], next := c.eng.next + 1 } }
    match c.openBatch core q ig key with
    | none => c
    | some b =>
      let b := { b with members := b.members ++ [t.id] }
      let c := { c with eng := { c.eng with batches := c.eng.batches.map fun (k : Batch) => if k.id = b.id then b else k } }
      let c := c.onThread t.id fun t => { t with wait := .batch b.id, waitSince := c.tick }
      if b.members.length = 32 then c.closeBatch b.id else c
  | _ => c

/-- The cause of an ecall on a latency core (R116; notes/assumptions/8). -/
def Chip.ecallCause (c : Chip) (t : Thread) : Nat :=
  match t.mode with
  | .u => 8
  | .m => 11
  | .s => match t.place with
    | .hart l k => if ((c.hart? l k).getD {}).virt then 10 else 9
    | _ => 9

/-- ECALL (R116, R118, R119). -/
def execEcall (s : State) : Host.Outcome State Fault Refusal :=
  s.short { uses := { strict := (List.range 8).map fun i => spanX (10 + i) }
            check := fun c _ _ t => if t.onHart then some (.trap (c.ecallCause t) 0) else c.releaseStop t 4 false
            run := fun c ts => ts.foldl (fun c t => c.joinBatch t) c
            advance := false }

/-- BATCH_CLOSE (R118): subject the batch; 64 cycles of 1.4 GHz after its first member. -/
def execBatchClose (s : State) : Host.Outcome State Fault Refusal :=
  let c := s.chip
  match c.eng.batches.find? fun b => b.id = s.subject with
  | none => done s
  | some b => if b.closed || (c.tick - b.since) * 7 < 320 && b.members.length < 32 then done s else done { s with chip := c.closeBatch b.id }

/-- The batch with a service block that a thread waits in (R118, R188). -/
def Chip.servedBatch (c : Chip) (t : Thread) : Option Batch :=
  match t.wait with
  | .batch id => c.eng.batches.find? fun b => b.id = id && b.closed && b.members.contains t.id && !c.isSpilled .batch id
  | _ => none

/-- A member leaves its batch, which ends with its last member (R118). -/
def Chip.leaveBatch (c : Chip) (b : Batch) (id : Nat) : Chip :=
  let ms := b.members.filter (· ≠ id)
  if ms.isEmpty then c.dropBatch b.id
  else { c with eng := { c.eng with batches := c.eng.batches.map fun k => if k.id = b.id then { k with members := ms } else k } }

/-- SERVICE_COMPLETION (R118, R119, R226): a0 and a1 are written, and the thread goes on with an acquire of device scope; a
pending pre-emption request parks it. -/
def execServiceCompletion (thread : Nat) (a0 a1 : Word) (s : State) : Host.Outcome State Fault Refusal :=
  let c := s.chip
  match c.thread? thread with
  | none => done s
  | some t => match c.servedBatch t with
    | none => done s
    | some b =>
      let c := c.leaveBatch b thread
      let u := t.apply (c.bars t) { sets := [(160, 64, a0.toNat), (176, 64, a1.toNat)] }
      let c := (c.setThread { u.complete 4 with arrived := none }).acquire thread 4
      done { s with chip := if t.reqPending && !t.handler then c.onThread thread fun t => t.parkHere 0 else c }

/-- SERVICE_FORWARD (R118): subject the thread, which moves with reason 3 to re-execute its ecall. -/
def execServiceForward (s : State) : Host.Outcome State Fault Refusal :=
  let c := s.chip
  match c.thread? s.subject with
  | none => done s
  | some t => match c.servedBatch t with
    | none => done s
    | some b => done { s with chip := (c.leaveBatch b t.id).onThread t.id fun t => { t with
        wait := .moving .forwardedEcall 8 0 0, waitSince := c.tick } }

/-- Whether an instruction executes on compute cores only (R104). -/
def needsCompute (i : Instr) (inGrid : Bool) : Bool :=
  match i.longParts with
  | some (op, f) =>
    f.grouped || op / 16 = 8 || op / 16 = 9 || ((op / 16 = 6 || op / 16 = 7) && inGrid && f.space ≠ 0)
  | none => match i with
    | .join _ => true | .leave _ => true | .gwait _ => true | .pbinit _ _ => true | .pbarr _ _ => true | .pbwait _ _ => true
    | .pbarw _ _ => true | .twait _ => true | .give _ => true | .claim _ => true | _ => false

/-- AUTOMATIC_MOVE_TO_COMPUTE (R104): subject a thread on a latency core whose next instruction executes on compute cores
only; the departure is precise. -/
def execAutomaticMoveToCompute (s : State) : Host.Outcome State Fault Refusal :=
  let c := s.chip
  match c.thread? s.subject with
  | none => done s
  | some t =>
    if !t.onHart then done s
    else
      let t := c.adopt t
      match c.fetch t t.pc with
      | .inl _ => done s
      | .inr (w, _, _) => match (decodeWord w).2 with
        | .op i => if needsCompute i t.block.isSome then done { s with chip := (c.setThread t).applyStop t.id w .depart } else done s
        | _ => done s

/-- An issue group that holds no thread and no block is free (R107, R155). -/
def Chip.vacate (c : Chip) (core q ig : Nat) : Chip :=
  let thread := c.threads.any fun t => t.inGroup core q ig ||
    (match t.held with | some h => h.1 = core && h.2.1 = q && h.2.2.1 = ig | none => false)
  let block := c.disp.blocks.any fun b => b.resident && b.igs.any fun i => i.1 = core && i.2.1 = q && i.2.2 = ig
  if thread || block then c
  else { c with groups := c.groups.filter fun g => !(g.core = core && g.qtr = q && g.ig = ig) }

/-- A departing thread that has done what R108 asks leaves its slot: to the inbound queue for another compute core, where it may have
to wait in line, else towards an arrival ring (R106, R107, R112, R189). -/
def Chip.sendOff (c : Chip) (t : Thread) (why : MoveReason) (cause : Nat) (tval : Word) (ldie : Nat) : Chip :=
  match t.place with
  | .slot core q ig b =>
    let next : Thread := if why = .migrate then
      { t with regs := writeX t.regs t.hintRd 0, pc := t.pc + 4, instret := t.instret + 1, arrived := none } else t
    if why = .migrate && (hintOf t.hint).kind ≠ 3 then
      let entry := (QueueKind.inbound.code, 0, t.id)
      match c.enqueueIn .inbound 0 0 c.inboundLength t.id (some t.id) with
      | none => if c.disp.line.contains entry then c else { c with disp := { c.disp with line := c.disp.line ++ [entry] } }
      | some c =>
        (c.setThread { next with place := .inbound, wait := .ready, waitSince := c.tick, recalled := false, fromLdie := 0 }).vacate core q ig
    else c.setThread { next with
      place := .outbound ldie, held := some (core, q, ig, b), wait := .moving why cause tval ldie, waitSince := c.tick, recalled := false }
  | _ => c

/-- The departure of a compute-core thread, step by step, once its tokens have completed (R105, R108, R149); a handler that
would move ends instead (R228). -/
def Chip.departCompute (c : Chip) (t : Thread) (why : MoveReason) (cause : Nat) (tval : Word) (ldie : Nat) : Chip :=
  if t.handler then c.gridPolicy t cause tval.toNat
  else if !t.tokensDone || !(c.spillWindow t.id).homesTake [t.core] then c
  else
    let c := ((c.spillWindow t.id).writeBackAll t.core).dropResv t.id
    let c := (c.leaveMasks t).newEpoch t.core
    match c.thread? t.id with
    | none => c
    | some t =>
      let n := c.bars t
      let bad := lowestSlice [(16, t.tfoot - 16)] fun a => t.slicePoison n a || t.corrupt.getLsbD a
      match (if why = .recordedTrap && cause = 28 then none else bad) with
      | some a => (c.onThread t.id fun t => { t with wait := .ready, recalled := false }).takeTrap t.id 28 a 0
      | none => c.sendOff t why cause tval ldie

/-- AUTOMATIC_MOVE_TO_LATENCY (R105, R108): subject a thread that departs. -/
def execAutomaticMoveToLatency (s : State) : Host.Outcome State Fault Refusal :=
  let c := s.chip
  match c.thread? s.subject with
  | none => done s
  | some t => match t.place, t.wait with
    | .slot _ _ _ _, .moving why cause tval ldie => done { s with chip := c.departCompute t why cause tval ldie }
    | _, _ => done s

/-- log2 of the slots of an arrival ring (R124). -/
def arrivalLog (v : BitVec 4) : Nat := if 4 ≤ v.toNat && v.toNat ≤ 12 then v.toNat else 4

/-- Whether an L-die's arrival ring is usable where its next record goes (R408). -/
def Chip.arrivalUsable (c : Chip) (l : Nat) : Bool :=
  let n := 2 ^ arrivalLog (c.dev.arsize.getD l 4)
  let base := (c.dev.arbase.getD l 0).toNat
  c.ringUsable base (512 * n) && c.entryClean (base + 512 * ((c.dev.arprod.getD l 0).toNat % n)) 512

/-- Where the next record of an arrival ring goes; none while the ring is full or not usable (R112, R408). -/
def Chip.arrivalSlot (c : Chip) (l : Nat) : Option Nat :=
  let n := 2 ^ arrivalLog (c.dev.arsize.getD l 4)
  let base := (c.dev.arbase.getD l 0).toNat
  let prod := c.dev.arprod.getD l 0
  let used := (prod - c.dev.arcons.getD l 0).toNat
  if c.arrivalUsable l && decide (used < n) then some (base + 512 * (prod.toNat % n)) else none

/-- The record of a departing thread (R110). -/
def Chip.departureRecord (c : Chip) (t : Thread) : List Byte :=
  match t.wait with
  | .moving why cause tval _ =>
    let u : Thread := match t.held with | some (k, q, i, b) => { t with place := .slot k q i b } | none => t
    let mask := u.poisonRegs (c.bars u) true fun _ => true
    recordBytes t {
      reason := why.code, cause := cause, tval := if why = .recordedTrap || why = .automatic then tval else 0
      stored := ~~~BitVec.ofNat 32 mask, poisonMask := mask, ctx := t.ctx, foot := if (c.gridOf t).isSome then t.tfoot else 512
      flags := match t.arrived with | some p => 64 + 128 * flag p | none => 0 }
  | _ => []

/-- The departure that has waited longest for an L-die's arrival ring (R112). -/
def Chip.nextDeparture (c : Chip) (l : Nat) : Option Thread :=
  (c.threads.filter fun t => t.place = .outbound l).foldl (fun (m : Option Thread) t => match m with
    | none => some t
    | some u => if t.waitSince < u.waitSince then some t else some u) none

/-- ARRIVAL_RING_WRITE (R112, R409): subject the L-die. A thread of a block stays behind as an away thread (R109). A ring that becomes
unusable is logged (R408). -/
def execArrivalRingWrite (s : State) : Host.Outcome State Fault Refusal :=
  let l := s.subject
  let c := if (s.chip.nextDeparture l).isSome then s.chip.ringSeen (30 + l) (s.chip.arrivalUsable l) else s.chip
  match c.nextDeparture l, c.arrivalSlot l with
  | some t, some at_ =>
    let c := c.agentStore (.ldie l) at_ (c.departureRecord t)
    let prod := c.dev.arprod.getD l 0
    let first := prod = c.dev.arcons.getD l 0
    let c := { c with dev := { c.dev with arprod := listSet c.dev.arprod l (prod + 1) } }
    let c := if t.block.isSome || t.cancelled then
        c.setThread { t with place := .os, wait := .ready, barPoison := 0, corrupt := 0, held := if t.block.isSome then t.held else none }
      else { c with threads := c.threads.filter fun (u : Thread) => u.id ≠ t.id }
    let c := match t.held with | some (k, q, i, _) => c.vacate k q i | none => c
    done { s with chip := if first then c.sendMsi (c.dev.armsiaddr.getD l 0) (c.dev.armsidata.getD l 0) else c }
  | _, _ => done { s with chip := c }

/-- RECALL (R114): the compute-core thread that carries an identifier moves at its next instruction boundary. -/
def execRecall (id : Word) (s : State) : Host.Outcome State Fault Refusal :=
  let c := s.chip
  if id = 0 then done s
  else done { s with chip := { c with threads := c.threads.map fun (t : Thread) =>
      if t.osid = id && (t.onCompute || t.place = .inbound || t.place = .saved) then { t with recalled := true } else t } }

/-- A recalled thread at an instruction boundary, or in a wait that it abandons, departs with reason 2; a ring request is
withdrawn first, and a service call, a move, a request at a home, and a spawn or tsub at a full queue complete first (R114, R365,
R366). -/
def Chip.answerRecall (c : Chip) (t : Thread) : Chip :=
  let go (arrived : Option Bool) : Chip := (c.unqueue t.id).onThread t.id fun t => { t.settleFoot with
    wait := .moving .recall 0 0 0, waitSince := c.tick, converged := false, arrived := arrived, recalled := false }
  match t.wait with
  | .ready => if t.record.isEmpty then go t.arrived else c
  | .queueFull => go t.arrived
  | .queueAt _ _ => if t.record.isEmpty then go t.arrived else c
  | .miss => (c.unpark t.id).onThread t.id fun t => { t with wait := .moving .recall 0 0 0, waitSince := c.tick, recalled := false }
  | .group _ _ => go none
  | .barrier _ past arrived => go (if arrived then some past else none)
  | .tile _ _ => go none
  | .token _ => go none
  | .slices _ => go none
  | .parked _ _ => (c.unpark t.id).onThread t.id fun t => { t with wait := .moving .recall 0 0 0, waitSince := c.tick, recalled := false }
  | .ring req => c.withdraw fun q => q.id = req
  | _ => c

/-- Identifiers that service blocks give reach threads of compute cores that have none (R114; notes/assumptions/131). -/
def Chip.identify (c : Chip) (ids : List (Nat × Word)) : Chip :=
  ids.foldl (fun c k => c.onThread k.1 fun t => if t.onCompute && t.osid = 0 then { t with osid := k.2 } else t) c

/-- Recalled threads of the compute cores (R114). -/
def Chip.answerRecalls (c : Chip) : Chip :=
  (c.threads.filter fun t => t.recalled && t.onCompute && !t.handler).foldl (fun c t => c.answerRecall t) c

end Sys2Proof.Machine
end

