-- ==== Sys2Proof/Machine/Work.lean ====
section
/-! DEFINITION. Which waiting work a free place of a C-die goes to: saved blocks, ready tasks, moves from latency cores and
undealt blocks (R107, R159, R161, R171, R183, R228, R233). -/
namespace Sys2Proof.Machine

/-- A free slot of a core, with as many free slices as its footprint, for a thread of no grid, in an issue group that holds no block (R107): quarter, issue group, bit. -/
def Chip.moveSlot (c : Chip) (t : Thread) (core : Nat) : Option (Nat × Nat × Nat) :=
  let foot := arrivalFoot t.regs
  (List.range 4).findSome? fun q =>
    if c.quarterDetecting core q then none
    else (List.range 16).findSome? fun ig =>
      let block := c.disp.blocks.any fun b => b.resident && b.igs.any fun i => i.1 = core && i.2.1 = q && i.2.2 = ig
      if block then none
      else
        let taken (b : Nat) : Bool := c.threads.any fun u => u.place = .slot core q ig b || u.held = some (core, q, ig, b)
        ((List.range 32).find? fun b => !taken b && decide (foot ≤ c.laneFree core q (b % 16))).map fun b => (q, ig, b)

/-- A thread of a service block starts on the reserved core of its C-die, in S mode, in the first slot that has room (R8, R11;
notes/assumptions/115). -/
def Chip.startService (c : Chip) (s : Service) : Chip :=
  let core := 80 * s.die + 79
  let t : Thread := { id := c.eng.next, pc := s.pc, regs := writeX 0 10 s.arg, mode := .s, tfoot := 512, ctx := s.ctx }
  let spot := (List.range 4).findSome? fun q => (List.range 16).findSome? fun ig =>
    ((List.range 32).find? fun b =>
      !(c.threads.any fun u => u.place = .slot core q ig b) && decide (496 ≤ c.laneFree core q (b % 16))).map fun b => (q, ig, b)
  match spot with
  | none => c
  | some (q, ig, b) =>
    if 8 ≤ s.die || c.ras.dies.getLsbD s.die then c
    else
      let c := if (c.ig? core q ig).isNone then c.addGroup core q ig 0 else c
      { c with threads := c.threads ++ [{ t with place := .slot core q ig b }], eng := { c.eng with next := c.eng.next + 1 } }

/-- The dies and cores that a hint names (R106, R107). -/
def moveCores (h : Hint) : List (Nat × List Nat) :=
  match h.kind with
  | 0 => (List.range 8).map fun d => (d, List.range 79)
  | 1 => [(h.die, List.range 79)]
  | _ => [(h.die, [h.core])]

/-- The core and slot that a waiting move of no grid takes (R107). -/
def Chip.moveSpot (c : Chip) (t : Thread) : Option (Nat × Nat × Nat × Nat) :=
  (moveCores (hintOf t.hint)).findSome? fun p =>
    if c.ras.dies.getLsbD p.1 then none
    else p.2.findSome? fun k => (c.moveSlot t (80 * p.1 + k)).map fun s => (80 * p.1 + k, s)

/-- The stack window at an arrival (R215). -/
def Thread.arriveWindow (t : Thread) (cap top : Nat) (fixed : Bool) : Window :=
  let lo := roundDown (readX t.regs 2).toNat 64
  { lo := lo, hi := lo, cap := cap, top := top, fixed := fixed }

/-- A thread of no grid arrives in a slot, with an acquire of pod scope (R107, R149, R215, R337). -/
def Chip.arriveFree (c : Chip) (t : Thread) (core q ig b : Nat) : Chip :=
  let c := if (c.ig? core q ig).isNone then c.addGroup core q ig 0 else c
  let cap := if 256 ≤ c.laneStoreFree core q (b % 16) then 256 else 0
  let c := c.setThread { t with
    place := .slot core q ig b, held := none, mode := .u, tfoot := arrivalFoot t.regs, p0 := 0, barPoison := 0, corrupt := 0
    win := t.arriveWindow cap (roundUp (readX t.regs 2).toNat 64) false, lsbytes := 0, lane := [], lanePoison := []
    wait := .ready, waitSince := c.tick, age := 0, tprio := 0, arriving := false, tokens := noTokens }
  c.acquire t.id 5

/-- A grid or task thread returns to the slot it holds, and waits there for its slices as claim does (R109, R149, R337). -/
def Chip.arriveHeld (c : Chip) (t : Thread) (bk : Block) (core q ig b : Nat) : Chip :=
  let foot := max t.tfoot (arrivalFoot t.regs)
  let u : Thread := { t with
    place := .slot core q ig b, held := none, mode := .u, tfoot := 16, barPoison := 0, corrupt := 0
    win := t.arriveWindow bk.swbytes t.win.top true, wait := .ready, waitSince := c.tick, age := 0, tokens := noTokens
    reqPending := match bk.preempt with | .requested _ => true | _ => false }
  let free := (c.laneHead core q (b % 16)).isNone && decide (foot - 16 ≤ c.laneFree core q (b % 16))
  let c := c.setThread (if free then { u with tfoot := foot } else { u with arriving := true, wait := .slices foot, claimed := c.nextClaim })
  c.acquire t.id 5

/-- A waiting move is placed, where it has a place now (R107, R109). -/
def Chip.placeMove (c : Chip) (t : Thread) : Option Chip :=
  match c.blockOf t with
  | some bk => match t.held with
    | some (k, q, i, b) => match bk.preempt with
      | .none => some (c.arriveHeld t bk k q i b)
      | .requested _ => some (c.arriveHeld t bk k q i b)
      | _ => none
    | none => none
  | none => (c.moveSpot t).map fun s => c.arriveFree t s.1 s.2.1 s.2.2.1 s.2.2.2

/-- Work that waits for a place. -/
inductive WorkItem where
  | saved (block : Nat) | task (entry : Nat) | move (thread : Nat) | deal (slot : Nat)
  deriving DecidableEq, Repr

/-- The rank of waiting work: twice its priority, with a move between 31 and 32, then saved blocks before ready tasks before
undealt blocks, then the older (R107, R161, R183; notes/assumptions/25). -/
structure WorkRank where
  item : WorkItem
  prio : Nat
  kind : Nat
  age : Nat

/-- Whether work goes before other work. -/
def WorkRank.before (a b : WorkRank) : Bool :=
  decide (b.prio < a.prio) || (a.prio = b.prio && (decide (b.kind < a.kind) || (a.kind = b.kind && decide (a.age < b.age))))

/-- The die in whose ready queue a task waits (R183). -/
def Chip.taskDie (c : Chip) (k : Task) : Nat :=
  let d := if k.placement < 8 then k.placement else k.subDie
  if c.ras.dies.getLsbD d then c.firstDie else d

/-- Order of the owner of a block: its grid's arrival or its task's submission. -/
def Chip.ownerOrder (c : Chip) (b : Block) : Nat :=
  if b.isTask then ((c.task? b.owner).map (·.order)).getD 0 else ((c.grid? b.owner).map (·.order)).getD 0

/-- Whether a waiting move may take a place of a die: one of any core does not wait for a die (R106, R107). -/
def Chip.moveNames (c : Chip) (t : Thread) (die : Nat) : Bool :=
  let h := hintOf t.hint
  if h.kind = 0 then (c.moveSpot t).any fun s => s.1 / 80 = die else h.die = die

/-- The work that waits for a place of a die (R107, R161, R183); a saved gang grid waits at the sluice (R163). -/
def Chip.waitingWork (c : Chip) (die : Nat) : List WorkRank :=
  ((c.disp.blocks.filter fun b => b.preempt = .saved && b.saveDie = die && !c.isGang b).map fun b =>
    { item := .saved b.id, prio := 2 * b.prio, kind := 2, age := c.ownerOrder b }) ++
  ((c.disp.tasks.filter fun k => k.isReady && k.ready && k.write = .none && c.taskDie k = die).map fun k =>
    { item := .task k.entry, prio := 2 * k.level, kind := 1, age := k.order }) ++
  ((c.disp.grids.filter fun g => c.mayDeal g && (g.rangeOf die).isSome).map fun g =>
    { item := .deal g.slot, prio := 2 * g.desc.prio, kind := 0, age := g.order }) ++
  ((c.threads.filter fun t => t.place = .inbound && t.block.isNone && !c.isSpilled .inbound t.id && c.moveNames t die).map fun t =>
    { item := .move t.id, prio := 63, kind := 0, age := t.waitSince })

/-- Work takes a place of a die, if it has one there now. -/
def Chip.tryWork (c : Chip) (die : Nat) : WorkItem → Option Chip
  | .saved b => (c.block? b).bind fun b => c.restoreWhole b
  | .task e => ((c.task? e).filter fun k => c.homesTake k.promote).bind fun k => (c.taskSpot k die).bind fun p => p.1.head?.map fun core => c.startTask k core p.2
  | .deal slot => c.dealOne slot die
  | .move t => (c.thread? t).bind fun t => match c.moveSpot t with
    | some s => if s.1 / 80 = die then c.placeMove t else none
    | none => none

/-- Whether the places of saved gang grids that this package holds for a commit are still there (R162, R163). -/
def Chip.keepsHolds (c : Chip) : Bool :=
  c.disp.grids.all fun g => !g.holds || !g.begun ||
    (match c.disp.blocks.find? fun b => !b.isTask && b.owner = g.slot with | some b => (c.restoreWhole b).isSome | none => true)

/-- The best of some work that has a place on a die now, and the package with it placed; held places are not taken (R162). -/
def Chip.bestOf (c : Chip) (die : Nat) (ws : List WorkRank) : Option (WorkRank × Chip) :=
  let place (w : WorkRank) : Option Chip := (c.tryWork die w.item).filter (·.keepsHolds)
  ws.foldl (fun m w => match m with
    | some b => if w.before b.1 then (match place w with | some c => some (w, c) | none => m) else m
    | none => (place w).map fun c => (w, c)) none

/-- The work to which a free place of a die goes next. -/
def Chip.bestWork (c : Chip) (die : Nat) : Option (WorkRank × Chip) :=
  if c.ras.dies.getLsbD die then none else c.bestOf die (c.waitingWork die)

/-- BLOCK_START (R157, R159): subject the die; undealt work that a better one precedes waits. -/
def execBlockStart (s : State) : Host.Outcome State Fault Refusal :=
  match s.chip.bestWork s.subject with
  | some (w, c) => match w.item with
    | .deal _ => done { s with chip := c }
    | _ => done s
  | none => done s

/-- RESTORE (R161, R233, R234): subject the saved block; a cluster group goes back as a whole. A gang grid goes back by way of the
sluice (R163). -/
def execRestore (s : State) : Host.Outcome State Fault Refusal :=
  match s.chip.block? s.subject with
  | none => done s
  | some b => match s.chip.bestWork b.saveDie with
    | some (w, c) => match w.item with
      | .saved k => if k = b.id || (c.block? b.id).any fun b => b.preempt ≠ .saved then done { s with chip := c } else done s
      | _ => done s
    | none => done s

/-- The ready tasks of other dies, for a die with no waiting work (R183). -/
def Chip.stolenWork (c : Chip) (die : Nat) : List WorkRank :=
  if !(c.waitingWork die).isEmpty then []
  else (c.disp.tasks.filter fun k => k.isReady && k.ready && k.write = .none).map fun k =>
    { item := .task k.entry, prio := 2 * k.level, kind := 1, age := k.order }

/-- TASK_DISPATCH (R183, R185): subject the die. -/
def execTaskDispatch (s : State) : Host.Outcome State Fault Refusal :=
  let c := s.chip
  let die := s.subject
  if c.ras.dies.getLsbD die then done s
  else match (match c.bestWork die with | some x => some x | none => c.bestOf die (c.stolenWork die)) with
    | some (w, c) => match w.item with
      | .task _ => done { s with chip := c }
      | _ => done s
    | none => done s

/-- A move whose named die is fenced ends: the thread goes back to the L-die that it left, with status -2 in its migrate's
register (R107). -/
def Chip.returnMove (c : Chip) (t : Thread) : Chip :=
  (c.setThread { t with
    place := .outbound t.fromLdie, wait := .moving .migrate 0 0 t.fromLdie, waitSince := c.tick, held := none
    regs := if t.hintRd = 0 then t.regs else writeX t.regs t.hintRd (-2) }).unspill .inbound t.id

/-- THREAD_PLACEMENT (R107, R109, R169): subject a thread that waits to be placed. -/
def execThreadPlacement (s : State) : Host.Outcome State Fault Refusal :=
  let c := s.chip
  match c.thread? s.subject with
  | none => done s
  | some t =>
    let h := hintOf t.hint
    if t.place ≠ .inbound || c.isSpilled .inbound t.id then done s
    else if t.cancelled then
      done { s with chip := ({ c with threads := c.threads.filter fun (u : Thread) => u.id ≠ t.id } : Chip).unspill .inbound t.id }
    else if t.block.isSome then
      match c.placeMove t with
      | some c => done { s with chip := c }
      | none => done s
    else if h.kind ≠ 0 && c.ras.dies.getLsbD h.die then done { s with chip := c.returnMove t }
    else match c.moveSpot t with
      | none => done s
      | some p => match c.bestWork (p.1 / 80) with
        | some (w, c) => if w.item = .move t.id then done { s with chip := c } else done s
        | none => done s

/-- A die takes an undealt range of another one of its package for a place that a yield eviction freed: the upper half of the largest,
or one that is a single unit whole (R160, R171). -/
def Chip.takeRange (c : Chip) (slot die : Nat) : Chip :=
  match c.grid? slot with
  | none => c
  | some g =>
    if (g.rangeOf die).isSome then c
    else match c.giveRange g g.desc.demand.unit die with
      | some c => c
      | none => match g.dieRanges with
        | r :: rest => c.setGrid { g with dieRanges := { r with who := die } :: rest }
        | [] => c

/-- The place that a yield eviction frees goes to waiting work of the same grid (R161, R171): a block saved on its die, or undealt
blocks, of another die where it has none. -/
def Chip.yieldPlace (c : Chip) (b : Block) : Chip :=
  let die := b.core / 80
  let saved := c.disp.blocks.filter fun k => !k.isTask && k.owner = b.owner && k.id ≠ b.id && k.preempt = .saved && k.saveDie = die
  match saved.findSome? fun k => c.restoreWhole k with
  | some c => c
  | none => ((c.takeRange b.owner die).dealOne b.owner die).getD c

/-- PREEMPTION_SAVE (R161, R171, R228): subject the block. -/
def execPreemptionSave (s : State) : Host.Outcome State Fault Refusal :=
  match s.chip.block? s.subject with
  | none => done s
  | some b =>
    let c := s.chip.saveStep b
    if b.yieldFor && (c.block? b.id).any fun b => b.preempt = .saved then done { s with chip := c.yieldPlace b }
    else done { s with chip := c }

/-- Whether a thread has been in an architectural wait for longer than some ticks (R171). -/
def Thread.yields (t : Thread) (now ticks : Nat) : Bool :=
  (match t.wait with
    | .barrier _ _ _ => true
    | .group _ _ => true
    | .ring _ => true
    | .tile _ _ => true
    | .token _ => true
    | _ => false) && decide (ticks < now - t.waitSince)

/-- Yield time of a grid in ticks; 0 stands for 50 µs (R151). -/
def Descriptor.yieldTicks (d : Descriptor) : Nat := 1000 * (if d.yield = 0 then 50 else d.yield)

/-- This package asks the others for undealt blocks of a grid, through the head (R160, R171). -/
def Chip.askFor (c : Chip) (g : Grid) : Chip := if g.remote then c.tellHead g .ask else (c.stealFor g c.pkg).getD c

/-- YIELD_EVICTION (R171): subject the block. Where the grid's undealt blocks are all with other packages, they are asked for first, and
the eviction comes once they are here (notes/assumptions/147). -/
def execYieldEviction (s : State) : Host.Outcome State Fault Refusal :=
  let c := s.chip
  match c.block? s.subject with
  | none => done s
  | some b => match (if b.isTask then none else c.grid? b.owner) with
    | none => done s
    | some g =>
      let ts := c.threads.filter fun t => t.ofBlock b.id && t.onCompute
      let die := b.core / 80
      let waiting := (c.mayDeal g && !g.dieRanges.isEmpty) ||
        c.disp.blocks.any fun k => !k.isTask && k.owner = b.owner && k.preempt = .saved && k.saveDie = die
      if c.isGang b || b.preempt ≠ .none || b.cancelled || ts.isEmpty || !(ts.all fun t => t.yields c.tick g.desc.yieldTicks) then done s
      else if !waiting then done { s with chip := if g.open && (g.remote || !g.elsewhere.isEmpty) then c.askFor g else c }
      else
        let c := c.requestBlock b.id
        match c.block? b.id with
        | some b => done { s with chip := c.setBlock { b with yieldFor := true } }
        | none => done { s with chip := c }

end Sys2Proof.Machine
end

