-- ==== Sys2Proof/Machine/Peers.lean ====
section
/-! DEFINITION. What packages of a pod do for each other: the sluice, and the messages by which a grid head, the packages that take
part in its grids, dependence tables and ring engines work together (R158-R170, R178, R187). -/
namespace Sys2Proof.Machine

/-- Place the whole share of a gang grid in this package: its blocks start, or go back where they have been saved; none while they have
no place at once (R162, R163). -/
def Chip.placeShare (c : Chip) (g : Grid) : Option Chip :=
  if g.begun then
    let open_ := c.setGrid { g with gated := false, holds := false, evicted := false }
    match c.disp.blocks.find? fun b => !b.isTask && b.owner = g.slot with
    | some b => open_.restoreWhole b
    | none => some open_
  else (c.setGrid { g with gated := false, begun := true, dieRanges := [] }).startRanges g.slot g.desc.demand.unit g.dieRanges

/-- The answers of the other packages that a grid names, in their order, once they are all there (R162). -/
def Chip.answersOf (c : Chip) (g : Grid) (given : List Bool) : Option (List Bool) :=
  let ps := c.partners g
  if given.length = ps.length then some given
  else if ps.all fun p => g.answers.any fun a => a.1 = p then some (ps.map fun p => assocGet g.answers p false)
  else none

/-- A refused commit: all held places are given up, and the sluice asks again after 10 µs (R162). -/
def Chip.refuseCommit (c : Chip) (g : Grid) : Chip :=
  let g := { g with retryAt := c.tick + 10000, answers := [] }
  let c := c.tellOthers g .release
  c.setGrid (if g.begun then g else { g with cut := false, pkgRanges := [], elsewhere := [], returned := [], dieRanges := [], reported := [] })

/-- SLUICE_COMMIT (R162): the other packages' answers, or those that their messages have brought; this one answers yes when it can
place its share, which then starts. A gang grid that came earlier is offered first. -/
def execSluiceCommit (slot : Nat) (answers : List Bool) (s : State) : Host.Outcome State Fault Refusal :=
  let c := s.chip
  match c.grid? slot with
  | none => done s
  | some g =>
    let earlier := c.disp.grids.any fun e => e.gated && e.cut && !e.remote && e.retryAt = 0 && decide (e.order < g.order)
    if g.remote || !g.gated || !g.cut || g.retryAt ≠ 0 || earlier || !c.turnOf g || c.sluiceBlocks g then done s
    else match c.answersOf g answers with
      | none => done s
      | some as =>
        let mine := if as.all id && !(c.disp.grids.any (·.holds)) then (c.placeShare g).filter (·.keepsHolds) else none
        match mine with
        | some c => done { s with chip := c.tellOthers g .begin_ }
        | none => done { s with chip := c.refuseCommit g }

/-- SLUICE_RETRY (R162): 10 µs after a refused commit the sluice asks again: from the capacities on, or for saved blocks at once. -/
def execSluiceRetry (s : State) : Host.Outcome State Fault Refusal :=
  let c := s.chip
  match c.grid? s.subject with
  | none => done s
  | some g =>
    if !g.gated || g.retryAt = 0 || decide (c.tick < g.retryAt) then done s
    else
      let c := c.setGrid { g with retryAt := 0 }
      done { s with chip := if g.begun then c.tellOthers g .commit else c }

/-- The grid of a handle in a message, where this package heads it. -/
def Chip.headed (c : Chip) (h : Nat) : Option Grid := (c.gridByHandle (BitVec.ofNat 64 h)).filter fun g => !g.remote

/-- The grid of a handle in a message of the package that heads it. -/
def Chip.joined (c : Chip) (source h : Nat) : Option Grid :=
  (c.gridByHandle (BitVec.ofNat 64 h)).filter fun g => g.remote && c.headOf g = source

/-- A broadcast descriptor: this package takes part in the grid (R158). A gang grid waits for its head's commit (R162). -/
def Chip.takeOffer (c : Chip) (source h : Nat) (desc ctx : List Byte) (spawner seq : Nat) : Chip :=
  let slot := 65536 * (source + 1) + bits 31 16 h
  let d := descOf desc
  let g : Grid := {
    slot := slot, gen := h % 65536, desc := d, ctx := ctxOfBytes ctx, spawner := spawner, seq := seq, order := c.disp.order
    gated := d.flags.testBit 1, gateSince := c.tick }
  if bits 36 32 h ≠ source then c
  else { c with disp := { c.disp with
    grids := (c.disp.grids.filter fun k => k.slot ≠ slot) ++ [g], order := c.disp.order + 1 } }

/-- Indices dealt to this package (R158-R160): dealt to its dies; those of a cancelled grid are reported never started (R168). -/
def Chip.takeShare (c : Chip) (g : Grid) (lo hi : Nat) : Chip :=
  let r : Range := { who := c.pkg, lo := lo, hi := hi }
  if g.soft || g.hard then (if lo < hi then c.tellHead g (.retired · lo hi 3) else c)
  else if hi ≤ lo then c.setGrid { g with cut := true }
  else c.setGrid { g with
    cut := true, dieRanges := g.dieRanges ++ if g.desc.flags.testBit 1 then c.fillDies g r else c.dealDies g r }

/-- The head takes the upper half of what this package has not dealt (R160). -/
def Chip.giveUpRange (c : Chip) (g : Grid) (thief : Nat) : Chip :=
  let unit := g.desc.demand.unit
  let own := g.dieRanges.foldl (fun n r => n + (r.hi - r.lo)) 0
  let x := takeTop g.dieRanges ((own / unit / 2) * unit)
  let c := c.setGrid { g with dieRanges := x.1 }
  let c := if x.2.isEmpty then c.tellHead g (.gave · thief 0 0) else x.2.foldl (fun c r => c.tellHead g (.gave · thief r.lo r.hi)) c
  c.tellHead g (.undealt · (x.1.map fun r => (r.lo, r.hi)))

/-- Indices that a package gave up reach the thief; of a cancelled grid they count as never started. With none, the head asks the next
package (R160, R168). -/
def Chip.passOn (c : Chip) (g : Grid) (source thief lo hi : Nat) : Chip :=
  let taken : Range := { who := thief, lo := lo, hi := hi }
  if g.soft || g.hard then c.setGrid (g.retiredBy source lo hi 3)
  else if hi ≤ lo then (c.stealFor g thief).getD c
  else
    let rest := { g.retiredBy source lo hi 3 with neverStarted := g.neverStarted }
    if thief = c.pkg then c.setGrid { rest with dieRanges := rest.dieRanges ++ c.dealDies g taken }
    else (c.setGrid { rest with pkgRanges := rest.pkgRanges ++ [taken], elsewhere := rest.elsewhere ++ [taken] }).post thief
      (.share (c.gridHandle g).toNat lo hi)

/-- The threads of blocks whose places are held wait for the start (R162). -/
def Chip.holdPlaces (c : Chip) (slot : Nat) : Chip :=
  let mine (t : Thread) : Bool := match c.blockOf t with | some b => !b.isTask && b.owner = slot | none => false
  { c with threads := c.threads.map fun t => if mine t then { t with wait := .places } else t }

/-- The head asks for this package's share of a gang grid: the places are held, for one commit at a time, or the answer is no, as it is
while earlier grids of its spawner, or a gang grid at this package's own sluice, come first (R162, R164). -/
def Chip.answerCommit (c : Chip) (g : Grid) : Chip :=
  let no : Chip := (c.setGrid (if g.begun then g else { g with cut := false, dieRanges := [] })).tellHead g (.committed · false)
  let early := !g.begun && (!c.turnOf g || c.sluiceBlocks g)
  if c.disp.grids.any (·.holds) || early then no
  else match c.placeShare g with
    | none => no
    | some held =>
      -- saved blocks keep only the promise of their places; those that start are held in them
      let c := if g.begun then c.setGrid { g with holds := true }
        else (held.setGrid { g with holds := true, dieSp := ((held.grid? g.slot).getD g).dieSp }).holdPlaces g.slot
      c.tellHead g (.committed · true)

/-- The start of a gang grid whose places this package holds (R146, R162, R163); its blocks wait in them while an earlier grid of its
spawner has not begun here (R164). -/
def Chip.beginGrid (c : Chip) (g : Grid) : Chip :=
  if !g.holds then c
  else if !g.begun && !c.turnOf g then c.setGrid { g with starting := true }
  else if g.begun then (match c.placeShare g with | some c => c | none => (c.setGrid { g with holds := false }).tellHead g .save)
  else
    let bs := c.disp.blocks.filter fun b => !b.isTask && b.owner = g.slot
    let c := (bs.flatMap (·.cores)).foldl (fun c k => c.endLeases k) c
    let go (t : Thread) : Thread := if t.wait = .places && bs.any (fun b => t.ofBlock b.id) then { t with wait := .ready } else t
    ({ c with threads := c.threads.map go } : Chip).setGrid {
      g with holds := false, starting := false, gated := false, begun := true, dieRanges := [] }

/-- Gang grids whose turn has come begin (R164). -/
def Chip.beginGrids (c : Chip) : Chip :=
  (c.disp.grids.filter fun g => g.starting && c.turnOf g).foldl (fun c g => c.beginGrid g) c

/-- A commit was refused somewhere: the held places are given up (R162). -/
def Chip.releaseGrid (c : Chip) (g : Grid) : Chip :=
  if g.begun then c.setGrid { g with holds := false }
  else
    let c := c.dropHeld g.slot
    match c.grid? g.slot with
    | some g => c.setGrid { g with cut := false, dieRanges := [], dieSp := [] }
    | none => c

/-- A gang grid is saved in every package (R163). -/
def Chip.saveGrid (c : Chip) (source : Nat) (g : Grid) : Chip :=
  let c := c.requestGang g.slot
  if g.remote then c
  else (((c.partners g).filter (· ≠ source)).foldl (fun c p => c.post p (.save (c.gridHandle g).toNat)) c).gangSaved g.slot

/-- A fault of a block in another package reaches the head (R166, R167). -/
def Chip.takeFaultReport (c : Chip) (g : Grid) (bs : List Byte) (policy : Bool) : Chip :=
  let r : FaultReport := {
    tval := BitVec.ofNat 64 (recField bs 0 8), pc := BitVec.ofNat 64 (recField bs 8 8), block := recField bs 0x10 4
    thread := recField bs 0x14 2, cause := recField bs 0x16 1, pkg := recField bs 0x17 1, tick := recField bs 0x18 8 }
  let c := c.setGrid (g.count r policy)
  if policy then c.applyPolicy g.slot 0 else c

/-- A call about a handle of this package (R178, R359, R360, R362). -/
def Chip.takeCall (c : Chip) (h : Word) (what : PodCall) (x : Ctx) : Word × Chip :=
  match what with
  | .gcancel how => c.gcancelHere x h how
  | .gstat which => (c.gstatHere x h which, c)
  | .tcomm => c.tcommHere x h
  | .tabort =>
    let r := c.tabortHere x h
    (r.1, match r.2 with | some e => c.abortTask e false | none => c)

/-- A ring operation of its number. -/
def ringOpOf (n : Nat) : RingOp := [RingOp.ticket, .fill, .push, .pop, .kpush, .kpop].getD n .ticket

/-- A ring request of another package joins its engine's queue, spilled where it must be (R187, R188); where the spill is not made, the
answer says so (R190), and a request of no job keeps its turn (R189). -/
def Chip.takeRing (c : Chip) (q : RingReq) : Chip :=
  let u := c.engineOf q.header
  let q := { q with id := c.eng.next }
  let enter (c : Chip) : Chip :=
    { c with eng := { c.eng with next := c.eng.next + 1 }, disp := { c.disp with ringReqs := c.disp.ringReqs ++ [q] } }
  match c.enqueueIn .ring u (q.job.getD 0) (c.queueLength .ring u) q.id none, q.job, q.from_ with
  | some c, _, _ => enter c
  | none, some j, some (p, req) => (c.failJob j).post p (.ringAnswer req 31 0 0 [] false)
  | none, _, _ => enter c

/-- The request that a message of another package carries (R187). -/
def ringReqOf (source req op : Nat) (noWait : Bool) (header key : Nat) (payload : List Byte) (buffer room job : Option Nat) : RingReq :=
  { id := 0, thread := 0, header := header, op := ringOpOf op, noWait := noWait, key := key, payload := payload
    dest := match buffer with | some b => .memory 0 b 0 | none => .slices 0
    va := 0, room := room, core := none, from_ := some (source, req), job := job }

/-- What a message of another package does here (R151-R170, R178, R187). The answer to a call of this package's own was taken as that
package's when it was made (notes/assumptions/51). -/
def Chip.takeBody (c : Chip) (source : Nat) (b : PodBody) : Chip :=
  let head (h : Nat) (f : Grid → Chip) : Chip := match c.headed h with | some g => f g | none => c
  let member (h : Nat) (f : Grid → Chip) : Chip := match c.joined source h with | some g => f g | none => c
  let either (h : Nat) (f : Grid → Chip) : Chip := match c.gridByHandle (BitVec.ofNat 64 h) with | some g => f g | none => c
  match b with
  | .none => c
  | .offer h d x sp seq => c.takeOffer source h d x sp seq
  | .capacity h n => head h fun g => c.setGrid { g with reported := assocSet g.reported source n }
  | .share h lo hi => member h fun g => c.takeShare g lo hi
  | .undealt h rs => head h fun g => c.setGrid { g with
      elsewhere := (g.elsewhere.filter fun r => r.who ≠ source) ++ rs.map fun r => { who := source, lo := r.1, hi := r.2 } }
  | .ask h => head h fun g => if g.open then (c.stealFor g source).getD c else c
  | .giveUp h thief => member h fun g => c.giveUpRange g thief
  | .gave h thief lo hi => head h fun g => c.passOn g source thief lo hi
  | .commit h => member h fun g => c.answerCommit g
  | .committed h yes => head h fun g => c.setGrid { g with answers := assocSet g.answers source yes }
  | .begin_ h => member h fun g => c.beginGrid g
  | .release h => member h fun g => c.releaseGrid g
  | .save h => either h fun g => c.saveGrid source g
  | .retired h lo hi o => head h fun g => c.setGrid (g.retiredBy source lo hi o)
  | .fault h bs policy => head h fun g => c.takeFaultReport g bs policy
  | .dieFenced h => head h fun g => (c.setGrid { g with flags := g.flags ||| 0x20 }).applyPolicy g.slot 0
  | .cancel h hard => either h fun g => if hard then c.cancelHard g.slot else c.cancelSoft g.slot
  | .finished h => member h fun g => { c with disp := { c.disp with grids := c.disp.grids.filter fun k => k.slot ≠ g.slot } }
  | .call h what x =>
    let r := c.takeCall (BitVec.ofNat 64 h) what (ctxOfBytes x)
    r.2.post source (.answer r.1)
  | .answer _ => c
  | .ring req op nw header key payload buffer room job => c.takeRing (ringReqOf source req op nw header key payload buffer room job)
  | .ringAnswer req status value seq payload poison =>
    c.ringAnswered req { status := status, value := value, seq := seq, payload := payload, poison := poison }
  | .ringGone req => c.withdraw fun q => q.from_ = some (source, req)

end Sys2Proof.Machine
end

