-- ==== Sys2Proof/Machine/Paging.lean ====
section
/-! DEFINITION. The steps of the translation units: walks, fault records and their settlement, the page pools, generation
raises and remote fences (R85-R100, R410). -/
namespace Sys2Proof.Machine

/-- The oldest miss of a unit that waits for a walker; 64 walks run at once (R97). -/
def Chip.nextWalk (c : Chip) (u : Nat) : Option Miss :=
  let ms := (c.unit u).misses.filter fun m => !c.isSpilled .walk m.id
  if 64 ≤ (ms.filter (·.done.isSome)).length then none else ms.find? (·.done.isNone)

/-- Change a miss of a unit. -/
def Chip.onMiss (c : Chip) (u id : Nat) (f : Miss → Miss) : Chip :=
  let x := c.unit u
  c.setUnit u { x with misses := x.misses.map fun m => if m.id = id then f m else m }

/-- WALK (R85, R97): subject the unit; a walker reads the PTEs of the oldest miss. -/
def execWalk (s : State) : Host.Outcome State Fault Refusal :=
  let c := s.chip
  let u := s.subject
  match c.nextWalk u with
  | none => done s
  | some m => match c.walk ⟨u, m.ctx, m.mode, true, m.acc, false, m.va, false⟩ (.die u) m.va with
    | (.inl e, c) => done { s with chip := c.onMiss u m.id fun m => { m with done := some (.inl e) } }
    | (.inr f, c) =>
      -- a walk whose PTE waits at its home goes on later (R35, R76)
      if f.cause = 0 then done { s with chip := c }
      else done { s with chip := c.onMiss u m.id fun m => { m with done := some (.inr (f.cause, f.gpa, f.flags)) } }

/-- The threads that a miss holds (R97). -/
def Chip.missWaiters (c : Chip) (m : Miss) : List Thread :=
  m.waiters.filterMap fun id => (c.thread? id).filter fun t => t.wait = .miss

/-- A completed walk answers every waiter: its entry is installed in the die and in the waiting cores, or its fault parks those
whose access it was made for; the others try again (R97, R98). -/
def Chip.answerMiss (c : Chip) (u : Nat) (m : Miss) : Chip :=
  let ts := c.missWaiters m
  let x := c.unit u
  let c := c.setUnit u { x with misses := x.misses.filter fun k => k.id ≠ m.id }
  let c := ts.foldl (fun c t => c.onThread t.id fun t => { t with wait := .ready }) c
  match m.done with
  | none => c
  | some (.inl e) => m.cores.foldl (fun c k => c.install { e with level := .core k }) (c.install e)
  | some (.inr (cause, gpa, flags)) =>
    (ts.filter fun t => !m.late.contains t.id).foldl (fun c t => c.takeFault t.id cause m.va gpa flags m.acc) c

/-- WALK_COMPLETE (R97): subject the unit. -/
def execWalkComplete (s : State) : Host.Outcome State Fault Refusal :=
  match (s.chip.unit s.subject).misses.find? (·.done.isSome) with
  | none => done s
  | some m => done { s with chip := s.chip.answerMiss s.subject m }

/-- The bytes of a fault record (R98). -/
def faultBytes (r : FaultRec) : List Byte :=
  bytesOf r.va.toNat 8 ++ bytesOf r.gpa.toNat 8 ++ bytesOf r.ctx.asid 2 ++ bytesOf r.ctx.vmid 2 ++ bytesOf r.cause 1 ++
  bytesOf (r.flags + flag r.ctx.v) 1 ++ bytesOf r.number 2 ++ bytesOf r.locator 4 ++ bytesOf 0 4

/-- FAULT_RECORD_WRITE (R98, R408): subject the unit. -/
def execFaultRecordWrite (s : State) : Host.Outcome State Fault Refusal :=
  let c := s.chip
  let u := s.subject
  let x := c.unit u
  let n := 2 ^ ringLog x.frsize.toNat
  let at_ := x.frbase.toNat + 32 * (x.frprod.toNat % n)
  match x.records.find? (!·.written) with
  | none => done s
  | some r =>
    let usable := c.ringUsable x.frbase.toNat (32 * n) && c.entryClean at_ 32
    let c := if u < 8 then c.ringSeen (3 * u + 2) usable else c
    if u < 8 && usable && decide ((x.frprod - x.frcons).toNat < n) then
      let c := c.agentStore (unitAgent u) at_ (faultBytes r)
      let y := c.unit u
      let c := c.setUnit u { y with
        frprod := y.frprod + 1
        records := y.records.map fun k => if k.number = r.number then { k with written := true } else k }
      done { s with chip := if x.frprod = x.frcons then c.sendMsi x.zmsiaddr x.zmsidata else c }
    else done { s with chip := c }

/-- Whether a ring entry names a frame: zero above the PPN, and a frame of regions 0-2 of this package (R93). One whose address
raises an access fault is discarded and counted like any other (notes/assumptions/127). -/
def Chip.frameOk (c : Chip) (e : Nat) : Bool :=
  bits 63 44 e = 0 && c.pkg = bits 55 51 (bits 43 0 e * 4096) && decide (bits 50 48 (bits 43 0 e * 4096) ≤ 2) &&
  (match c.target (bits 43 0 e * 4096) with | .main _ => true | _ => false)

/-- POOL_FEED (R93, R94, R408): subject the unit. -/
def execPoolFeed (s : State) : Host.Outcome State Fault Refusal :=
  let c := s.chip
  let u := s.subject
  let x := c.unit u
  let n := 2 ^ ringLog x.zpsize.toNat
  let at_ := x.zpbase.toNat + 8 * (x.zpcons.toNat % n)
  let usable := c.ringUsable x.zpbase.toNat (8 * n) && c.entryClean at_ 8
  if 10 ≤ u || x.zpprod = x.zpcons || 64 ≤ x.reserve.length then done s
  else if !usable then done { s with chip := c.ringSeen (3 * u) false }
  else
    let c := c.ringSeen (3 * u) true
    let r := c.agentLoad (unitAgent u) at_ 8
    let c := r.2.2
    let x := { c.unit u with zpcons := x.zpcons + 1 }
    if c.frameOk r.1 then
      let frame := bits 43 0 r.1
      let c := (c.setUnit u { x with reserve := x.reserve ++ [frame] }).agentStore (unitAgent u) (frame * 4096) (List.replicate 4096 0)
      done { s with chip := c }
    else
      let before := (c.unit u).frames
      let log := c.logFree u
      let c := c.setUnit u { x with badfrm := if x.badfrm = 0xFFFF then x.badfrm else x.badfrm + 1 }
      done { s with chip := c.poolLow u before log }

/-- Outcome of a settled task (R180, R182). -/
def Task.outcome (k : Task) : Nat :=
  match k.state with
  | .failed => 2
  | .aborted => 3
  | _ => 1

/-- A task whose start is parked on a record may be dispatched again (notes/assumptions/24). -/
def Chip.unparkStart (c : Chip) (u n : Nat) : Chip :=
  { c with disp := { c.disp with tasks := c.disp.tasks.map fun k => if k.write = .statusParked u n then { k with write := .none } else k } }

/-- Retry a parked write of the grid head or the dependence table (R410). -/
def Chip.retryHead (c : Chip) (u n : Nat) : Chip :=
  let gs := (c.disp.grids.filter fun g => g.write = .statusParked u n || g.write = .wordParked u n).map (·.slot)
  let c := gs.foldl (fun c slot => match c.grid? slot with
    | some g => (c.setGrid { g with write := .none }).headFinish slot
    | none => c) c
  let ks := (c.disp.tasks.filter fun k => k.write = .wordParked u n).map (·.entry)
  let c := c.unparkStart u n
  ks.foldl (fun c e => match c.task? e with
    | none => c
    | some k => match c.headStore k.ctx k.cword.toNat (taskWord k.outcome) with
      | (.inl _, c) => (c.setTask { k with write := .none }).freeTask e
      | (.inr f, c) => let r := c.parkHead k.ctx f e (.wordParked 0 0); r.2.setTask { k with write := r.1 }) c

/-- Abandon a parked write of the grid head or the dependence table (R410). -/
def Chip.abandonHead (c : Chip) (u n : Nat) : Chip :=
  let gs := (c.disp.grids.filter fun g => g.write = .statusParked u n || g.write = .wordParked u n).map (·.slot)
  let c := gs.foldl (fun c slot => match c.grid? slot with
    | some g => (match g.write with
      | .statusParked _ _ => (c.setGrid { g with write := .none, statusDone := true }).headFinish slot
      | _ => c.dropGrid slot)
    | none => c) c
  let ks := (c.disp.tasks.filter fun k => k.write = .wordParked u n).map (·.entry)
  let c := c.unparkStart u n
  ks.foldl (fun c e => match c.task? e with | some k => (c.setTask { k with write := .none }).freeTask e | none => c) c

/-- A record is settled, and the threads that waited in the miss queue for one to come free try again (R98, R410). -/
def Chip.dropRecord (c : Chip) (u n : Nat) : Chip :=
  let x := c.unit u
  let c := c.setUnit u { x with records := x.records.filter fun r => r.number ≠ n, noRecord := [] }
  x.noRecord.foldl (fun c id => c.onThread id fun t => if t.wait = .miss then { t with wait := .ready } else t) c

/-- Threads parked on a record (R98). -/
def Chip.parkedOn (c : Chip) (u n : Nat) : List Nat := (c.threads.filter fun t => t.wait = .parked u n).map (·.id)

/-- Retry the access of every waiter of a record (R99). -/
def Chip.retryRecord (c : Chip) (u n : Nat) : Chip :=
  let ids := c.parkedOn u n
  let c := (c.dropRecord u n).retryHead u n
  let c := ids.foldl (fun c id => c.onThread id fun t => { t with wait := .ready }) c
  c.retryHead u 65536

/-- Whether a unit has a record outstanding (R99). -/
def Chip.outstanding (c : Chip) (u n : Nat) : Bool := (c.unit u).records.any fun r => r.number = n

/-- FRRESUME_RETRY (R99, R410). -/
def execFrresumeRetry (unit record : Nat) (s : State) : Host.Outcome State Fault Refusal :=
  if s.chip.outstanding unit record then done { s with chip := s.chip.retryRecord unit record } else done s

/-- FRRESUME_MIGRATE (R99, R110, R410). -/
def execFrresumeMigrate (unit record : Nat) (s : State) : Host.Outcome State Fault Refusal :=
  let c := s.chip
  if !c.outstanding unit record then done s
  else
    let ids := c.parkedOn unit record
    let c := (c.dropRecord unit record).abandonHead unit record
    let c := ids.foldl (fun c id => c.onThread id fun t => { t with wait := .moving .frresume 0 0 0, waitSince := c.tick }) c
    done { s with chip := c.retryHead unit 65536 }

/-- Write some modified units of a thread's window, which stay without their kept translations (R217). -/
def Chip.windowClean (c : Chip) (id : Nat) (p : WinUnit → Bool) : Chip :=
  match c.thread? id with
  | none => c
  | some t =>
    let c := (t.win.units.filter p).foldl (fun c u => c.spillUnit t.core t.id u) c
    let clean (u : WinUnit) : WinUnit := if p u then { u with modified := 0, kept := none } else u
    c.onThread id fun t => { t with win := { t.win with units := t.win.units.map clean } }

/-- Cores with dirty lines (R65). -/
def Chip.dirtyCores (c : Chip) : List Nat := ((c.mem.l1.filter fun l => l.dirty ≠ 0).map (·.core)).eraseDups

/-- The address spaces that a value of TRGEN names (R87, R100): V, VMID, and one ASID or all. -/
def trgenNames (v : Word) (x : Ctx) : Bool :=
  x.v == v.getLsbD 47 && (!v.getLsbD 47 || x.vmid = bits 45 32 v.toNat) && (v.getLsbD 46 || x.asid = bits 15 0 v.toNat)

/-- Raise the generation that a value of TRGEN names (R87). -/
def Chip.raise (c : Chip) (v : Word) : Chip :=
  let space := (v.getLsbD 47, if v.getLsbD 47 then bits 45 32 v.toNat else 0)
  let asid := bits 15 0 v.toNat
  let x := c.xl
  { c with xl :=
      if v.getLsbD 46 then { x with busy := some v, gensAll := assocSet x.gensAll space (assocGet x.gensAll space 0 + 1) }
      else { x with
        busy := some v
        gens := assocSet x.gens (space.1, space.2, asid) (assocGet x.gens (space.1, space.2, asid) 0 + 1) } }

/-- TRGEN (R87); a write while a raise is in progress is held. -/
def execTrgen (v : Word) (s : State) : Host.Outcome State Fault Refusal :=
  let c := s.chip
  if c.xl.busy.isSome then done { s with chip := { c with xl := { c.xl with heldRaise := c.xl.heldRaise ++ [v] } } }
  else done { s with chip := c.raise v }

/-- Memory ring requests whose buffer was translated for a thread with a property, and are not yet performed (R90, R363). -/
def Chip.buffersOut (c : Chip) (p : Thread → Nat → Bool) : Bool :=
  c.disp.ringReqs.any fun q => match q.dest with
    | .memory _ _ va => (match c.thread? q.thread with | some t => p t va | none => false)
    | .slices _ => false

/-- GENERATION_RAISE_COMPLETE (R87, R90, R217). -/
def execGenerationRaiseComplete (s : State) : Host.Outcome State Fault Refusal :=
  let c := s.chip
  match c.xl.busy with
  | none => done s
  | some v =>
    if (c.buffersOut fun t _ => trgenNames v (c.ctxOf t)) || !c.homesTake c.dirtyCores then done s
    else
      let ts := (c.threads.filter fun t => t.onCompute && trgenNames v t.ctx).map (·.id)
      let c := ts.foldl (fun c id => c.windowClean id fun _ => true) c
      let c := c.dirtyCores.foldl (fun c k => c.writeBackAll k) c
      let c := { c with xl := { c.xl with busy := none } }
      match c.xl.heldRaise with
      | [] => done { s with chip := c }
      | w :: rest => done { s with chip := ({ c with xl := { c.xl with heldRaise := rest } } : Chip).raise w }

/-- The pages of a range: none for the whole address space (R89; a zero range is the SBI's whole space, notes/assumptions/8). -/
def fencePages (r : FenceRange) : Option (Nat × Nat) :=
  let lo := r.start.toNat / 4096
  let n := (r.start.toNat + r.size.toNat + 4095) / 4096 - lo
  if r.size = BitVec.allOnes 64 || (r.start = 0 && r.size = 0) || 512 < n then none else some (lo, n)

/-- Whether pages lie in the range of a fence. -/
def FenceReq.covers (f : FenceReq) (lo n : Nat) : Bool :=
  match f.range with
  | none => true
  | some (p, k) => decide (lo < p + k) && decide (p < lo + n)

/-- Whether an entry is of an address space that a fence names; a global one is of no ASID (R89). -/
def FenceReq.entry (f : FenceReq) (e : TlbEntry) : Bool :=
  e.v == f.v && f.vmid.all (· = e.vmid) && f.asid.all (fun a => !e.global && a = e.asid) && f.covers e.vpage e.pages

/-- Whether a context is of an address space that a fence names. -/
def FenceReq.context (f : FenceReq) (x : Ctx) : Bool :=
  x.v == f.v && f.vmid.all (· = x.vmid) && f.asid.all (· = x.asid)

/-- Whether a fence names a non-leaf PTE of the walk cache: G-stage ones by a function that names the G-stage, others by the pages
that they cover (R89). -/
def FenceReq.walk (f : FenceReq) (w : WalkEntry) : Bool :=
  w.die = f.die && w.v == f.v && f.vmid.all (· = w.vmid) && w.gstage == f.gstage &&
  (f.gstage || (f.asid.all (· = w.asid) && f.covers (w.prefix_ * 512 ^ w.level) (512 ^ w.level)))

/-- Matching entries of a DTU's die go (R89): the cores that held one, with those the last-level TLB served, and what is left. -/
def Chip.fenceOut (c : Chip) (f : FenceReq) : List Nat × Chip :=
  let here (e : TlbEntry) : Bool := (match e.level with
    | .core k => k / 80 = f.die
    | .die d => d = f.die
    | .hart _ _ => false) && f.entry e
  let gone := c.xl.tlb.filter here
  let own := gone.filterMap fun e => match e.level with | .core k => some k | _ => none
  let shared := if gone.any fun e => e.level = .die f.die then c.dirtyCores.filter fun k => k / 80 = f.die else []
  ((own ++ shared).eraseDups, { c with xl := { c.xl with
    tlb := c.xl.tlb.filter fun e => !here e, walks := c.xl.walks.filter fun w => !f.walk w } })

/-- A remote fence reaches a DTU (R89-R91): matching entries go. Of the walks of its address spaces, one past its final PTE read
completes, and its entry counts as matching; the others have read nothing yet. -/
def Chip.remoteFence (c : Chip) (f : FenceReq) : Chip :=
  let r := c.fenceOut f
  let ws := ((c.unit f.die).misses.filter fun m => f.context m.ctx && m.done.isSome).map (·.id)
  { r.2 with xl := { r.2.xl with fences := r.2.xl.fences ++ [{ f with cores := r.1, walks := ws }] } }

/-- A fence of host address spaces, or of guest ones of a VMID. -/
def fenceOf (die : Nat) (v : Bool) (vmid asid : Option Nat) (range : Option (Nat × Nat)) : FenceReq :=
  { die := die, cores := [], v := v, vmid := vmid, asid := asid, range := range }

/-- REMOTE_SFENCE_VMA (R89). -/
def execRemoteSfenceVma (die : Nat) (range : FenceRange) (s : State) : Host.Outcome State Fault Refusal :=
  done { s with chip := s.chip.remoteFence (fenceOf die false none none (fencePages range)) }

/-- REMOTE_SFENCE_VMA_ASID (R89). -/
def execRemoteSfenceVmaAsid (die : Nat) (range : FenceRange) (asid : BitVec 16) (s : State) : Host.Outcome State Fault Refusal :=
  done { s with chip := s.chip.remoteFence (fenceOf die false none (some asid.toNat) (fencePages range)) }

/-- REMOTE_HFENCE_GVMA_VMID (R89): combined entries are kept by virtual page, so every one of the VMID goes. -/
def execRemoteHfenceGvmaVmid (die : Nat) (_range : FenceRange) (vmid : BitVec 14) (s : State) : Host.Outcome State Fault Refusal :=
  done { s with chip := s.chip.remoteFence { fenceOf die true (some vmid.toNat) none none with gstage := true } }

/-- REMOTE_HFENCE_GVMA (R89). -/
def execRemoteHfenceGvma (die : Nat) (_range : FenceRange) (s : State) : Host.Outcome State Fault Refusal :=
  done { s with chip := s.chip.remoteFence { fenceOf die true none none none with gstage := true } }

/-- REMOTE_HFENCE_VVMA_ASID (R89). -/
def execRemoteHfenceVvmaAsid (die : Nat) (range : FenceRange) (vmid : BitVec 14) (asid : BitVec 16) (s : State) :
    Host.Outcome State Fault Refusal :=
  done { s with chip := s.chip.remoteFence (fenceOf die true (some vmid.toNat) (some asid.toNat) (fencePages range)) }

/-- REMOTE_HFENCE_VVMA (R89). -/
def execRemoteHfenceVvma (die : Nat) (range : FenceRange) (vmid : BitVec 14) (s : State) : Host.Outcome State Fault Refusal :=
  done { s with chip := s.chip.remoteFence (fenceOf die true (some vmid.toNat) none (fencePages range)) }

/-- A fence of a die has been acknowledged (R90). -/
def Chip.acknowledged (c : Chip) (die : Nat) : Chip :=
  { c with xl := { c.xl with acks := listSet c.xl.acks die (c.xl.acks.getD die 0 + 1) } }

/-- REMOTE_FENCE_I (R89): subject the die. -/
def execRemoteFenceI (s : State) : Host.Outcome State Fault Refusal :=
  let c := s.chip
  let c := { c with mem := { c.mem with icache := c.mem.icache.filter fun l => l.core / 80 ≠ s.subject } }
  done { s with chip := c.acknowledged s.subject }

/-- DTU_ACKNOWLEDGE (R90, R217): subject the die. Windows and lines are written; covered parked faults are retried after it. -/
def execDtuAcknowledge (s : State) : Host.Outcome State Fault Refusal :=
  let c := s.chip
  let die := s.subject
  match c.xl.fences.find? fun f => f.die = die with
  | none => done s
  | some f =>
    if (c.buffersOut fun t va => t.core / 80 = die && f.context t.ctx && f.covers (va / 4096) 1) ||
        ((c.unit die).misses.any fun m => f.walks.contains m.id) || !c.homesTake f.cores then done s
    else
      let late := if f.walks.isEmpty then ([], c) else c.fenceOut f
      let c := late.2
      let ts := (c.threads.filter fun t => t.onCompute && t.core / 80 = die && f.context t.ctx).map (·.id)
      let c := ts.foldl (fun c id => c.windowClean id fun u => f.covers (u.base / 4096) 1) c
      let c := (f.cores ++ late.1).foldl (fun c k => c.writeBackAll k) c
      let c := { c with xl := { c.xl with fences := c.xl.fences.erase f } }
      let rs := ((c.unit die).records.filter fun r => f.context r.ctx && f.covers (r.va.toNat / 4096) 1).map (·.number)
      done { s with chip := rs.foldl (fun c n => c.retryRecord die n) (c.acknowledged die) }

end Sys2Proof.Machine
end

