-- ==== Sys2Proof/Machine/Homes.lean ====
section
/-! DEFINITION. The steps of the L2s, homes and directories, and the requests of other agents at a home: ownership, write-backs,
evictions, reads, writes, atomics, exactly-once replay and the fault queue (R65-R76, R139). -/
namespace Sys2Proof.Machine

/-- OWNERSHIP_NOTICE (R65). -/
def execOwnershipNotice (core line : Nat) (s : State) : Host.Outcome State Fault Refusal :=
  if s.chip.mem.notices.contains (core, line) then done { s with chip := s.chip.markOwned core line } else done s

/-- DIRTY_AGE_WRITEBACK (R65): at 256 ticks of dirty age. -/
def execDirtyAgeWriteback (core line : Nat) (s : State) : Host.Outcome State Fault Refusal :=
  match s.chip.l1Line? core line with
  | none => done s
  | some l => if l.dirty ≠ 0 && 256 ≤ s.chip.tick - l.since then done { s with chip := s.chip.writeBack core line } else done s

/-- LINE_EVICTION (R61, R65, R69). -/
def execLineEviction (by_ : Holder) (line : Nat) (s : State) : Host.Outcome State Fault Refusal :=
  let c := s.chip
  match by_ with
  | .core k => done { s with chip := c.dropL1 k line }
  | .icache k => done { s with chip := { c with mem := { c.mem with icache := c.mem.icache.filter fun l => !(l.core = k && l.line = line) } } }
  | .agent a => done { s with chip := c.agentEvict a line }

/-- DIRECTORY_EVICTION (R69): subject the line. -/
def execDirectoryEviction (s : State) : Host.Outcome State Fault Refusal :=
  let line := s.subject
  match s.chip.dirEntry? line with
  | none => done s
  | some _ => if s.chip.recallWaits line then done s else done { s with chip := (s.chip.recallLine line).setDir line none }

/-- RECALL_WRITEBACK (R66, R139): subject the core, which writes back every core-owned line. -/
def execRecallWriteback (s : State) : Host.Outcome State Fault Refusal :=
  done { s with chip := s.chip.writeBackAll s.subject }

/-- RESERVATION_EXPIRY (R71): subject the thread. -/
def execReservationExpiry (s : State) : Host.Outcome State Fault Refusal :=
  let c := s.chip
  let expired (r : Reservation) : Bool := r.thread = s.subject && decide (1024 ≤ c.tick - r.since)
  done { s with chip := { c with mem := { c.mem with resv := c.mem.resv.filter fun r => !expired r } } }

/-- The location that a request names, homed in this package (R68); none for any other address. -/
def Chip.requestLoc (c : Chip) (r : Request) : Option Nat :=
  match c.target r.addr.toNat with
  | .main l => (match c.homeOf l with | .pkg _ => none | _ => some l)
  | _ => none

/-- Whether a request is a store or an atomic, which leave an applied record (R75). -/
def leavesRecord : ReqOp → Bool
  | .read => false | _ => true

/-- A home answers a request. -/
def Chip.answer (c : Chip) (a : Answer) : Chip := { c with mem := { c.mem with answers := a :: c.mem.answers } }

/-- A home performs a request of an agent and answers it (R69, R70, R71, R73); a store or an atomic leaves its one applied record
(R75). -/
def Chip.perform (c : Chip) (r : Request) (l : Nat) : Chip :=
  let line := l / 64
  let home := c.homeOf l
  let base : Answer := { agent := r.agent, seq := r.seq, home := home, value := 0, poison := c.poisonedAt l }
  match r.op with
  | .read =>
    let c := (c.dirRead r.agent line).ecc l
    c.answer { base with value := (c.lineAt line 64 0).toNat, poison := c.poisonedAt l }
  | .write data =>
    (c.byLines l data fun c l bs => c.homeStore r.agent l bs).recordApplied { base with poison := false }
  | .atomic op w b cmp =>
    if !atomicSupported (.main l) (atomicFamily op w) then c.answer { base with unsupported := true }
    else
      let x := c.atomicAt none none (.main l) (w / 8) fun old => atomicNew op w old b cmp
      x.2.2.recordApplied { base with value := x.1, poison := x.2.1 }

/-- A request is refused with a retry response (R75, R76). -/
def Chip.refuse (c : Chip) (r : Request) : Chip := { c with mem := { c.mem with retries := c.mem.retries ++ [(r, c.tick)] } }

/-- Whether a request meets a fault of its line, or a write-back that its home does not take yet (R65, R76): of the directory entry any
request, of the data one that reads it. -/
def Chip.meetsFault (c : Chip) (r : Request) (line : Nat) : Bool :=
  c.dirFaulty line || c.recallWaits line || (match r.op with | .write _ => false | _ => c.dataFaulty line)

/-- A request reaches its home (R69, R70, R75, R76): one already applied gets its recorded result, one to a line that waits is
parked, a new store or atomic may be refused, any other is performed. -/
def Chip.receive (c : Chip) (r : Request) (l : Nat) (replay : Bool) : Chip :=
  let home := c.homeOf l
  match c.mem.applied.find? fun a => !a.own && a.agent = r.agent && a.seq = r.seq with
  | some a => c.answer a
  | none =>
    if !replay && (c.lineHeld (l / 64) || c.meetsFault r (l / 64)) then
      if 2048 ≤ c.parkedAt home then c.refuse r
      else { c with mem := { c.mem with parked := c.mem.parked ++ [{ req := r, line := l / 64 }] } }
    else if leavesRecord r.op && c.refuses home then c.refuse r
    else c.perform r l

/-- A requester acknowledges a response with its next request, and the home forgets that applied record (R75): the number is 0
for none, else one more than the sequence number. -/
def Chip.acknowledge (c : Chip) (a : Agent) (n : Nat) : Chip :=
  if n = 0 then c
  else { c with mem := { c.mem with applied := c.mem.applied.filter fun k => !(!k.own && k.agent = a && k.seq.toNat = n - 1) } }

/-- The BAR and the offset that a foreign host's access names (R38, R123; notes/assumptions/130). -/
def hostBar (a : Word) : Nat × Nat := (bits 63 60 a.toNat, bits 59 0 a.toNat)

/-- An inbound access of a device at an L-die's port (R38): the IOMMU translates its address, and reports the fault of one that it does
not allow. That one, or one that comes to a port which is down or fenced, reaches no home. Of a foreign host's accesses those through
BAR 2 reach the staging window (R123, R124). -/
def Chip.inbound (c : Chip) (r : Request) : Option Request × Chip :=
  match r.agent with
  | .cxl l =>
    let p := c.pciePort l
    let bar := hostBar r.addr
    if !p.up || p.fenced then (none, c)
    else if p.endpoint then
      (if bar.1 = 2 && decide (bar.2 < 2 ^ 26) then some { r with addr := c.dev.grstage + BitVec.ofNat 64 bar.2 } else none, c)
    else if !p.iommu.v && bits 63 60 p.iommu.satp.toNat = 0 then (some r, c)
    else
      let acc := match r.op with | .read => Access.load | _ => .store
      match c.walk ⟨8 + l, p.iommu, .u, true, acc, false, r.addr.toNat, false⟩ (.die (8 + l)) r.addr.toNat with
      | (.inl e, c) => (some { r with addr := BitVec.ofNat 64 (e.phys r.addr.toNat).pa }, c)
      | (.inr f, c) => (none, { c with pcie := listSet c.pcie l { c.pciePort l with
          faults := (c.pciePort l).faults ++ [(f.cause, r.addr)] } })
  | _ => (some r, c)

/-- A foreign host's access through BAR 0, in endpoint mode: an aligned dword of the graph block (R38, R123, R124). -/
def State.hostRegister (s : State) (r : Request) : Option State :=
  let c := s.chip
  match r.agent with
  | .cxl l =>
    let p := c.pciePort l
    let bar := hostBar r.addr
    if !p.up || p.fenced || !p.endpoint || bar.1 ≠ 0 || 0x100 ≤ bar.2 || bar.2 % 8 ≠ 0 then none
    else
      let pa := c.pkg * 2 ^ 51 + 4 * 2 ^ 48 + 0x3000 + bar.2
      match r.op with
      | .read => some { s with chip := c.answer { agent := r.agent, seq := r.seq, home := .ldie l, value := (s.ioLoad c pa 8).1, poison := false } }
      | .write data => some { s with chip := if data.length = 8 then c.ioStore pa (numOf data) else c }
      | .atomic _ _ _ _ => none
  | _ => none

/-- A request of one kind of another agent (R69, R70, R75). -/
def State.request (s : State) (r : Request) (kind : Bool) : Host.Outcome State Fault Refusal :=
  if !kind then done s
  else match s.hostRegister r with
  | some s => done s
  | none => match s.chip.inbound r with
    | (none, c) => done { s with chip := c }
    | (some r, c) => match c.requestLoc r with
      | none => done { s with chip := c }
      | some l => done { s with chip := (c.acknowledge r.agent s.subject).receive r l false }

/-- DIRECTORY_READ (R69): the subject is the acknowledgement that comes with the request. -/
def execDirectoryRead (req : Request) (s : State) : Host.Outcome State Fault Refusal := s.request req (req.op = .read)

/-- DIRECTORY_WRITE (R69, R75). -/
def execDirectoryWrite (req : Request) (s : State) : Host.Outcome State Fault Refusal :=
  s.request req (match req.op with | .write _ => true | _ => false)

/-- HOME_ATOMIC (R70, R75). -/
def execHomeAtomic (req : Request) (s : State) : Host.Outcome State Fault Refusal :=
  s.request req (match req.op with | .atomic _ _ _ _ => true | _ => false)

/-- Remove an element at an index. -/
def removeAt : List α → Nat → List α
  | [], _ => []
  | _ :: r, 0 => r
  | x :: r, n + 1 => x :: removeAt r n

/-- REQUEST_RESEND (R75): subject the index of a refused request, 1 µs after its refusal. -/
def execRequestResend (s : State) : Host.Outcome State Fault Refusal :=
  let c := s.chip
  match c.mem.retries[s.subject]? with
  | none => done s
  | some (r, since) =>
    if c.tick < since + 1000 then done s else
    let c := { c with mem := { c.mem with retries := removeAt c.mem.retries s.subject } }
    match c.requestLoc r with
    | none => done { s with chip := c }
    | some l => done { s with chip := c.receive r l false }

/-- Threads that wait at a home, or for a write-back there, try again (R65, R76). -/
def Chip.wakeParked (c : Chip) : Chip :=
  { c with threads := c.threads.map fun t => match t.wait with
    | .homePark _ => { t with wait := .ready }
    | .drain _ => { t with wait := .ready }
    | _ => t }

/-- The repair of an error of a line (R76): its directory entry is rebuilt from what the agents hold; data that the re-read does
not give is recorded as poison. -/
def Chip.repairLine (c : Chip) (line : Nat) (good : Bool) : Chip :=
  let bad := c.mem.latent.any fun e => e.1 = 64 * line
  let c := { c with mem := { c.mem with
    latent := c.mem.latent.filter fun e => e.1 ≠ 64 * line, dirBad := c.mem.dirBad.filter (· ≠ line) } }
  if bad then (if good then c.logEvent 19 else (c.logEvent 19).setPoison (64 * line)) else c

/-- Replay a parked request (R76): the oldest of its line, once its fault is repaired. A thread's access executes again, and leaves
the queue when it does; the engine, walk or L2 behind one of a unit goes on by itself. -/
def Chip.replayParked (c : Chip) (i : Nat) (repaired : Bool) : Chip :=
  match c.mem.parked[i]? with
  | none => c
  | some p =>
    let older := (c.mem.parked.take i).any fun k => k.line = p.line
    let c' := { c with mem := { c.mem with parked := removeAt c.mem.parked i } }
    -- an owner or a home without a route is not repaired yet
    if older || c.lineCut p.line then c
    else if p.unit_ then (c'.repairLine p.line repaired).wakeParked
    else match p.thread with
      | some _ => (c.repairLine p.line repaired).wakeParked
      | none =>
        let c := c'.repairLine p.line repaired
        match c.requestLoc p.req with
        | none => c.wakeParked
        | some l => (c.receive p.req l true).wakeParked

/-- FAULT_QUEUE_REPLAY (R76). -/
def execFaultQueueReplay (index : Nat) (repaired : Bool) (s : State) : Host.Outcome State Fault Refusal :=
  done { s with chip := s.chip.replayParked index repaired }

end Sys2Proof.Machine
end

