-- ==== Sys2Proof/Machine/Sign.lean ====
section
/-! DEFINITION. The signatures of the root firmware: SHAKE256 with 512 bits of output, and XMSS of RFC 8391 with the sets of n = 64 and
w = 16 that R46 names (R46-R53). -/
namespace Sys2Proof.Machine

/-- The register of eight bits that yields the round constants, after some steps: a doubling modulo the polynomial 0x171 (FIPS 202, 3.2.5). -/
def feedback : Nat → Nat
  | 0 => 1
  | n + 1 => let d := 2 * feedback n; if d < 256 then d else d ^^^ 0x171

/-- The constant of a round: the register's low bit after 7 r + j steps is bit 2 ^ j - 1 (FIPS 202, 3.2.5). -/
def roundConstant (r : Nat) : Word :=
  (List.range 7).foldl (fun w j => if feedback (7 * r + j) % 2 = 1 then w ||| (1 : Word) <<< (2 ^ j - 1) else w) 0

/-- The lanes in the order in which the rotations grow, from (1, 0): after (x, y) comes (y, 2 x + 3 y) (FIPS 202, 3.2.2). -/
def laneWalk : Nat → Nat × Nat → List (Nat × Nat)
  | 0, _ => []
  | n + 1, (x, y) => (x, y) :: laneWalk n (y, (2 * x + 3 * y) % 5)

/-- How far the lane (x, y) turns: the triangular number of its place in the walk; lane (0, 0) does not turn (FIPS 202, 3.2.2). -/
def laneTurn (x y : Nat) : Nat :=
  let place := (laneWalk 24 (1, 0)).idxOf (x, y)
  if place = 24 then 0 else (place + 1) * (place + 2) / 2 % 64

/-- The lane in a column and a row, both modulo 5. -/
def laneOf (sponge : List Word) (x y : Nat) : Word := sponge.getD (5 * (y % 5) + x % 5) 0

/-- The 25 lanes, row by row, each from its column and row. -/
def eachLane (f : Nat → Nat → Word) : List Word :=
  (List.range 5).flatMap fun y => (List.range 5).map fun x => f x y

/-- Each lane takes up the sum of the column before it and that of the column after it, turned by one (FIPS 202, 3.2.1). -/
def mixColumns (sponge : List Word) : List Word :=
  let sums := (List.range 5).map fun x => (List.range 5).foldl (fun w y => w ^^^ laneOf sponge x y) 0
  eachLane fun x y => laneOf sponge x y ^^^ sums.getD ((x + 4) % 5) 0 ^^^ (sums.getD ((x + 1) % 5) 0).rotateLeft 1

/-- Each lane turns and moves: lane (x + 3 y, x) comes to (x, y) (FIPS 202, 3.2.2 and 3.2.3). -/
def turnLanes (sponge : List Word) : List Word :=
  eachLane fun x y =>
    let col := (x + 3 * y) % 5
    (laneOf sponge col x).rotateLeft (laneTurn col x)

/-- Each row is combined with itself, and the round's constant joins lane (0, 0) (FIPS 202, 3.2.4 and 3.2.5). -/
def combineRows (r : Nat) (sponge : List Word) : List Word :=
  eachLane fun x y =>
    let w := laneOf sponge x y ^^^ (laneOf sponge (x + 2) y &&& ~~~(laneOf sponge (x + 1) y))
    if x + y = 0 then w ^^^ roundConstant r else w

/-- The permutation of 24 rounds (FIPS 202, 3.3). -/
def permute (sponge : List Word) : List Word :=
  (List.range 24).foldl (fun w r => combineRows r (turnLanes (mixColumns w))) sponge

/-- A message with its suffix 1111 and padding, to whole blocks of 136 bytes (FIPS 202, 5.1 and 6.2): 0x1F, zeros, and 0x80 in the last
byte, which may be the byte of the 0x1F. -/
def shakePadded (m : List Byte) : List Byte :=
  let free := 136 - m.length % 136
  m ++ (List.range free).map fun i => (if i = 0 then 0x1F else 0) ||| (if i + 1 = free then 0x80 else 0)

/-- The sponge after some blocks of 136 bytes, which are added to its first 17 lanes (FIPS 202, 4). -/
def soaked : Nat → List Byte → List Word
  | 0, _ => List.replicate 25 0
  | n + 1, m =>
    let before := soaked n m
    let block := (m.drop (136 * n)).take 136
    permute (eachLane fun x y =>
      laneOf before x y ^^^ BitVec.ofNat 64 (numOf ((block.drop (8 * (5 * y + x))).take 8)))

/-- SHAKE256 with 512 bits of output (R46, R50, R53). -/
@[irreducible] def shake256 (m : List Byte) : List Byte :=
  let p := shakePadded m
  ((soaked (p.length / 136) p).take 8).flatMap fun w => bytesOf w.toNat 8

/-- A number as big-endian bytes. -/
def bigEndian (v n : Nat) : List Byte := (bytesOf v n).reverse

/-- Bitwise exclusive or of byte strings. -/
def xorBytes (a b : List Byte) : List Byte := List.zipWith (· ^^^ ·) a b

/-- The functions F, H, H_msg and PRF of a set with n = 64, by their number 0 to 3 (RFC 8391, 5.1). -/
def xmssHash (kind : Nat) (key m : List Byte) : List Byte := shake256 (bigEndian kind 64 ++ key ++ m)

/-- An address of 32 bytes: layer and tree are 0; the type, its three words, and the last one (RFC 8391, 2.5). -/
def xmssAddr (kind a b c last : Nat) : List Byte :=
  bigEndian 0 12 ++ bigEndian kind 4 ++ bigEndian a 4 ++ bigEndian b 4 ++ bigEndian c 4 ++ bigEndian last 4

/-- A keyed hash of two nodes with its bit masks (RFC 8391, 4.1.4). -/
def hashNodes (seed : List Byte) (addr : Nat → List Byte) (l r : List Byte) : List Byte :=
  let prf (k : Nat) : List Byte := xmssHash 3 seed (addr k)
  xmssHash 1 (prf 0) (xorBytes l (prf 1) ++ xorBytes r (prf 2))

/-- Steps of a chain from a start (RFC 8391, 3.1.2). -/
def chainFrom (seed : List Byte) (leaf i start : Nat) : Nat → List Byte → List Byte
  | 0, x => x
  | n + 1, x =>
    let y := chainFrom seed leaf i start n x
    let prf (k : Nat) : List Byte := xmssHash 3 seed (xmssAddr 0 leaf i (start + n) k)
    xmssHash 0 (prf 0) (xorBytes y (prf 1))

/-- The 131 digits of a 64-byte digest: its nibbles and those of their checksum (RFC 8391, 3.1.5). -/
def wotsDigits (m : List Byte) : List Nat :=
  let ds := m.flatMap fun b => [b.toNat / 16, b.toNat % 16]
  let sum := ds.foldl (fun n d => n + (15 - d)) 0
  ds ++ [sum / 256 % 16, sum / 16 % 16, sum % 16]

/-- The parents of a row of an L-tree (RFC 8391, 4.1.5). -/
def treeRow (seed : List Byte) (leaf height : Nat) : Nat → List (List Byte) → List (List Byte)
  | i, l :: r :: rest => hashNodes seed (xmssAddr 1 leaf height i) l r :: treeRow seed leaf height (i + 1) rest
  | _, rest => rest

/-- The root of an L-tree of 131 chain ends, which has eight levels. -/
def treeRoot (seed : List Byte) (leaf : Nat) (ends : List (List Byte)) : List Byte :=
  ((List.range 8).foldl (fun row h => treeRow seed leaf h 0 row) ends).headD []

/-- Bytes i * 64 to i * 64 + 63. -/
def part64 (bs : List Byte) (i : Nat) : List Byte := (bs.drop (64 * i)).take 64

/-- The leaf that a one-time signature gives (RFC 8391, 4.1.10). -/
def leafOf (seed : List Byte) (leaf : Nat) (ots m : List Byte) : List Byte :=
  let ds := wotsDigits m
  treeRoot seed leaf ((List.range 131).map fun i =>
    let d := ds.getD i 0
    chainFrom seed leaf i d (15 - d) (part64 ots i))

/-- The root that a leaf gives with its authentication path of h nodes (RFC 8391, 4.1.10). -/
def climb (seed : List Byte) (leaf : Nat) (auth : List Byte) : Nat → List Byte → List Byte
  | 0, x => x
  | k + 1, x =>
    let below := climb seed leaf auth k x
    let other := part64 auth k
    let addr := xmssAddr 2 0 k (leaf / 2 ^ (k + 1))
    if leaf / 2 ^ k % 2 = 0 then hashNodes seed addr below other else hashNodes seed addr other below

/-- The height of the parameter set that a public key names; no other set is accepted (R46). -/
def heightOf (pk : List Byte) : Option Nat :=
  if pk.length ≠ 132 then none
  else match numOf (pk.take 4).reverse with
    | 0xA => some 10 | 0xB => some 16 | 0xC => some 20 | _ => none

/-- Bytes of a signature of a set, by its height (R46). -/
def signatureBytes (h : Nat) : Nat := 4 + 64 + 131 * 64 + 64 * h

/-- The digest of a message that is signed (RFC 8391, 4.1.9). -/
def signedDigest (r root : List Byte) (leaf : Nat) (m : List Byte) : List Byte := xmssHash 2 (r ++ root ++ bigEndian leaf 64) m

/-- Whether an XMSS signature verifies (R46; RFC 8391, 4.1.10). -/
@[irreducible] def xmssVerify (pk m sig : List Byte) : Bool :=
  match heightOf pk with
  | none => false
  | some h =>
    let leaf := numOf (sig.take 4).reverse
    let root := part64 (pk.drop 4) 0
    let seed := part64 (pk.drop 4) 1
    let r := part64 (sig.drop 4) 0
    let body := sig.drop 68
    decide (sig.length = signatureBytes h) && decide (leaf < 2 ^ h) &&
    climb seed leaf (body.drop (131 * 64)) h (leafOf seed leaf (body.take (131 * 64)) (signedDigest r root leaf m)) = root

/-- A secret of 64 bytes of a pair (notes/assumptions/4). -/
def secretOf (pair leaf i : Nat) : List Byte := (List.range 64).map (Config.secretByte pair leaf i)

/-- The public seed and the key for randomness of a pair. -/
def seedOf (pair : Nat) : List Byte := secretOf pair (2 ^ 20) 1
def randomKeyOf (pair : Nat) : List Byte := secretOf pair (2 ^ 20) 0

/-- A node of a pair's tree (RFC 8391, 4.1.6). -/
def treeNode (pair : Nat) : Nat → Nat → List Byte
  | 0, leaf => treeRoot (seedOf pair) leaf ((List.range 131).map fun i =>
      chainFrom (seedOf pair) leaf i 0 15 (secretOf pair leaf i))
  | h + 1, j => hashNodes (seedOf pair) (xmssAddr 2 0 h j) (treeNode pair h (2 * j)) (treeNode pair h (2 * j + 1))

/-- The public key of a pair of a set, by its height (R46). -/
@[irreducible] def xmssPublic (pair h : Nat) : List Byte :=
  bigEndian (if h = 10 then 0xA else if h = 16 then 0xB else 0xC) 4 ++ treeNode pair h 0 ++ seedOf pair

/-- The signature of a message with an index of a pair (R46; RFC 8391, 4.1.9). -/
@[irreducible] def xmssSign (pair h leaf : Nat) (m : List Byte) : List Byte :=
  let r := xmssHash 3 (randomKeyOf pair) (bigEndian leaf 32)
  let digest := signedDigest r (treeNode pair h 0) leaf m
  let ots := (wotsDigits digest).zip (List.range 131) |>.flatMap fun k =>
    chainFrom (seedOf pair) leaf k.2 0 k.1 (secretOf pair leaf k.2)
  let auth := (List.range h).flatMap fun k => treeNode pair k (if leaf / 2 ^ k % 2 = 0 then leaf / 2 ^ k + 1 else leaf / 2 ^ k - 1)
  bigEndian leaf 4 ++ r ++ ots ++ auth

end Sys2Proof.Machine
end

