-- ==== Sys2Proof/Machine/Trust.lean ====
section
/-! DEFINITION. Bring-up, configuration records, signatures, attestation, debug unlock, and the SBI calls that name a DTU
(R42-R54, R57, R88). -/
namespace Sys2Proof.Machine

/-- The firmware's state changes. -/
def State.setTrust (s : State) (t : Trust) : State := { s with plat := { s.plat with trust := t } }

/-- The code that a failure at a stage reports (R54). -/
def failCode (n : Nat) : BitVec 8 := BitVec.ofNat 8 (1 + (Config.failureCode n).toNat % 255)

/-- A failure at a stage is reported on the I2C target, and from stage 4 in the management registers (R54). -/
def Trust.failed (t : Trust) (n : Nat) : Trust :=
  { t with i2c := (BitVec.ofNat 8 n, failCode n), code := if 4 ≤ n then failCode n else t.code }

/-- Bring-up stops at a stage (R54). -/
def State.bootFail (s : State) (n : Nat) : State :=
  s.setTrust { s.plat.trust.failed n with power := .stopped, stage := n, stageDone := false }

/-- A stage is reached and done. -/
def Trust.reached (t : Trust) (n : Nat) : Trust := { t with stage := n, stageDone := true }

/-- Whether stage n may run: the one before it is done (R54). -/
def Trust.mayRun (t : Trust) (n : Nat) : Bool := t.power = .on && t.stage + 1 = n && t.stageDone

/-- A stage from 2 on runs, with both copies of the root firmware: without its mirror bring-up stops (R42, R54). -/
def State.bootStage (s : State) (n : Nat) (run : State → State) : Host.Outcome State Fault Refusal :=
  let t := s.plat.trust
  if !t.mayRun n then done s else if t.mirrorLost then done (s.bootFail n) else done (run s)

/-- The root firmware image that bring-up verified, the mirror where the first failed (R54 stage 0). -/
def Trust.rootInUse (t : Trust) : Option (List Byte) :=
  if shake256 t.rootImage = t.romDigest then some t.rootImage
  else if shake256 t.rootMirror = t.romDigest then some t.rootMirror
  else none

/-- What the security controllers keep in ROM and flash without power: the rest of the firmware's state begins anew (R48, R50-R54). -/
def Trust.kept (t : Trust) : Trust := {
  bringUps := t.bringUps, identity := t.identity, usedIdentity := t.usedIdentity, records := t.records, rollback := t.rollback
  rootImage := t.rootImage, rootMirror := t.rootMirror, romDigest := t.romDigest, vendorKey := t.vendorKey
  vendorDigest := t.vendorDigest, mgmtImage := t.mgmtImage, loader := t.loader, loaderAt := t.loaderAt, overTemp := t.overTemp
  draws := t.draws, pairs := t.pairs }

/-- Power returns to a package that was off, or whose bring-up had stopped (R54). -/
def State.powerOn (s : State) : State :=
  { s with plat := { trust := s.plat.trust.kept }, chip := { free := s.chip.free }, issue := none }

/-- BOOT_STAGE_0 (R54): the mask ROM verifies the root firmware; if both copies fail the package stays in reset. -/
def execBootStage0 (s : State) : Host.Outcome State Fault Refusal :=
  let t := s.plat.trust
  if t.power = .on && (t.stage ≠ 0 || t.stageDone) then done s
  else
    let s := if t.power = .on then s else s.powerOn
    match t.rootInUse with
    | some _ => done (s.setTrust (s.plat.trust.reached 0))
    | none => done (s.bootFail 0)

/-- BOOT_STAGE_1 (R41, R42, R50, R54): the lock-step check; the counters are read, this bring-up is counted, and a power-down at once
that flash records is reported in the error log. -/
def execBootStage1 (agree : Bool) (s : State) : Host.Outcome State Fault Refusal :=
  let t := s.plat.trust
  if !t.mayRun 1 then done s
  else if !agree then done (s.bootFail 1)
  else
    let s := if t.overTemp then { s with chip := s.chip.logEvent 41 } else s
    done (s.setTrust ({ t with
      bringUps := t.bringUps + 1, mirrorLost := false, unlocked := false, nonce := none, overTemp := false }.reached 1))

/-- The header and body of a record, which its signature covers (R51). -/
def ConfigRecord.signed (r : ConfigRecord) : List Byte :=
  bytesOf r.kind 4 ++ bytesOf r.body.length 4 ++ bytesOf r.serial.toNat 8 ++ bytesOf r.number 8 ++ bytesOf r.signer 4 ++
  bytesOf r.reserved 4 ++ r.body

/-- Whether a signer may sign a type (R52): 0 the vendor, 1 to 15 an operator key. -/
def maySign (kind signer : Nat) : Bool :=
  if signer = 0 then kind = 1 || kind = 2 || kind = 3 || kind = 4 || kind = 5 || kind = 9 || kind = 10
  else decide (signer ≤ 15) && (kind = 4 || kind = 6 || kind = 7 || kind = 8 || kind = 11)

/-- The public key of a signer (R47): the vendor's root key where its digest is the one in ROM, or an installed operator key. -/
def Trust.keyOf (t : Trust) (signer : Nat) : Option (List Byte) :=
  if signer = 0 then (if shake256 t.vendorKey = t.vendorDigest then some t.vendorKey else none)
  else (t.operatorKeys.find? fun k => k.1 = signer).map (·.2)

/-- Whether the signature of a record or image verifies (R46, R47); an image is taken as a record of any signer (notes/assumptions/149). -/
def Trust.signatureOk (t : Trust) (r : ConfigRecord) : Bool :=
  match t.keyOf r.signer with
  | some k => xmssVerify k r.signed r.signature
  | none => false

/-- Whether a record's signature, signer, serial and body length hold (R51, R53). -/
def Trust.verifies (t : Trust) (r : ConfigRecord) : Bool :=
  t.signatureOk r && maySign r.kind r.signer && (r.serial = 0 || r.serial = Config.serial) &&
  decide (1 ≤ r.body.length) && decide (r.body.length ≤ 65536)

/-- Whether the root firmware accepts a record from flash (R53). -/
def Trust.accepts (t : Trust) (r : ConfigRecord) : Bool :=
  t.verifies r && decide (assocGet t.rollback r.kind 0 ≤ r.number)

/-- The record used among the accepted ones of a type (R53): the highest number; several with it and different content are
rejected, and the next number counts. Records that differ only in their signatures have different content (DESIGN CHOICE,
notes/assumptions/86). -/
def pickRecord : Nat → List ConfigRecord → Option ConfigRecord
  | 0, _ => none
  | n + 1, rs =>
    match rs with
    | [] => none
    | r :: _ =>
      let top := rs.foldl (fun m k => max m k.number) r.number
      match rs.filter fun k => k.number = top with
      | k :: more => if more.all fun m => m = k then some k else pickRecord n (rs.filter fun m => m.number ≠ top)
      | [] => none

/-- The types that flash records may have (R52); any other is skipped and logged, and so is a debug unlock. -/
def flashTypes : List Nat := [1, 2, 3, 4, 5, 6, 7, 8, 9, 11]

/-- The record in use of a type (R53). -/
def Trust.pick (t : Trust) (kind : Nat) : Option ConfigRecord :=
  let rs := t.records.filter fun r => r.kind = kind && t.accepts r
  pickRecord rs.length rs

/-- The records in use, by ascending type (R53). -/
def Trust.pickAll (t : Trust) : List ConfigRecord := flashTypes.filterMap t.pick

/-- The operator keys that the vendor-signed enrolment record in use installs (R47). -/
def Trust.enrol (t : Trust) : Trust :=
  { t with operatorKeys := match t.pick 9 with
    | none => []
    | some r => ((List.range 15).map fun k => (k + 1, Config.enrolled r.body (k + 1))).filter fun k => !k.2.isEmpty }

/-- The body of the record in use of a type; empty for none. -/
def State.bodyOf (s : State) (kind : Nat) : List Byte :=
  match s.plat.trust.used.find? fun r => r.kind = kind with
  | some r => r.body
  | none => []

/-- Whether the die-enablement record yields 80 logical cores on each C-die, out of 84 with at most four spares, and 48 latency cores on
each L-die (R12). -/
def enablementOk (body : List Byte) : Bool :=
  (List.range 10).all fun d =>
    let cores := Config.enabled body d
    let spare := if d < 8 then Config.spares body d else []
    cores.length = (if d < 8 then 80 else 48) && decide (cores.Nodup) && decide (spare.length ≤ 4) &&
    (d ≥ 8 || (cores ++ spare).all fun k => decide (k < 84)) && !(spare.any cores.contains)

/-- The bytes over which the configuration digest is formed (R53). -/
def Trust.usedBytes (t : Trust) : List Byte := t.used.flatMap fun r => r.signed ++ r.signature

/-- Bytes 0x0008-0x0017 of a report (R50): the serial number and the bring-up count. -/
def Trust.identityFields (t : Trust) : List Byte := bytesOf Config.serial.toNat 8 ++ bytesOf t.bringUps 8

/-- What the identity key signs for a session generation and its pair (R50). -/
def Trust.certText (t : Trust) (gen pair : Nat) : List Byte :=
  t.identityFields ++ bytesOf gen 4 ++ xmssPublic (pair + 1) 16

/-- Signatures of the identity key (R46). -/
def identityTop : Nat := 1048576

/-- Signatures of a session key (R46). -/
def sessionTop : Nat := 65536

/-- One identity signature (R48): the counter goes up in flash and is read back, then the index before it signs; none once the key is
exhausted, or where the write (flash 1) or the read-back (flash 2) fails, which loses the index at most. -/
def Trust.identitySign (t : Trust) (flash : Nat) (text : List Byte) : Option (List Byte) × Trust :=
  if identityTop ≤ t.identity || flash = 1 then (none, t)
  else if flash = 2 then (none, { t with identity := t.identity + 1 })
  else (some (xmssSign 0 20 t.identity text), { t with identity := t.identity + 1, usedIdentity := t.identity :: t.usedIdentity })

/-- Session generation 0 of a bring-up: a new pair, certified where the identity key signs (R49). -/
def Trust.firstSession (t : Trust) (flash : Nat) : Trust :=
  let r := t.identitySign flash (t.certText 0 t.pairs)
  { r.2 with
    sessionGen := 0, sessionPair := t.pairs, pairs := t.pairs + 1, sessionIndex := 0, nextSession := none, certified := r.1.isSome
    certificate := r.1.getD [] }

/-- BOOT_STAGE_2 (R12, R47-R49, R52-R54): configuration records, then session generation 0; the subject tells whether flash fails
(R48; notes/assumptions/85). -/
def execBootStage2 (s : State) : Host.Outcome State Fault Refusal :=
  s.bootStage 2 fun s =>
    let t := s.plat.trust.enrol
    let used := t.pickAll
    let odd := (t.records.filter fun r => !flashTypes.contains r.kind).length
    let t := { t with
      used := used, skipped := t.skipped + odd, rollback := used.foldl (fun l r => assocSet l r.kind r.number) t.rollback }
    let s := { (s.setTrust t) with chip := (List.range odd).foldl (fun c _ => c.logEvent 52) s.chip }
    if ([1, 2, 4, 5, 7, 8].all fun k => used.any fun r => r.kind = k) && enablementOk (s.bodyOf 1) then
      s.setTrust ((t.firstSession s.subject).reached 2)
    else s.bootFail 2

/-- The port of an L-die in bring-up: root or endpoint mode of the port configuration record, with the windows of what is attached
(R28, R38; notes/assumptions/118). -/
def portOfRecord (body : List Byte) (l : Nat) : PciePort :=
  { up := true, endpoint := Config.endpointPort body l, bars := min (Config.attachedBars l) (2 ^ 39) }

/-- BOOT_STAGE_3 (R12, R38, R54): the die links train; enablement and voltage tables are applied, and the ports of the L-dies are set. -/
def execBootStage3 (trained : Bool) (s : State) : Host.Outcome State Fault Refusal :=
  s.bootStage 3 fun s =>
    if !trained then s.bootFail 3
    else
      let t := { s.plat.trust with coreMap := (List.range 10).map (Config.enabled (s.bodyOf 1)) }
      { (s.setTrust (t.reached 3)) with chip := { s.chip with
          pcie := (List.range 2).map (portOfRecord (s.bodyOf 7))
          cxl := (List.range 2).map fun l => min (Config.attachedCxl l) (2 ^ 39) } }

/-- The memory of CXL devices, which is no memory of the package: bring-up and an unlock leave it (DESIGN CHOICE,
notes/assumptions/129; R44, R54). -/
def MemSys.devicePart (m : MemSys) : MemSys :=
  { bytes := m.bytes.filter fun k => bits 50 48 k.1 = 5, poison := m.poison.filter fun l => bits 50 48 l = 5 }

/-- BOOT_STAGE_4 (R19-R22, R43, R54): memory of the capacities of the memory configuration record is trained and zeroed, the rows of the
row-repair record are replaced, and the firewalls are set. Stacks and channels that failed are fenced and reported; a failure of a
channel of L-die 0 halts. -/
def execBootStage4 (stacksOk : BitVec 16) (channelsOk : BitVec 32) (s : State) : Host.Outcome State Fault Refusal :=
  s.bootStage 4 fun s =>
    let sizes := (List.range 2).map (Config.lpddrGiB (s.bodyOf 4))
    if channelsOk.setWidth 16 ≠ BitVec.allOnes 16 then s.bootFail 4
    else
      let c := s.chip
      let ras := { c.ras with
        hbmStacks := c.ras.hbmStacks ||| ~~~stacksOk, channels := c.ras.channels ||| ~~~channelsOk
        rows := Config.repairedRows (s.bodyOf 3) }
      let c := { c with mem := c.mem.devicePart, lpddr := sizes, ras := ras, firewall := true }
      let t := s.plat.trust.reached 4
      let allWell := stacksOk = BitVec.allOnes 16 && channelsOk = BitVec.allOnes 32
      { (s.setTrust (if allWell then t else t.failed 4)) with chip := c }

/-- A latency core starts in M mode at an entry (R54 stages 5 and 7). -/
def Chip.startHart (c : Chip) (core : Nat) (entry : Word) : Chip :=
  let t : Thread := { id := c.eng.next, place := .hart 0 core, mode := .m, pc := entry, tfoot := 512 }
  { c with
    threads := c.threads ++ [t], harts := c.harts ++ [{ ldie := 0, core := core, started := true }]
    eng := { c.eng with next := c.eng.next + 1 } }

/-- First location of the management window (R43). -/
def Chip.mgmtBase (c : Chip) : Nat := c.pkg * 2 ^ 51 + 2 * 2 ^ 48 + (c.lpddrBytes c.pkg 0 - 2 ^ 28)

/-- BOOT_STAGE_5 (R39, R43, R54): the management firmware is verified, laid into its window, and started on its reserved core; it takes
the power limit of the power configuration record. The manual gives no format or signer of its image: the model verifies it as a record
(notes/assumptions/149). -/
def execBootStage5 (s : State) : Host.Outcome State Fault Refusal :=
  s.bootStage 5 fun s =>
    let t := s.plat.trust
    if !t.signatureOk t.mgmtImage then s.bootFail 5
    else
      let c := { s.chip with ras := { s.chip.ras with cap := min (Config.powerLimit (s.bodyOf 8)) 2600 } }
      let base := c.mgmtBase
      let c := (t.mgmtImage.body.zip (List.range (2 ^ 28))).foldl (fun c b => c.putByte (base + b.2) b.1) c
      { (s.setTrust (t.reached 5)) with chip := c.startHart 47 (BitVec.ofNat 64 base) }

/-- The destinations that the routing record in use names (R33, R55). -/
def State.routed (s : State) : List Nat :=
  ((s.plat.link.primary.filter fun r => !r.2.isEmpty).map (·.1)).filter fun p => p < 32 && p ≠ s.plat.pod.self

/-- The first port of a route, where it is up. -/
def Link.firstUp (l : Link) (route : List Nat) : Option Nat :=
  match route with
  | [] => none
  | p :: _ => if (l.ports.getD p {}).state = .up then some p else none

/-- The port by which messages leave for a destination, and the route: its primary route, else its alternative (R33, R35). -/
def Link.portTo (l : Link) (dest : Nat) : Option (Nat × List Nat) :=
  let go (r : List Nat) : Option (Nat × List Nat) := (l.firstUp r).map fun p => (p, r)
  match go (assocGet l.primary dest []) with
  | some x => some x
  | none => go (assocGet l.alternate dest [])

/-- A set of packages as a mask (R151, R367). -/
def maskOf (ps : List Nat) : BitVec 32 := ps.foldl (fun m p => m ||| (1#32 <<< p)) 0

/-- Routes, CRC polynomial and ports of the link, from the link and routing records (R30, R33). -/
def State.linkOfRecords (s : State) (portsUp : BitVec 8) : Link :=
  let routes := (List.range 32).map fun d => (d, Config.routeTo (s.bodyOf 6) d)
  let l := s.plat.link
  let routed := s.plat.trust.used.any fun r => r.kind = 6
  { l with
    ports := (l.ports.zip (List.range 8)).map fun p => { p.1 with state := if portsUp.getLsbD p.2 then PortState.up else .down }
    poly := Config.polynomial (s.bodyOf 5)
    primary := if routed then routes.map fun r => (r.1, r.2.1) else []
    alternate := if routed then routes.map fun r => (r.1, r.2.2) else [] }

/-- BOOT_STAGE_6 (R54, R55): the Denid ports train and formation begins; a package with no routing record or manifest runs as a pod of
one. -/
def execBootStage6 (portsUp : BitVec 8) (s : State) : Host.Outcome State Fault Refusal :=
  s.bootStage 6 fun s =>
    let t := s.plat.trust
    let alone := [6, 11].any fun k => !(t.used.any fun r => r.kind = k)
    let pod : Pod := {
      self := Config.routedSelf (s.bodyOf 6) % 32, manifest := Config.manifestHash (s.bodyOf 11), since := s.chip.tick
      sent := s.plat.pod.sent }
    { s with plat := { s.plat with pod := pod, link := s.linkOfRecords portsUp, trust := { t with stage := 6, stageDone := alone } } }

/-- Where the loader lies: its address in this package's LPDDR (R54 stage 7). -/
def State.loaderAddr (s : State) : Word := s.plat.trust.loaderAt + BitVec.ofNat 64 (s.chip.pkg * 2 ^ 51)

/-- BOOT_STAGE_7 (R54): the loader is verified, copied to LPDDR of L-die 0, and entered. The manual gives no format or signer of its
image: the model verifies it as a record (notes/assumptions/149). -/
def execBootStage7 (s : State) : Host.Outcome State Fault Refusal :=
  s.bootStage 7 fun s =>
    let t := s.plat.trust
    if !t.signatureOk t.loader then s.bootFail 7
    else { (s.setTrust (t.reached 7)) with
      chip := (s.chip.agentStore (.ldie 0) s.loaderAddr.toNat t.loader.body).startHart 0 s.loaderAddr }

/-- The package powers down at once: memory is not retained, and the event is recorded in flash (R41). -/
def State.powerDown (s : State) : State :=
  { (s.setTrust { s.plat.trust with power := .off, overTemp := true }) with
    chip := { s.chip with mem := {}, threads := [], groups := [] } }

/-- LOCKSTEP_MISMATCH (R42): none is detected once the mirror is lost. -/
def execLockstepMismatch (s : State) : Host.Outcome State Fault Refusal :=
  let t := s.plat.trust
  if t.mirrorLost then done s
  else if t.stage = 7 && t.stageDone then done s.powerDown
  else done (s.bootFail t.stage)

/-- SESSION_KEY_GENERATION (R48, R49): the next generation, a new pair, when 4,096 indices or fewer remain and the identity key signs;
the subject tells whether flash fails. -/
def execSessionKeyGeneration (s : State) : Host.Outcome State Fault Refusal :=
  let t := s.plat.trust
  if t.nextSession.isSome || !t.certified || decide (t.sessionIndex + 4096 < sessionTop) then done s
  else
    let r := t.identitySign s.subject (t.certText (t.sessionGen + 1) t.pairs)
    let next := r.1.map fun cert => (t.sessionGen + 1, t.pairs, cert)
    done (s.setTrust { r.2 with pairs := t.pairs + 1, nextSession := next })

/-- Whether n bytes at a physical address lie in main memory outside the management window (R27, R43, R45, R50). -/
def Chip.inMain (c : Chip) (pa n : Nat) : Bool :=
  (List.range ((pa + n + 63) / 64 - pa / 64)).all fun i =>
    match c.target (max pa (64 * (pa / 64 + i))) with | .main _ => true | .onDie _ => true | _ => false

/-- n bytes read by the root firmware. -/
def Chip.firmwareRead (c : Chip) (pa n : Nat) : List Byte := bytesOf (c.agentLoad (.ldie 0) pa n).1 n

/-- MGATTREQ (R50): a request is taken unless one is pending. -/
def execMgattreq (addr : Word) (s : State) : Host.Outcome State Fault Refusal :=
  let t := s.plat.trust
  match t.attreq with
  | some _ => done s
  | none => done (s.setTrust { t with attreq := some addr, attsts := 0 })

/-- The flags of a report (R50). -/
def State.reportFlags (s : State) : Nat :=
  flag s.plat.trust.unlocked + 2 * flag (s.chip.members ≠ 0) + 4 * flag s.synced + 8 * flag s.plat.trust.mirrorLost

/-- Bytes 0x0000-0x27D7 of a report, which the session key signs (R50). -/
def State.reportBody (s : State) (t : Trust) (request : List Byte) : List Byte :=
  bytesOf 0x4A484154 4 ++ bytesOf 1 4 ++ t.identityFields ++
  bytesOf (if s.chip.members = 0 then 0xFFFF_FFFF else s.chip.pkg) 4 ++ bytesOf s.reportFlags 4 ++
  bytesOf t.sessionGen 4 ++ bytesOf t.sessionIndex 4 ++ bytesOf s.chip.tick 8 ++
  shake256 (t.rootInUse.getD []) ++ shake256 t.mgmtImage.body ++ shake256 t.usedBytes ++ request ++
  xmssPublic (t.sessionPair + 1) 16 ++ t.certificate

/-- The next generation takes over when the session key is exhausted (R49). -/
def Trust.switchSession (t : Trust) : Trust :=
  match t.nextSession with
  | some (g, pair, cert) =>
    if sessionTop ≤ t.sessionIndex then
      { t with sessionGen := g, sessionPair := pair, sessionIndex := 0, certificate := cert, nextSession := none }
    else t
  | none => t

/-- A report is written and its index used up (R50). -/
def State.writeReport (s : State) (t : Trust) (req dst : Nat) : State :=
  let body := s.reportBody t (s.chip.firmwareRead req 96)
  let sig := xmssSign (t.sessionPair + 1) 16 t.sessionIndex body
  { (s.setTrust { t with sessionIndex := t.sessionIndex + 1, attreq := none, attsts := 1 }) with
    chip := s.chip.agentStore (.ldie 0) dst (body ++ sig) }

/-- ATTESTATION_REPORT (R48-R50): the pending request is served. -/
def execAttestationReport (s : State) : Host.Outcome State Fault Refusal :=
  let t := s.plat.trust
  match t.attreq with
  | none => done s
  | some req =>
    let dst := t.attdst.toNat
    if identityTop ≤ t.identity || !t.certified then done (s.setTrust { t with attreq := none, attsts := 3 })
    else if !s.chip.inMain dst 19676 || !s.chip.inMain req.toNat 96 then done (s.setTrust { t with attreq := none, attsts := 2 })
    else
      let t := t.switchSession
      if sessionTop ≤ t.sessionIndex then done s else done (s.writeReport t req.toNat dst)

/-- MGDBGNONCE (R45 step 1): 32 bytes from the random source become the only live nonce. -/
def execMgdbgnonce (addr : Word) (s : State) : Host.Outcome State Fault Refusal :=
  let t := s.plat.trust
  if !s.chip.inMain addr.toNat 32 then done s
  else
    let bytes := (List.range 32).map fun i => Config.randomByte (32 * t.draws + i)
    done { (s.setTrust { t with nonce := some bytes, draws := t.draws + 1, dbgsts := 1 }) with
      chip := s.chip.agentStore (.ldie 0) addr.toNat bytes }

/-- The record at a physical address, with as many bytes after its body as its signer's signatures have (R46, R51). -/
def State.recordAt (s : State) (pa : Nat) : ConfigRecord :=
  let c := s.chip
  let f (o n : Nat) : Nat := numOf (c.firmwareRead (pa + o) n)
  let len := min (f 4 4) 65537
  let sigLen := signatureBytes (((s.plat.trust.keyOf (f 0x18 4)).bind heightOf).getD 20)
  { kind := f 0 4, serial := BitVec.ofNat 64 (f 8 8), number := f 0x10 8, signer := f 0x18 4, reserved := f 0x1C 4
    body := c.firmwareRead (pa + 0x20) len, signature := c.firmwareRead (pa + 0x20 + len) sigLen }

/-- The bytes of this package's memory take its number (R23). -/
def MemSys.renumber (m : MemSys) (old new : Nat) : MemSys :=
  if old = new then m
  else { m with
    bytes := m.bytes.foldl (fun l k => cellSet l (k.1 - old * 2 ^ 51 + new * 2 ^ 51) k.2) []
    poison := m.poison.foldl (fun l k => setInsert (k - old * 2 ^ 51 + new * 2 ^ 51) l) [] }

/-- A successful unlock (R44, R45): every die but the security controllers is reset, HBM and LPDDR are zero, and bring-up resumes at
stage 3. What the security controllers hold stays, a pending attestation request, MGATTDST and MGATTSTS included (DESIGN CHOICE,
notes/assumptions/129), and so do fences of this bring-up. -/
def State.unlock (s : State) : State :=
  let c := s.chip
  let r := c.ras
  { s with
    chip := { tick := c.tick, cycle := c.cycle, free := c.free, mem := (c.mem.renumber c.pkg 0).devicePart
              ras := { dies := r.dies, ldie1 := r.ldie1, hbmStacks := r.hbmStacks, channels := r.channels, links := r.links, log := r.log } }
    issue := none
    plat := { trust := { s.plat.trust with nonce := none, dbgsts := 2, unlocked := true, stage := 2, stageDone := true } } }

/-- Whether a record unlocks debug (R44, R45 steps 3 and 4): bound to this package and to the live nonce. -/
def Trust.unlocks (t : Trust) (r : ConfigRecord) : Bool :=
  r.kind = 10 && t.verifies r && r.serial = Config.serial && t.nonce = some r.body

/-- MGDBGREC (R44, R45, R53): the nonce is discarded whatever the result. A record whose first 32 bytes are not all in main memory outside
the management window is rejected; what lies elsewhere of the rest reads as zero (DESIGN CHOICE, notes/assumptions/133). -/
def execMgdbgrec (addr : Word) (s : State) : Host.Outcome State Fault Refusal :=
  let t := s.plat.trust
  if s.chip.inMain addr.toNat 32 && t.unlocks (s.recordAt addr.toNat) then done s.unlock
  else done (s.setTrust { t with nonce := none, dbgsts := 3 })

/-- Whether a hart number is that of a DTU of some package (R88). -/
def isDtuHart (h : Nat) : Bool := decide (1024 ≤ h) && decide (h < 1280)

/-- The SBI hart-state query: a DTU reports started (R88); the calls about other harts are not this manual's. -/
def sbiHartState (hart : Nat) : Option SbiResult := if isDtuHart hart then some .started else none

/-- SBI_HART_START_STOP (R88): a call that names a DTU is refused. -/
def execSbiHartStartStop (hart : Nat) (_start : Bool) (s : State) : Host.Outcome State Fault Refusal :=
  if isDtuHart hart then done (s.setTrust { s.plat.trust with sbi := some .notSupported }) else done s

/-- SBI_IPI (R88): subject the hart; an IPI to a DTU is discarded and its call succeeds. -/
def execSbiIpi (s : State) : Host.Outcome State Fault Refusal :=
  if isDtuHart s.subject then done (s.setTrust { s.plat.trust with sbi := some .success }) else done s

end Sys2Proof.Machine
end

