-- ==== Sys2Proof/Machine/Pod.lean ====
section
/-! DEFINITION. Pod formation: the claims, acknowledgements, images and replies of R55's state table, and what a member becomes
(R23, R36, R55, R56). -/
namespace Sys2Proof.Machine

/-- The formation state changes. -/
def State.setPod (s : State) (p : Pod) : State := { s with plat := { s.plat with pod := p } }

/-- Whether a package lies in a set. -/
def inMask (m : BitVec 32) (p : Nat) : Bool := m.getLsbD p

/-- A set with one package more, or without it. -/
def withPkg (m : BitVec 32) (p : Nat) : BitVec 32 := m ||| (1#32 <<< p)
def withoutPkg (m : BitVec 32) (p : Nat) : BitVec 32 := m &&& ~~~(1#32 <<< p)

/-- The packages of a set. -/
def packagesOf (m : BitVec 32) : List Nat := (List.range 32).filter m.getLsbD

/-- Send messages, the last one newest. -/
def Pod.send (p : Pod) (ms : List PodMsg) : Pod := { p with sent := ms.reverse ++ p.sent }

/-- A package sees the round of a message (R55: highest round seen). -/
def Pod.saw (p : Pod) (round : Nat) : Pod := { p with seen := max p.seen round }

/-- Claims of the own round to every reachable package (R55). -/
def Pod.claimAll (p : Pod) (round now : Nat) : Pod :=
  { p with state := .claiming, round := round, seen := max p.seen round, acked := 0, heard := now }.send
    ((packagesOf p.reachable).map fun d => .claim d round)

/-- Acknowledge a package in its round and follow it; any partial image is discarded (R55, R56). -/
def Pod.follow (p : Pod) (leader round now : Nat) : Pod :=
  { p with state := .following, round := round, leader := leader, image := [], complete := false, acked := 0, dones := 0, heard := now }.send
    [.ack leader round]

/-- The package is a member of a pod, under its number in the routing record; formation is over (R23, R55). -/
def State.join (s : State) (p : Pod) (members : BitVec 32) : State :=
  let c := s.chip
  { s with
    chip := { c with pkg := p.self, members := members, mem := c.mem.renumber c.pkg p.self }
    plat := { s.plat with pod := { p with state := .member, members := members }, trust := { s.plat.trust with stageDone := true } } }

/-- Whether formation runs: stage 6 is under way (R54). -/
def State.forming (s : State) : Bool := s.plat.trust.stage = 6 && !s.plat.trust.stageDone

/-- REACHABLE_SET_FIXED (R55): one second after stage 6 began, of the packages to which a route is up then. A package that reaches none
runs as a pod of one, a failure of stage 6 (R54). -/
def execReachableSetFixed (s : State) : Host.Outcome State Fault Refusal :=
  let p := s.plat.pod
  if !s.forming || p.state ≠ .solo || s.chip.tick - p.since < 1000000000 then done s
  else
    let reach := maskOf (s.routed.filter fun d => (s.plat.link.portTo d).isSome)
    if reach = 0 then done (s.setTrust { s.plat.trust.failed 6 with stageDone := true })
    else done (s.setPod ({ p with reachable := reach }.claimAll 1 s.chip.tick))

/-- A claim while claiming (R55): a lower number of at least the own round wins; a higher number is answered by the own claim. -/
def Pod.claimWhileClaiming (p : Pod) (from_ round now : Nat) : Pod :=
  if from_ < p.self then (if p.round ≤ round then p.follow from_ round now else p)
  else if p.self < from_ then (if p.round < round then p.claimAll round now else p.send [.claim from_ p.round])
  else p

/-- A message of the leader is heard, whatever it says (R55; notes/assumptions/92). -/
def Pod.hear (p : Pod) (from_ now : Nat) : Pod :=
  if (p.state = .following || p.state = .loading) && p.leader = from_ then { p with heard := now } else p

/-- FORMATION_CLAIM (R55, R56). -/
def execFormationClaim (from_ round : Nat) (s : State) : Host.Outcome State Fault Refusal :=
  let p := s.plat.pod
  let now := s.chip.tick
  if p.state = .member then done (s.setPod ((p.saw round).send [.reply from_ p.round p.leader]))
  else if !s.forming then done s
  else match p.state with
    | .claiming => done (s.setPod ((p.saw round).claimWhileClaiming from_ round now))
    | .leading =>
      done (if from_ < p.self && decide (p.round ≤ round) then s.setPod ((p.saw round).follow from_ round now) else s.setPod (p.saw round))
    | .following =>
      done (if from_ < p.leader && decide (p.round ≤ round) then s.setPod ((p.saw round).follow from_ round now) else s.setPod ((p.saw round).hear from_ now))
    | _ => done (s.setPod ((p.saw round).hear from_ now))

/-- ACKNOWLEDGEMENT (R55, R56). -/
def execAcknowledgement (from_ round : Nat) (s : State) : Host.Outcome State Fault Refusal :=
  let p := s.plat.pod
  match p.state with
  | .claiming =>
    if !s.forming || round ≠ p.round then done s
    else
      let acked := withPkg p.acked from_
      if p.reachable &&& ~~~acked = 0 then
        done (s.setPod ({ p with state := .leading, leader := p.self, acked := acked, dones := 0 }.send
          ((packagesOf p.reachable).map fun d => .image d round)))
      else done (s.setPod { p with acked := acked })
  | .member =>
    if p.leader ≠ p.self || round ≠ p.round || inMask p.members from_ then done s
    else done (s.setPod ({ p with reachable := withPkg p.reachable from_ }.send [.image from_ round]))
  | _ => done (s.setPod (p.hear from_ s.chip.tick))

/-- MEMBER_REPLY (R55, R56): a member names its leader and a round of at least the own. -/
def execMemberReply (from_ round leader : Nat) (s : State) : Host.Outcome State Fault Refusal :=
  let p := s.plat.pod
  if s.forming && p.state = .claiming && decide (p.round ≤ round) then
    done (s.setPod ((p.saw round).follow leader round s.chip.tick))
  else done (s.setPod (p.hear from_ s.chip.tick))

/-- IMAGE (R55, R56): only from the package it acknowledged, in that round; one that comes again overwrites its copy. -/
def execImage (from_ round : Nat) (bytes : List Byte) (last : Bool) (s : State) : Host.Outcome State Fault Refusal :=
  let p := s.plat.pod
  if !s.forming || !(p.state = .following || p.state = .loading) || from_ ≠ p.leader || round ≠ p.round then
    done (s.setPod (p.hear from_ s.chip.tick))
  else
    let p := { p with
      state := .loading, heard := s.chip.tick, complete := false
      image := if p.state = .following || p.complete then bytes else p.image ++ bytes }
    if !last then done (s.setPod p)
    else if shake256 p.image = p.manifest then done (s.setPod ({ p with complete := true }.send [.done from_ round]))
    else done (s.setPod ({ p with image := [] }.send [.again from_ round]))

/-- A leader with done from every follower sends formed and is a member (R55). -/
def State.formIfDone (s : State) : State :=
  let p := s.plat.pod
  if p.state = .leading && p.reachable &&& ~~~p.dones = 0 then
    s.join (p.send ((packagesOf p.reachable).map fun d => .formed d p.round)) (withPkg p.reachable p.self)
  else s

/-- FORMATION_DONE (R55, R56): from a follower, or from a package that joins a formed pod. -/
def execFormationDone (from_ round : Nat) (s : State) : Host.Outcome State Fault Refusal :=
  let p := s.plat.pod
  if round ≠ p.round || !inMask p.reachable from_ then done s
  else match p.state with
    | .leading => done ((s.setPod { p with dones := withPkg p.dones from_ }).formIfDone)
    | .member =>
      if p.leader ≠ p.self || inMask p.members from_ then done s
      else done (s.join (p.send [.formed from_ round]) (withPkg p.members from_))
    | _ => done s

/-- FORMED (R36, R55): a loading package becomes a member, with its leader's timebase. -/
def execFormed (from_ round : Nat) (s : State) : Host.Outcome State Fault Refusal :=
  let p := s.plat.pod
  if !s.forming || p.state ≠ .loading || from_ ≠ p.leader || round ≠ p.round then done (s.setPod (p.hear from_ s.chip.tick))
  else
    let s := s.join p (withPkg (withPkg p.reachable p.self) p.leader)
    done { s with plat := { s.plat with link := { s.plat.link with synced := false, slewing := false } } }

/-- CLAIM_RESEND (R55): every 100 ms to each package that has not answered. -/
def execClaimResend (s : State) : Host.Outcome State Fault Refusal :=
  let p := s.plat.pod
  if !s.forming || p.state ≠ .claiming || s.chip.tick - p.heard < 100000000 then done s
  else done (s.setPod ({ p with heard := s.chip.tick }.send
    ((packagesOf (p.reachable &&& ~~~p.acked)).map fun d => .claim d p.round)))

/-- LEADER_SILENCE (R55, R56): 2 s without a message from its leader, which is then no package that it reaches (DEDUCED from the example
of R56; notes/assumptions/134). A package that reaches none then runs as a pod of one, a failure of stage 6 (R54). -/
def execLeaderSilence (s : State) : Host.Outcome State Fault Refusal :=
  let p := s.plat.pod
  if !s.forming || !(p.state = .following || p.state = .loading) || s.chip.tick - p.heard < 2000000000 then done s
  else
    let p := { p with image := [], complete := false, leader := 0xFFFF_FFFF, reachable := withoutPkg p.reachable p.leader }
    let claims := p.claimAll ((max p.seen p.round) + 1) s.chip.tick
    done (if p.reachable = 0 then (s.setPod { p with state := .solo }).setTrust { s.plat.trust.failed 6 with stageDone := true }
      else s.setPod claims)

/-- FOLLOWER_ROUTE_LOST (R55): subject the package. When no follower is left that is not done, the pod forms at once, be it of the leader
alone (DESIGN CHOICE, notes/assumptions/134). -/
def execFollowerRouteLost (s : State) : Host.Outcome State Fault Refusal :=
  let p := s.plat.pod
  if !s.forming || p.state ≠ .leading then done s
  else done ((s.setPod { p with reachable := withoutPkg p.reachable s.subject }).formIfDone)

end Sys2Proof.Machine
end

