-- ==== Sys2Proof/Machine/Link.lean ====
section
/-! DEFINITION. The Denid link: flits, retry, pause, retraining, routes and their loss, and the timebase (R29-R36, R170). -/
namespace Sys2Proof.Machine

/-- A port of the link. -/
def Link.port (l : Link) (n : Nat) : Port := l.ports.getD n {}

/-- Put a port back. -/
def Link.setPort (l : Link) (n : Nat) (p : Port) : Link := { l with ports := listSet l.ports n p }

/-- Change the link. -/
def State.setLink (s : State) (l : Link) : State := { s with plat := { s.plat with link := l } }

/-- Bytes 247:8 of a flit that this package sends, with the numbers that it carries (R30). -/
def flitPayload (carried : List Nat) : List Byte := (Config.linkPayload carried ++ List.replicate 240 0).take 240

/-- The CRC of a flit, over bytes 247:0, with the polynomial of the link record (R30). -/
def Link.crcOf (l : Link) (header : Word) (payload : List Byte) : Word := Config.crc l.poly (bytesOf header.toNat 8 ++ payload)

/-- Whether the CRC of a flit holds (R30). -/
def Link.crcOk (l : Link) (f : Flit) : Bool := f.payload.length = 240 && f.crc = l.crcOf f.header f.payload

/-- Messages of each hop count that the inbound buffer of a port holds (R32, R33; notes/assumptions/101). -/
def inboundRoom : Nat := Config.inboundSlots + 1

/-- Messages of each hop count that wait to leave by a port (R32, R33; notes/assumptions/101). -/
def outRoom : Nat := Config.outSlots + 1

/-- The forwarding buffer class of a message: its hop count (R33). -/
def hopClass (m : LinkMsg) : Nat := min m.hop 3

/-- Messages of a class in a buffer. -/
def classIn (ms : List LinkMsg) (k : Nat) : Nat := (ms.filter fun m => hopClass m = k).length

/-- Whether the flits of a port ask the peer to pause: its inbound message buffer, of four classes, is more than three-quarters full
(R32). -/
def Port.full (p : Port) : Bool := decide (3 * inboundRoom < p.inbox.length)

/-- Whether the messages that wait at a port leave room for one more of its class (R33). -/
def Port.takes (p : Port) (m : LinkMsg) : Bool := decide (classIn p.queue (hopClass m) < outRoom)

/-- Send one flit: numbered, kept for replay, and with the acknowledgement of what was received (R30, R31). -/
def Link.emit (l : Link) (p : Port) (ftype : BitVec 4) (carried : List Nat) (ms : List LinkMsg) : Port :=
  let header := flitHeader p.sendSeq (p.recvSeq - 1) ftype p.full
  let payload := flitPayload carried
  let f : Flit := { header := header, payload := payload, crc := l.crcOf header payload, msgs := ms }
  { p with sendSeq := p.sendSeq + 1, replay := p.replay ++ [f], wire := f :: p.wire }

/-- The messages that end in the free slots of a data flit, with those left and the slots already sent of the first of them: a message
already begun goes on, a new one starts only where it may (R30, R32). -/
def fillSlots (start : Bool) : Nat → Nat → List LinkMsg → List LinkMsg × List LinkMsg × Nat
  | _, _, [] => ([], [], 0)
  | free, begun, m :: r =>
    if free = 0 || (begun = 0 && !start) then ([], m :: r, begun)
    else if m.more + 1 - begun ≤ free then
      let x := fillSlots start (free - (m.more + 1 - begun)) 0 r
      (m :: x.1, x.2)
    else ([], m :: r, begun + free)

/-- Waiting messages leave in order, in data flits of fifteen slots, while the port sends: the link is up and the replay buffer has
room (R30-R32, R34). -/
def Link.pump (l : Link) (now : Nat) : Nat → Port → Port
  | 0, p => p
  | n + 1, p =>
    if p.state ≠ .up || p.queue.isEmpty || 1024 ≤ p.replay.length || (p.begun = 0 && decide (now < p.pausedTo)) then p
    else
      let x := fillSlots (decide (p.pausedTo ≤ now)) 15 p.begun p.queue
      l.pump now n (l.emit { p with queue := x.2.1, begun := x.2.2 } 1 (x.1.map (·.ident)) x.1)

/-- Flits that the waiting messages of a port may take. -/
def Port.flits (p : Port) : Nat := p.queue.foldl (fun n m => n + m.more / 15 + 2) 0

/-- What waits at a port leaves as far as it may. -/
def Link.pumpPort (l : Link) (now n : Nat) : Link := l.setPort n (l.pump now (l.port n).flits (l.port n))

/-- Queue a message at a port. -/
def Link.queueAt (l : Link) (now n : Nat) (m : LinkMsg) : Link :=
  let p := l.port n
  (l.setPort n { p with queue := p.queue ++ [m] }).pumpPort now n

/-- The route of a message from here: its own one where the port it names here is up, else one of this package's record, the primary
before the alternative (R33, R35). -/
def Link.routed (l : Link) (m : LinkMsg) : Option (Nat × LinkMsg) :=
  match l.firstUp (m.route.drop m.hop) with
  | some n => some (n, m)
  | none => (l.portTo m.dest).map fun x => (x.1, { m with route := List.replicate m.hop 0 ++ x.2 })

/-- Send a message towards its destination; with no route it is parked (R33, R35). -/
def Link.send (l : Link) (now : Nat) (m : LinkMsg) : Link :=
  match l.routed m with
  | some (n, m) => l.queueAt now n m
  | none => { l with stranded := l.stranded ++ [m] }

/-- Ask for a replay from the expected flit on (R31). -/
def Link.askRetry (l : Link) (p : Port) : Port :=
  l.emit { p with retry := some p.recvSeq, retries := p.retries + 1 } 2 [p.recvSeq.toNat] []

/-- The flits that an acknowledgement frees: up to the one it names (R30, R31). -/
def freeAcked (ack : BitVec 16) : List Flit → List Flit
  | [] => []
  | f :: r => if (f.seq :: r.map (·.seq)).contains ack then (if f.seq = ack then r else freeAcked ack r) else f :: r

/-- A flit in sequence: it counts as progress, and its ack and pause fields act (R30-R32, R34). -/
def Port.take (p : Port) (f : Flit) (now : Nat) : Port :=
  { p with
    recvSeq := p.recvSeq + 1, retry := none, retries := 0, replay := freeAcked f.ack p.replay
    pausedTo := if f.pause then now + 256 else p.pausedTo }

/-- Whether a port receives flits: the link is up (R34, R35). -/
def Link.receives (l : Link) (n : Nat) : Bool := decide (n < 8) && (l.port n).state = .up

/-- Receive a flit of some types: dropped with a retry request unless its CRC holds, it is the one expected, and its messages find
room (R31, R32; notes/assumptions/101). -/
def State.receive (s : State) (n : Nat) (f : Flit) (types : BitVec 4 → Bool) (act : State → State) : Host.Outcome State Fault Refusal :=
  let l := s.plat.link
  if !l.receives n || !types f.ftype then done s
  else
    let p := l.port n
    let noRoom := f.ftype = 1 && f.msgs.any fun m => decide (inboundRoom ≤ classIn p.inbox (hopClass m))
    if !l.crcOk f || f.seq ≠ p.recvSeq || decide (5 ≤ f.ftype.toNat) || noRoom then done (s.setLink (l.setPort n (l.askRetry p)))
    else done (act (s.setLink ((l.setPort n (p.take f s.chip.tick)).pumpPort s.chip.tick n)))

/-- IDLE_FLIT (R30-R32). -/
def execIdleFlit (port : Nat) (flit : Flit) (s : State) : Host.Outcome State Fault Refusal :=
  s.receive port flit (· = 0) id

/-- DATA_FLIT (R30, R31, R33): its messages enter the inbound buffer. A reserved type is dropped as if its CRC had failed. -/
def execDataFlit (port : Nat) (flit : Flit) (s : State) : Host.Outcome State Fault Refusal :=
  s.receive port flit (fun t => t = 1 || decide (5 ≤ t.toNat)) fun s =>
    let l := s.plat.link
    let p := l.port port
    s.setLink (l.setPort port { p with inbox := p.inbox ++ flit.msgs })

/-- A message to this package acts here; one that came before, replayed on another route, does not act again (R35). -/
def State.deliver (s : State) (m : LinkMsg) : State :=
  let l := s.plat.link
  if l.taken.contains (m.source, m.ident) then s
  else { (s.setLink { l with taken := (m.source, m.ident) :: l.taken }) with chip := s.chip.takeBody m.source m.body }

/-- A misrouted message is dropped and logged, and its request, lost as on a port, takes the alternative route from here (R33, R35). -/
def State.misroute (s : State) (m : LinkMsg) : State :=
  let l := { s.plat.link with misrouted := s.plat.link.misrouted + 1 }
  let alt := assocGet l.alternate m.dest []
  let l := match l.firstUp alt with
    | some k => l.queueAt s.chip.tick k { m with hop := 0, route := alt }
    | none => { l with stranded := l.stranded ++ [{ m with hop := 0, route := [] }] }
  { (s.setLink l) with chip := s.chip.logEvent 33 }

/-- Take a message out of a port's inbound buffer, where it can go on: to this package, to the port of its next hop, or nowhere. A
package that would make the hop count 3 drops it itself (DESIGN CHOICE, notes/assumptions/132; R33). -/
def State.takeMsg (s : State) (n : Nat) (m : LinkMsg) : Option State :=
  let l := s.plat.link
  let p := l.port n
  let out := s.setLink (l.setPort n { p with inbox := p.inbox.erase m })
  if m.dest = s.chip.pkg then some (out.deliver m)
  else if 2 ≤ m.hop then some (out.misroute m)
  else
    let m := { m with hop := m.hop + 1 }
    match out.plat.link.routed m with
    | none => some (out.setLink (out.plat.link.send s.chip.tick m))
    | some (k, m) =>
      -- it stays here while the messages of its class that wait for the port leave no room (R33)
      if (out.plat.link.port k).takes m then some (out.setLink (out.plat.link.queueAt s.chip.tick k m)) else none

/-- The oldest message of each hop count leaves the inbound buffer of a port: a class waits only behind itself (R33). -/
def State.drainPort (s : State) (n : Nat) : State :=
  (List.range 4).foldl (fun s h =>
    let ms := (s.plat.link.port n).inbox.filter fun m => hopClass m = h
    (ms.foldl (fun (r : State × Bool) m => if r.2 then r else match r.1.takeMsg n m with
      | some s => (s, false)
      | none => (r.1, true)) (s, false)).1) s

/-- What the ports have received is taken (R30, R33). -/
def State.drainLinks (s : State) : State :=
  (List.range 8).foldl (fun s n => if (s.plat.link.port n).inbox.isEmpty then s else s.drainPort n) s

/-- A message of this package gets its identifier and its route (R30, R33); a lost package gets none. -/
def State.sendMsg (s : State) (m : LinkMsg) : State :=
  let l := s.plat.link
  if s.chip.ras.lost.getLsbD m.dest then s
  else s.setLink ({ l with nextIdent := l.nextIdent + 1 }.send s.chip.tick
    { m with ident := l.nextIdent, more := Config.moreSlots l.nextIdent % 15 })

/-- Whether a message of this package finds room at the port that it would leave by (R32, R33). -/
def Link.takes (l : Link) (m : LinkMsg) : Bool :=
  match l.routed m with
  | some (n, m) => (l.port n).takes m
  | none => true

/-- The messages that this package has for others leave, as far as their ports have room; those to one destination keep their order (R30,
R32, R33). -/
def State.sendOut (s : State) : State :=
  if s.chip.outbox.isEmpty then s
  else
    let x := s.chip.outbox.foldl (fun (x : State × List LinkMsg) m =>
      if (x.2.any fun k => k.dest = m.dest) || !x.1.plat.link.takes m then (x.1, x.2 ++ [m]) else (x.1.sendMsg m, x.2)) (s, [])
    { x.1 with chip := { x.1.chip with outbox := x.2 } }

/-- RETRY_REQUEST (R31): the flits from the expected one on are sent again. -/
def execRetryRequest (port : Nat) (flit : Flit) (expected : BitVec 16) (s : State) : Host.Outcome State Fault Refusal :=
  s.receive port flit (· = 2) fun s =>
    let l := s.plat.link
    let p := l.port port
    s.setLink (l.setPort port { p with wire := (p.replay.dropWhile fun f => f.seq ≠ expected).reverse ++ p.wire })

/-- A port enters retraining; its flits wait (R34). -/
def Port.train (p : Port) (now : Nat) : Port := { p with state := .training, since := now }

/-- RETRAIN_MARKER (R34). -/
def execRetrainMarker (port : Nat) (flit : Flit) (s : State) : Host.Outcome State Fault Refusal :=
  s.receive port flit (· = 3) fun s =>
    let l := s.plat.link
    s.setLink (l.setPort port ((l.port port).train s.chip.tick))

/-- RETRAIN (R34): after sixteen retry requests without progress, a lost block lock, or a request of the firmware. -/
def execRetrain (port : Nat) (cause : RetrainCause) (s : State) : Host.Outcome State Fault Refusal :=
  let l := s.plat.link
  let p := l.port port
  if !l.receives port || (cause = .sixteenRetries && decide (p.retries < 16)) then done s
  else done (s.setLink (l.setPort port (p.train s.chip.tick)))

/-- The leader of this package's pod, where it follows one. -/
def State.leaderOf (s : State) : Option Nat :=
  if s.chip.members = 0 || s.plat.pod.leader = s.plat.pod.self then none else some s.plat.pod.leader

/-- Destinations that lost their last route count from now; the timebase is unsynchronised without a route to the leader
(R35, R36). -/
def State.cutRoutes (s : State) : State :=
  let l := s.plat.link
  let c := s.chip
  let gone := (packagesOf c.members).filter fun p =>
    p ≠ c.pkg && (l.portTo p).isNone && !(c.ras.cut.any fun k => k.1 = p) && !c.ras.lost.getLsbD p
  let alone := match s.leaderOf with | some p => gone.contains p | none => false
  let l := if alone then { l with synced := false, slewing := false, gain := 0, lag := 0 } else l
  { (s.setLink l) with chip := { c with ras := { c.ras with cut := c.ras.cut ++ gone.map fun p => (p, c.tick) } } }

/-- A port goes down (R35): its messages take the alternative routes of their destinations, with their identifiers, or are
parked. -/
def State.dropPort (s : State) (n : Nat) : State :=
  let l := s.plat.link
  let p := l.port n
  let ms := (p.replay.filter fun f => f.ftype = 1).flatMap (·.msgs) ++ p.queue
  let l := l.setPort n { p with state := .down, replay := [], queue := [], begun := 0, retry := none, retries := 0, pausedTo := 0 }
  (s.setLink (ms.foldl (fun l m => l.send s.chip.tick m) l)).cutRoutes

/-- Whether a retrain that has not completed has taken more than 5 ms (R34). -/
def Port.overdue (p : Port) (now : Nat) : Bool := p.state = .training && decide (5000000 < now - p.since)

/-- RETRAIN_COMPLETE (R34): subject the port; the waiting flits are sent again in sequence. Later than 5 ms the port is down. -/
def execRetrainComplete (s : State) : Host.Outcome State Fault Refusal :=
  let l := s.plat.link
  let p := l.port s.subject
  if p.state ≠ .training || decide (8 ≤ s.subject) then done s
  else if p.overdue s.chip.tick then done (s.dropPort s.subject)
  else
    let p := { p with state := .up, retries := 0, retry := none, wire := p.replay.reverse ++ p.wire }
    done (s.setLink ((l.setPort s.subject p).pumpPort s.chip.tick s.subject))

/-- PAUSE_EXPIRY (R32): subject the port, 256 ns after the last pause it saw. -/
def execPauseExpiry (s : State) : Host.Outcome State Fault Refusal :=
  let l := s.plat.link
  let p := l.port s.subject
  if p.pausedTo = 0 || decide (s.chip.tick < p.pausedTo) || decide (8 ≤ s.subject) then done s
  else done (s.setLink ((l.setPort s.subject { p with pausedTo := 0 }).pumpPort s.chip.tick s.subject))

/-- PORT_DOWN (R34, R35): subject the port, whose retrain has taken more than 5 ms. -/
def execPortDown (s : State) : Host.Outcome State Fault Refusal :=
  let p := s.plat.link.port s.subject
  if decide (8 ≤ s.subject) || !p.overdue s.chip.tick then done s
  else done (s.dropPort s.subject)

/-- The only up-to-date copy of some lines is lost: they become poisoned at their homes, and the holder leaves the directory
(R35, R77). -/
def Chip.loseHolder (c : Chip) (a : Agent) : Chip :=
  let stale := c.mem.dir.filter fun e => e.owner = some a && (e.state = .m || e.state = .o)
  let c := stale.foldl (fun c e => c.setPoison (64 * e.line)) c
  let rest (e : DirEntry) : Option DirEntry :=
    let sh := e.sharers.filter (· ≠ a)
    if e.owner = some a then (if sh.isEmpty then none else some ⟨e.line, .s, none, sh⟩)
    else if e.owner.isNone && sh.isEmpty then none
    else some { e with sharers := sh }
  { c with mem := { c.mem with dir := c.mem.dir.filterMap rest } }

/-- Indices that a lost package reported as cancelled or never started count as faulted (R170). -/
def Grid.faultReturned (g : Grid) (pkg : Nat) : Grid :=
  (g.returned.filter fun r => r.1.who = pkg).foldl (fun (g : Grid) r =>
    let is := (List.range (r.1.hi - r.1.lo)).map (r.1.lo + ·)
    let g := { g with faulted := g.faulted ++ is, returned := g.returned.filter (· ≠ r) }
    if r.2 = 3 then { g with neverStarted := g.neverStarted - is.length }
    else { g with cancelled := g.cancelled.filter fun i => !is.contains i }) g

/-- What the loss of a package does to a grid (R170): indices of its ranges that the head has not received as completed count as
faulted, flag bit 4 is set, and the policy acts; a grid that it heads is hard-cancelled. One that is complete already stays so
(notes/assumptions/147). -/
def Chip.lossOfPackage (c : Chip) (pkg slot : Nat) : Chip :=
  match c.grid? slot with
  | none => c
  | some g =>
    if c.headLost g then c.cancelHard slot
    else
      let rs := g.pkgRanges.filter fun r => r.who = pkg
      if g.remote || g.complete || !(c.partners g).contains pkg then c
      else
        let g := rs.foldl (fun (g : Grid) r => g.retiredBy pkg r.lo r.hi 1) (g.faultReturned pkg)
        (c.setGrid { g with elsewhere := g.elsewhere.filter fun r => r.who ≠ pkg, flags := g.flags ||| 0x10 }).applyPolicy slot 0

/-- PACKAGE_LOST (R35, R170): subject the package, without a route for 100 ms. -/
def execPackageLost (s : State) : Host.Outcome State Fault Refusal :=
  let c := s.chip
  let p := s.subject
  match c.ras.cut.find? fun k => k.1 = p with
  | none => done s
  | some k =>
    if c.tick - k.2 < 100000000 then done s
    else
      let c := { c with ras := { c.ras with lost := withPkg c.ras.lost p, cut := c.ras.cut.filter fun k => k.1 ≠ p } }
      let c := c.loseHolder (.pkg p)
      let c := (c.disp.grids.map (·.slot)).foldl (fun c g => c.lossOfPackage p g) c
      let l := s.plat.link
      done { (s.setLink { l with stranded := l.stranded.filter fun m => m.dest ≠ p }) with chip := c.wakeParked }

/-- Bring the first ports of a destination's routes up (R35). -/
def Link.restore (l : Link) (dest : Nat) : Link :=
  match assocGet l.primary dest [] with
  | [] => l
  | n :: _ => if (l.port n).state = .down then l.setPort n { l.port n with state := .up } else l

/-- ROUTE_RETURN (R35, R36, R76): subject the package, within its 100 ms. -/
def execRouteReturn (s : State) : Host.Outcome State Fault Refusal :=
  let p := s.subject
  let c := s.chip
  if !(c.ras.cut.any fun k => k.1 = p && decide (c.tick - k.2 < 100000000)) then done s
  else
    let l := s.plat.link.restore p
    let mine := l.stranded.filter fun m => m.dest = p
    let l := mine.foldl (fun l m => l.send c.tick m) { l with stranded := l.stranded.filter fun m => m.dest ≠ p }
    let l := if s.leaderOf = some p then { l with slewing := true } else l
    let c := { c with ras := { c.ras with cut := c.ras.cut.filter fun k => k.1 ≠ p } }
    done { (s.setLink l) with chip := c.wakeParked }

/-- Follow the leader's timebase (R36): it never steps backwards, so one that is ahead counts more slowly, and one that slews back
after the return of a route gains or lags by no more than 1 ns in 1 µs. It is synchronised within 20 ns. -/
def State.followTime (s : State) (leader : Nat) : State :=
  match s.leaderOf with
  | none => s
  | some _ =>
    let l := s.plat.link
    let tick := if l.slewing then s.chip.tick else max s.chip.tick leader
    let near := decide (tick ≤ leader + 20) && decide (leader ≤ tick + 20)
    { (s.setLink { l with synced := near, slewing := l.slewing && !near, gain := leader - tick, lag := tick - leader }) with
      chip := { s.chip with tick := tick } }

/-- TIMEBASE_FLIT (R36). -/
def execTimebaseFlit (port : Nat) (flit : Flit) (leaderTick : Nat) (s : State) : Host.Outcome State Fault Refusal :=
  s.receive port flit (· = 4) fun s => s.followTime leaderTick

end Sys2Proof.Machine
end

