-- ==== Sys2Proof/Machine/Matrix.lean ====
section
/-! DEFINITION. The matrix engine: descriptors, multiplies, weight-buffer and accumulator transfers, matrix loads and
fences, and their completion (R237-R246, R253-R255, R270-R271, R370-R387). -/
namespace Sys2Proof.Machine

/-- Fields of a matrix descriptor word (R240). -/
structure MatDesc where
  af : Nat
  bf : Nat
  cm : Nat
  ta : Bool
  tw : Bool
  as_ : Bool
  m : Nat
  n : Nat
  k : Nat
  ct : Nat
  at_ : Nat
  pb : Nat
  woff : Nat
  sp : Bool
  reserved : Nat

/-- Decode a descriptor word (R240). -/
def matDesc (w : Nat) : MatDesc :=
  { af := bits 63 60 w, bf := bits 59 56 w, cm := bits 55 54 w, ta := w.testBit 53, tw := w.testBit 52, as_ := w.testBit 51
    m := 16 * (bits 50 49 w + 1), n := 32 * (bits 48 47 w + 1), k := 32 * (bits 46 41 w + 1), ct := bits 40 35 w
    at_ := bits 34 29 w, pb := bits 28 21 w, woff := bits 20 9 w, sp := w.testBit 8, reserved := bits 7 0 w }

/-- The operand families of R237: A and B formats form a row. -/
def formatRow (af bf : Nat) : Bool :=
  (decide (2 ≤ af) && decide (af ≤ 8) && decide (2 ≤ bf) && decide (bf ≤ 9)) ||
  ((af = 0xA || af = 0xB) && (bf = 0xA || bf = 0xB)) || ((af = 0xC || af = 0xD) && (bf = 0xC || bf = 0xD))

/-- Bytes of a record (R243, R244). -/
def recordLen (code : Nat) (sparse : Bool) : Nat :=
  if code ≤ 8 then (if sparse then 5 + 2 * code else 1 + 4 * code) else if code = 9 then 8 else if code ≤ 0xB then 33 else 64

/-- Rows that A needs (R243). -/
def MatDesc.needRows (d : MatDesc) : Nat := if d.ta then d.k else d.m
/-- Row bytes that A needs (R243). -/
def MatDesc.needBytes (d : MatDesc) : Nat := if d.ta then 2 * d.m else d.k / 32 * recordLen d.af false
/-- Bytes of the B range (R244). -/
def MatDesc.bBytes (d : MatDesc) : Nat := d.n * (d.k / 32) * recordLen d.bf d.sp

/-- A valid descriptor apart from the tile's geometry; stream: the instruction is mmas (R241, R376). -/
def MatDesc.valid (d : MatDesc) (stream twin leader : Bool) : Bool :=
  d.reserved = 0 && decide (d.cm ≤ 1) && formatRow d.af d.bf &&
  (!d.sp || (decide (2 ≤ d.bf) && decide (d.bf ≤ 8))) && (!d.ta || (decide (0xC ≤ d.af) && !d.as_)) &&
  (d.as_ == stream) && (!d.tw || (twin && leader))

/-- The tile is large enough for A (R241, R376). -/
def MatDesc.fits (d : MatDesc) (t : Tile) : Bool := decide (d.needRows ≤ t.rows) && decide (d.needBytes ≤ t.rowBytes)

/-- The queue that a thread's operations take: its core's, its leader's on a twin (R373). What another block's threads on a follower
core issue goes into that core's own queue (notes/assumptions/145). -/
def Chip.matQueue (c : Chip) (t : Thread) : Nat :=
  match c.blockOf t with
  | some b => b.core
  | none => t.core

/-- Whether that queue's 16 entries are in use (R373). -/
def Chip.matFull (c : Chip) (t : Thread) : Bool := decide (16 ≤ (c.eng.mats.filter fun m => m.queue = c.matQueue t).length)

/-- The checks of R242 and R376 and the tile wait. -/
def Chip.mmaStop (c : Chip) (f : Long) (stream : Bool) (ts : List Thread) (t : Thread) : Option Stop :=
  let word (u : Thread) : Nat := srcOf u.regs f.a 64 false
  let base (u : Thread) : Nat := srcOf u.regs f.b 64 false
  let stride (u : Thread) : Nat := readSlices u.regs (fStart f.b + 16) 64
  let mask := voteMask c f t
  let agree := allSame ts word && (!stream || (allSame ts base && allSame ts stride))
  if f.grouped && !agree then some (.trap 27 mask)
  else
    let d := matDesc (word t)
    let b := c.blockOf t
    let tiles := match b with | some b => b.tiles | none => []
    let nbar := match b with | some b => b.nbar | none => 0
    let acc := match b with | some b => b.accbytes | none => 0
    let wb := match b with | some b => b.wbbytes | none => 0
    let twin := match b with | some b => b.twin | none => false
    let leader := match b with | some b => t.core = b.core | none => false
    let small := match (if d.as_ then none else tiles[d.at_]?) with | some tl => !d.fits tl | none => false
    if !d.valid stream twin leader || small then some (.trap 27 (mask + 2 ^ 32))
    else if d.pb ≠ 255 && nbar ≤ d.pb then some (.trap 49 d.pb)
    else if !d.as_ && tiles.length ≤ d.at_ then some (.trap 51 d.at_)
    else if acc < d.ct * 4096 + 4 * d.m * d.n then some (.trap 25 (max (d.ct * 4096) acc))
    else if wb < 256 * d.woff + d.bBytes then some (.trap 25 (max (256 * d.woff) wb))
    else if d.as_ then none else tileHold d.at_ (tiles.getD d.at_ {}) .ready

/-- Fences at the head of a queue have completed (R386). -/
def dropFences (queue : Nat) : List MatOp → List MatOp
  | [] => []
  | m :: r =>
    if m.queue = queue then (match m.kind with | .fence => dropFences queue r | _ => m :: r)
    else m :: dropFences queue r

/-- Complete the fences that every earlier operation has passed (R386). -/
def Chip.pump (c : Chip) (queue : Nat) : Chip := { c with eng := { c.eng with mats := dropFences queue c.eng.mats } }

/-- Put an operation in its queue (R373), with rank 0's tmode.TTRAP as it is then (notes/assumptions/144). -/
def Chip.enqueue (c : Chip) (core : Nat) (t : Thread) (who : List Nat) (kind : MatKind) (pb scope : Nat) : Chip :=
  let m : MatOp := { id := c.eng.next, queue := c.matQueue t, core := core, block := (c.blockOf t).map (·.id), kind := kind
                     pb := pb, scope := scope, ctx := t.ctx, mode := t.mode, ttrap := t.ttrap, members := who }
  ({ c with eng := { c.eng with mats := c.eng.mats ++ [m], next := c.eng.next + 1 } } : Chip).pump m.queue

/-- A multiply issues once, as rank 0's (R242, R376): it reads its tile from the end of the tile wait on, and its threads wait while
the queue is full (R198, R373). -/
def Chip.mmaIssue (c : Chip) (f : Long) (ts : List Thread) : Chip :=
  match ts with
  | [] => c
  | t :: _ =>
    let w := srcOf t.regs f.a 64 false
    let d := matDesc w
    let counted := ts.any fun u => u.reading.isSome
    let c := if d.as_ || counted then c
      else (match t.block with | some b => c.onTile b d.at_ fun k => { k with readers := k.readers + 1 } | none => c).onThread t.id
        fun t => { t with reading := some d.at_ }
    if c.matFull t then ts.foldl (fun c u => c.onThread u.id fun u => { u with wait := .queueFull, waitSince := c.tick }) c
    else
      let c := ts.foldl (fun c u => c.onThread u.id fun u => { u.complete 8 with arrived := none, reading := none }) c
      c.enqueue t.core t (ts.map (·.id)) (.multiply (BitVec.ofNat 64 w) (BitVec.ofNat 64 (srcOf t.regs f.b 64 false))
        (BitVec.ofNat 64 (readSlices t.regs (fStart f.b + 16) 64))) d.pb 2

/-- Threads that no longer wait for the queue with their mma read its tile no longer (R376). -/
def Chip.dropReads (c : Chip) : Chip :=
  (c.threads.filter fun t => t.reading.isSome && !(t.onCompute && (match t.wait with
    | .queueFull => true | .ready => true | .group _ _ => true | _ => false))).foldl (fun c t => c.unread t.id) c

/-- mma, mmas as an issue executes them (R242, R372, R377). -/
def mmaOp (f : Long) (stream : Bool) : Op :=
  { uses := { strict := [spanI f.a] ++ (if stream then [spanI f.b, (fStart f.b + 16, 16)] else []) }
    legal := fun _ _ t => !stream || decide (bits 63 32 (readSlices t.regs (fStart f.b + 16) 64) = 0)
    check := fun c ts _ t => c.mmaStop f stream ts t
    run := fun c ts => c.mmaIssue f ts
    advance := false, native := false }

/-- MMA (R376). -/
def execMma (f : Long) (s : State) : Host.Outcome State Fault Refusal := done (s.issueOp (mmaOp f false) (groupNoU f))
/-- MMAS (R376, R377). -/
def execMmas (f : Long) (s : State) : Host.Outcome State Fault Refusal := done (s.issueOp (mmaOp f true) (groupNoU f))

/-- The transfers. -/
inductive Transfer where
  | wbld | accld | acczr | accdr
  deriving DecidableEq

/-- Format code of a transfer, X bits 5:3 (R370). -/
def xferFmt (f : Long) : Nat := xBits f.x 5 3
/-- Source element bytes of accld (R379). -/
def accldBytes (code : Nat) : Nat := if code = 0 then 4 else 2
/-- Destination element bytes of accdr (R379). -/
def accdrBytes (code : Nat) : Nat := if code = 0 then 4 else if code ≤ 2 then 2 else 1
/-- Format of a transfer's code (R370). -/
def xferFormat (code : Nat) : Fmt :=
  match code with
  | 0 => .fp32 | 1 => .fp16 | 2 => .bf16 | 3 => .e4m3 | _ => .e5m2

/-- LEN of a control word (R339). -/
def xferLen (w : CopyWords) : Nat := bits 31 0 w.b

/-- The cause-2 checks of R378 and R339. -/
def xferLegal (f : Long) (x : Transfer) (w : CopyWords) : Bool :=
  let len := xferLen w
  decide (w.b >>> 43 = 0) && decide (bits 42 40 w.b ≤ 5) &&
  match x with
  | .wbld => decide (len ≤ 2 ^ 20)
  | .accld => let es := accldBytes (xferFmt f)
    decide (len % es = 0) && decide (4 * (len / es) ≤ 2 ^ 18) && decide (w.d % 4 = 0)
  | .acczr => decide (len % 4 = 0) && decide (len ≤ 2 ^ 18) && decide (w.d % 4 = 0)
  | .accdr => decide (len % 4 = 0) && decide (len ≤ 2 ^ 18) && decide (w.a % 4 = 0)

/-- The offset of a transfer in the weight buffer or accumulator memory. -/
def xferOffset (x : Transfer) (w : CopyWords) : Nat := if x = .accdr then w.a else w.d

/-- Bytes of a transfer in the weight buffer or accumulator memory. -/
def xferOwn (f : Long) (x : Transfer) (w : CopyWords) : Nat :=
  match x with
  | .accld => 4 * (xferLen w / accldBytes (xferFmt f))
  | _ => xferLen w

/-- Bytes of a transfer in spaces 0-3. -/
def xferMem (f : Long) (x : Transfer) (w : CopyWords) : Nat :=
  match x with
  | .acczr => 0
  | .accdr => accdrBytes (xferFmt f) * (xferLen w / 4)
  | _ => xferLen w

/-- Core select (R370). -/
def coreSelect (f : Long) : Nat := xBits f.x 7 6

/-- The core that a transfer names: its own, or the other one of its twin (R370). -/
def Chip.xferCore (c : Chip) (f : Long) (t : Thread) : Nat :=
  if coreSelect f = 0 then t.core else if t.core = c.matQueue t then t.core + 1 else c.matQueue t

/-- The checks of R378 after those of cause 2, and the queue (R373). -/
def Chip.xferStop (c : Chip) (f : Long) (x : Transfer) (t : Thread) : Option Stop :=
  let w := copyWords f t
  let b := c.blockOf t
  let pb := bits 39 32 w.b
  let nbar := match b with | some b => b.nbar | none => 0
  let own := match b with | some b => (if x = .wbld then b.wbbytes else b.accbytes) | none => 0
  let twin := match b with | some b => b.twin | none => false
  let off := xferOffset x w
  let n := xferOwn f x w
  if pb ≠ 255 && nbar ≤ pb then some (.trap 49 pb)
  else if coreSelect f = 1 && !twin then some (.trap 25 off)
  else if n ≠ 0 && own < off + n then some (.trap 25 (max off own))
  else match c.outside b f.dstSpace (if x = .accdr then w.d else w.a) (xferMem f x w) with
    | some o => some (.trap 25 o)
    | none => if c.matFull t then some (.hold .queueFull) else none

/-- The operation of a transfer (R379); a drain keeps rank 0's flush as it is at issue (R380). -/
def xferKind (f : Long) (x : Transfer) (t : Thread) (ftz : Bool) : MatKind :=
  let w := copyWords f t
  let src : End := ⟨f.dstSpace, BitVec.ofNat 64 w.a⟩
  match x with
  | .wbld => .wbld w.d src (xferLen w)
  | .accld => .accld w.d src (xferLen w) (xferFmt f)
  | .acczr => .acczr w.d (xferLen w)
  | .accdr => .accdr ⟨f.dstSpace, BitVec.ofNat 64 w.d⟩ w.a (xferLen w) (xferFmt f) ftz

/-- Rank 0's tmode.FTZ for a member of a group, the thread's own with G = 12 (R380). -/
def Chip.rankZeroFtz (c : Chip) (f : Long) (t : Thread) : Bool :=
  if f.grouped then ((c.membersOf t f.g.toNat).headD t).ftz else t.ftz

/-- A transfer issues with the operands of one thread for some (R372, R373). -/
def Chip.xferIssue (c : Chip) (f : Long) (x : Transfer) (ts : List Thread) : Chip :=
  match ts with
  | [] => c
  | t :: _ =>
    let w := copyWords f t
    c.enqueue (c.xferCore f t) t (ts.map (·.id)) (xferKind f x t (c.rankZeroFtz f t)) (bits 39 32 w.b) (max 2 (bits 42 40 w.b))

/-- A transfer as an issue executes it (R372, R378). -/
def xferOp (f : Long) (x : Transfer) : Op :=
  { uses := { strict := [spanI f.d] ++ (if x = .acczr then [] else [spanI f.a]) ++ [spanI f.b] }
    legal := fun _ _ t => xferLegal f x (copyWords f t)
    check := fun c _ _ t => c.xferStop f x t
    run := fun c ts => c.xferIssue f x ts
    native := false, each := true }

/-- WBLD (R379). -/
def execWbld (f : Long) (s : State) : Host.Outcome State Fault Refusal := done (s.long f (xferOp f .wbld))
/-- ACCLD (R379). -/
def execAccld (f : Long) (s : State) : Host.Outcome State Fault Refusal := done (s.long f (xferOp f .accld))
/-- ACCZR (R379). -/
def execAcczr (f : Long) (s : State) : Host.Outcome State Fault Refusal := done (s.long f (xferOp f .acczr))
/-- ACCDR (R379, R380). -/
def execAccdr (f : Long) (s : State) : Host.Outcome State Fault Refusal := done (s.long f (xferOp f .accdr))

/-- MXFENCE as an issue executes it: one queue entry for a group or a participant (R372, R386). -/
def mxfenceOp : Op :=
  { check := fun c _ _ t => if c.matFull t then some (.hold .queueFull) else none
    run := fun c ts => match ts with
      | [] => c
      | t :: _ => c.enqueue t.core t (ts.map (·.id)) .fence 255 0
    native := false }

/-- MXFENCE (R386). -/
def execMxfence (f : Long) (s : State) : Host.Outcome State Fault Refusal := done (s.issueOp (mxfenceOp) (groupNoU f))

/-- Fields of a tile word of mld and mldt (R383): tile, first row, first column. -/
def mldWord (w : Nat) : Nat × Nat × Nat := (bits 5 0 w, bits 17 6 w, bits 30 18 w)

/-- Rows and columns that mld or mldt reads for n members (R384). -/
def mldShape (f : Long) (transposed : Bool) (n : Nat) : Nat × Nat :=
  if transposed then (fWidth f.d / (8 * f.elemBytes), n * f.elemBytes) else (n, fWidth f.d / 8)

/-- The checks and the tile wait of mld and mldt (R372, R384, R385). -/
def Chip.mldStop (c : Chip) (f : Long) (transposed : Bool) (ts : List Thread) (t : Thread) : Option Stop :=
  let word (u : Thread) : Nat := srcOf u.regs f.a 64 false
  if f.grouped && !allSame ts word then some (.trap 27 (voteMask c f t))
  else
    let (k, row0, col0) := mldWord (word t)
    match (c.blockOf t).bind fun b => b.tiles[k]? with
    | none => some (.trap 51 k)
    | some tl =>
      let (rows, cols) := mldShape f transposed ts.length
      if tl.rows ≤ row0 then some (.trap 25 (tl.base + row0 * tl.rowBytes + col0))
      else if tl.rowBytes < col0 + cols then some (.trap 25 (tl.base + row0 * tl.rowBytes + max col0 tl.rowBytes))
      else if tl.rows < row0 + rows then some (.trap 25 (tl.base + tl.rows * tl.rowBytes + col0))
      else tileHold k tl .ready

/-- The tile places of a member's bytes, least significant first (R384). -/
def mldCells (f : Long) (transposed : Bool) (row0 col0 r : Nat) : List (Nat × Nat) :=
  let nb := fWidth f.d / 8
  if transposed then
    let es := f.elemBytes
    (List.range nb).map fun j => (row0 + j / es, col0 + r * es + j % es)
  else (List.range nb).map fun j => (row0 + r, col0 + j)

/-- mld, mldt as an issue executes them (R384, R385): one class T load of space 1 per member, after an acquire of cluster
scope. -/
def mldOp (f : Long) (transposed : Bool) : Op :=
  { uses := { strict := [spanI f.a], writes := [spanI f.d] }
    legal := fun _ _ t => srcOf t.regs f.a 64 false >>> 31 = 0
    check := fun c ts _ t => c.mldStop f transposed ts t
    run := fun c ts =>
      let one (c : Chip) (p : Thread × Nat) : Chip :=
        let t := p.1
        match c.blockOf t with
        | none => c
        | some b =>
          let (k, row0, col0) := mldWord (srcOf t.regs f.a 64 false)
          let tl := b.tiles.getD k {}
          let locs := (mldCells f transposed row0 col0 p.2).map fun x => spAddr c b (tl.at x.1 x.2)
          let v := numOf (locs.map fun l => c.getByte l)
          let c := c.acquire t.id 2
          let p := locs.any fun l => c.poisonedAt l
          c.onThread t.id fun u => u.apply (c.bars u) { sets := [(fStart f.d, fWidth f.d, v)], poison := p }
      (ranked ts).foldl one c
    native := false }

/-- MLD (R384). -/
def execMld (f : Long) (s : State) : Host.Outcome State Fault Refusal := done (s.long f (mldOp f false))
/-- MLDT (R384). -/
def execMldt (f : Long) (s : State) : Host.Outcome State Fault Refusal := done (s.long f (mldOp f true))

/-- One K element as the array multiplies it: decoded, and aligned where its format is (R258, R270). -/
abbrev MatEl := Fv

/-- What a record holds: 32 elements, whether a reserved ternary byte was decoded, a malformed sparse pair (R244). -/
structure RecVals where
  els : List MatEl
  tern : Bool := false
  bad : Bool := false

/-- Significand and exponent of a pattern as R256 defines them. -/
def sigEx (F : Fmt) (v : Nat) : Nat × Nat :=
  let fb := Fmt.prec F - 1
  let e := (v >>> fb) % 2 ^ (Fmt.width F - 1 - fb)
  let m := v % 2 ^ fb
  if e = 0 then (m, 1) else (2 ^ fb + m, e)

/-- Whether a value is special to the array (R271). -/
def Fv.special : Fv → Bool
  | .fin _ _ _ => false
  | _ => true

/-- Aligned values of a sub-group: its finite elements among themselves (R270; notes/assumptions/30). -/
def alignGroup (F : Fmt) (w : Nat) (vs : List Nat) : List MatEl :=
  let x := vs.foldl (fun m v => let s := sigEx F v; if s.1 = 0 || (Fmt.value F v).special then m else max m s.2) 1
  vs.map fun v =>
    let s := sigEx F v
    let q := (s.1 <<< (w - Fmt.prec F)) >>> (x - s.2)
    if (Fmt.value F v).special then Fmt.value F v
    else .fin (v.testBit (Fmt.width F - 1)) q ((x : Int) - Fmt.bias F - (Fmt.prec F - 1) - (w - Fmt.prec F))

/-- Elements of unscaled patterns, aligned in sub-groups of g (R270). -/
def alignedEls (F : Fmt) (w g : Nat) (vs : List Nat) : List MatEl :=
  (List.range (vs.length / g)).flatMap fun i => alignGroup F w ((vs.drop (g * i)).take g)

/-- The elements of one record (R244, R258, R259, R270). -/
def recVals (code : Nat) (sparse : Bool) (bs : List Nat) : RecVals :=
  let e := bs.headD 0
  let body := bs.drop 1
  let n := numOf (body.map fun b => BitVec.ofNat 8 b)
  if code ≤ 8 then
    if sparse then
      let pos (i : Nat) : Nat := bits (2 * i + 1) (2 * i) (n >>> (16 * code))
      let bad := (List.range 8).any fun g => decide (pos (2 * g + 1) ≤ pos (2 * g))
      let el (k : Nat) : Fv :=
        let g := k / 4
        let v := if k % 4 = pos (2 * g) then signedOf code (n >>> (code * (2 * g)))
          else if k % 4 = pos (2 * g + 1) then signedOf code (n >>> (code * (2 * g + 1))) else 0
        bxValue code e v
      { els := (List.range 32).map el, bad := bad }
    else { els := (List.range 32).map fun k => bxValue code e (signedOf code (n >>> (code * k))) }
  else if code = 9 then
    let live := decide (1 ≤ e) && decide (e ≤ 254)
    { els := (List.range 32).map fun k => ternValue e (ternDigit (body.getD (k / 5) 0) (k % 5))
      tern := live && (List.range 7).any fun j => decide (243 ≤ body.getD j 0) }
  else if code ≤ 0xB then
    let F : Fmt := if code = 0xA then .e4m3 else .e5m2
    let scale (v : Fv) : Fv := if e = 0 then Fv.zero else if e = 255 then .nan false else fvScale ((e : Int) - 127) v
    { els := (alignedEls F 7 8 (body.take 32)).map scale }
  else
    let F : Fmt := if code = 0xC then .fp16 else .bf16
    { els := alignedEls F 15 4 ((List.range 32).map fun i => bs.getD (2 * i) 0 + 256 * bs.getD (2 * i + 1) 0) }

/-- fp32_sum where a special value is present (R271): the canonical NaN or the infinity. -/
def fp32Special (c : Fv) (ps : List (Fv × Fv)) : Fv :=
  let prods := ps.map fun p => (fvMul p.1 p.2).1
  (c :: prods).foldl (fun s p => (fvAdd 0 s p).1) Fv.zero

/-- One pass over a K-group: the new FP32 pattern (R271). -/
def kGroup (c : Nat) (as bs : List MatEl) : Nat :=
  let ps := as.zip bs
  let cv := Fmt.value .fp32 c
  if ps.any fun p => p.1.special || p.2.special then roundRne .fp32 false (fp32Special cv ps)
  else
    let s := ps.foldl (fun s p => (fvAdd 0 s (fvMul p.1 p.2).1).1) Fv.zero
    roundRne .fp32 false (fvAdd 0 cv s).1

/-- All passes of one element, in ascending K (R271, R272); n groups remain. -/
def dotPasses (c : Nat) (as bs : List MatEl) : Nat → Nat
  | 0 => c
  | n + 1 => dotPasses (kGroup c (as.take 8) (bs.take 8)) (as.drop 8) (bs.drop 8) n

/-- A row of A: its bytes with poison, or a fault code (R243). -/
def Chip.aRow (c : Chip) (m : MatOp) (b : Block) (d : MatDesc) (base stride i : Nat) : (List Nat × Bool ⊕ Nat) × Chip :=
  if d.as_ then
    (List.range d.needBytes).foldl (fun r j => match r with
      | (.inr f, c) => (.inr f, c)
      | (.inl (bs, bad), c) =>
        match c.engLocate ⟨m.core, m.ctx, m.mode, some b.id⟩ ⟨0, BitVec.ofNat 64 (base + i * stride + j)⟩ .load with
        | (.inr f, c) => (.inr f, c)
        | (.inl p, c) => let g := c.engGet ⟨m.core, m.ctx, m.mode, some b.id⟩ p; (.inl (bs ++ [g.1.toNat], bad || g.2.1), g.2.2))
      (.inl ([], false), c)
  else
    let tl := b.tiles.getD d.at_ {}
    let at_ (r col : Nat) : Nat := spAddr c b (tl.at r col)
    let locs := if d.ta then (List.range (2 * d.k)).map fun j => at_ (j / 2) (2 * i + j % 2)
      else (List.range d.needBytes).map fun j => at_ i j
    (.inl (locs.map fun l => (c.getByte l).toNat, locs.any fun l => c.poisonedAt l), c)

/-- Split bytes into n records of a length. -/
def recordsOf (bs : List Nat) (len : Nat) : Nat → List (List Nat)
  | 0 => []
  | n + 1 => bs.take len :: recordsOf (bs.drop len) len n

/-- The elements of a row of A (R243). -/
def rowEls (d : MatDesc) (bs : List Nat) : List MatEl :=
  (recordsOf bs (recordLen d.af false) (d.k / 32)).flatMap fun r => (recVals d.af false r).els

/-- All rows of A, from row i of n remaining; poison is code 3 (R243, R252). -/
def Chip.aRows (c : Chip) (m : MatOp) (b : Block) (d : MatDesc) (base stride : Nat) : Nat → (List (List MatEl) ⊕ Nat) × Chip
  | 0 => (.inl [], c)
  | n + 1 =>
    match c.aRow m b d base stride (d.m - (n + 1)) with
    | (.inr f, c) => (.inr f, c)
    | (.inl (bs, p), c) =>
      if p then (.inr 3, c)
      else match c.aRows m b d base stride n with
        | (.inr f, c) => (.inr f, c)
        | (.inl rs, c) => (.inl (rowEls d bs :: rs), c)

/-- The records of column j of B on a core (R244). -/
def Chip.bColumn (c : Chip) (core : Nat) (b : Block) (d : MatDesc) (j : Nat) : List (Nat × List Nat) :=
  let len := recordLen d.bf d.sp
  (List.range (d.k / 32)).map fun kb =>
    let at_ := wbAddr core (b.wbOn core + 256 * d.woff + (kb * d.n + j) * len)
    (at_, (List.range len).map fun i => (cellGet c.mem.wb (at_ + i)).toNat)

/-- Whether a range of the weight buffer is poisoned (R381). -/
def Chip.wbBad (c : Chip) (a n : Nat) : Bool := c.mem.wbPoison.any fun g => decide (g < a + n) && decide (a < g + 8)

/-- Fault and reserved-byte flag of B on a core: 3 poison, 5 a malformed pair, 4 a reserved byte where it traps (R244). Of several the
manual names no order (R252): this one, the leader's before the follower's (notes/assumptions/41). -/
def Chip.bFault (c : Chip) (core : Nat) (b : Block) (d : MatDesc) (ttrap : Bool) : Option Nat × Bool :=
  let recs := (List.range d.n).flatMap fun j => c.bColumn core b d j
  let vals := recs.map fun r => recVals d.bf d.sp r.2
  let tern := vals.any (·.tern)
  (if recs.any fun r => c.wbBad r.1 r.2.length then some 3
   else if vals.any (·.bad) then some 5
   else if tern && ttrap then some 4 else none, tern)

/-- The cores on which a multiply runs: both of a twin (R239). -/
def MatOp.cores (m : MatOp) (d : MatDesc) : List Nat := if d.tw then [m.core, m.core + 1] else [m.core]

/-- C of an operation on a core: M * N words (R246). -/
def Chip.cWords (c : Chip) (core : Nat) (b : Block) (d : MatDesc) : List Nat :=
  let at_ := accAddr core (b.accOn core + d.ct * 4096)
  (List.range (d.m * d.n)).map fun i => cellRead c.mem.acc (at_ + 4 * i) 4

/-- Whether C of an operation holds a poisoned word (R246, R381). -/
def Chip.cBad (c : Chip) (core : Nat) (b : Block) (d : MatDesc) : Bool :=
  let at_ := accAddr core (b.accOn core + d.ct * 4096)
  c.mem.accPoison.any fun g => decide (g < at_ + 4 * d.m * d.n) && decide (at_ < g + 8)

/-- The result of a multiply, core by core; or its fault code; and whether a reserved ternary byte was met (R243-R246,
R252, R271). -/
def Chip.multiply (c : Chip) (m : MatOp) (b : Block) (desc base stride : Word) :
    (List (List Nat) ⊕ Nat) × Bool × Chip :=
  let d := matDesc desc.toNat
  match c.aRows m b d base.toNat (bits 31 0 stride.toNat) d.m with
  | (.inr f, c) => (.inr f, false, c)
  | (.inl rows, c) =>
    let bf := (m.cores d).map fun k => c.bFault k b d m.ttrap
    let tern := bf.any (·.2)
    match bf.findSome? (·.1) with
    | some f => (.inr f, tern, c)
    | none =>
      if m.badC then (.inr 3, tern, c)
      else
        let out := ((m.cores d).zip (List.range 2)).map fun k =>
          let cols := (List.range d.n).map fun j => (c.bColumn k.1 b d j).flatMap fun r => (recVals d.bf d.sp r.2).els
          let c0 := m.shadow.getD k.2 []
          (rows.zip (List.range d.m)).flatMap fun r => (cols.zip (List.range d.n)).map fun q =>
            dotPasses (if d.cm = 1 then 0 else c0.getD (r.2 * d.n + q.2) 0) r.1 q.1 (d.k / 8)
        (.inl out, tern, c)

/-- Two multiplies of one core that are equal-shape (R253). -/
def equalShape (a b : Word) : Bool :=
  let x := matDesc a.toNat
  let y := matDesc b.toNat
  x.ct = y.ct && x.m = y.m && x.n = y.n && x.tw == y.tw

/-- Operations before one in the queues. -/
def earlier (ms : List MatOp) (id : Nat) : List MatOp := ms.takeWhile fun m => m.id ≠ id

/-- Whether a multiply uses an array. -/
def MatOp.usesCore (m : MatOp) (core : Nat) : Bool :=
  match m.kind with
  | .multiply w _ _ => (m.cores (matDesc w.toNat)).contains core
  | _ => false

/-- Whether a transfer moves no byte (R378). -/
def MatKind.moves : MatKind → Bool
  | .wbld _ _ len => len != 0
  | .accld _ _ len _ => len != 0
  | .acczr _ len => len != 0
  | .accdr _ _ len _ _ => len != 0
  | _ => true

/-- Whether the queue may start an operation now (R238, R239, R253, R373, R386): the operations of both cores of a twin count as
those of one core. One that moves no byte completes in order (R378). Another block's operations on a follower core wait only while
a twin's operation runs there (notes/assumptions/145). -/
def Chip.mayStart (c : Chip) (m : MatOp) : Bool :=
  let before := (earlier c.eng.mats m.id).filter fun k => k.queue = m.queue
  let fenced := before.any fun k => k.kind = .fence
  let twinBefore := m.core ≠ m.queue && before.any fun k => match k.kind with
    | .multiply w _ _ => (matDesc w.toNat).tw
    | _ => false
  let array := match m.kind with
    | .multiply w _ _ =>
      let mine := m.cores (matDesc w.toNat)
      let running := (c.eng.mats.any fun k => k.started && k.id ≠ m.id && mine.any fun x => k.usesCore x)
      let shape := before.any fun k => match k.kind with
        | .multiply v _ _ => equalShape v w
        | _ => false
      !running && !shape
    | _ => true
  !fenced && !twinBefore && array && (m.kind.moves || before.isEmpty)

/-- Change an operation of the matrix queues. -/
def Chip.setMat (c : Chip) (m : MatOp) : Chip :=
  { c with eng := { c.eng with mats := c.eng.mats.map fun k => if k.id = m.id then m else k } }

/-- An operation of the matrix queues by its number. -/
def Chip.mat? (c : Chip) (id : Nat) : Option MatOp := c.eng.mats.find? fun m => m.id = id

/-- MATRIX_OPERATION_START (R238, R246, R373): a multiply takes C into its shadow. -/
def execMatrixOperationStart (s : State) : Host.Outcome State Fault Refusal :=
  let c := s.chip
  match c.mat? s.subject with
  | none => done s
  | some m =>
    if m.started || !c.mayStart m then done s
    else match m.kind, m.block.bind c.block? with
      | .multiply w _ _, some b =>
        let d := matDesc w.toNat
        let m := { m with
          started := true
          shadow := if d.cm = 1 then [] else (m.cores d).map fun k => c.cWords k b d
          badC := d.cm ≠ 1 && (m.cores d).any fun k => c.cBad k b d }
        done { s with chip := c.setMat m }
      | .fence, _ => done s
      | _, _ => done { s with chip := c.setMat { m with started := true } }

/-- A matrix-class operation leaves its queue: barrier, tokens, fences behind it, retirement; abandoned after a hard
cancellation or an abort (R251, R255, R381). -/
def Chip.matDone (c : Chip) (m : MatOp) (code : Nat) : Chip :=
  let c := { c with eng := { c.eng with mats := c.eng.mats.filter fun k => k.id ≠ m.id } }
  let c := match m.block.bind c.block? with
    | some b => if b.cancelled then c else c.pbApply b m.pb 1 0 code
    | none => c
  let c := (c.opDone m.id).pump m.queue
  match m.block with
  | some b => c.retireCheck b
  | none => c

/-- A multiply has fetched every A byte: its tile loses a reader (R376). -/
def Chip.fetchedA (c : Chip) (m : MatOp) (desc : Word) : Chip :=
  let d := matDesc desc.toNat
  match m.block with
  | some b => if d.as_ then c else c.onTile b d.at_ fun k => { k with readers := k.readers - 1 }
  | none => c

/-- A reserved ternary byte sets TERN in every member (R244). -/
def Chip.setTern (c : Chip) (m : MatOp) (tern : Bool) : Chip :=
  if tern then m.members.foldl (fun c id => c.onThread id fun t => { t with tflags := t.tflags ||| 4 }) c else c

/-- Write words of accumulator memory and clear the poison of the words they cover (R246). -/
def Chip.accPut (c : Chip) (at_ : Nat) (ws : List Nat) : Chip :=
  let m := (ws.zip (List.range ws.length)).foldl (fun m w => cellWrite m (at_ + 4 * w.2) w.1 4) c.mem.acc
  let keep := c.mem.accPoison.filter fun g => !(decide (at_ ≤ g) && decide (g + 8 ≤ at_ + 4 * ws.length))
  { c with mem := { c.mem with acc := m, accPoison := keep } }

/-- A started multiply of the queues with its block. -/
def Chip.running? (c : Chip) (id : Nat) : Option (MatOp × Block × Word × Word × Word) :=
  match c.mat? id with
  | none => none
  | some m => match m.kind, m.block.bind c.block? with
    | .multiply w base stride, some b => if m.started then some (m, b, w, base, stride) else none
    | _, _ => none

/-- MATRIX_COMMIT (R246): the whole result at once, both halves of a twin, then the barrier. -/
def execMatrixCommit (s : State) : Host.Outcome State Fault Refusal :=
  match s.chip.running? s.subject with
  | none => done s
  | some (m, b, w, base, stride) =>
    if b.cancelled then done { s with chip := (s.chip.fetchedA m w).matDone m 0 }
    else match s.chip.multiply m b w base stride with
      | (.inr _, _, _) => done s
      | (.inl out, tern, c) =>
        let d := matDesc w.toNat
        let c := ((m.cores d).zip out).foldl (fun c k => c.accPut (accAddr k.1 (b.accOn k.1 + d.ct * 4096)) k.2) c
        done { s with chip := ((c.setTern m tern).fetchedA m w).matDone m 0 }

/-- MATRIX_OPERAND_FAULT (R255): the operation completes in the error phase and writes nothing. -/
def execMatrixOperandFault (s : State) : Host.Outcome State Fault Refusal :=
  match s.chip.running? s.subject with
  | none => done s
  | some (m, b, w, base, stride) =>
    if b.cancelled then done s
    else match s.chip.multiply m b w base stride with
      | (.inl _, _, _) => done s
      | (.inr f, tern, c) => done { s with chip := match waitsFor (some f) with
        | some line => s.chip.parkUnit (agentOf m.core) line
        | none => ((c.setTern m tern).fetchedA m w).matDone m f }

/-- Write one byte of the weight buffer or accumulator memory. -/
def Chip.ownPut (c : Chip) (wb : Bool) (a : Nat) (v : Byte) : Chip :=
  if wb then { c with mem := { c.mem with wb := cellSet c.mem.wb a v } }
  else { c with mem := { c.mem with acc := cellSet c.mem.acc a v } }

/-- Poison the 8-byte word of a byte there (R73, R381). -/
def Chip.ownPoison (c : Chip) (wb : Bool) (a : Nat) : Chip :=
  if wb then { c with mem := { c.mem with wbPoison := setInsert (roundDown a 8) c.mem.wbPoison } }
  else { c with mem := { c.mem with accPoison := setInsert (roundDown a 8) c.mem.accPoison } }

/-- Forget the poison of the 8-byte words that n bytes cover whole (R73). -/
def Chip.ownClean (c : Chip) (wb : Bool) (a n : Nat) : Chip :=
  let keep (l : List Nat) : List Nat := l.filter fun g => !(decide (a ≤ g) && decide (g + 8 ≤ a + n))
  if wb then { c with mem := { c.mem with wbPoison := keep c.mem.wbPoison } }
  else { c with mem := { c.mem with accPoison := keep c.mem.accPoison } }

/-- Bytes of an element of a load into accumulator memory as its FP32 word (R379). -/
def accldWord (code : Nat) (bs : List Byte) : Nat :=
  if code = 0 then numOf bs else roundRne .fp32 false (Fmt.value (xferFormat code) (numOf bs))

/-- Read n bytes for an engine from an end: bytes and poison, or a fault code. -/
def Chip.engRead (c : Chip) (e : Eng) (x : End) : Nat → (List Byte × Bool ⊕ Nat) × Chip
  | 0 => (.inl ([], false), c)
  | n + 1 =>
    match c.engLocate e x .load with
    | (.inr f, c) => (.inr f, c)
    | (.inl p, c) =>
      let g := c.engGet e p
      match g.2.2.engRead e (x.plus 1) n with
      | (.inr f, c) => (.inr f, c)
      | (.inl (bs, p), c) => (.inl (g.1 :: bs, g.2.1 || p), c)

/-- Elements of a wbld or accld from element i of n remaining, es source bytes each (R379, R381): fault code, bytes written, those
that carry poison. -/
def Chip.xferIn (c : Chip) (e : Eng) (wb : Bool) (at_ : Nat) (src : End) (es code : Nat) :
    Nat → Option Nat × Nat × List Nat × Chip
  | 0 => (none, 0, [], c)
  | n + 1 =>
    match c.engRead e src es with
    | (.inr f, c) => (some f, 0, [], c)
    | (.inl (bs, p), c) =>
      let out := if wb then bs else bytesOf (accldWord code bs) 4
      let c := (out.zip (List.range out.length)).foldl (fun c b => c.ownPut wb (at_ + b.2) b.1) c
      let y := c.xferIn e wb (at_ + out.length) (src.plus es) es code n
      (y.1, out.length + y.2.1, (if p then (List.range out.length).map (at_ + ·) else []) ++ y.2.2.1, y.2.2.2)

/-- A wbld or accld: the words written whole are clean but for those that receive poison; the rest keep theirs (R73, R381). -/
def Chip.xferLoad (c : Chip) (e : Eng) (wb : Bool) (at_ : Nat) (src : End) (es code n : Nat) : Option Nat × Chip :=
  let r := c.xferIn e wb at_ src es code n
  (r.1, r.2.2.1.foldl (fun c a => c.ownPoison wb a) (r.2.2.2.ownClean wb at_ r.2.1))

/-- narrow of R380. -/
def narrowWord (code : Nat) (ftz : Bool) (w : Nat) : Nat :=
  if code = 0 then w else roundRne (xferFormat code) ftz (Fmt.value .fp32 w)

/-- Write bytes for an engine to an end, poisoned or not. -/
def Chip.engWrite (c : Chip) (e : Eng) (x : End) (p : Bool) : List Byte → Option Nat × List Nat × Chip
  | [] => (none, [], c)
  | b :: r =>
    match c.engLocate e x .store with
    | (.inr f, c) => (some f, [], c)
    | (.inl d, c) =>
      let y := (c.engPut e d b).engWrite e (x.plus 1) p r
      (y.1, (if p then [d.pa] else []) ++ y.2.1, y.2.2)

/-- Elements of an accdr from n remaining (R379, R381): fault code, poisoned destinations. -/
def Chip.xferOut (c : Chip) (e : Eng) (dst : End) (at_ code : Nat) (ftz : Bool) : Nat → Option Nat × List Nat × Chip
  | 0 => (none, [], c)
  | n + 1 =>
    let w := cellRead c.mem.acc at_ 4
    let p := c.mem.accPoison.any fun g => decide (g < at_ + 4) && decide (at_ < g + 8)
    let bs := bytesOf (narrowWord code ftz w) (accdrBytes code)
    match c.engWrite e dst p bs with
    | (some f, ps, c) => (some f, ps, c)
    | (none, ps, c) =>
      let y := c.xferOut e (dst.plus bs.length) (at_ + 4) code ftz n
      (y.1, ps ++ y.2.1, y.2.2)

/-- The bytes of a transfer and its fault code (R379-R381). -/
def Chip.xferMove (c : Chip) (m : MatOp) (b : Block) : Option Nat × Chip :=
  let e : Eng := ⟨m.core, m.ctx, m.mode, some b.id⟩
  match m.kind with
  | .wbld off src len =>
    c.xferLoad e true (wbAddr m.core (b.wbOn m.core + off)) src 1 0 len
  | .accld off src len fmt =>
    c.xferLoad e false (accAddr m.core (b.accOn m.core + off)) src (accldBytes fmt) fmt (len / accldBytes fmt)
  | .acczr off len => (none, c.accPut (accAddr m.core (b.accOn m.core + off)) (List.replicate (len / 4) 0))
  | .accdr dst off len fmt ftz =>
    let r := c.xferOut e dst (accAddr m.core (b.accOn m.core + off)) fmt ftz (len / 4)
    let c := if r.1.isNone then r.2.2.engCleanse e dst (accdrBytes fmt * (len / 4)) else r.2.2
    (r.1, r.2.1.foldl (fun c pa => c.poisonPa pa) c)
  | _ => (none, c)

/-- TRANSFER_COMPLETE (R381): its subject is the operation. -/
def execTransferComplete (s : State) : Host.Outcome State Fault Refusal :=
  match s.chip.mat? s.subject with
  | none => done s
  | some m => match m.kind, m.block.bind s.chip.block? with
    | .multiply _ _ _, _ => done s
    | .fence, _ => done s
    -- of a thread without a block: it moves no byte
    | _, none => done (if s.chip.mayStart m then { s with chip := s.chip.matDone m 0 } else s)
    | _, some b =>
      if !s.chip.mayStart m then done s
      else if b.cancelled then done { s with chip := s.chip.matDone m 0 }
      else
        let r := s.chip.xferMove m b
        done { s with chip := match waitsFor r.1 with
          | some line => s.chip.parkUnit (agentOf m.core) line
          | none => r.2.matDone m (r.1.getD 0) }

end Sys2Proof.Machine
end

