-- ==== Sys2Proof/Machine/Ras.lean ====
section
/-! DEFINITION. Errors, containment, power and temperature: lanes and links of dies, stacks and channels, fenced dies, and
throttling (R13-R22, R39-R42, R77, R170). -/
namespace Sys2Proof.Machine

/-- Change the failures and fences. -/
def Chip.setRas (c : Chip) (r : Ras) : Chip := { c with ras := r }

/-- UCIE_LANE_REPAIR (R13): only logged. -/
def execUcieLaneRepair (a b : Nat) (s : State) : Host.Outcome State Fault Refusal :=
  if a < 10 && b < 10 && a ≠ b then
    let c := s.chip.logEvent 13
    done { s with chip := c.setRas { c.ras with repairs := c.ras.repairs + 1 } }
  else done s

/-- Row and column of a C-die in the die map (R10). -/
def dieRow (d : Nat) : Nat := d / 4
def dieCol (d : Nat) : Nat := d % 4 + 1

/-- The die at a row and column: L-die 0 is 8 and spans column 0, L-die 1 is 9 and spans column 5 (R10). -/
def dieAt (row col : Nat) : Nat := if col = 0 then 8 else if col = 5 then 9 else 4 * row + (col - 1)

/-- Whether a die link joins two dies (R10). -/
def linked (a b : Nat) : Bool :=
  let near (x y : Nat) : Bool := x + 1 = y || y + 1 = x
  if a < 8 && b < 8 then (dieRow a = dieRow b && near (dieCol a) (dieCol b)) || (dieCol a = dieCol b && dieRow a ≠ dieRow b)
  else
    let l := max a b
    let d := min a b
    decide (d < 8) && ((l = 8 && dieCol d = 1) || (l = 9 && dieCol d = 4))

/-- Whether the link between two dies is fenced. -/
def Ras.cutLink (r : Ras) (a b : Nat) : Bool := r.links.contains (min a b, max a b)

/-- Column of a die: the L-dies span columns 0 and 5 (R10). -/
def colOf (d : Nat) : Nat := if d = 8 then 0 else if d = 9 then 5 else dieCol d

/-- The dies along a row from a column to another (R14). -/
def rowPath (row a b : Nat) : List Nat :=
  if a ≤ b then (List.range (b - a + 1)).map fun i => dieAt row (a + i) else (List.range (a - b + 1)).map fun i => dieAt row (a - i)

/-- The dies on the way of a message from one die to another (R14, R15): along the source's row and then to the other row, or, in the
alternative order, to the other row first. An L-die starts in the row of its target, in the alternative order in the other one; a
message to an L-die stays in its row, or crosses first; between the L-dies it takes row 0, or row 1 (DESIGN CHOICE,
notes/assumptions/28). -/
def dieRoute (a b : Nat) (alternative : Bool) : List Nat :=
  let ca := colOf a
  let cb := colOf b
  if 8 ≤ a && 8 ≤ b then rowPath (if alternative then 1 else 0) ca cb
  else if 8 ≤ a then
    if alternative then rowPath (1 - dieRow b) ca cb ++ [b] else rowPath (dieRow b) ca cb
  else if 8 ≤ b then
    if alternative then a :: rowPath (1 - dieRow a) ca cb else rowPath (dieRow a) ca cb
  else if dieRow a = dieRow b then rowPath (dieRow a) ca cb
  else if alternative then a :: rowPath (dieRow b) ca cb else rowPath (dieRow a) ca cb ++ [b]

/-- The links that a way of dies crosses. -/
def crossings : List Nat → List (Nat × Nat)
  | a :: b :: r => (min a b, max a b) :: crossings (b :: r)
  | _ => []

/-- Whether no link of a way is fenced. -/
def Ras.open_ (r : Ras) (way : List Nat) : Bool := !((crossings way).any r.links.contains)

/-- The way that messages between two dies take now (R14, R15): the alternative order where the other needs a fenced link. -/
def Ras.routeNow (r : Ras) (a b : Nat) : Option (List Nat) :=
  if r.open_ (dieRoute a b false) then some (dieRoute a b false)
  else if r.open_ (dieRoute a b true) then some (dieRoute a b true)
  else none

/-- Whether a die can reach L-die 0 in one of its two orders (R14, R15). -/
def Ras.reachesHome (r : Ras) (d : Nat) : Bool := (r.routeNow d 8).isSome

/-- Whether both orders between a die and L-die 0 need a fenced link: it is fenced as a whole (R15). Two dies that reach L-die 0, but for
which both orders between them need a fenced link, are cut off from nothing that the rule names; they go on communicating (DESIGN
CHOICE, notes/assumptions/28). -/
def Ras.severed (r : Ras) (d : Nat) : Bool := !r.reachesHome d

/-- Retire a block that was on a fenced die as faulted; its away threads are released (R169, R170). -/
def Chip.failBlock (c : Chip) (b : Block) : Chip :=
  let away (t : Thread) : Thread :=
    if !t.ofBlock b.id then t
    else match t.place with
      | .slot _ _ _ _ => t
      | .saved => t
      | .ended => t
      | _ => t.releaseAway b.isTask
  let mine := (c.threads.filter fun t => t.ofBlock b.id && t.onCompute).map (·.id)
  let c := mine.foldl (fun c id => c.detach id) c
  let c := { c with threads := c.threads.map away }
  let c := match (if b.isTask then none else c.grid? b.owner) with
    | some g => c.setGrid { g with unreported := g.unreported ++ [(b.index, 1)], flags := g.flags ||| 0x20 }
    | none => c
  c.dropBlock b

/-- What a fenced die does to one grid (R170): its blocks there are faulted, its undealt range is dealt again, and the policy of its head
acts, where it had a block there (notes/assumptions/147). A gang grid that has not started asks again. -/
def Chip.gridOnFencedDie (c : Chip) (die slot : Nat) : Chip :=
  match c.grid? slot with
  | none => c
  | some g =>
    let bs := c.disp.blocks.filter fun b => !b.isTask && b.owner = slot && (if b.preempt = .saved then b.saveDie else b.core / 80) = die
    let here := g.dieRanges.filter fun r => r.who = die
    let g := { g with dieSp := g.dieSp.filter fun p => p.1 ≠ die }
    let c :=
      if here.isEmpty then c.setGrid g
      else if g.gated && !g.remote then c.refuseCommit g
      else
        let rest := { g with dieRanges := g.dieRanges.filter fun r => r.who ≠ die }
        c.setGrid { rest with dieRanges := rest.dieRanges ++ here.flatMap fun r => c.dealDies rest r }
    let c := bs.foldl (fun c b => c.failBlock b) c
    if bs.isEmpty then c else if g.remote then c.tellHead g .dieFenced else c.applyPolicy slot 0

/-- The tasks that ran on a fenced die fail (notes/assumptions/29). -/
def Chip.tasksOnFencedDie (c : Chip) (die : Nat) : Chip :=
  ((c.disp.blocks.filter fun b => b.isTask && (if b.preempt = .saved then b.saveDie else b.core / 80) = die)).foldl (fun c b =>
    let c := c.failBlock b
    match c.task? b.owner with
    | some k => if k.settled then c.freeTask b.owner else c.abortTask b.owner true
    | none => c) c

/-- The on-die memories and caches of a C-die are discarded (R77). -/
def Chip.discardDie (c : Chip) (die : Nat) : Chip :=
  let onDie (l : Nat) : Bool := bits 55 51 l = c.pkg && bits 50 48 l = 3 && bits 28 26 l = die
  let m := c.mem
  { c with
    mem := { m with
      bytes := m.bytes.filter fun k => !onDie k.1
      poison := m.poison.filter fun l => !onDie l
      l1 := m.l1.filter fun l => l.core / 80 ≠ die
      icache := m.icache.filter fun l => l.core / 80 ≠ die
      owned := m.owned.filter fun o => o.1 ≠ die
      notices := m.notices.filter fun o => o.1 / 80 ≠ die
      acc := m.acc.filter fun k => k.1 / 2 ^ 18 / 80 ≠ die
      wb := m.wb.filter fun k => k.1 / 2 ^ 20 / 80 ≠ die
      accPoison := m.accPoison.filter fun k => k / 2 ^ 18 / 80 ≠ die
      wbPoison := m.wbPoison.filter fun k => k / 2 ^ 20 / 80 ≠ die }
    xl := { c.xl with tlb := c.xl.tlb.filter fun e => match e.level with
      | .core k => k / 80 ≠ die | .die d => d ≠ die | .hart _ _ => true } }

/-- The threads that a die held, once its blocks are gone, end with it. -/
def Chip.endDieThreads (c : Chip) (die : Nat) : Chip :=
  let mine := (c.threads.filter fun t => t.onCompute && t.core / 80 = die).map (·.id)
  let c := mine.foldl (fun c id => c.detach id) c
  { c with
    threads := c.threads.map fun t => if mine.contains t.id then { t with place := .ended, held := none, wait := .ready } else t
    groups := c.groups.filter fun g => g.core / 80 ≠ die
    eng := { c.eng with
      copies := c.eng.copies.filter fun k => k.core / 80 ≠ die, mats := c.eng.mats.filter fun k => k.core / 80 ≠ die
      batches := c.eng.batches.filter fun b => b.core / 80 ≠ die } }

/-- Fence a C-die as a whole (R20, R77, R170). -/
def State.fenceDie (s : State) (die : Nat) : State :=
  let c := s.chip
  if !decide (die < 8) || c.ras.dies.getLsbD die then s
  else
    let c := c.setRas { c.ras with dies := c.ras.dies ||| (1#8 <<< die), hbmStacks := c.ras.hbmStacks ||| (3#16 <<< (2 * die)) }
    let c := c.loseHolder (.cdie die)
    let c := (c.disp.grids.map (·.slot)).foldl (fun c g => c.gridOnFencedDie die g) c
    let c := ((c.tasksOnFencedDie die).endDieThreads die).discardDie die
    ({ s with chip := c }).dropPort die

/-- C_DIE_FENCED (R77, R170): subject the die. -/
def execCDieFenced (s : State) : Host.Outcome State Fault Refusal := done (s.fenceDie s.subject)

/-- Fence L-die 1 (R42, R77): its memory reads as poison, lines that only its caches held are poisoned, its PCIe port goes down, and the
root firmware goes on alone; during bring-up, which needs both copies, bring-up stops. -/
def State.fenceLdie1 (s : State) : State :=
  let c := s.chip
  if c.ras.ldie1 then s
  else
    let c := (c.setRas { c.ras with ldie1 := true }).loseHolder (.ldie 1)
    let on (t : Thread) : Bool := match t.place with | .hart 1 _ => true | _ => false
    let c := { c with
      threads := c.threads.filter fun t => !on t, harts := c.harts.filter fun h => h.ldie ≠ 1
      pcie := listSet c.pcie 1 { c.pciePort 1 with up := false } }
    let t := s.plat.trust
    let s := { (s.setTrust { t with mirrorLost := true }) with chip := c }
    if t.stage = 7 && t.stageDone then s else s.bootFail t.stage

/-- L_DIE_1_FENCED (R42, R77). -/
def execLDie1Fenced (s : State) : Host.Outcome State Fault Refusal := done s.fenceLdie1

/-- L_DIE_0_FAILURE (R77): the package halts. -/
def execLDie0Failure (s : State) : Host.Outcome State Fault Refusal :=
  done (s.setTrust { s.plat.trust with power := .off })

/-- Fence what the links that are left cut off from L-die 0 (R15). -/
def State.fenceSevered (s : State) : State :=
  let s := ((List.range 8).filter s.chip.ras.severed).foldl (fun s d => s.fenceDie d) s
  if s.chip.ras.severed 9 then s.fenceLdie1 else s

/-- The die of an agent; a package enters by no fixed one. -/
def agentDie : Agent → Option Nat
  | .cdie d => some d
  | .ldie l => some (8 + l)
  | .cxl l => some (8 + l)
  | .pkg _ => none

/-- A request on its way to its home when a link between two dies is fenced (R15): parked in the home's fault queue where it used that
link, to be replayed on the new route. -/
def Chip.interrupt (c : Chip) (before : Ras) (link : Nat × Nat) (r : Request) (n : Nat) : Option Chip :=
  match c.requestLoc r, agentDie r.agent with
  | some l, some a => match agentDie (c.homeOf l) with
    | none => none
    | some h =>
      if (crossings ((before.routeNow a h).getD [])).contains link then
        let c := c.acknowledge r.agent n
        some (if 2048 ≤ c.parkedAt (c.homeOf l) then c.refuse r
          else { c with mem := { c.mem with parked := c.mem.parked ++ [{ req := r, line := l / 64 }] } })
      else none
  | _, _ => none

/-- The request that a coming step brings to a home, if it is one. -/
def requestOf : Instr → Option Request
  | .directoryRead r => some r
  | .directoryWrite r => some r
  | .homeAtomic r => some r
  | _ => none

/-- The requests under way park where they used the fenced link (R15, R76). -/
def State.interruptAll (s : State) (before : Ras) (link : Nat × Nat) : State :=
  let x := s.agenda.foldl (fun (x : Chip × List (Instr × Nat)) e =>
    match (requestOf e.1).bind fun r => x.1.interrupt before link r e.2 with
    | some c => (c, x.2)
    | none => (x.1, x.2 ++ [e])) (s.chip, [])
  { s with chip := x.1, agenda := x.2 }

/-- DIE_LINK_FENCED (R15, R76): requests in flight over the link are parked at their homes, and traffic takes the other order. -/
def execDieLinkFenced (a b : Nat) (s : State) : Host.Outcome State Fault Refusal :=
  let c := s.chip
  if !linked a b || c.ras.cutLink a b then done s
  else
    let link := (min a b, max a b)
    let s := { s with chip := c.setRas { c.ras with links := c.ras.links ++ [link] } }
    done (s.interruptAll c.ras link).fenceSevered

/-- Fence an HBM stack (R20). -/
def Chip.fenceStack (c : Chip) (stack : Nat) : Chip :=
  if stack < 16 then c.setRas { c.ras with hbmStacks := c.ras.hbmStacks ||| (1#16 <<< stack) } else c

/-- HBM_STACK_FENCED (R20): subject the stack. -/
def execHbmStackFenced (s : State) : Host.Outcome State Fault Refusal := done { s with chip := s.chip.fenceStack s.subject }

/-- STACK_TEMPERATURE_CHANGE (R18): above 95 the C-die's issue to the stack is halved until it falls below 93, above 105 the
stack is fenced. -/
def execStackTemperatureChange (stack celsius : Nat) (s : State) : Host.Outcome State Fault Refusal :=
  let c := s.chip
  if !decide (stack < 16) then done s
  else
    let bit := 1#16 <<< stack
    let halved := if 95 < celsius then c.ras.halved ||| bit else if celsius < 93 then c.ras.halved &&& ~~~bit else c.ras.halved
    let c := c.setRas { c.ras with temps := listSet c.ras.temps stack celsius, halved := halved }
    done { s with chip := if 105 < celsius then c.fenceStack stack else c }

/-- Refresh of a stack: doubled above 85 °C (R18). -/
def Ras.doubled (r : Ras) (stack : Nat) : Bool := decide (85 < r.temps.getD stack 0)

/-- PATROL_SCRUB (R19, R22, R73): a location of HBM or LPDDR of this package, in the management window too. A corrected error is written
back and logged, an uncorrectable one poisons. -/
def execPatrolScrub (addr : Word) (found : ScrubResult) (s : State) : Host.Outcome State Fault Refusal :=
  let c := s.chip
  match c.mapped addr.toNat with
  | .main l =>
    if bits 55 51 l ≠ c.pkg || bits 50 48 l = 5 then done s
    else
      let met := { c with mem := { c.mem with latent := c.mem.latent.filter fun k => k.1 ≠ granuleOf l } }
      match found with
      | .clean => done s
      | .corrected => done { s with chip := met.logEvent 19 }
      | .uncorrectable => done { s with chip := (met.logEvent 19).setPoison l }
  | _ => done s

/-- LPDDR_CHANNEL_FAILED (R22). -/
def execLpddrChannelFailed (ldie channel : Nat) (s : State) : Host.Outcome State Fault Refusal :=
  let c := s.chip
  if ldie < 2 && channel < 16 then
    done { s with chip := c.setRas { c.ras with channels := c.ras.channels ||| (1#32 <<< (16 * ldie + channel)) } }
  else done s

/-- JUNCTION_ABOVE_105 (R41): subject the die, 8 and 9 the L-dies; seven issue cycles in eight are skipped there. -/
def execJunctionAbove105 (s : State) : Host.Outcome State Fault Refusal :=
  let c := s.chip
  done { s with chip := c.setRas { c.ras with hot := c.ras.hot ||| (1#10 <<< s.subject) } }

/-- JUNCTION_BELOW_100 (R41). -/
def execJunctionBelow100 (s : State) : Host.Outcome State Fault Refusal :=
  let c := s.chip
  done { s with chip := c.setRas { c.ras with hot := c.ras.hot &&& ~~~(1#10 <<< s.subject) } }

/-- JUNCTION_ABOVE_115 (R41). -/
def execJunctionAbove115 (s : State) : Host.Outcome State Fault Refusal := done s.powerDown

/-- POWER_CAP_EXCEEDED (R40): subject the step in eighths; the deepest skips seven cycles in eight. -/
def execPowerCapExceeded (s : State) : Host.Outcome State Fault Refusal :=
  let c := s.chip
  done { s with chip := c.setRas { c.ras with eighths := min 7 s.subject, slowed := true } }

end Sys2Proof.Machine
end

