-- ==== Sys2Proof/Machine/Votes.lean ====
section
/-! DEFINITION. Group 0xA: votes, reductions and scans over the members of a group (R347-R349). -/
namespace Sys2Proof.Machine

/-- The member whose B rank s reads (R204, R348). -/
def voter (f : Long) (ts : List Thread) (s : Nat) : Thread := ts.getD (permRank f.x s ts.length) {}

/-- The values v(0) to v(n-1) of R348. -/
def voteVals (ts : List Thread) (v : Nat → α) : List α := (List.range ts.length).map v

/-- A vote, reduction or scan: rank r's result is of the first m values, all or r + 1 or r of them (R348, R74). -/
def voteOp (f : Long) (upTo : Nat → Nat → Nat) (value : List Thread → Nat → Nat) : Op :=
  { uses := { reads := [spanI f.b], writes := [spanI f.d] }
    run := regRun false fun c ts r _ =>
      let from_ := (List.range (upTo ts.length r)).map (voter f ts)
      { sets := [(fStart f.d, fWidth f.d, value ts r % 2 ^ fWidth f.d)]
        poison := from_.any fun t => t.poisoned (c.bars t) [spanI f.b] } }

/-- B of rank s at its own width (R348). -/
def rawVote (f : Long) (ts : List Thread) (s : Nat) : Nat := let t := voter f ts s; readSlices t.regs (fStart f.b) (fWidth f.b)

/-- v(s) at the operation width (R348). -/
def vote (f : Long) (sg : Bool) (ts : List Thread) (s : Nat) : Nat := srcOf (voter f ts s).regs f.b (fWidth f.d) sg

/-- Execute a vote whose result is of every member. -/
def voteAll (f : Long) (value : List Thread → Nat) (s : State) : Host.Outcome State Fault Refusal :=
  done (s.long f (voteOp f (fun n _ => n) fun ts _ => value ts))

/-- All ones or zero at the width of D. -/
def onesIf (f : Long) (b : Bool) : Nat := if b then 2 ^ fWidth f.d - 1 else 0

/-- VALL (R348). -/
def execVall (f : Long) (s : State) : Host.Outcome State Fault Refusal :=
  voteAll f (fun ts => onesIf f ((voteVals ts (rawVote f ts)).all (· ≠ 0))) s
/-- VANY (R348). -/
def execVany (f : Long) (s : State) : Host.Outcome State Fault Refusal :=
  voteAll f (fun ts => onesIf f ((voteVals ts (rawVote f ts)).any (· ≠ 0))) s
/-- VBAL (R348): bit m of the issue group for each member whose value is not zero. -/
def execVbal (f : Long) (s : State) : Host.Outcome State Fault Refusal :=
  voteAll f (fun ts => (ts.zip (List.range ts.length)).foldl (fun m p => if rawVote f ts p.2 ≠ 0 then m + 2 ^ p.1.bit else m) 0) s

/-- GRANK (R348). -/
def execGrank (f : Long) (s : State) : Host.Outcome State Fault Refusal :=
  done (s.long f { uses := { writes := [spanI f.d] }
                   run := regRun false fun _ ts r _ =>
                     { sets := [(fStart f.d, fWidth f.d, (r + 256 * ts.length) % 2 ^ fWidth f.d)] } })

/-- A reduction of v(0) to v(n-1) (R348). -/
def reduceExec (f : Long) (sg : Bool) (g : Nat → Nat → Nat) (s : State) : Host.Outcome State Fault Refusal :=
  voteAll f (fun ts => match voteVals ts (vote f sg ts) with
    | [] => 0
    | v :: vs => vs.foldl g v) s

/-- The less of two values as integers of D's width. -/
def minOf (f : Long) (sg : Bool) (a b : Nat) : Nat := if ival b (fWidth f.d) sg < ival a (fWidth f.d) sg then b else a
/-- The greater of two values as integers of D's width. -/
def maxOf (f : Long) (sg : Bool) (a b : Nat) : Nat := if ival a (fWidth f.d) sg < ival b (fWidth f.d) sg then b else a

/-- REDADD (R348). -/
def execRedadd (f : Long) (s : State) : Host.Outcome State Fault Refusal := reduceExec f false (· + ·) s
/-- REDAND (R348). -/
def execRedand (f : Long) (s : State) : Host.Outcome State Fault Refusal := reduceExec f false (· &&& ·) s
/-- REDOR (R348). -/
def execRedor (f : Long) (s : State) : Host.Outcome State Fault Refusal := reduceExec f false (· ||| ·) s
/-- REDXOR (R348). -/
def execRedxor (f : Long) (s : State) : Host.Outcome State Fault Refusal := reduceExec f false (· ^^^ ·) s
/-- REDMIN_S (R348). -/
def execRedminS (f : Long) (s : State) : Host.Outcome State Fault Refusal := reduceExec f true (minOf f true) s
/-- REDMIN_Z (R348). -/
def execRedminZ (f : Long) (s : State) : Host.Outcome State Fault Refusal := reduceExec f false (minOf f false) s
/-- REDMAX_S (R348). -/
def execRedmaxS (f : Long) (s : State) : Host.Outcome State Fault Refusal := reduceExec f true (maxOf f true) s
/-- REDMAX_Z (R348). -/
def execRedmaxZ (f : Long) (s : State) : Host.Outcome State Fault Refusal := reduceExec f false (maxOf f false) s

/-- A prefix sum: of the ranks up to r, itself among them or not (R348). -/
def scanExec (f : Long) (own : Bool) (s : State) : Host.Outcome State Fault Refusal :=
  let upTo (_ r : Nat) : Nat := if own then r + 1 else r
  done (s.long f (voteOp f upTo fun ts r =>
    ((List.range (upTo ts.length r)).map (vote f false ts)).foldl (· + ·) 0))

/-- SCANADD (R348). -/
def execScanadd (f : Long) (s : State) : Host.Outcome State Fault Refusal := scanExec f true s
/-- SCANADDX (R348). -/
def execScanaddx (f : Long) (s : State) : Host.Outcome State Fault Refusal := scanExec f false s

/-- Exact sum of a set with the special values of R349. -/
def fvSum (rm : Nat) (vs : List Fv) : Fv × Fl :=
  let nv := vs.foldl (fun k v => Fl.or k (snanFlag v)) flNone
  let infs := vs.filterMap fun v => match v with | .inf n => some n | _ => none
  if vs.any (·.isNan) then (.nan false, nv)
  else match infs with
    | n :: r => if r.all (· == n) then (.inf n, {}) else (.nan false, flNV)
    | [] =>
      let zeros := vs.all (·.isZero)
      if zeros && vs.all (·.neg) then (.fin true 0 0, {})
      else if zeros && vs.all (!·.neg) then (.fin false 0 0, {})
      else
        let lo := vs.foldl (fun l v => match v with | .fin _ _ e => min l e | _ => l) (0 : Int)
        let t := vs.foldl (fun (t : Int) v => match v with | .fin n m e => t + scaleTo n m e lo | _ => t) 0
        (if t = 0 then .fin (decide (rm = 2)) 0 0 else .fin (decide (t < 0)) t.natAbs lo, {})

/-- The rounded sum of the values of ranks below m, with rank 0's mode and flush and a member's generator (R349). -/
def voteSum (f : Long) (ts : List Thread) (m : Nat) (trng : Word) : Res :=
  let t0 := ts.headD {}
  let rm := (modeFor 7 (smallD f) t0).getD 0
  let ins := (List.range m).map fun s => let t := voter f ts s; fltIn t.regs f.b t.ftz
  let v := fvSum rm (ins.map (·.1))
  let r := roundTo (fmtOf f.d) rm t0.ftz trng v.1
  { r with fl := r.fl.or (ins.foldl (fun k p => Fl.or k p.2) v.2) }

/-- A floating sum over the group: each rank's number of summands, and whose generator it draws (R349). -/
def fsumOp (f : Long) (scan : Bool) : Op :=
  { uses := { reads := [spanF f.b], writes := [spanF f.d] }
    legal := fun ts _ t => (modeFor 7 (smallD f) (ts.headD t)).isSome
    run := regRun false fun c ts r t =>
      let m := if scan then r + 1 else ts.length
      let v := voteSum f ts m (if scan then t.trng else (ts.headD t).trng)
      { sets := [(fStart f.d, Fmt.width (fmtOf f.d), v.val)]
        poison := ((List.range m).map (voter f ts)).any fun u => u.poisoned (c.bars u) [spanF f.b]
        ff := v.fl.ff, tf := v.fl.tf
        trng := if scan || r = 0 then some v.trng else none } }

/-- FREDADD (R349). -/
def execFredadd (f : Long) (s : State) : Host.Outcome State Fault Refusal := done (s.long f (fsumOp f false))
/-- FSCANADD (R349). -/
def execFscanadd (f : Long) (s : State) : Host.Outcome State Fault Refusal := done (s.long f (fsumOp f true))

end Sys2Proof.Machine
end

