-- ==== Sys2Proof/Machine/Dispatch.lean ====
section
/-! DEFINITION. One arm per instruction: each calls its meaning. -/
namespace Sys2Proof.Machine

/-- The meaning of every instruction. -/
def exec (i : Instr) (s : State) : Host.Outcome State Fault Refusal :=
  match i with
  | .bootStage1 agree => Sys2Proof.Machine.execBootStage1 agree s
  | .bootStage3 trained => Sys2Proof.Machine.execBootStage3 trained s
  | .bootStage4 stacksOk channelsOk => Sys2Proof.Machine.execBootStage4 stacksOk channelsOk s
  | .bootStage6 portsUp => Sys2Proof.Machine.execBootStage6 portsUp s
  | .mgattreq addr => Sys2Proof.Machine.execMgattreq addr s
  | .mgdbgnonce addr => Sys2Proof.Machine.execMgdbgnonce addr s
  | .mgdbgrec addr => Sys2Proof.Machine.execMgdbgrec addr s
  | .registerWrite addr v => Sys2Proof.Machine.execRegisterWrite addr v s
  | .stackTemperatureChange stack celsius => Sys2Proof.Machine.execStackTemperatureChange stack celsius s
  | .patrolScrub addr found => Sys2Proof.Machine.execPatrolScrub addr found s
  | .ucieLaneRepair a b => Sys2Proof.Machine.execUcieLaneRepair a b s
  | .dieLinkFenced a b => Sys2Proof.Machine.execDieLinkFenced a b s
  | .lpddrChannelFailed ldie channel => Sys2Proof.Machine.execLpddrChannelFailed ldie channel s
  | .idleFlit port flit => Sys2Proof.Machine.execIdleFlit port flit s
  | .dataFlit port flit => Sys2Proof.Machine.execDataFlit port flit s
  | .retryRequest port flit expected => Sys2Proof.Machine.execRetryRequest port flit expected s
  | .retrainMarker port flit => Sys2Proof.Machine.execRetrainMarker port flit s
  | .timebaseFlit port flit leaderTick => Sys2Proof.Machine.execTimebaseFlit port flit leaderTick s
  | .retrain port cause => Sys2Proof.Machine.execRetrain port cause s
  | .formationClaim from_ round => Sys2Proof.Machine.execFormationClaim from_ round s
  | .acknowledgement from_ round => Sys2Proof.Machine.execAcknowledgement from_ round s
  | .memberReply from_ round leader => Sys2Proof.Machine.execMemberReply from_ round leader s
  | .image from_ round bytes last => Sys2Proof.Machine.execImage from_ round bytes last s
  | .formationDone from_ round => Sys2Proof.Machine.execFormationDone from_ round s
  | .formed from_ round => Sys2Proof.Machine.execFormed from_ round s
  | .ownershipNotice core line => Sys2Proof.Machine.execOwnershipNotice core line s
  | .dirtyAgeWriteback core line => Sys2Proof.Machine.execDirtyAgeWriteback core line s
  | .lineEviction by_ line => Sys2Proof.Machine.execLineEviction by_ line s
  | .directoryRead req => Sys2Proof.Machine.execDirectoryRead req s
  | .directoryWrite req => Sys2Proof.Machine.execDirectoryWrite req s
  | .homeAtomic req => Sys2Proof.Machine.execHomeAtomic req s
  | .faultQueueReplay index repaired => Sys2Proof.Machine.execFaultQueueReplay index repaired s
  | .frresumeRetry unit record => Sys2Proof.Machine.execFrresumeRetry unit record s
  | .frresumeMigrate unit record => Sys2Proof.Machine.execFrresumeMigrate unit record s
  | .trgen v => Sys2Proof.Machine.execTrgen v s
  | .remoteSfenceVma die range => Sys2Proof.Machine.execRemoteSfenceVma die range s
  | .remoteSfenceVmaAsid die range asid => Sys2Proof.Machine.execRemoteSfenceVmaAsid die range asid s
  | .remoteHfenceGvmaVmid die range vmid => Sys2Proof.Machine.execRemoteHfenceGvmaVmid die range vmid s
  | .remoteHfenceGvma die range => Sys2Proof.Machine.execRemoteHfenceGvma die range s
  | .remoteHfenceVvmaAsid die range vmid asid => Sys2Proof.Machine.execRemoteHfenceVvmaAsid die range vmid asid s
  | .remoteHfenceVvma die range vmid => Sys2Proof.Machine.execRemoteHfenceVvma die range vmid s
  | .recall id => Sys2Proof.Machine.execRecall id s
  | .serviceCompletion thread a0 a1 => Sys2Proof.Machine.execServiceCompletion thread a0 a1 s
  | .grupload v => Sys2Proof.Machine.execGrupload v s
  | .grkick v => Sys2Proof.Machine.execGrkick v s
  | .capacityReport slot capacities => Sys2Proof.Machine.execCapacityReport slot capacities s
  | .sluiceCommit slot answers => Sys2Proof.Machine.execSluiceCommit slot answers s
  | .tailraceRefill queue die job => Sys2Proof.Machine.execTailraceRefill queue die job s
  | .issue core quarter port => Sys2Proof.Machine.execIssue core quarter port s
  | .issueGroupSwap core quarter active pending => Sys2Proof.Machine.execIssueGroupSwap core quarter active pending s
  | .sliceGrant core quarter lane => Sys2Proof.Machine.execSliceGrant core quarter lane s
  | .sliceStarvation core quarter lane => Sys2Proof.Machine.execSliceStarvation core quarter lane s
  | .preempt handle => Sys2Proof.Machine.execPreempt handle s
  | .movS f => Sys2Proof.Machine.execMovS f s
  | .movZ f => Sys2Proof.Machine.execMovZ f s
  | .movi f => Sys2Proof.Machine.execMovi f s
  | .and f => Sys2Proof.Machine.execAnd f s
  | .or f => Sys2Proof.Machine.execOr f s
  | .xor f => Sys2Proof.Machine.execXor f s
  | .andn f => Sys2Proof.Machine.execAndn f s
  | .bfi f => Sys2Proof.Machine.execBfi f s
  | .clz f => Sys2Proof.Machine.execClz f s
  | .ctz f => Sys2Proof.Machine.execCtz f s
  | .popc f => Sys2Proof.Machine.execPopc f s
  | .brev f => Sys2Proof.Machine.execBrev f s
  | .bfxS f => Sys2Proof.Machine.execBfxS f s
  | .bfxZ f => Sys2Proof.Machine.execBfxZ f s
  | .sel f => Sys2Proof.Machine.execSel f s
  | .shi f => Sys2Proof.Machine.execShi f s
  | .addS f => Sys2Proof.Machine.execAddS f s
  | .addZ f => Sys2Proof.Machine.execAddZ f s
  | .addsS f => Sys2Proof.Machine.execAddsS f s
  | .addsZ f => Sys2Proof.Machine.execAddsZ f s
  | .subS f => Sys2Proof.Machine.execSubS f s
  | .subZ f => Sys2Proof.Machine.execSubZ f s
  | .subsS f => Sys2Proof.Machine.execSubsS f s
  | .subsZ f => Sys2Proof.Machine.execSubsZ f s
  | .minS f => Sys2Proof.Machine.execMinS f s
  | .minZ f => Sys2Proof.Machine.execMinZ f s
  | .maxS f => Sys2Proof.Machine.execMaxS f s
  | .maxZ f => Sys2Proof.Machine.execMaxZ f s
  | .addminS f => Sys2Proof.Machine.execAddminS f s
  | .addminZ f => Sys2Proof.Machine.execAddminZ f s
  | .addmaxS f => Sys2Proof.Machine.execAddmaxS f s
  | .addmaxZ f => Sys2Proof.Machine.execAddmaxZ f s
  | .mulS f => Sys2Proof.Machine.execMulS f s
  | .mulZ f => Sys2Proof.Machine.execMulZ f s
  | .mulhS f => Sys2Proof.Machine.execMulhS f s
  | .mulhZ f => Sys2Proof.Machine.execMulhZ f s
  | .madS f => Sys2Proof.Machine.execMadS f s
  | .madZ f => Sys2Proof.Machine.execMadZ f s
  | .absdS f => Sys2Proof.Machine.execAbsdS f s
  | .absdZ f => Sys2Proof.Machine.execAbsdZ f s
  | .cltS f => Sys2Proof.Machine.execCltS f s
  | .cltZ f => Sys2Proof.Machine.execCltZ f s
  | .cleS f => Sys2Proof.Machine.execCleS f s
  | .cleZ f => Sys2Proof.Machine.execCleZ f s
  | .ceq f => Sys2Proof.Machine.execCeq f s
  | .sll f => Sys2Proof.Machine.execSll f s
  | .srl f => Sys2Proof.Machine.execSrl f s
  | .sra f => Sys2Proof.Machine.execSra f s
  | .padd f => Sys2Proof.Machine.execPadd f s
  | .psub f => Sys2Proof.Machine.execPsub f s
  | .padds f => Sys2Proof.Machine.execPadds f s
  | .psubs f => Sys2Proof.Machine.execPsubs f s
  | .pmin f => Sys2Proof.Machine.execPmin f s
  | .pmax f => Sys2Proof.Machine.execPmax f s
  | .paddmin f => Sys2Proof.Machine.execPaddmin f s
  | .paddmax f => Sys2Proof.Machine.execPaddmax f s
  | .pabsd f => Sys2Proof.Machine.execPabsd f s
  | .pmul f => Sys2Proof.Machine.execPmul f s
  | .pmad f => Sys2Proof.Machine.execPmad f s
  | .pceq f => Sys2Proof.Machine.execPceq f s
  | .pclt f => Sys2Proof.Machine.execPclt f s
  | .psll f => Sys2Proof.Machine.execPsll f s
  | .psrl f => Sys2Proof.Machine.execPsrl f s
  | .psra f => Sys2Proof.Machine.execPsra f s
  | .fadd f => Sys2Proof.Machine.execFadd f s
  | .fsub f => Sys2Proof.Machine.execFsub f s
  | .fmul f => Sys2Proof.Machine.execFmul f s
  | .fmad f => Sys2Proof.Machine.execFmad f s
  | .fmsb f => Sys2Proof.Machine.execFmsb f s
  | .fmin f => Sys2Proof.Machine.execFmin f s
  | .fmax f => Sys2Proof.Machine.execFmax f s
  | .fabs f => Sys2Proof.Machine.execFabs f s
  | .fceq f => Sys2Proof.Machine.execFceq f s
  | .fclt f => Sys2Proof.Machine.execFclt f s
  | .fcle f => Sys2Proof.Machine.execFcle f s
  | .fclass f => Sys2Proof.Machine.execFclass f s
  | .frcp f => Sys2Proof.Machine.execFrcp f s
  | .frsq f => Sys2Proof.Machine.execFrsq f s
  | .fexp2 f => Sys2Proof.Machine.execFexp2 f s
  | .flog2 f => Sys2Proof.Machine.execFlog2 f s
  | .cvt f => Sys2Proof.Machine.execCvt f s
  | .cvtfs f => Sys2Proof.Machine.execCvtfs f s
  | .cvtfz f => Sys2Proof.Machine.execCvtfz f s
  | .cvtsf f => Sys2Proof.Machine.execCvtsf f s
  | .cvtzf f => Sys2Proof.Machine.execCvtzf f s
  | .bxpk f => Sys2Proof.Machine.execBxpk f s
  | .bxunp f => Sys2Proof.Machine.execBxunp f s
  | .trpk f => Sys2Proof.Machine.execTrpk f s
  | .trunp f => Sys2Proof.Machine.execTrunp f s
  | .bxcmp f => Sys2Proof.Machine.execBxcmp f s
  | .f8pk f => Sys2Proof.Machine.execF8pk f s
  | .f8unp f => Sys2Proof.Machine.execF8unp f s
  | .ld f => Sys2Proof.Machine.execLd f s
  | .st f => Sys2Proof.Machine.execSt f s
  | .ldnf f => Sys2Proof.Machine.execLdnf f s
  | .pf f => Sys2Proof.Machine.execPf f s
  | .ldr f => Sys2Proof.Machine.execLdr f s
  | .str f => Sys2Proof.Machine.execStr f s
  | .aadd f => Sys2Proof.Machine.execAadd f s
  | .aand f => Sys2Proof.Machine.execAand f s
  | .aor f => Sys2Proof.Machine.execAor f s
  | .axor f => Sys2Proof.Machine.execAxor f s
  | .amin f => Sys2Proof.Machine.execAmin f s
  | .amax f => Sys2Proof.Machine.execAmax f s
  | .aminu f => Sys2Proof.Machine.execAminu f s
  | .amaxu f => Sys2Proof.Machine.execAmaxu f s
  | .axchg f => Sys2Proof.Machine.execAxchg f s
  | .acas f => Sys2Proof.Machine.execAcas f s
  | .afadd f => Sys2Proof.Machine.execAfadd f s
  | .afmin f => Sys2Proof.Machine.execAfmin f s
  | .afmax f => Sys2Proof.Machine.execAfmax f s
  | .tdef f => Sys2Proof.Machine.execTdef f s
  | .trel f => Sys2Proof.Machine.execTrel f s
  | .cpy f => Sys2Proof.Machine.execCpy f s
  | .tfill f => Sys2Proof.Machine.execTfill f s
  | .tdrn f => Sys2Proof.Machine.execTdrn f s
  | .cpys f => Sys2Proof.Machine.execCpys f s
  | .mma f => Sys2Proof.Machine.execMma f s
  | .mmas f => Sys2Proof.Machine.execMmas f s
  | .wbld f => Sys2Proof.Machine.execWbld f s
  | .accld f => Sys2Proof.Machine.execAccld f s
  | .acczr f => Sys2Proof.Machine.execAcczr f s
  | .accdr f => Sys2Proof.Machine.execAccdr f s
  | .mld f => Sys2Proof.Machine.execMld f s
  | .mldt f => Sys2Proof.Machine.execMldt f s
  | .mxfence f => Sys2Proof.Machine.execMxfence f s
  | .vall f => Sys2Proof.Machine.execVall f s
  | .vany f => Sys2Proof.Machine.execVany f s
  | .vbal f => Sys2Proof.Machine.execVbal f s
  | .grank f => Sys2Proof.Machine.execGrank f s
  | .redadd f => Sys2Proof.Machine.execRedadd f s
  | .redand f => Sys2Proof.Machine.execRedand f s
  | .redor f => Sys2Proof.Machine.execRedor f s
  | .redxor f => Sys2Proof.Machine.execRedxor f s
  | .redminS f => Sys2Proof.Machine.execRedminS f s
  | .redminZ f => Sys2Proof.Machine.execRedminZ f s
  | .redmaxS f => Sys2Proof.Machine.execRedmaxS f s
  | .redmaxZ f => Sys2Proof.Machine.execRedmaxZ f s
  | .scanadd f => Sys2Proof.Machine.execScanadd f s
  | .scanaddx f => Sys2Proof.Machine.execScanaddx f s
  | .fredadd f => Sys2Proof.Machine.execFredadd f s
  | .fscanadd f => Sys2Proof.Machine.execFscanadd f s
  | .fen f => Sys2Proof.Machine.execFen f s
  | .safept f => Sys2Proof.Machine.execSafept f s
  | .rtkt f => Sys2Proof.Machine.execRtkt f s
  | .rfill f => Sys2Proof.Machine.execRfill f s
  | .rpush f => Sys2Proof.Machine.execRpush f s
  | .rpop f => Sys2Proof.Machine.execRpop f s
  | .kpush f => Sys2Proof.Machine.execKpush f s
  | .kpop f => Sys2Proof.Machine.execKpop f s
  | .join k => Sys2Proof.Machine.execJoin k s
  | .leave k => Sys2Proof.Machine.execLeave k s
  | .gwait k => Sys2Proof.Machine.execGwait k s
  | .pbinit k rs1 => Sys2Proof.Machine.execPbinit k rs1 s
  | .pbarr k rs1 => Sys2Proof.Machine.execPbarr k rs1 s
  | .pbwait k rs1 => Sys2Proof.Machine.execPbwait k rs1 s
  | .pbarw k rs1 => Sys2Proof.Machine.execPbarw k rs1 s
  | .twait k => Sys2Proof.Machine.execTwait k s
  | .fenw slot => Sys2Proof.Machine.execFenw slot s
  | .give v => Sys2Proof.Machine.execGive v s
  | .claim v => Sys2Proof.Machine.execClaim v s
  | .migrate rd rs1 => Sys2Proof.Machine.execMigrate rd rs1 s
  | .spawn rd rs1 => Sys2Proof.Machine.execSpawn rd rs1 s
  | .gcancel rd rs1 rs2 => Sys2Proof.Machine.execGcancel rd rs1 rs2 s
  | .gstat rd rs1 rs2 => Sys2Proof.Machine.execGstat rd rs1 rs2 s
  | .tsub rd rs1 => Sys2Proof.Machine.execTsub rd rs1 s
  | .tcomm rd rs1 => Sys2Proof.Machine.execTcomm rd rs1 s
  | .tabort rd rs1 => Sys2Proof.Machine.execTabort rd rs1 s
  | .rfillm rd rs1 rs2 noWait => Sys2Proof.Machine.execRfillm rd rs1 rs2 noWait s
  | .rpushm rd rs1 rs2 noWait => Sys2Proof.Machine.execRpushm rd rs1 rs2 noWait s
  | .rpopm rd rs1 rs2 noWait => Sys2Proof.Machine.execRpopm rd rs1 rs2 noWait s
  | .kpushm rd rs1 rs2 noWait => Sys2Proof.Machine.execKpushm rd rs1 rs2 noWait s
  | .kpopm rd rs1 rs2 noWait => Sys2Proof.Machine.execKpopm rd rs1 rs2 noWait s
  | .sysinfo rd rs1 => Sys2Proof.Machine.execSysinfo rd rs1 s
  | .sbiHartStartStop hart start => Sys2Proof.Machine.execSbiHartStartStop hart start s
  | .bootStage0 => Sys2Proof.Machine.execBootStage0 s
  | .bootStage2 => Sys2Proof.Machine.execBootStage2 s
  | .bootStage5 => Sys2Proof.Machine.execBootStage5 s
  | .bootStage7 => Sys2Proof.Machine.execBootStage7 s
  | .lockstepMismatch => Sys2Proof.Machine.execLockstepMismatch s
  | .sessionKeyGeneration => Sys2Proof.Machine.execSessionKeyGeneration s
  | .attestationReport => Sys2Proof.Machine.execAttestationReport s
  | .junctionAbove105 => Sys2Proof.Machine.execJunctionAbove105 s
  | .junctionBelow100 => Sys2Proof.Machine.execJunctionBelow100 s
  | .junctionAbove115 => Sys2Proof.Machine.execJunctionAbove115 s
  | .powerCapExceeded => Sys2Proof.Machine.execPowerCapExceeded s
  | .hbmStackFenced => Sys2Proof.Machine.execHbmStackFenced s
  | .cDieFenced => Sys2Proof.Machine.execCDieFenced s
  | .lDie1Fenced => Sys2Proof.Machine.execLDie1Fenced s
  | .lDie0Failure => Sys2Proof.Machine.execLDie0Failure s
  | .pauseExpiry => Sys2Proof.Machine.execPauseExpiry s
  | .retrainComplete => Sys2Proof.Machine.execRetrainComplete s
  | .portDown => Sys2Proof.Machine.execPortDown s
  | .packageLost => Sys2Proof.Machine.execPackageLost s
  | .reachableSetFixed => Sys2Proof.Machine.execReachableSetFixed s
  | .claimResend => Sys2Proof.Machine.execClaimResend s
  | .leaderSilence => Sys2Proof.Machine.execLeaderSilence s
  | .followerRouteLost => Sys2Proof.Machine.execFollowerRouteLost s
  | .recallWriteback => Sys2Proof.Machine.execRecallWriteback s
  | .directoryEviction => Sys2Proof.Machine.execDirectoryEviction s
  | .requestResend => Sys2Proof.Machine.execRequestResend s
  | .reservationExpiry => Sys2Proof.Machine.execReservationExpiry s
  | .walk => Sys2Proof.Machine.execWalk s
  | .walkComplete => Sys2Proof.Machine.execWalkComplete s
  | .faultRecordWrite => Sys2Proof.Machine.execFaultRecordWrite s
  | .poolFeed => Sys2Proof.Machine.execPoolFeed s
  | .generationRaiseComplete => Sys2Proof.Machine.execGenerationRaiseComplete s
  | .remoteFenceI => Sys2Proof.Machine.execRemoteFenceI s
  | .dtuAcknowledge => Sys2Proof.Machine.execDtuAcknowledge s
  | .automaticMoveToCompute => Sys2Proof.Machine.execAutomaticMoveToCompute s
  | .automaticMoveToLatency => Sys2Proof.Machine.execAutomaticMoveToLatency s
  | .threadPlacement => Sys2Proof.Machine.execThreadPlacement s
  | .arrivalRingWrite => Sys2Proof.Machine.execArrivalRingWrite s
  | .ecall => Sys2Proof.Machine.execEcall s
  | .batchClose => Sys2Proof.Machine.execBatchClose s
  | .serviceForward => Sys2Proof.Machine.execServiceForward s
  | .graphValidationDone => Sys2Proof.Machine.execGraphValidationDone s
  | .graphReplayDone => Sys2Proof.Machine.execGraphReplayDone s
  | .blockStart => Sys2Proof.Machine.execBlockStart s
  | .steal => Sys2Proof.Machine.execSteal s
  | .sluiceRetry => Sys2Proof.Machine.execSluiceRetry s
  | .retirementReport => Sys2Proof.Machine.execRetirementReport s
  | .gridCompletion => Sys2Proof.Machine.execGridCompletion s
  | .hardCancelTimeout => Sys2Proof.Machine.execHardCancelTimeout s
  | .yieldEviction => Sys2Proof.Machine.execYieldEviction s
  | .taskDispatch => Sys2Proof.Machine.execTaskDispatch s
  | .taskAging => Sys2Proof.Machine.execTaskAging s
  | .taskCompletion => Sys2Proof.Machine.execTaskCompletion s
  | .abortTimeout => Sys2Proof.Machine.execAbortTimeout s
  | .ringTicket => Sys2Proof.Machine.execRingTicket s
  | .ringFill => Sys2Proof.Machine.execRingFill s
  | .ringPush => Sys2Proof.Machine.execRingPush s
  | .ringPop => Sys2Proof.Machine.execRingPop s
  | .ringKpush => Sys2Proof.Machine.execRingKpush s
  | .ringKpop => Sys2Proof.Machine.execRingKpop s
  | .ringWithdrawal => Sys2Proof.Machine.execRingWithdrawal s
  | .preemptionRequest => Sys2Proof.Machine.execPreemptionRequest s
  | .preemptionWatchdog => Sys2Proof.Machine.execPreemptionWatchdog s
  | .preemptionSave => Sys2Proof.Machine.execPreemptionSave s
  | .preemptionHandlerTimeout => Sys2Proof.Machine.execPreemptionHandlerTimeout s
  | .restore => Sys2Proof.Machine.execRestore s
  | .restoreHandlerTimeout => Sys2Proof.Machine.execRestoreHandlerTimeout s
  | .matrixOperationStart => Sys2Proof.Machine.execMatrixOperationStart s
  | .matrixCommit => Sys2Proof.Machine.execMatrixCommit s
  | .matrixOperandFault => Sys2Proof.Machine.execMatrixOperandFault s
  | .transferComplete => Sys2Proof.Machine.execTransferComplete s
  | .copyComplete => Sys2Proof.Machine.execCopyComplete s
  | .gend => Sys2Proof.Machine.execGend s
  | .tret => Sys2Proof.Machine.execTret s
  | .routeReturn => Sys2Proof.Machine.execRouteReturn s
  | .sbiIpi => Sys2Proof.Machine.execSbiIpi s

end Sys2Proof.Machine
end

