-- ==== Sys2Proof/Machine/Sweep.lean ====
section
/-! DEFINITION. What follows every step at once: waits that a pending request or a RECALL meets, restores whose handler has
ended, tasks that have become ready, and what other packages send and are sent (R30, R114, R178, R226, R234). -/
namespace Sys2Proof.Machine

/-- The writes to registers of this package, of software and of MSIs, come next, in their order (R57, R123, R409). -/
def State.deliverMsis (s : State) : State :=
  if s.chip.regWrites.isEmpty then s
  else
    let steps := s.chip.regWrites.filterMap fun w => (regStep (regOff w.1.toNat) w.1 w.2).map fun i => (i, s.subject)
    { s with agenda := steps ++ s.agenda, chip := { s.chip with regWrites := [] } }

/-- A collective that a departure completed is executed next, by the members that are still there; members that do not wait at one
collective take cause 26 (R201). -/
def State.executeRipe (s : State) : State :=
  match s.chip.ripe with
  | [] => s
  | r :: rest =>
    if s.issue.isSome then s
    else
      let ms := r.members.filter fun id => match s.chip.thread? id with
        | some t => t.onCompute && t.wait = .ready
        | none => false
      if r.mixed then { s with chip := ({ s.chip with ripe := rest } : Chip).apart 0 r.mask (ms.filterMap s.chip.thread?) }
      else { s with
        chip := { s.chip with ripe := rest }
        issue := if ms.isEmpty then none else some { parts := ms, pc := r.pc } }

/-- Blocks that only waited for their lines to be written back retire (R76, R165). -/
def Chip.retireOver (c : Chip) : Chip :=
  (c.disp.blocks.filter fun b => !b.isTask && c.threads.all fun t => !t.ofBlock b.id || t.place = .ended).foldl (fun c b => c.retireCheck b.id) c

/-- What the chip does at once after a step. -/
def Chip.sweep (c : Chip) : Chip :=
  ((((c.parkEntered.answerRecalls.endRestores).replayMore).markReady).wakeBarriers.dropReads).beginGrids.retireOver.dropStale.trim

/-- What follows a step at once. -/
def State.sweep (s : State) : State :=
  let s := s.drainLinks
  let c := s.services.foldl Chip.startService (s.chip.identify s.identities)
  let s := { s with chip := c.sweep, identities := [], services := [] }
  s.sendOut.deliverMsis.executeRipe

end Sys2Proof.Machine
end

