-- ==== Sys2Proof/Machine/Step.lean ====
section
/-! DEFINITION. One step of the package (R54, R193, R274, R284, R286): the selected issue's instruction, else the next step of
another agent, else a choice of a thread. -/
namespace Sys2Proof.Machine

/-- What follows an executed step: the issue is over, waits that a request meets park or move, and time passes. -/
def settled (o : Host.Outcome State Fault Refusal) : Host.Outcome State Fault Refusal :=
  match o with
  | .next s => .next ({ s with issue := none }).sweep.pass
  | .fault r => .fault r
  | .refused r => .refused r

/-- Run what a fetched word decodes to (R274, R284). -/
def runDecoded (d : Decoded) (s : State) : Host.Outcome State Fault Refusal :=
  let word := match s.issue with | some i => i.word | none => 0
  let len := match s.issue with | some i => i.len | none => 0
  match d with
  | .op i => exec i s
  | .std w => .next (s.standard word len (decodeStd w len))
  | .illegal => .next (s.issueOp (illegalOp len) none)
  | .unassigned => .next (s.issueOp (unassignedOp word len) none)

/-- The step of another agent that comes next runs with its subject; after it, threads that wait for room try again. -/
def runAgenda (i : Instr) (n : Nat) (rest : List (Instr × Nat)) (s : State) : Host.Outcome State Fault Refusal :=
  match exec i { s with agenda := rest, subject := n } with
  | .next s' => .next (({ s' with chip := s'.chip.retryFull }).sweep.pass)
  | .fault r => .fault r
  | .refused r => .refused r

/-- A package that is off, or whose bring-up stopped, does nothing more until a new bring-up begins (R41, R54). -/
def halted (r : Fault) (s : State) : Host.Outcome State Fault Refusal :=
  match s.agenda with
  | (.bootStage0, n) :: rest => runAgenda .bootStage0 n rest s
  | _ => .fault r

/-- One step. -/
def step (s : State) : Host.Outcome State Fault Refusal :=
  match s.plat.trust.power with
  | .off => halted .packageOff s
  | .stopped => halted .bringUpHalted s
  | .on =>
    match s.issue with
    | some _ => match s.fetched with
      | (some (s', d), _) => settled (runDecoded d s')
      | (none, s') => settled (.next s')
    | none => match s.agenda with
      | (i, n) :: rest => runAgenda i n rest s
      | [] => .next s.schedule.pass

/-- s with an instruction's bytes where step fetches its next instruction: at the selected issue's PC, or, where none is
selected or its bytes cannot be placed, at that of a thread placed for it (notes/assumptions/15). -/
def State.withFetchWord (s : State) (nbits w : Nat) : State :=
  let bs := bytesOf (w % 2 ^ nbits) 8
  let fresh : State :=
    let r := s.chip.startThread
    let t := (r.1.thread? r.2).getD {}
    { s with
      plat := { s.plat with trust := { s.plat.trust with power := .on } }
      chip := (r.1.placeCode t t.pc 0 bs).getD r.1, issue := some { parts := [r.2], pc := t.pc } }
  match s.lead with
  | none => fresh
  | some (i, t) => match s.chip.placeCode t i.pc 0 bs with
    | none => fresh
    | some c => { s with chip := c, plat := { s.plat with trust := { s.plat.trust with power := .on } } }

end Sys2Proof.Machine
end

