-- ==== Sys2Proof/Safety.lean ====
section
/-! DEFINITION. The terms in which the statements speak: the good form of a state, who runs an instruction and when its
slices may be used, and, row by row, what the manual says a register instruction computes. -/
namespace Sys2Proof.Machine

/-- The canonical form of a memory: addresses strictly rising, and no listed byte reads as an unlisted one does. -/
def Memory.wf (m : List Host.Cell) : Bool := cellsWf m

/-- Whether slice a lies in a span. -/
def inSpan (a : Nat) (p : Span) : Bool := decide (p.1 ≤ a) && decide (a < p.1 + p.2)

/-- The slices that an instruction uses lie below the footprint, those it reads bear no corruption mark, and those whose
poison traps are not poisoned (R74, R209, R210, R219); on a latency core every slice may be used (R102). -/
def Thread.usable (t : Thread) (n : Nat) (u : Uses) : Bool :=
  !t.onCompute ||
    ((u.reads ++ u.strict ++ u.writes).all (fun p => p.2 = 0 || decide (p.1 + p.2 ≤ t.tfoot)) &&
     (u.reads ++ u.strict).all (fun p => (spanList p).all fun a => decide (a < 16) || !t.corrupt.getLsbD a) &&
     u.strict.all (fun p => (spanList p).all fun a => !t.slicePoison n a))


/-- What an issue does for a participant first: a tile wait that is over ends as an acquire of cluster scope, and the single-bit
errors of the bars that the instruction reads are corrected and logged (R145, R209). -/
def Chip.begins (c : Chip) (id : Nat) (u : Uses) : Chip := (c.tileReturned id).readBars id u

/-- The package with which an issue begins its instruction. -/
def State.begun (s : State) (i : Issue) (u : Uses) : State := { s with chip := i.parts.foldl (fun c id => c.begins id u) s.chip }

/-- A thread past an instruction of n bytes: the next PC, one more retired instruction, and no wait (R101, R286, R366). -/
def Thread.retired (t : Thread) (n : Nat) : Thread :=
  { t with pc := t.pc + BitVec.ofNat 64 n, instret := t.instret + 1, wait := .ready, converged := false, early := none, arrived := none }

/-- One thread executes the selected issue, on a compute core or a latency core (R193). -/
def State.alone (s : State) (i : Issue) (t : Thread) : Prop :=
  s.issue = some i ∧ i.parts = [t.id] ∧ s.chip.thread? t.id = some t ∧ (t.onCompute || t.onHart) = true

/-- One thread executes the selected issue of an instruction that uses some slices: s is the state and t the thread with which the
instruction begins. -/
def State.aloneOf (s0 : State) (i : Issue) (u : Uses) (s : State) (t : Thread) : Prop :=
  (∃ t0, s0.alone i t0) ∧ s = s0.begun i u ∧ s.alone i t

/-- Every member of GMk arrives with the selected issue (R199, R201): t0 is one of them, ts all of them in rank order. -/
def State.together (s : State) (i : Issue) (k : Nat) (t0 : Thread) (ts : List Thread) : Prop :=
  s.issue = some i ∧ i.parts = ts.map (·.id) ∧ t0 ∈ ts ∧ ts = s.chip.membersOf t0 k ∧
  ∀ t ∈ ts, s.chip.thread? t.id = some t ∧ t.onCompute = true ∧ t.handler = false ∧ t.converged = false ∧ t.pc = t0.pc

/-- Every member arrives, with the state and the members as an instruction that uses some slices begins. -/
def State.togetherOf (s0 : State) (i : Issue) (k : Nat) (u : Uses) (s : State) (t0 : Thread) (ts : List Thread) : Prop :=
  (∃ t ts, s0.together i k t ts) ∧ s = s0.begun i u ∧ s.together i k t0 ts

/-- The chip with a thread put back after an instruction that wrote some slices: the stack window follows sp (R215). -/
def Chip.put (c : Chip) (t : Thread) (ps : List Span) : Chip :=
  let c := c.setThread t
  if touchesSp ps then c.windowUpdate t.id else c

/-- A row of what the manual says: an instruction, the slices it uses, the modes that let it run, and its result for the
member of a rank. -/
structure RegRow where
  instr : Instr
  uses : Uses
  legal : List Thread → Thread → Bool := fun _ _ => true
  /-- whether the values that the members read decode, where the instruction traps for one that does not -/
  readable : List Thread → Bool := fun _ => true
  eff : Chip → List Thread → Nat → Thread → Eff

/-- The row says what the instruction does for a thread on its own (R203): the result is the whole next state, and a thread that
waited in a queue has left it (R76, R189). -/
def RegRow.alone (r : RegRow) (f : Long) : Prop :=
  r.instr.wellFormed = true → f.grouped = false →
  ∀ (s0 : State) (i : Issue) (s : State) (t : Thread), s0.aloneOf i r.uses s t →
    t.usable (s.chip.bars t) r.uses = true → r.legal [t] t = true →
    exec r.instr s0 = .next { s with
      chip := (s.chip.put ((t.apply (s.chip.bars t) (r.eff s.chip [t] 0 t)).retired 8) r.uses.writes).unqueue t.id }

/-- A member that has arrived (R201). -/
def Thread.atGroup (t : Thread) (k tick : Nat) : Thread := { t with wait := .group k true, waitSince := tick, early := none }

/-- The result of each member: its own, or with U = 1 rank 0's, whose generator alone advances (R205, R262). -/
def RegRow.results (r : RegRow) (uni : Bool) (c : Chip) (ts : List Thread) : List (Thread × Eff) :=
  (ts.zip (List.range ts.length)).map fun p =>
    let e := if uni then r.eff c ts 0 (ts.headD p.1) else r.eff c ts p.2 p.1
    (p.1, if uni && p.2 ≠ 0 then { e with trng := none } else e)

/-- The chip after a complete collective on GMk (R201): every member's result is from the sources as they stood, then each goes
on in rank order. -/
def RegRow.collected (r : RegRow) (uni : Bool) (k : Nat) (c : Chip) (ts : List Thread) : Chip :=
  let put (d : Chip) (p : Thread × Eff) : Chip := d.setThread ((p.1.atGroup k c.tick).apply (c.bars p.1) p.2)
  let next (d : Chip) (t : Thread) : Chip :=
    match d.thread? t.id with
    | some t => d.put (t.retired 8) r.uses.writes
    | none => d
  ts.foldl next ((r.results uni c ts).foldl put c)

/-- The row says what a complete collective does (R201, R204, R205): every member's result is from the sources as they stood,
then each goes on in rank order. -/
def RegRow.together (r : RegRow) (f : Long) : Prop :=
  r.instr.wellFormed = true → f.grouped = true →
  ∀ (s0 : State) (i : Issue) (s : State) (t0 : Thread) (ts : List Thread), s0.togetherOf i f.g.toNat r.uses s t0 ts →
    (∀ t ∈ ts, t.usable (s.chip.bars t) r.uses = true) →
    (∀ t ∈ ts, r.legal ts (if f.u then ts.headD t else t) = true) → r.readable ts = true →
    exec r.instr s0 = .next { s with chip := r.collected f.u f.g.toNat s.chip ts }

/-! ## Integers -/

/-- The two's-complement value of a w-bit pattern (R297). -/
def sval (w v : Nat) : Int := if 2 ^ w ≤ 2 * v then (v : Int) - 2 ^ w else v

/-- The pattern of a clamped integer, and whether it was outside the range (R297). -/
def clampTo (w : Nat) (signed : Bool) (v : Int) : Nat × Bool :=
  let lo : Int := if signed then -(2 ^ w / 2) else 0
  let hi : Int := if signed then 2 ^ w / 2 - 1 else 2 ^ w - 1
  if v < lo then ((lo % 2 ^ w).toNat, true) else if hi < v then ((hi % 2 ^ w).toNat, true) else ((v % 2 ^ w).toNat, false)

/-- The pattern of an integer modulo 2^w (R297). -/
def wrapTo (w : Nat) (v : Int) : Nat := (v % 2 ^ w).toNat

/-- A row of an integer instruction: which of the old D, A and B it reads, and its value from the registers of the member and
of the thread whose B it reads (R204, R297, R74). -/
def intRow (i : Instr) (f : Long) (d a b : Bool) (g : BitVec 2048 → BitVec 2048 → Nat × Bool) : RegRow where
  instr := i
  uses := {
    reads := (if d then [spanI f.d] else []) ++ (if a then [spanI f.a] else []) ++ (if b then [spanI f.b] else [])
    writes := [spanI f.d] }
  eff c ts k t :=
    let bt := bThread f ts k t
    let v := g t.regs bt.regs
    { sets := [(fStart f.d, fWidth f.d, v.1)]
      poison := t.poisoned (c.bars t) ((if d then [spanI f.d] else []) ++ (if a then [spanI f.a] else [])) ||
        (b && bt.poisoned (c.bars bt) [spanI f.b])
      tf := if v.2 then 1 else 0 }

/-- A field of a control word: position in bits 5:0, length in bits 14:8, cut at a width; none past it (R302). -/
def fieldAt (c w : Nat) : Nat × Nat :=
  let pos := c % 64
  (pos, if pos < w then min (c / 256 % 128) (w - pos) else 0)

/-- Rows of the moves and bit operations (R301-R303, R307), at the width of D. -/
def bitRows (f : Long) : List RegRow :=
  let w := fWidth f.d
  let one (i : Instr) (sg : Bool) (g : Nat → Nat) : RegRow := intRow i f false false true fun _ rb => (g (srcOf rb f.b w sg), false)
  let two (i : Instr) (g : Nat → Nat → Nat) : RegRow :=
    intRow i f false true true fun ra rb => (g (srcOf ra f.a w false) (srcOf rb f.b w false), false)
  let own (r : BitVec 2048) (x : BitVec 12) : Nat := readSlices r (fStart x) (fWidth x)
  let shift (i : Instr) (sg : Bool) (g : Nat → Nat → Nat) : RegRow :=
    intRow i f false true true fun ra rb => (g (srcOf ra f.a w sg) (min 64 (own rb f.b)), false)
  let imm := f.x.toNat * 4096 + f.b.toNat
  [one (.movS f) true id, one (.movZ f) false id,
   intRow (.movi f) f false false false fun _ _ => ((if imm < 2 ^ 19 then imm else imm + 2 ^ 64 - 2 ^ 20) % 2 ^ w, false),
   two (.and f) (· &&& ·), two (.or f) (· ||| ·), two (.xor f) (· ^^^ ·), two (.andn f) (fun a b => a &&& (2 ^ w - 1 - b)),
   intRow (.bfi f) f true true true (fun ra rb =>
     let d := own ra f.d
     let p := fieldAt (own rb f.b) w
     (d - (d / 2 ^ p.1 % 2 ^ p.2) * 2 ^ p.1 + (own ra f.a % 2 ^ p.2) * 2 ^ p.1, false)),
   one (.clz f) false (fun b => ((List.range w).find? fun k => b.testBit (w - 1 - k)).getD w),
   one (.ctz f) false (fun b => ((List.range w).find? fun k => b.testBit k).getD w),
   one (.popc f) false (fun b => ((List.range w).filter fun k => b.testBit k).length),
   one (.brev f) false (fun b => ((List.range w).map fun k => if b.testBit (w - 1 - k) then 2 ^ k else 0).sum),
   intRow (.bfxS f) f false true true (fun ra rb =>
     let p := fieldAt (own rb f.b) (fWidth f.a)
     let v := own ra f.a / 2 ^ p.1 % 2 ^ p.2
     (if p.2 = 0 then 0 else wrapTo w (sval p.2 v), false)),
   intRow (.bfxZ f) f false true true (fun ra rb =>
     let p := fieldAt (own rb f.b) (fWidth f.a)
     (own ra f.a / 2 ^ p.1 % 2 ^ p.2 % 2 ^ w, false)),
   intRow (.sel f) f true true true (fun ra rb => (if own ra f.a ≠ 0 then srcOf rb f.b w false else own ra f.d, false)),
   intRow (.shi f) f false true false (fun ra _ =>
     let n := f.b.toNat % 64
     (match f.b.toNat / 64 % 4 with
      | 0 => srcOf ra f.a w false * 2 ^ n % 2 ^ w
      | 1 => srcOf ra f.a w false / 2 ^ n
      | 2 => wrapTo w (sval w (srcOf ra f.a w true) / 2 ^ n)
      | _ => let a := srcOf ra f.a w false; (a / 2 ^ (n % w) + a * 2 ^ (w - n % w)) % 2 ^ w, false)),
   shift (.sll f) false (fun a n => a * 2 ^ n % 2 ^ w), shift (.srl f) false (fun a n => a / 2 ^ n),
   shift (.sra f) true (fun a n => wrapTo w (sval w a / 2 ^ n))]

/-- Rows of the integer arithmetic (R304, R305) and compares (R306), at the width of D or the wider source. -/
def arithRows (f : Long) : List RegRow :=
  let w := fWidth f.d
  let val (sg : Bool) (v : Nat) : Int := if sg then sval w v else v
  let two (i : Instr) (sg : Bool) (g : Int → Int → Nat × Bool) : RegRow :=
    intRow i f false true true fun ra rb => g (val sg (srcOf ra f.a w sg)) (val sg (srcOf rb f.b w sg))
  let three (i : Instr) (sg : Bool) (g : Int → Int → Int → Nat × Bool) : RegRow :=
    intRow i f true true true fun ra rb =>
      g (val sg (srcOf ra f.d w sg)) (val sg (srcOf ra f.a w sg)) (val sg (srcOf rb f.b w sg))
  let wrap (v : Int) : Nat × Bool := (wrapTo w v, false)
  let cw := max (fWidth f.a) (fWidth f.b)
  let cmp (i : Instr) (sg : Bool) (g : Int → Int → Bool) : RegRow :=
    intRow i f false true true fun ra rb =>
      let a := srcOf ra f.a cw sg
      let b := srcOf rb f.b cw sg
      (if (if sg then g (sval cw a) (sval cw b) else g a b) then 2 ^ w - 1 else 0, false)
  [two (.addS f) true (fun a b => wrap (a + b)), two (.addZ f) false (fun a b => wrap (a + b)),
   two (.addsS f) true (fun a b => clampTo w true (a + b)), two (.addsZ f) false (fun a b => clampTo w false (a + b)),
   two (.subS f) true (fun a b => wrap (a - b)), two (.subZ f) false (fun a b => wrap (a - b)),
   two (.subsS f) true (fun a b => clampTo w true (a - b)), two (.subsZ f) false (fun a b => clampTo w false (a - b)),
   two (.minS f) true (fun a b => wrap (if a < b then a else b)), two (.minZ f) false (fun a b => wrap (if a < b then a else b)),
   two (.maxS f) true (fun a b => wrap (if a < b then b else a)), two (.maxZ f) false (fun a b => wrap (if a < b then b else a)),
   three (.addminS f) true (fun d a b => clampTo w true (min d (a + b))),
   three (.addminZ f) false (fun d a b => clampTo w false (min d (a + b))),
   three (.addmaxS f) true (fun d a b => clampTo w true (max d (a + b))),
   three (.addmaxZ f) false (fun d a b => clampTo w false (max d (a + b))),
   two (.mulS f) true (fun a b => wrap (a * b)), two (.mulZ f) false (fun a b => wrap (a * b)),
   two (.mulhS f) true (fun a b => wrap (a * b / 2 ^ w)), two (.mulhZ f) false (fun a b => wrap (a * b / 2 ^ w)),
   three (.madS f) true (fun d a b => wrap (d + a * b)), three (.madZ f) false (fun d a b => wrap (d + a * b)),
   two (.absdS f) true (fun a b => wrap (if a < b then b - a else a - b)),
   two (.absdZ f) false (fun a b => wrap (if a < b then b - a else a - b)),
   cmp (.cltS f) true (fun a b => decide (a < b)), cmp (.cltZ f) false (fun a b => decide (a < b)),
   cmp (.cleS f) true (fun a b => decide (a ≤ b)), cmp (.cleZ f) false (fun a b => decide (a ≤ b)),
   cmp (.ceq f) false (fun a b => decide (a = b))]

/-- Element e of a packed source: a source of one element gives it to every place (R308). -/
def elemAt (r : BitVec 2048) (x : BitVec 12) (ew e : Nat) : Nat :=
  let v := readSlices r (fStart x) (fWidth x)
  if fWidth x = ew then v else v / 2 ^ (ew * e) % 2 ^ ew

/-- A row of a packed instruction: each element's value from d, a and b of its place, signed where X bit 2 is 0; every member
reads its own B (R308, R299). -/
def packedRow (i : Instr) (f : Long) (d : Bool) (g : Nat → Bool → Int → Int → Int → Nat × Bool) : RegRow where
  instr := i
  uses := { reads := (if d then [spanI f.d] else []) ++ [spanI f.a, spanI f.b], writes := [spanI f.d] }
  eff c _ _ t :=
    let ew := match f.x.toNat % 4 with | 0 => 4 | 1 => 8 | 2 => 16 | _ => 32
    let sg := decide (f.x.toNat / 4 % 2 = 0)
    let val (x : BitVec 12) (e : Nat) : Int := let v := elemAt t.regs x ew e; if sg then sval ew v else v
    let els := (List.range (fWidth f.d / ew)).map fun e => g ew sg (val f.d e) (val f.a e) (val f.b e)
    { sets := [(fStart f.d, fWidth f.d, ((els.zip (List.range els.length)).map fun p => p.1.1 * 2 ^ (ew * p.2)).sum)]
      poison := t.poisoned (c.bars t) ((if d then [spanI f.d] else []) ++ [spanI f.a, spanI f.b])
      tf := if els.any (·.2) then 1 else 0 }

/-- Rows of the packed instructions (R308). -/
def packedRows (f : Long) : List RegRow :=
  let wrap (ew : Nat) (v : Int) : Nat × Bool := (wrapTo ew v, false)
  let nat (ew : Nat) (v : Int) : Nat := wrapTo ew v
  [packedRow (.padd f) f false (fun ew _ _ a b => wrap ew (a + b)), packedRow (.psub f) f false (fun ew _ _ a b => wrap ew (a - b)),
   packedRow (.padds f) f false (fun ew sg _ a b => clampTo ew sg (a + b)),
   packedRow (.psubs f) f false (fun ew sg _ a b => clampTo ew sg (a - b)),
   packedRow (.pmin f) f false (fun ew _ _ a b => wrap ew (if a < b then a else b)),
   packedRow (.pmax f) f false (fun ew _ _ a b => wrap ew (if a < b then b else a)),
   packedRow (.paddmin f) f true (fun ew sg d a b => clampTo ew sg (min d (a + b))),
   packedRow (.paddmax f) f true (fun ew sg d a b => clampTo ew sg (max d (a + b))),
   packedRow (.pabsd f) f false (fun ew _ _ a b => wrap ew (if a < b then b - a else a - b)),
   packedRow (.pmul f) f false (fun ew _ _ a b => wrap ew (a * b)),
   packedRow (.pmad f) f true (fun ew _ d a b => wrap ew (d + a * b)),
   packedRow (.pceq f) f false (fun ew _ _ a b => (if a = b then 2 ^ ew - 1 else 0, false)),
   packedRow (.pclt f) f false (fun ew _ _ a b => (if a < b then 2 ^ ew - 1 else 0, false)),
   packedRow (.psll f) f false (fun ew _ _ a b => (nat ew a * 2 ^ nat ew b % 2 ^ ew, false)),
   packedRow (.psrl f) f false (fun ew _ _ a b => (nat ew a / 2 ^ nat ew b, false)),
   packedRow (.psra f) f false (fun ew _ _ a b => wrap ew (sval ew (nat ew a) / 2 ^ nat ew b))]

/-! ## Floating point -/

/-- A row of a floating or converting instruction: its operand kinds, the code of its rounding mode, and its result from the
mode, the flush bit and generator of the member, and the two threads whose A and B it takes (R311-R314, R74). -/
def fltRow (i : Instr) (f : Long) (k : Kinds) (code : Option Nat) (g : Nat → Thread → Thread → Res) : RegRow where
  instr := i
  uses := {
    reads := (if k.readsD then [spanOf k.dFlt f.d] else []) ++ (if k.readsA then [spanOf k.aFlt f.a] else []) ++ [spanOf k.bFlt f.b]
    writes := [spanOf k.dFlt f.d] }
  legal _ t := match code with | some m => (modeFor m (k.dFlt && smallD f) t).isSome | none => true
  eff c ts r t :=
    let bt := if k.perm then bThread f ts r t else t
    let rm := match code with | some m => (modeFor m (k.dFlt && smallD f) t).getD 0 | none => 0
    let v := g rm t bt
    { sets := [(fStart f.d, if k.dFlt then (fmtOf f.d).width else fWidth f.d, v.val)]
      poison := t.poisoned (c.bars t) ((if k.readsD then [spanOf k.dFlt f.d] else []) ++ (if k.readsA then [spanOf k.aFlt f.a] else [])) ||
        bt.poisoned (c.bars bt) [spanOf k.bFlt f.b]
      ff := v.fl.ff, tf := v.fl.tf, trng := some v.trng }

/-- The exact value of an operand after the flush of R265. -/
def inVal (r : BitVec 2048) (x : BitVec 12) (ftz : Bool) : Fv := (fltIn r x ftz).1
/-- The flags of that flush. -/
def inFl (r : BitVec 2048) (x : BitVec 12) (ftz : Bool) : Fl := (fltIn r x ftz).2

/-- Rows of the floating arithmetic: one rounding of the exact result, in the mode of the instruction (R316, R317). -/
def floatRows (f : Long) : List RegRow :=
  let F := fmtOf f.d
  let two (i : Instr) (g : Nat → Fv → Fv → Fv × Fl) : RegRow := fltRow i f {} (some 7) fun rm t bt =>
    let x := g rm (inVal t.regs f.a t.ftz) (inVal bt.regs f.b t.ftz)
    let v := roundTo F rm t.ftz t.trng x.1
    ⟨v.val, v.fl.or (x.2.or ((inFl t.regs f.a t.ftz).or (inFl bt.regs f.b t.ftz))), v.trng⟩
  let three (i : Instr) (neg : Bool) : RegRow := fltRow i f { readsD := true } (some 7) fun rm t bt =>
    let d := inVal t.regs f.d t.ftz
    let x := fvMad rm (inVal t.regs f.a t.ftz) (inVal bt.regs f.b t.ftz) (if neg then d.negate else d)
    let v := roundTo F rm t.ftz t.trng x.1
    ⟨v.val, v.fl.or (x.2.or ((inFl t.regs f.a t.ftz).or ((inFl bt.regs f.b t.ftz).or (inFl t.regs f.d t.ftz)))), v.trng⟩
  [two (.fadd f) fvAdd, two (.fsub f) (fun rm a b => fvAdd rm a b.negate), two (.fmul f) (fun _ a b => fvMul a b),
   two (.fmin f) (fun _ a b => fvMin a b), two (.fmax f) (fun _ a b => fvMax a b), three (.fmad f) false, three (.fmsb f) true,
   fltRow (.fabs f) f { readsA := false } (some 7) (fun rm t bt =>
     let b := inVal bt.regs f.b t.ftz
     let v := roundTo F rm t.ftz t.trng (if b.neg then b.negate else b)
     ⟨v.val, v.fl.or ((snanFlag b).or (inFl bt.regs f.b t.ftz)), v.trng⟩)]

/-- Rows of the floating compares, the classification and the approximations, which use no mode (R318-R320). -/
def compareRows (f : Long) : List RegRow :=
  let cmp (i : Instr) (quiet : Bool) (g : Fv → Fv → Bool) : RegRow := fltRow i f { dFlt := false } none fun _ t bt =>
    let a := inVal t.regs f.a t.ftz
    let b := inVal bt.regs f.b t.ftz
    let nan := a.isNan || b.isNan
    let nv := if quiet then (snanFlag a).or (snanFlag b) else if nan then flNV else flNone
    ⟨if !nan && g a b then 2 ^ fWidth f.d - 1 else 0, nv.or ((inFl t.regs f.a t.ftz).or (inFl bt.regs f.b t.ftz)), t.trng⟩
  let approx (i : Instr) (n : Nat) : RegRow := fltRow i f { readsA := false } none fun _ t bt =>
    let v := approximate n (fmtOf f.d) (fmtOf f.b) t.ftz (readSlices bt.regs (fStart f.b) (fmtOf f.b).width) (inVal bt.regs f.b t.ftz)
    ⟨v.1, v.2.or (inFl bt.regs f.b t.ftz), t.trng⟩
  [cmp (.fceq f) true fvEq, cmp (.fclt f) false fvLt, cmp (.fcle f) false (fun a b => fvLt a b || fvEq a b),
   fltRow (.fclass f) f { dFlt := false, readsA := false } none (fun _ t bt =>
     ⟨fvClass (fmtOf f.b) (readSlices bt.regs (fStart f.b) (fmtOf f.b).width) (inVal bt.regs f.b t.ftz) % 2 ^ fWidth f.d,
      inFl bt.regs f.b t.ftz, t.trng⟩),
   approx (.frcp f) 0, approx (.frsq f) 1, approx (.fexp2 f) 2, approx (.flog2 f) 3]

/-- Rows of the conversions, in the mode of X bits 2:0; their B does not pass the crossbar (R321, R314). -/
def convertRows (f : Long) : List RegRow :=
  let F := fmtOf f.d
  let code := f.x.toNat % 8
  let kinds (d b : Bool) : Kinds := { dFlt := d, bFlt := b, readsA := false, perm := false }
  let toInt (i : Instr) (sg : Bool) : RegRow := fltRow i f (kinds false true) (some code) fun rm t bt =>
    let v := toInteger sg (fWidth f.d) rm t.trng (inVal bt.regs f.b t.ftz)
    ⟨v.val, v.fl.or (inFl bt.regs f.b t.ftz), v.trng⟩
  let ofInt (i : Instr) (sg : Bool) : RegRow := fltRow i f (kinds true false) (some code) fun rm t bt =>
    let b := readSlices bt.regs (fStart f.b) (fWidth f.b)
    let v : Int := if sg then sval (fWidth f.b) b else b
    roundTo F rm t.ftz t.trng (.fin (decide (v < 0)) v.natAbs 0)
  [fltRow (.cvt f) f (kinds true true) (some code) (fun rm t bt =>
     let b := inVal bt.regs f.b t.ftz
     let v := roundTo F rm t.ftz t.trng b
     ⟨v.val, v.fl.or ((snanFlag b).or (inFl bt.regs f.b t.ftz)), v.trng⟩),
   toInt (.cvtfs f) true, toInt (.cvtfz f) false, ofInt (.cvtsf f) true, ofInt (.cvtzf f) false]

/-- A row of the scaled FP8 conversions: the scale 2^k of the block exponent E, the member's own A with G = 12 and rank 0's in a
collective; E = 0 gives zero, which f8pk writes without a step of the generator, and E = 255 NaN (R313, R325). -/
def scaledRow (i : Instr) (f : Long) (pack : Bool) : RegRow where
  instr := i
  uses := { reads := [spanI f.a, spanF f.b], writes := [spanF f.d] }
  legal _ t := (modeFor (f.x.toNat % 8) (smallD f) t).isSome
  eff c ts _ t :=
    let h := if f.grouped then ts.headD t else t
    let E := readSlices h.regs (fStart f.a) 8
    let rm := (modeFor (f.x.toNat % 8) (smallD f) t).getD 0
    let k : Int := if pack then 127 - (E : Int) else (E : Int) - 127
    let b := inVal t.regs f.b t.ftz
    let x := match b with | .fin n m e => Fv.fin n m (e + k) | v => v
    let r := roundTo (fmtOf f.d) rm t.ftz t.trng x
    let v : Res := if E = 0 then (if pack then ⟨0, flNone, t.trng⟩ else roundTo (fmtOf f.d) rm t.ftz t.trng (.fin false 0 0)) else if E = 255 then ⟨Fmt.nan (fmtOf f.d), flNANB, t.trng⟩
      else ⟨r.val, r.fl.or (if pack then (snanFlag b).or (inFl t.regs f.b t.ftz) else inFl t.regs f.b t.ftz), r.trng⟩
    { sets := [(fStart f.d, (fmtOf f.d).width, v.val)]
      poison := h.poisoned (c.bars h) [spanI f.a] || t.poisoned (c.bars t) [spanF f.b]
      ff := v.fl.ff, tf := v.fl.tf, trng := some v.trng }

/-- Rows of group 0x5 that a thread may execute on its own (R321, R325). -/
def scaledRows (f : Long) : List RegRow := [scaledRow (.f8pk f) f true, scaledRow (.f8unp f) f false]

/-! ## Blocks -/

/-- A row of a pack: the members' values, rounded under rank 0's mode and flush each with its own generator, become one block;
the member of rank r receives the shared exponent and byte 1 + r of the record (R322, R323). -/
def packRow (i : Instr) (f : Long) (g : Nat → List (Fv × Bool × Word) → BlockRes × List Nat) : RegRow where
  instr := i
  uses := { reads := [spanF f.b], writes := [spanI f.d] }
  legal ts t := (modeFor (f.x.toNat % 8) true (ts.headD t)).isSome
  eff c ts r t :=
    let h := ts.headD {}
    let rm := (modeFor (f.x.toNat % 8) true h).getD 0
    let elem (k : Nat) : Fv × Bool × Word := match ts[k]? with
      | some u => (inVal u.regs f.b h.ftz, true, u.trng)
      | none => (.fin false 0 0, false, 0)
    let v := g rm ((List.range 32).map elem)
    let fl := v.1.all.or ((v.1.fls.getD r flNone).or (inFl t.regs f.b h.ftz))
    { sets := [(fStart f.d, 16, v.1.e * 256 + v.2.getD r 0)]
      poison := ts.any fun u => u.poisoned (c.bars u) [spanF f.b]
      ff := fl.ff, tf := fl.tf, trng := some (v.1.trngs.getD r t.trng) }

/-- Byte j of the record that an unpack reads, from the low byte of the member of rank j - 1 (R324). -/
def recordByte (f : Long) (ts : List Thread) (j : Nat) : Nat :=
  match ts[j - 1]? with
  | some t => readSlices t.regs (fStart f.b) 8
  | none => 0

/-- A row of an unpack: the value of the member's element by the block exponent in rank 0's bits 15:8, rounded under rank 0's
mode and flush with the member's generator (R324). -/
def unpackRow (i : Instr) (f : Long) (ok : List Thread → Bool) (g : List Thread → Nat → Nat → Fv) (fl : List Thread → Fl) : RegRow where
  instr := i
  uses := { reads := [spanI f.b], writes := [spanF f.d] }
  legal ts t := (modeFor (f.x.toNat % 8) (smallD f) (ts.headD t)).isSome
  readable := ok
  eff c ts r t :=
    let h := ts.headD {}
    let E := readSlices h.regs (fStart f.b) 16 / 256
    let v := roundTo (fmtOf f.d) ((modeFor (f.x.toNat % 8) (smallD f) h).getD 0) h.ftz t.trng (g ts E r)
    let fl := v.fl.or ((if E = 255 then flNANB else flNone).or (fl ts))
    { sets := [(fStart f.d, (fmtOf f.d).width, v.val)]
      poison := ts.any fun u => u.poisoned (c.bars u) [spanI f.b]
      ff := fl.ff, tf := fl.tf, trng := some v.trng }

/-- Whether a byte of the members is a reserved ternary byte of a block with digits (R259, R324). -/
def reservedByte (f : Long) (ts : List Thread) : Bool :=
  let E := readSlices (ts.headD {}).regs (fStart f.b) 16 / 256
  decide (1 ≤ E) && decide (E ≤ 254) && (List.range ts.length).any fun r => decide (243 ≤ recordByte f ts (1 + r / 5))

/-- Rows of the block packs and unpacks (R322-R324, R267-R269). -/
def blockRows (f : Long) : List RegRow :=
  let m := f.x.toNat / 16
  [packRow (.bxpk f) f (fun rm vs => let r := packBx m rm vs; (r, elemBytesOf m r.els (4 * m))),
   packRow (.trpk f) f (fun rm vs => let r := packTern rm vs; (r, ternBytes r.els)),
   packRow (.bxcmp f) f (fun rm vs =>
     let kept := keptAll (vs.map (·.1))
     let isKept (i : Nat) : Bool := let p := kept.getD (i / 4) (0, 0); i % 4 = p.1 || i % 4 = p.2
     let r := packBx m rm ((vs.zip (List.range 32)).map fun v => (v.1.1, v.1.2.1 && isKept v.2, v.1.2.2))
     let els := (kept.zip (List.range 8)).flatMap fun p => [r.els.getD (4 * p.2 + p.1.1) 0, r.els.getD (4 * p.2 + p.1.2) 0]
     let index := kept.foldr (fun p acc => p.1 + 4 * p.2 + 16 * acc) 0
     (r, elemBytesOf m els (2 * m) ++ (bytesOf index 4).map (·.toNat))),
   unpackRow (.bxunp f) f (fun _ => true)
     (fun ts E r => bxValue m E (signedOf m (numOf ((List.range (4 * m)).map fun i => BitVec.ofNat 8 (recordByte f ts (i + 1))) >>> (m * r))))
     (fun _ => flNone),
   unpackRow (.trunp f) f (fun ts => !((ts.headD {}).ttrap && reservedByte f ts))
     (fun ts E r => ternValue E (ternDigit (recordByte f ts (1 + r / 5)) (r % 5)))
     (fun ts => if reservedByte f ts then flTERN else flNone)]

/-! ## Votes, reductions and scans -/

/-- A row of a vote: its value from the v(0) ... v(m-1) of R348 that rank r uses, and the members they come from. -/
def voteRow (i : Instr) (f : Long) (upTo : Nat → Nat → Nat) (g : List Thread → Nat) : RegRow where
  instr := i
  uses := { reads := [spanI f.b], writes := [spanI f.d] }
  eff c ts r _ :=
    let from_ := (List.range (upTo ts.length r)).map (voter f ts)
    { sets := [(fStart f.d, fWidth f.d, g from_ % 2 ^ fWidth f.d)]
      poison := from_.any fun t => t.poisoned (c.bars t) [spanI f.b] }

/-- Rows of the votes, reductions and scans over integers (R348). -/
def voteRows (f : Long) : List RegRow :=
  let w := fWidth f.d
  let raw (t : Thread) : Nat := readSlices t.regs (fStart f.b) (fWidth f.b)
  let val (sg : Bool) (t : Thread) : Nat := srcOf t.regs f.b w sg
  let all (i : Instr) (g : List Thread → Nat) : RegRow := voteRow i f (fun n _ => n) g
  let red (i : Instr) (sg : Bool) (g : Nat → Nat → Nat) : RegRow := all i fun ts => match ts.map (val sg) with
    | [] => 0
    | v :: vs => vs.foldl g v
  let ones (b : Bool) : Nat := if b then 2 ^ w - 1 else 0
  let less (sg : Bool) (a b : Nat) : Bool := if sg then decide (sval w a < sval w b) else decide (a < b)
  let sum (ts : List Thread) : Nat := (ts.map (val false)).sum
  [all (.vall f) (fun ts => ones (ts.all fun t => raw t ≠ 0)), all (.vany f) (fun ts => ones (ts.any fun t => raw t ≠ 0)),
   red (.redadd f) false (· + ·), red (.redand f) false (· &&& ·), red (.redor f) false (· ||| ·), red (.redxor f) false (· ^^^ ·),
   red (.redminS f) true (fun a b => if less true b a then b else a), red (.redminZ f) false (fun a b => if less false b a then b else a),
   red (.redmaxS f) true (fun a b => if less true a b then b else a), red (.redmaxZ f) false (fun a b => if less false a b then b else a),
   voteRow (.scanadd f) f (fun _ r => r + 1) sum, voteRow (.scanaddx f) f (fun _ r => r) sum,
   { instr := .vbal f
     uses := { reads := [spanI f.b], writes := [spanI f.d] }
     eff := fun c ts _ _ =>
       let from_ := (List.range ts.length).map (voter f ts)
       { sets := [(fStart f.d, w, ((ts.zip from_).map fun p => if raw p.2 ≠ 0 then 2 ^ p.1.bit else 0).sum % 2 ^ w)]
         poison := from_.any fun t => t.poisoned (c.bars t) [spanI f.b] } },
   { instr := .grank f, uses := { writes := [spanI f.d] }
     eff := fun _ ts r _ => { sets := [(fStart f.d, w, (r + 256 * ts.length) % 2 ^ w)] } }]

/-- A row of a floating sum: the exact sum of the first m values, rounded once with rank 0's mode and flush (R349). -/
def sumRow (i : Instr) (f : Long) (scan : Bool) : RegRow where
  instr := i
  uses := { reads := [spanF f.b], writes := [spanF f.d] }
  legal ts t := (modeFor 7 (smallD f) (ts.headD t)).isSome
  eff c ts r t :=
    let t0 := ts.headD {}
    let rm := (modeFor 7 (smallD f) t0).getD 0
    let from_ := (List.range (if scan then r + 1 else ts.length)).map (voter f ts)
    let x := fvSum rm (from_.map fun u => inVal u.regs f.b u.ftz)
    let v := roundTo (fmtOf f.d) rm t0.ftz (if scan then t.trng else (ts.headD t).trng) x.1
    let fl := v.fl.or ((from_.map fun u => inFl u.regs f.b u.ftz).foldl Fl.or x.2)
    { sets := [(fStart f.d, (fmtOf f.d).width, v.val)]
      poison := from_.any fun u => u.poisoned (c.bars u) [spanF f.b]
      ff := fl.ff, tf := fl.tf, trng := if scan || r = 0 then some v.trng else none }

/-- Rows of the floating sums (R349). -/
def sumRows (f : Long) : List RegRow := [sumRow (.fredadd f) f false, sumRow (.fscanadd f) f true]

/-! ## Memory -/

/-- A row of a memory instruction: the slices it uses, what stops it at a thread of an issue, and its access, where I/O answers as
given: the result in the thread's slices, and the chip. -/
structure MemRow where
  instr : Instr
  uses : Uses
  stop : Chip → List Thread → Thread → Option Stop
  access : Device → Chip → List Thread → Thread → Eff × Chip

/-- A thread goes on after an instruction of n bytes (R286, R366), and the stack window follows sp (R215). -/
def Chip.goOn (c : Chip) (id n : Nat) (ps : List Span) : Chip :=
  let c := c.onThread id fun t => t.retired n
  if touchesSp ps then c.windowUpdate id else c

/-- A thread receives the result of an access. -/
def Chip.giveTo (c : Chip) (id : Nat) (e : Eff) : Chip := c.onThread id fun t => t.apply (c.bars t) e

/-- The row says what the instruction does for a thread on its own (R203, R330). -/
def MemRow.alone (r : MemRow) (f : Long) : Prop :=
  r.instr.wellFormed = true → f.grouped = false →
  ∀ (s0 : State) (i : Issue) (s : State) (t : Thread), s0.aloneOf i r.uses s t →
    t.usable (s.chip.bars t) r.uses = true → r.stop s.chip [t] t = none →
    exec r.instr s0 = .next { s with
      chip := let x := r.access s.ioLoad s.chip [t] t; ((x.2.giveTo t.id x.1).goOn t.id 8 r.uses.writes).unqueue t.id }

/-- The chip once the members of GMk have arrived (R201). -/
def Chip.gathered (c : Chip) (k : Nat) (ts : List Thread) : Chip :=
  ts.foldl (fun (d : Chip) t => d.onThread t.id fun u => u.atGroup k c.tick) c

/-- The accesses of a collective: each member's own in rank order, or with U = 1 one by rank 0 whose result goes to all (R330). -/
def MemRow.accesses (r : MemRow) (uni : Bool) (io : Device) (c : Chip) (ts : List Thread) : Chip :=
  if uni then
    match ts with
    | [] => c
    | t :: _ => let x := r.access io c ts t; ts.foldl (fun d u => d.giveTo u.id x.1) x.2
  else ts.foldl (fun d u => let x := r.access io d ts u; x.2.giveTo u.id x.1) c

/-- The row says what a complete collective does (R201, R330). -/
def MemRow.together (r : MemRow) (f : Long) : Prop :=
  r.instr.wellFormed = true → f.grouped = true →
  ∀ (s0 : State) (i : Issue) (s : State) (t0 : Thread) (ts : List Thread), s0.togetherOf i f.g.toNat r.uses s t0 ts →
    (∀ t ∈ ts, t.usable (s.chip.bars t) r.uses = true) →
    let c := s.chip.gathered f.g.toNat ts
    let ms := ts.map fun t => t.atGroup f.g.toNat s.chip.tick
    (∀ t ∈ ms, r.stop c ms (if f.u then ms.headD t else t) = none) →
    exec r.instr s0 = .next { s with
      chip := ts.foldl (fun d t => d.goOn t.id 8 r.uses.writes) (r.accesses f.u s.ioLoad c ms) }

/-- A load in an order and scope (R127, R331): relaxed (0) it is the load alone; an acquire is followed by the acquire of its
scope, and a promoted one (2, and each on a latency core) is preceded by the recall of the line's owner (R66, R129, R138). -/
def Chip.loadIn (c : Chip) (t : Thread) (sp off n ord scope : Nat) : (Nat × Bool) × Chip :=
  let prom := ord = 2 || (ord ≠ 0 && t.onHart)
  let c := if prom then (c.promote t sp off n).unlease t sp off n else c
  let r := c.loadN t.id sp off n
  ((r.1, r.2.1), if ord = 0 then r.2.2 else r.2.2.acquired t scope prom)

/-- Rows of the loads and stores (R329-R333): of memory in their order and scope; a load of I/O gives what the device or register
answers, a store gives it the value (R27, R57, R123). -/
def loadRows (f : Long) : List MemRow :=
  let n := fWidth f.d / 8
  let imm (t : Thread) : Nat := (((srcOf t.regs f.a 64 false : Nat) + f.b.toInt : Int) % 2 ^ 64).toNat
  let index (t : Thread) : Nat :=
    (((srcOf t.regs f.a 64 false : Nat) + sval (fWidth f.b) (readSlices t.regs (fStart f.b) (fWidth f.b)) : Int) % 2 ^ 64).toNat
  let prom (t : Thread) : Bool := f.order = 2 || (f.order ≠ 0 && t.onHart)
  let ends (t : Thread) (c : Chip) : Chip := if f.order = 0 then c else c.acquired t f.scope (prom t)
  let load (i : Instr) (ps : List Span) (off : Thread → Nat) : MemRow := {
    instr := i
    uses := { strict := spanI f.a :: ps, writes := [spanI f.d] }
    stop := fun c _ t => (c.loadStop t f.space (off t) n).or (if prom t then c.promoteStop t f.space (off t) n else none)
    access := fun io c _ t => match c.ioAt t f.space (off t) .load with
      | none =>
        let r := c.loadIn t f.space (off t) n f.order f.scope
        ({ sets := [(fStart f.d, fWidth f.d, r.1.1)], poison := r.1.2 }, r.2)
      | some pa => ({ sets := [(fStart f.d, fWidth f.d, (io c pa n).1)] }, ends t (io c pa n).2) }
  let store (i : Instr) (ps : List Span) (off : Thread → Nat) : MemRow := {
    instr := i
    uses := { strict := spanI f.a :: spanI f.d :: ps }
    stop := fun c _ t => (c.accessStop t f.space (off t) n .store).or (if f.order = 0 then none else c.releaseStop t f.scope false)
    access := fun _ c _ t =>
      let d := if f.order = 0 then c else c.release t.id f.scope
      let v := readSlices t.regs (fStart f.d) (fWidth f.d)
      ({}, match d.ioAt t f.space (off t) .store with
        | none => d.storeN t.id f.space (off t) n v
        | some pa => if pa / 2 ^ 48 % 8 = 4 ∧ pa / 2 ^ 51 % 32 = d.pkg
          then { d with regWrites := d.regWrites ++ [(BitVec.ofNat 64 pa, BitVec.ofNat 64 v)] } else d) }
  let past := fStart f.d + fWidth f.d / 4
  let near (c : Chip) (t : Thread) : (Wait ⊕ Bool) × Chip := c.resident t f.space (ioFits (imm t) n) (imm t)
  [load (.ld f) [] imm, load (.ldr f) [spanI f.b] index, store (.st f) [] imm, store (.str f) [spanI f.b] index,
   { instr := .ldnf f
     uses := { strict := [spanI f.a], writes := [spanI f.d, (past, 1)] }
     stop := fun c _ t => if t.onHart && f.space ≠ 0 && t.block.isSome then some .depart
       else (c.heldStop t f.space (accessAddrs f.space (imm t) n)).or (if prom t then c.promoteStop t f.space (imm t) n else none)
     access := fun io c _ t =>
       let c := if prom t then (c.promote t f.space (imm t) n).unlease t f.space (imm t) n else c
       let bytes :=
         let r := c.nonFaulting t f.space (ioFits (imm t) n) (accessAddrs f.space (imm t) n)
         (({ sets := [(fStart f.d, fWidth f.d, numOf r.1), (past, 4, flag r.2.1)], poison := r.2.2.1 } : Eff), ends t r.2.2.2)
       match (near c t).2.ioAt t f.space (imm t) .load with
       | none => bytes
       | some pa => if ioFits (imm t) n pa then
           let r := io (near c t).2 pa n
           ({ sets := [(fStart f.d, fWidth f.d, r.1), (past, 4, 1)] }, ends t r.2)
         else
           let r := (near c t).2.nonFaulting t f.space (ioFits (imm t) n) (accessAddrs f.space (imm t) n)
           ({ sets := [(fStart f.d, fWidth f.d, numOf r.1), (past, 4, flag r.2.1)], poison := r.2.2.1 }, ends t r.2.2.2) },
   { instr := .pf f, uses := { strict := [spanI f.a] }, stop := fun _ _ _ => none
     access := fun _ c _ t => ({}, c.prefetch t f.space (imm t)) }]

/-- Rows of the atomics: the old value goes to D, and the home holds the new one, from the old value, B, and for a compare and
swap D (R70, R334, R335). The members of an issue that add, combine bits or compare as integers at one address send one request, the
first member's (R72). -/
def atomicRows (f : Long) : List MemRow :=
  let addr (t : Thread) : Nat := srcOf t.regs f.a 64 false
  let acq : Bool := f.order = 1 || f.order = 3
  let rel : Bool := f.order = 2 || f.order = 3
  let combines (op : AtomicOp) : Bool := match op with
    | .xchg => false | .cas => false | .fmin _ => false | .fmax _ => false | _ => true
  let first (op : AtomicOp) (ts : List Thread) (t : Thread) : Bool :=
    !(combines op && (ts.takeWhile fun u => u.id ≠ t.id).any fun u => addr u = addr t)
  let row (i : Instr) (op : AtomicOp) (flt : Bool) (w : Nat) (sg cas : Bool) (g : Nat → Nat → Nat → Nat) : MemRow := {
    instr := i
    uses := { strict := [spanI f.a, spanOf flt f.b] ++ (if cas then [spanI f.d] else []), writes := [spanOf flt f.d] }
    stop := fun c ts t => (c.atomicStop t (first op ts t) f.space (addr t) (w / 8) (atomicFamily op w)).or
      ((if rel then c.releaseStop t f.scope false else none).or
        (if acq && t.onHart then c.promoteStop t f.space (addr t) (w / 8) else none))
    access := fun _ c ts t =>
      let b := if flt then readSlices t.regs (fStart f.b) (fmtOf f.b).width else srcOf t.regs f.b w sg
      let d := readSlices t.regs (fStart f.d) w
      let r := c.atomic t false (first op ts t) f.space (addr t) (w / 8) acq rel f.scope (fun old => g old b d)
      ({ sets := [(fStart f.d, w, r.1)], poison := r.2.1 }, r.2.2) }
  let w := fWidth f.d
  let int (i : Instr) (op : AtomicOp) (sg : Bool) (g : Nat → Nat → Nat) : MemRow := row i op false w sg false fun old b _ => g old b
  let F := fmtOf f.d
  let flt (i : Instr) (op : AtomicOp) (g : Fv → Fv → Fv) : MemRow :=
    row i op true F.width false false fun old b _ => (roundTo F 0 false 1 (g (Fmt.value F old) (Fmt.value F b))).val
  [int (.aadd f) .add false (fun old b => (old + b) % 2 ^ w), int (.aand f) .and false (· &&& ·), int (.aor f) .or false (· ||| ·),
   int (.axor f) .xor false (· ^^^ ·),
   int (.amin f) .min true (fun old b => if sval w b < sval w old then b else old),
   int (.amax f) .max true (fun old b => if sval w old < sval w b then b else old),
   int (.aminu f) .minu false min, int (.amaxu f) .maxu false max, int (.axchg f) .xchg false (fun _ b => b),
   row (.acas f) .cas false w false true (fun old b d => if old = d then b else old),
   flt (.afadd f) (.fadd F) (fun a b => (fvAdd 0 a b).1), flt (.afmin f) (.fmin .fp32) (fun a b => (fvMin a b).1),
   flt (.afmax f) (.fmax .fp32) (fun a b => (fvMax a b).1)]

/-! ## Control -/

/-- A row of an instruction whose whole effect is one thread's at a time: the slices it uses, whether it runs on a latency core
too, what it needs beyond that, and the chip after it. -/
structure ActRow where
  instr : Instr
  uses : Uses := {}
  hart : Bool := false
  ok : State → Issue → Thread → Bool := fun _ _ _ => true
  chip : State → Issue → Thread → Chip

/-- The row says what the instruction does for a thread on its own (R203, R344). -/
def ActRow.alone (r : ActRow) : Prop :=
  r.instr.wellFormed = true →
  ∀ (s0 : State) (i : Issue) (s : State) (t : Thread), s0.aloneOf i r.uses s t → (r.hart || t.onCompute) = true →
    t.usable (s.chip.bars t) r.uses = true → r.ok s i t = true →
    exec r.instr s0 = .next { s with chip := (r.chip s i t).unqueue t.id }

/-- Change GMk of the issue group at a place (R199). -/
def Chip.setMask (c : Chip) (p : Place) (k : Nat) (f : BitVec 32 → BitVec 32) : Chip :=
  match p with
  | .slot core q ig _ => c.onIg core q ig fun g => { g with gm := listSet g.gm k (f (g.gm.getD k 0)) }
  | _ => c

/-- A thread takes a trap, and waits in no queue any more (R76, R189, R220, R376). -/
def Chip.trapAt (c : Chip) (id cause tval : Nat) (word : Word) : Chip :=
  if (c.thread? id).isNone then c else
  let ready (u : Thread) : Thread := { u with wait := .ready, converged := false, early := none, record := [] }
  (((c.onThread id ready).unqueue id).unread id).takeTrap id cause tval word

/-- All members of GMk have arrived, not all at one collective: none waits any longer, and each in rank order takes the trap that its
own instruction takes before cause 26, or cause 26 with the mask (R201, R219). -/
def Chip.allApart (c : Chip) (word : Word) (k : Nat) (ms : List Thread) : Chip :=
  let free := ms.foldl (fun (d : Chip) u => d.onThread u.id fun (v : Thread) => { v with wait := .ready, early := none }) c
  ms.foldl (fun (d : Chip) u => match u.early with
    | none => d.trapAt u.id 26 (c.gmOf u k).toNat word
    | some (cause, v) => d.trapAt u.id cause v (if cause = 2 then BitVec.ofNat 64 v else word)) free

/-- Rows of the group masks (R199-R201, R228): joining sets the thread's bit, leaving clears it and the waiters are tested again, but
in a handler no mask changes; a gwait of a thread outside the mask goes on at once, one before the last member waits, the last one
releases all, and where one of them waits at a collective every member takes a trap. -/
def maskRows (k : BitVec 5) : List ActRow :=
  let n := k.toNat
  let waits (c : Chip) (t : Thread) : Chip :=
    c.onThread t.id fun u => { u with wait := .group n false, waitSince := c.tick, early := none, arrived := none }
  let others (c : Chip) (t : Thread) : List Thread := (c.membersOf t n).filter fun u => u.id ≠ t.id
  let member (c : Chip) (t : Thread) : Bool := (c.gmOf t n).getLsbD t.bit
  [{ instr := .join k, ok := fun _ _ t => !t.handler
     chip := fun s _ t => (s.chip.setMask t.place n fun m => m ||| (1#32 <<< t.bit)).goOn t.id 4 [] },
   { instr := .leave k, ok := fun _ _ t => !t.handler
     chip := fun s _ t => ((s.chip.setMask t.place n fun m => m &&& ~~~(1#32 <<< t.bit)).retestFor t n).goOn t.id 4 [] },
   { instr := .join k, ok := fun _ _ t => t.handler, chip := fun s _ t => s.chip.goOn t.id 4 [] },
   { instr := .leave k, ok := fun _ _ t => t.handler, chip := fun s _ t => (s.chip.retestFor t n).goOn t.id 4 [] },
   { instr := .gwait k
     ok := fun s _ t => member s.chip t && ((others s.chip t).all fun u => u.arrivedAt n) &&
       (others s.chip t).any fun u => !u.arrivedGwait n
     chip := fun s i t => (waits s.chip t).allApart i.word n ((waits s.chip t).membersOf t n) },
   { instr := .gwait k, ok := fun s _ t => !member s.chip t
     chip := fun s _ t => s.chip.onThread t.id fun u => u.retired 4 },
   { instr := .gwait k, ok := fun s _ t => member s.chip t && (others s.chip t).any fun u => !u.arrivedAt n
     chip := fun s _ t => waits s.chip t },
   { instr := .gwait k
     ok := fun s _ t => member s.chip t && (others s.chip t).all fun u => u.arrivedGwait n
     chip := fun s _ t => { waits s.chip t with threads := (waits s.chip t).threads.map fun u =>
       if u.place ≠ t.place && !(others s.chip t).any (fun v => v.place = u.place) then u else u.complete 4 } }]

/-- The threads that wait past a phase other than the one that now holds go on, each with an acquire of cluster scope
(R145, R352): those of the block at barrier k. -/
def Chip.wakeAt (c : Chip) (b : Block) (k : Nat) (phase : Bool) : Chip := c.pbWake b k phase

/-- The update of a barrier word that arrivals make: the word, and where the phase flips the waiters go on (R251). -/
def Chip.arriveAt (c : Chip) (b : Block) (k n : Nat) : Chip :=
  let w := c.pbRead b k
  let v := pbUpdate w n 0 0
  let c := c.pbPut b k v
  if pbPhase v = pbPhase w then c else c.wakeAt b k (pbPhase v)

/-- Rows of the phase barriers, where the thread's block has barrier k and its word is not poisoned (R350-R352). -/
def barrierRows (k : BitVec 12) (rs1 : BitVec 5) : List ActRow :=
  let n := k.toNat
  let x (t : Thread) : Nat := (readX t.regs rs1.toNat).toNat
  let has (c : Chip) (t : Thread) : Bool :=
    match c.blockOf t with | some b => !b.isTask && decide (n < b.nbar) && !c.pbPoisoned b n | none => false
  let spoilt (c : Chip) (t : Thread) : Bool :=
    match c.blockOf t with | some b => !b.isTask && decide (n < b.nbar) && c.pbPoisoned b n | none => false
  let block (c : Chip) (t : Thread) : Block := (c.blockOf t).getD {}
  let count (t : Thread) : Nat := if x t % 65536 = 0 then 1 else x t % 65536
  let uses : Uses := { reads := [spanX rs1.toNat] }
  let phase (c : Chip) (t : Thread) : Bool := pbPhase (c.pbRead (block c t) n)
  let wait (c : Chip) (t : Thread) (p arrived : Bool) : Chip :=
    c.onThread t.id fun u => { u with wait := .barrier n p arrived, waitSince := c.tick }
  let on (c : Chip) (t : Thread) : Chip := (c.onThread t.id fun u => u.retired 4).acquire t.id 2
  [{ instr := .pbinit k rs1, uses := uses, ok := fun s _ t => has s.chip t
     chip := fun s _ t =>
       let c := s.chip.clearPoison (s.chip.pbLoc (block s.chip t) n)
       (c.pbPut (block s.chip t) n (pbWord (phase s.chip t) false 0 (x t % 65536) (x t % 65536) false 0)).goOn t.id 4 [] },
   { instr := .pbinit k rs1, uses := uses, ok := fun s _ t => spoilt s.chip t
     chip := fun s _ t =>
       let c := (s.chip.clearPoison (s.chip.pbLoc (block s.chip t) n)).pbPut (block s.chip t) n
         (pbWord false false 0 (x t % 65536) (x t % 65536) false 0)
       (if phase s.chip t then c.wakeAt (block s.chip t) n false else c).goOn t.id 4 [] },
   { instr := .pbarr k rs1, uses := uses, ok := fun s _ t => has s.chip t && (s.chip.releaseStop t 2 false).isNone
     && !(s.chip.release t.id 2).pbPoisoned (block s.chip t) n
     chip := fun s _ t => ((s.chip.release t.id 2).arriveAt (block s.chip t) n (count t)).goOn t.id 4 [] },
   { instr := .pbwait k rs1, uses := uses, ok := fun s _ t => has s.chip t && (phase s.chip t != decide (x t % 2 = 1))
     chip := fun s _ t => on s.chip t },
   { instr := .pbwait k rs1, uses := uses, ok := fun s _ t => has s.chip t && (phase s.chip t == decide (x t % 2 = 1))
     chip := fun s _ t => wait s.chip t (decide (x t % 2 = 1)) false },
   { instr := .pbarw k rs1, uses := uses
     ok := fun s _ t => has s.chip t && (s.chip.releaseStop t 2 false).isNone && t.arrived.isNone && !(s.chip.release t.id 2).pbPoisoned (block s.chip t) n
     chip := fun s _ t =>
       let c := (s.chip.release t.id 2).arriveAt (block s.chip t) n (count t)
       if c.pbPhaseOf t n = phase s.chip t then wait c t (phase s.chip t) true else on c t },
   { instr := .pbarw k rs1, uses := uses
     ok := fun s _ t => has s.chip t && (s.chip.releaseStop t 2 false).isNone && t.arrived.isSome
     chip := fun s _ t =>
       let p := t.arrived.getD false
       if phase s.chip t = p then wait s.chip t p true else on s.chip t }]

/-- Row of the tile wait, where the tile is ready (R353). -/
def twaitRow (k : BitVec 12) : ActRow where
  instr := .twait k
  ok s _ t := match s.chip.blockOf t with
    | some b => (match b.tiles[k.toNat]? with | some tile => tile.state = .ready | none => false)
    | none => false
  chip s _ t := (s.chip.acquire t.id 2).goOn t.id 4 []

/-- Rows of the split-phase fences (R337, R338): fen takes the lowest free slot, toggles its GEN, and writes the token; on a
latency core it gives 0 once none of its engine operations is outstanding; fenw goes on once its token is no longer outstanding, with
the acquire of every fence that the slot has had (R144). -/
def fenceRows (f : Long) (sl : BitVec 9) : List ActRow :=
  let before := f.x.extractLsb' 0 4
  let after := f.x.extractLsb' 4 4
  let scope := f.b.toNat % 8
  let before_ (m : BitVec 4) : Bool := m.getLsbD 1 || m.getLsbD 2 || m.getLsbD 3
  let give (c : Chip) (t : Thread) (v : Nat) : Chip :=
    (c.giveTo t.id { sets := [(fStart f.d, 4, v)] }).goOn t.id 8 [spanI f.d]
  [{ instr := .fen f, uses := { writes := [spanI f.d] }
     ok := fun s _ t => !f.grouped && t.onCompute && (freeSlot t.tokens).isSome &&
       (!before.getLsbD 0 || (s.chip.releaseStop t scope (before_ after)).isNone)
     chip := fun s _ t =>
       let c := s.chip.fenceRelease t before after scope
       let i := (freeSlot t.tokens).getD 0
       let gen := !(t.tokens.getD i {}).gen
       let ops := c.pendingOps t before
       let k : Token := { live := !ops.isEmpty, gen := gen, ops := ops, order := t.tokens.foldl (fun m k => max m k.order) 0 + 1
                          before := before, after := after, scope := scope
                          ends := (t.tokens.getD i {}).ends || (after.getLsbD 0 && (decide (2 ≤ scope) || before_ before))
                          forgets := (t.tokens.getD i {}).forgets || (after.getLsbD 0 && decide (2 ≤ scope)) }
       give (c.onThread t.id fun u => { u with tokens := listSet t.tokens i k }) t (8 + (if gen then 4 else 0) + i) },
   { instr := .fen f, uses := { writes := [spanI f.d] }, hart := true
     ok := fun s _ t => !f.grouped && t.onHart && (s.chip.pendingOps t 15).isEmpty
     chip := fun s _ t => give s.chip t 0 },
   { instr := .fenw sl, uses := { reads := [(sl.toNat, 1)] }, hart := true
     ok := fun _ _ t =>
       let v := readSlices t.regs sl.toNat 4
       !(t.onCompute && v.testBit 3 && (t.tokens.getD (v % 4) {}).live && (t.tokens.getD (v % 4) {}).gen == v.testBit 2)
     chip := fun s _ t =>
       let v := readSlices t.regs sl.toNat 4
       let k := t.tokens.getD (v % 4) {}
       (if v.testBit 3 && t.onCompute then
         let c := if k.ends then s.chip.endLeases t.core else s.chip
         if k.forgets then c.windowForget t.id else c
        else s.chip).goOn t.id 4 [] }]

/-- Rows of the footprint (R211, R212): give returns slices, whose values are lost, and the lane's queue is served; claim takes
slices that read zero where the lane has them and no earlier request waits. -/
def footRows (v : BitVec 12) : List ActRow :=
  let n := v.toNat
  [{ instr := .give v, ok := fun _ _ t => decide (n < t.tfoot)
     chip := fun s _ t =>
       let c := s.chip.onThread t.id fun u => (u.setFoot n).keepBars (s.chip.bars t) n
       (c.serveLane t.lane3.1 t.lane3.2.1 t.lane3.2.2 32).goOn t.id 4 [] },
   { instr := .give v, ok := fun _ _ t => decide (t.tfoot ≤ n), chip := fun s _ t => s.chip.goOn t.id 4 [] },
   { instr := .claim v, ok := fun _ _ t => decide (n ≤ t.tfoot), chip := fun s _ t => s.chip.goOn t.id 4 [] },
   { instr := .claim v
     ok := fun s _ t => decide (t.tfoot < n) && (s.chip.laneHead t.lane3.1 t.lane3.2.1 t.lane3.2.2).isNone &&
       decide (n - t.tfoot ≤ s.chip.laneFree t.lane3.1 t.lane3.2.1 t.lane3.2.2)
     chip := fun s _ t => ((s.chip.onThread t.id fun u => u.setFoot n).metLane t.lane3).goOn t.id 4 [] }]

/-- Rows of the safe point (R224), the hook's return (R117), the end of a thread (R157, R228, R361), and of migrate where it
does not move (R106) or moves from a compute core. -/
def leaveRows (f : Long) (rd rs1 : BitVec 5) : List ActRow :=
  let uses : Uses := { reads := [spanX rs1.toNat], writes := [spanX rd.toNat] }
  let status (s : State) (t : Thread) : Option Word := s.chip.migrateStatus t (hintOf (readX t.regs rs1.toNat))
  [{ instr := .safept f, hart := true, ok := fun _ _ t => !t.tsafe
     chip := fun s _ t => s.chip.onThread t.id fun u => u.retired 8 },
   { instr := .safept f, ok := fun _ _ t => t.tsafe && !t.cancelled
     chip := fun s _ t => s.chip.onThread t.id fun u => { u.retired 8 with
       wait := .safePark, live := BitVec.ofNat 32 (f.x.toNat * 2 ^ 24 + f.b.toNat * 2 ^ 12 + f.a.toNat) ||| 4
       reqPending := false, parkFlags := 1 } },
   { instr := .tret, ok := fun _ _ t => t.tcause.getLsbD 63
     chip := fun s _ t => s.chip.onThread t.id fun u => { u with
       pc := u.tepc, tcause := u.tcause &&& 0x7FFF_FFFF_FFFF_FFFF, instret := u.instret + 1, arrived := none } },
   { instr := .gend, ok := fun _ _ t => t.block.isSome && t.tokensDone && !t.handler
     chip := fun s _ t => (s.chip.spillWindow t.id).endThread t.id },
   { instr := .gend, ok := fun _ _ t => t.block.isSome && t.tokensDone && t.handler
     chip := fun s _ t => (s.chip.spillWindow t.id).endHandler t false },
   { instr := .migrate rd rs1, uses := uses, hart := true, ok := fun s _ t => (status s t).isSome
     chip := fun s _ t =>
       (s.chip.giveTo t.id { sets := [(16 * rd.toNat, 64, ((status s t).getD 0).toNat)]
                             poison := t.poisoned (s.chip.bars t) [spanX rs1.toNat] }).goOn t.id 4 [spanX rd.toNat] },
   { instr := .migrate rd rs1, uses := uses, ok := fun s _ t => (status s t).isNone
     chip := fun s _ t =>
       let h := readX t.regs rs1.toNat
       let c := s.chip.onThread t.id fun u => { u with
         wait := .moving .migrate 0 0 (if (hintOf h).kind = 3 then (hintOf h).die else 0), waitSince := s.chip.tick
         hint := h, hintRd := rd.toNat }
       if touchesSp [spanX rd.toNat] then c.windowUpdate t.id else c }]

/-- Row of sysinfo: rd receives the value of the item (R367). -/
def sysinfoRow (rd rs1 : BitVec 5) : ActRow where
  instr := .sysinfo rd rs1
  uses := { reads := [spanX rs1.toNat], writes := [spanX rd.toNat] }
  hart := true
  chip s _ t :=
    let r := s.chip.ras
    let alive := (List.range 8).filter fun d => !r.dies.getLsbD d
    let v : Word := match (readX t.regs rs1.toNat).toNat with
      | 0 => 0x01FF_FFFF
      | 8 => BitVec.ofNat 64 (s.chip.pkg + (if s.chip.members = 0 then 0 else 32) + (if s.synced then 64 else 0))
      | 9 => if s.chip.members = 0 then 1 else s.chip.members.setWidth 64
      | 10 => BitVec.ofNat 64 ((alive.map fun d => 2 ^ d).sum + (if r.ldie1 then 0 else 2 ^ 9))
      | 11 => BitVec.ofNat 64 (79 * alive.length)
      | n => if n < 8 then 0 else BitVec.allOnes 64
    (s.chip.giveTo t.id { sets := [(16 * rd.toNat, 64, v.toNat)], poison := t.poisoned (s.chip.bars t) [spanX rs1.toNat] }).goOn
      t.id 4 [spanX rd.toNat]

/-! ## Engines -/

/-- A row of an instruction that a group executes as one: its slices, which operand values are legal, what stops a member, and the
chip after it. Some ignore U (R372); of some each member acts on its own unless U = 1 (R341, R372). -/
structure GroupRow where
  instr : Instr
  uses : Uses
  legal : Thread → Bool := fun _ => true
  check : Chip → List Thread → Thread → Option Stop
  run : Chip → List Thread → Chip
  ignoresU : Bool := false
  each : Bool := false
  hart : Bool := false

/-- The row says what the instruction does for a thread on its own (R203). -/
def GroupRow.alone (r : GroupRow) (f : Long) : Prop :=
  r.instr.wellFormed = true → f.grouped = false →
  ∀ (s0 : State) (i : Issue) (s : State) (t : Thread), s0.aloneOf i r.uses s t → (r.hart || t.onCompute) = true →
    t.usable (s.chip.bars t) r.uses = true → r.legal t = true → r.check s.chip [t] t = none →
    exec r.instr s0 = .next { s with chip := ((r.run s.chip [t]).goOn t.id 8 r.uses.writes).unqueue t.id }

/-- The turn of one member of a converged group: it waits past the convergence, is stopped, or acts (R341, R372). -/
def GroupRow.turn (r : GroupRow) (word : Word) (c : Chip) (id : Nat) : Chip :=
  match c.thread? id with
  | none => c
  | some t => match r.check c [t] t with
    | some (.hold w) => c.onThread id fun u => { u with wait := w, waitSince := c.tick, converged := true }
    | some s => c.applyStop id word s
    | none => (r.run c [t]).goOn id 8 r.uses.writes

/-- The row says what a complete collective does (R201, R205, R341, R372). -/
def GroupRow.together (r : GroupRow) (f : Long) : Prop :=
  r.instr.wellFormed = true → f.grouped = true →
  ∀ (s0 : State) (i : Issue) (s : State) (t0 : Thread) (ts : List Thread), s0.togetherOf i f.g.toNat r.uses s t0 ts →
    (∀ t ∈ ts, t.usable (s.chip.bars t) r.uses = true) →
    let c := s.chip.gathered f.g.toNat ts
    let ms := ts.map fun t => t.atGroup f.g.toNat s.chip.tick
    let uni := f.u && !r.ignoresU
    (∀ t ∈ ms, r.legal (if uni then ms.headD t else t) = true) →
    (∀ t ∈ ms, r.check c ms (if uni then ms.headD t else t) = none) →
    exec r.instr s0 = .next { s with
      chip := if r.each && !uni then ts.foldl (fun d t => r.turn i.word d t.id) c
        else ts.foldl (fun d t => d.goOn t.id 8 r.uses.writes) (r.run c ms) }

/-- Rows of the tile words: tdef writes the descriptor of an empty tile, trel makes a tile empty (R374, R375). -/
def tileRows (f : Long) : List GroupRow :=
  let w (t : Thread) : Nat := srcOf t.regs f.a 64 false
  let on (c : Chip) (ts : List Thread) (g : Nat → Tile → Tile) : Chip := match ts with
    | [] => c
    | t :: _ => match t.block with
      | none => c
      | some b => c.onTile b (w t % 64) (g (w t))
  [{ instr := .tdef f, uses := { strict := [spanI f.a] }, ignoresU := true, legal := fun t => decide (w t < 2 ^ 43)
     check := fun c ts t => tileWordStop f true c ts t
     run := fun c ts => on c ts fun v k => { k with
       swz := v / 2 ^ 41 % 4, rowBytes := 16 * (v / 2 ^ 32 % 512 + 1), rows := v / 2 ^ 20 % 4096 + 1, base := 64 * (v / 64 % 2 ^ 14)
       issued := 0, pending := 0, readers := 0 } },
   { instr := .trel f, uses := { strict := [spanI f.a] }, ignoresU := true, legal := fun t => decide (w t < 64)
     check := fun c ts t => tileWordStop f false c ts t
     run := fun c ts => on c ts fun _ k => { k with state := .empty } }]

/-- A copy enters the copy engine for some threads with the operands of one: it is in flight, its bytes pend on its barrier in
units of 16, and its tile fills or drains (R249, R251, R341). -/
def Chip.copyEnters (c : Chip) (f : Long) (form : CopyForm) (ts : List Thread) : Chip :=
  match ts with
  | [] => c
  | t :: _ =>
    let b := c.blockOf t
    let ids := ts.map (·.id)
    let o : CopyOp := { copyOf f form t (match b with | some b => b.tiles | none => []) c.eng.next with threads := ids }
    let n := o.rows * o.rowBytes
    if o.kind = .plain && o.rowBytes = 0 then c
    else
      let c := match b with | some b => c.pbAdd b o.pb ((n + 15) / 16) | none => c
      let c := match t.block, o.kind with
        | some b, .fill k _ => c.onTile b k fun tl =>
          if tl.state = TileState.empty then { tl with state := .filling, issued := n, pending := tl.rows * tl.rowBytes }
          else { tl with issued := tl.issued + n }
        | some b, .drain k => c.onTile b k fun tl => { tl with state := .draining }
        | _, _ => c
      { c with eng := { c.eng with copies := c.eng.copies ++ [o], next := c.eng.next + 1 } }

/-- Rows of the copies (R339-R341). -/
def copyRows (f : Long) : List GroupRow :=
  let row (i : Instr) (form : CopyForm) (ps : List Span) : GroupRow := {
    instr := i, uses := { strict := [spanI f.d, spanI f.a, spanI f.b] ++ ps }, each := true
    legal := fun t => copyLegal form (copyWords f t)
    check := fun c _ t => c.copyStop f form t
    run := fun c ts => c.copyEnters f form ts }
  [row (.cpy f) .cpy [], row (.cpys f) .cpys [(fStart f.b + 16, 16)], row (.tfill f) .tfill [], row (.tdrn f) .tdrn []]

/-- The core whose matrix queue a thread's operations take: its block's leader core, its own without a block (R373). -/
def Chip.leaderOf (c : Chip) (t : Thread) : Nat := match c.blockOf t with | some b => b.core | none => t.core

/-- Whether the 16 entries of that queue are in use (R373). -/
def Chip.queueTaken (c : Chip) (t : Thread) : Bool := decide (16 ≤ (c.eng.mats.filter fun m => m.queue = c.leaderOf t).length)

/-- An operation enters that queue for some threads (R373); fences at the head leave. -/
def Chip.queueMatrix (c : Chip) (ts : List Thread) (core : Thread → Nat) (kind : Thread → MatKind) (pb scope : Thread → Nat) : Chip :=
  match ts with
  | [] => c
  | t :: _ =>
    let m : MatOp := {
      id := c.eng.next, queue := c.leaderOf t, core := core t, block := (c.blockOf t).map (·.id), kind := kind t, pb := pb t
      scope := scope t, ctx := t.ctx, mode := t.mode, ttrap := t.tmode.getLsbD 2, members := ts.map (·.id) }
    { c with eng := { c.eng with mats := dropFences (c.leaderOf t) (c.eng.mats ++ [m]), next := c.eng.next + 1 } }

/-- An mma reads its tile from the end of its tile wait on, once for all its threads (R376). -/
def Chip.mmaReads (c : Chip) (w : Nat) (ts : List Thread) : Chip :=
  match ts with
  | [] => c
  | t :: _ => match c.blockOf t with
    | none => c
    | some b =>
      if (matDesc w).as_ || ts.any (·.reading.isSome) then c
      else c.onTile b.id (matDesc w).at_ fun k => { k with readers := k.readers + 1 }

/-- Rows of the matrix-class instructions: multiplies, transfers and the fence enter the matrix queue (R372, R373, R376-R380,
R386). -/
def matrixRows (f : Long) : List GroupRow :=
  let w (t : Thread) : Nat := srcOf t.regs f.a 64 false
  let second (t : Thread) : Nat := readSlices t.regs (fStart f.b + 16) 64
  let multiply (i : Instr) (stream : Bool) : GroupRow := {
    instr := i, uses := { strict := [spanI f.a] ++ (if stream then [spanI f.b, (fStart f.b + 16, 16)] else []) }, ignoresU := true
    legal := fun t => !stream || decide (second t < 2 ^ 32)
    check := fun c ts t => (c.mmaStop f stream ts t).or (if ts.any c.queueTaken then some (.hold .queueFull) else none)
    run := fun c ts => match ts with
      | [] => c
      | t :: _ =>
        let c := ts.foldl (fun c u => c.onThread u.id fun u => { u with reading := none }) (c.mmaReads (w t) ts)
        c.queueMatrix ts (·.core) (fun t => .multiply (BitVec.ofNat 64 (w t)) (BitVec.ofNat 64 (srcOf t.regs f.b 64 false))
          (BitVec.ofNat 64 (second t))) (fun t => (matDesc (w t)).pb) (fun _ => 2) }
  let named (c : Chip) (t : Thread) : Nat :=
    if f.x.toNat / 64 = 0 then t.core else if t.core = c.leaderOf t then t.core + 1 else c.leaderOf t
  let transfer (i : Instr) (x : Transfer) (ps : List Span) (kind : Chip → Thread → MatKind) : GroupRow := {
    instr := i, uses := { strict := ps }, each := true
    legal := fun t => xferLegal f x (copyWords f t)
    check := fun c _ t => c.xferStop f x t
    run := fun c ts => c.queueMatrix ts (named c) (kind c) (fun t => srcOf t.regs f.b 64 false / 2 ^ 32 % 256)
      (fun t => max 2 (srcOf t.regs f.b 64 false / 2 ^ 40 % 8)) }
  let d (t : Thread) : Nat := srcOf t.regs f.d 64 false
  let a (t : Thread) : Nat := srcOf t.regs f.a 64 false
  let len (t : Thread) : Nat := srcOf t.regs f.b 64 false % 2 ^ 32
  let sp := f.x.toNat % 8
  let fmt := f.x.toNat / 8 % 8
  [multiply (.mma f) false, multiply (.mmas f) true,
   transfer (.wbld f) .wbld [spanI f.d, spanI f.a, spanI f.b] (fun _ t => .wbld (d t) ⟨sp, BitVec.ofNat 64 (a t)⟩ (len t)),
   transfer (.accld f) .accld [spanI f.d, spanI f.a, spanI f.b] (fun _ t => .accld (d t) ⟨sp, BitVec.ofNat 64 (a t)⟩ (len t) fmt),
   transfer (.acczr f) .acczr [spanI f.d, spanI f.b] (fun _ t => .acczr (d t) (len t)),
   transfer (.accdr f) .accdr [spanI f.d, spanI f.a, spanI f.b]
     (fun c t => .accdr ⟨sp, BitVec.ofNat 64 (d t)⟩ (a t) (len t) fmt (c.rankZeroFtz f t)),
   { instr := .mxfence f, uses := {}, ignoresU := true
     check := fun c _ t => if c.queueTaken t then some (.hold .queueFull) else none
     run := fun c ts => c.queueMatrix ts (·.core) (fun _ => .fence) (fun _ => 255) (fun _ => 0) }]

/-- Rows of a multiply of one thread that finds the queue full (R376): it reads its tile and waits. -/
def matrixWaitRows (f : Long) : List ActRow :=
  let w (t : Thread) : Nat := srcOf t.regs f.a 64 false
  let row (i : Instr) (stream : Bool) : ActRow := {
    instr := i, uses := { strict := [spanI f.a] ++ (if stream then [spanI f.b, (fStart f.b + 16, 16)] else []) }
    ok := fun s _ t => !f.grouped && (!stream || decide (readSlices t.regs (fStart f.b + 16) 64 < 2 ^ 32)) &&
      (s.chip.mmaStop f stream [t] t).isNone && s.chip.queueTaken t
    chip := fun s _ t => (s.chip.mmaReads (w t) [t]).onThread t.id fun u => { u with
      reading := if (matDesc (w t)).as_ || u.reading.isSome then u.reading else some (matDesc (w t)).at_
      wait := .queueFull, waitSince := s.chip.tick } }
  [row (.mma f) false, row (.mmas f) true]

/-- Rows of the fragment loads: the member of rank r receives the bytes of row first + r, or of its column of elements, and its
load follows an acquire of cluster scope (R383-R385). -/
def fragmentRows (f : Long) : List GroupRow :=
  let word (t : Thread) : Nat := srcOf t.regs f.a 64 false
  let nb := fWidth f.d / 8
  let row (i : Instr) (tr : Bool) (cell : Nat → Nat → Nat × Nat) : GroupRow := {
    instr := i, uses := { strict := [spanI f.a], writes := [spanI f.d] }
    legal := fun t => decide (word t < 2 ^ 31)
    check := fun c ts t => c.mldStop f tr ts t
    run := fun c ts => (ts.zip (List.range ts.length)).foldl (fun c p => match c.blockOf p.1 with
      | none => c
      | some b =>
        let tl := b.tiles.getD (word p.1 % 64) {}
        let at_ (j : Nat) : Nat :=
          let x := cell p.2 j
          spAddr c b (tl.at (word p.1 / 64 % 4096 + x.1) (word p.1 / 2 ^ 18 % 8192 + x.2))
        let v := ((List.range nb).map fun j => (c.getByte (at_ j)).toNat * 256 ^ j).sum
        let bad := (List.range nb).any fun j => c.poisonedAt (at_ j)
        (c.acquire p.1.id 2).giveTo p.1.id { sets := [(fStart f.d, fWidth f.d, v)], poison := bad }) c }
  let es := 2 ^ (f.x.toNat % 4)
  [row (.mld f) false (fun r j => (r, j)), row (.mldt f) true (fun r j => (j / es, r * es + j % es))]

/-- Row of fen on a compute core, and in a collective (R337). -/
def fenGroupRow (f : Long) : GroupRow where
  instr := .fen f
  uses := { writes := [spanI f.d] }
  check c _ t := if (freeSlot t.tokens).isNone then some (.hold (.token (oldestSlot t.tokens)))
    else if f.x.getLsbD 0 then c.releaseStop t (f.b.toNat % 8) (decide (f.x.extractLsb' 4 4 &&& 0xE ≠ 0)) else none
  run c ts := ts.foldl (fun c t =>
    let r := c.openFence t (f.x.extractLsb' 0 4) (f.x.extractLsb' 4 4) (f.b.toNat % 8)
    r.2.giveTo t.id { sets := [(fStart f.d, 4, r.1)] }) c

/-! ## Requests of a thread -/

/-- rd receives a result, with the poison of the sources it may come from (R74), and the thread goes on. -/
def Chip.answerX (c : Chip) (t : Thread) (rd : BitVec 5) (v : Word) (poison : Bool) : Chip :=
  (c.giveTo t.id { sets := [(16 * rd.toNat, 64, v.toNat)], poison := poison }).goOn t.id 4 [spanX rd.toNat]

/-- A thread is the spawner of a grid (R164): it keeps its identity and the next sequence number, and a latency core writes both into
the record at stthr (notes/assumptions/10). -/
def Chip.spawns (c : Chip) (t : Thread) : Nat × Chip :=
  let fresh := t.spawner = 0
  let who := if fresh then spawnerId c.pkg c.eng.next else t.spawner
  let c := if fresh then { c with eng := { c.eng with next := c.eng.next + 1 } } else c
  (who, c.keepSpawner t who (t.spawnSeq + 1))

/-- Rows of spawn, gcancel and gstat (R151-R153, R158, R164, R166, R168, R358-R360): a spawn leaves the dispatcher's queue, releases at
pod scope, reads its descriptor, but where it has waited has it from its issue, and either gives a negative status or enters the grid in the table under the handle it gives and
offers it to the other packages that it names; a handle that names no live grid of the caller gives -1, a wrong selector -2, and one
of another package's grid is sent there with a free answer (notes/assumptions/51). -/
def gridRows (rd rs1 rs2 : BitVec 5) : List ActRow :=
  let a (t : Thread) : Word := readX t.regs rs1.toNat
  let b (t : Thread) : Word := readX t.regs rs2.toNat
  let one : Uses := { strict := [spanX rs1.toNat], writes := [spanX rd.toNat] }
  let two : Uses := { one with reads := [spanX rs2.toNat] }
  let bad (s : State) (t : Thread) : Bool := t.poisoned (s.chip.bars t) [spanX rs2.toNat]
  let sent (s : State) (t : Thread) : Chip := (s.chip.callDone t.id).release t.id 5
  let read (s : State) (t : Thread) : List Byte × Chip :=
    if t.record.isEmpty then (sent s t).recordRead t (a t).toNat 16 else (t.record, sent s t)
  let open_ (s : State) (i : Issue) (t : Thread) : Bool := (s.chip.spawnStop t i.word (a t).toNat).isNone
  let asked (s : State) (t : Thread) : Option Grid := (s.chip.gridByHandle (a t)).filter fun g =>
    !g.remote && (s.chip.ctxOf t).sameRoot g.ctx
  let other (s : State) (t : Thread) : Bool := s.chip.elsewhere (a t) false
  let here (s : State) (t : Thread) : Bool := !other s t
  [{ instr := .spawn rd rs1, uses := one, hart := true, ok := fun s i t => decide ((a t).toNat % 64 ≠ 0) && open_ s i t
     chip := fun s _ t => (sent s t).answerX t rd (-1) false },
   { instr := .spawn rd rs1, uses := one, hart := true
     ok := fun s i t => decide ((a t).toNat % 64 = 0) && open_ s i t &&
       ((read s t).2.spawnStatus (descOf (read s t).1)).isSome
     chip := fun s _ t => (read s t).2.answerX t rd (((read s t).2.spawnStatus (descOf (read s t).1)).getD 0) false },
   { instr := .spawn rd rs1, uses := one, hart := true
     ok := fun s i t => decide ((a t).toNat % 64 = 0) && open_ s i t &&
       ((read s t).2.spawnStatus (descOf (read s t).1)).isNone
     chip := fun s _ t =>
       let c := (read s t).2
       let gen := nextGen (assocGet c.disp.gridGens c.freeSlot 0)
       let x := c.spawns t
       let g : Grid := {
         slot := c.freeSlot, gen := gen, desc := descOf (read s t).1, ctx := c.ctxOf t, spawner := x.1, seq := t.spawnSeq
         order := c.disp.order, gated := (descOf (read s t).1).flags.testBit 1, gateSince := c.tick }
       let d : Chip := { x.2 with disp := { x.2.disp with
         grids := x.2.disp.grids ++ [g], gridGens := assocSet x.2.disp.gridGens c.freeSlot gen, order := x.2.disp.order + 1 } }
       let h := d.gridHandle g
       (((g.desc.named c.pkg).filter (· ≠ c.pkg)).foldl
         (fun e p => e.post p (.offer h.toNat (descOf (read s t).1).bytes g.ctx.bytes g.spawner g.seq)) d).answerX t rd h false },
   { instr := .gcancel rd rs1 rs2, uses := two, hart := true, ok := fun s _ t => here s t && (asked s t).isNone
     chip := fun s _ t => s.chip.answerX t rd (-1) (bad s t) },
   { instr := .gcancel rd rs1 rs2, uses := two, hart := true
     ok := fun s _ t => here s t && (asked s t).isSome && decide (1 < (b t).toNat)
     chip := fun s _ t => s.chip.answerX t rd (-2) (bad s t) },
   { instr := .gcancel rd rs1 rs2, uses := two, hart := true
     ok := fun s _ t => here s t && (asked s t).isSome && decide ((b t).toNat ≤ 1)
     chip := fun s _ t =>
       let slot := ((asked s t).getD {}).slot
       (if (b t).toNat = 1 then s.chip.cancelHard slot else s.chip.cancelSoft slot).answerX t rd 0 (bad s t) },
   { instr := .gcancel rd rs1 rs2, uses := two, hart := true, ok := fun s _ t => other s t
     chip := fun s _ t => (s.chip.callAway t (a t) (.gcancel (b t))).answerX t rd
       (s.chip.freeOf [-1, if 1 < (b t).toNat then -2 else 0]) (bad s t) },
   { instr := .gstat rd rs1 rs2, uses := two, hart := true, ok := fun s _ t => other s t
     chip := fun s _ t => { s.chip with free := s.chip.free + 8 }.answerX t rd
       (if 2 < (b t).toNat then s.chip.freeOf [-1, -2] else s.chip.freeWord) (bad s t) },
   { instr := .gstat rd rs1 rs2, uses := two, hart := true, ok := fun s _ t => here s t
     chip := fun s _ t => s.chip.answerX t rd (match asked s t with
       | none => -1
       | some g => if 2 < (b t).toNat then -2
         else BitVec.ofNat 64 (numOf (((s.chip.statusRecord g 0).drop (8 + 8 * (b t).toNat)).take 8))) (bad s t) }]

/-- Rows of tsub, tcomm and tabort (R175-R182, R362): a submission leaves the dispatcher's queue, releases at pod scope, reads its
record, but where it has waited has it from its issue, and either gives a negative status or enters the task; a handle that names no task in flight of the caller gives -1, one that
is not speculative -2, and one of another package's task is sent there with a free answer (notes/assumptions/51). -/
def taskRows (rd rs1 : BitVec 5) : List ActRow :=
  let a (t : Thread) : Word := readX t.regs rs1.toNat
  let uses : Uses := { strict := [spanX rs1.toNat], writes := [spanX rd.toNat] }
  let asked (s : State) (t : Thread) : Option Task := s.chip.taskOfSpace (s.chip.ctxOf t) (a t)
  let other (s : State) (t : Thread) : Bool := s.chip.elsewhere (a t) true
  let here (s : State) (t : Thread) : Bool := !other s t
  let away (s : State) (t : Thread) (k : PodCall) : Chip := (s.chip.callAway t (a t) k).answerX t rd (s.chip.freeOf [0, -1, -2]) false
  let sent (s : State) (t : Thread) : Chip := (s.chip.callDone t.id).release t.id 5
  let read (s : State) (t : Thread) : TaskRecord × Chip :=
    let c := sent s t
    let h := taskRecordOf (c.recordRead t (a t).toNat 8).1
    let x := if t.record.isEmpty then c.recordRead t (a t).toNat (if h.countsOk then h.words else 8) else (t.record, c)
    (taskRecordOf x.1, x.2)
  let may (s : State) (t : Thread) : Bool := decide ((a t).toNat % 64 = 0) && (s.chip.tsubStop t (a t).toNat).isNone
  [{ instr := .tsub rd rs1, uses := uses, hart := true
     ok := fun s _ t => decide ((a t).toNat % 64 ≠ 0) && (s.chip.tsubStop t (a t).toNat).isNone
     chip := fun s _ t => (sent s t).answerX t rd (-1) false },
   { instr := .tsub rd rs1, uses := uses, hart := true
     ok := fun s _ t => may s t && ((read s t).2.taskStatus (read s t).1).isSome
     chip := fun s _ t => (read s t).2.answerX t rd (((read s t).2.taskStatus (read s t).1).getD 0) false },
   { instr := .tsub rd rs1, uses := uses, hart := true
     ok := fun s _ t => may s t && ((read s t).2.taskStatus (read s t).1).isNone && (read s t).2.freeEntry.isSome
     chip := fun s _ t =>
       let x := read s t
       let y := x.2.enterTask { x.1.task with ctx := (sent s t).ctxOf t, subDie := (sent s t).dieOf t } (x.2.freeEntry.getD 0)
       y.2.answerX t rd y.1 false },
   { instr := .tcomm rd rs1, uses := uses, hart := true, ok := fun s _ t => other s t, chip := fun s _ t => away s t .tcomm },
   { instr := .tcomm rd rs1, uses := uses, hart := true, ok := fun s _ t => here s t && (asked s t).isNone
     chip := fun s _ t => s.chip.answerX t rd (-1) false },
   { instr := .tcomm rd rs1, uses := uses, hart := true
     ok := fun s _ t => here s t && (asked s t).isSome && !((asked s t).getD {}).spec
     chip := fun s _ t => s.chip.answerX t rd (-2) false },
   { instr := .tcomm rd rs1, uses := uses, hart := true
     ok := fun s _ t => here s t && (asked s t).isSome && ((asked s t).getD {}).spec
     chip := fun s _ t =>
       ((s.chip.setTask { (asked s t).getD {} with commit := true }).settleAll (s.chip.disp.tasks.length + 1)).answerX t rd 0 false },
   { instr := .tabort rd rs1, uses := uses, hart := true, ok := fun s _ t => other s t, chip := fun s _ t => away s t .tabort },
   { instr := .tabort rd rs1, uses := uses, hart := true, ok := fun s _ t => here s t && (asked s t).isNone
     chip := fun s _ t => s.chip.answerX t rd (-1) false },
   { instr := .tabort rd rs1, uses := uses, hart := true
     ok := fun s _ t => here s t && (asked s t).isSome && !((asked s t).getD {}).spec
     chip := fun s _ t => s.chip.answerX t rd (-2) false },
   { instr := .tabort rd rs1, uses := uses, hart := true
     ok := fun s _ t => here s t && (asked s t).isSome && ((asked s t).getD {}).spec
     chip := fun s _ t =>
       let c := s.chip.giveTo t.id { sets := [(16 * rd.toNat, 64, 0)] }
       (c.abortTask ((asked s t).getD {}).entry false).goOn t.id 4 [spanX rd.toNat] }]

/-- The request that a ring call sends (R363, R364): its header in main memory, its buffer, the room of its page, the thread's core and
job. -/
def Chip.ringAsks (c : Chip) (t : Thread) (k : RingCall) (id : Nat) : RingReq :=
  let page (va : Nat) (acc : Access) (onDie : Bool) : Nat := match c.ringPage t va acc onDie with | .inr p => p | .inl _ => 0
  { id := id, thread := t.id, header := page k.va .store false, op := k.op, noWait := k.noWait, key := k.key, payload := k.payload
    dest := match k.buf with
      | some v => .memory k.rd (page v (if k.op.puts then .load else .store) true) v
      | none => .slices k.d
    va := k.va, room := c.leafRoom t k.va, core := if t.onCompute then some t.core else none, job := c.jobOf t }

/-- What precedes a ring request (R148, R363): a memory form's buffer leaves the stack window, and what puts an entry in releases at
core scope. -/
def Chip.ringReady (c : Chip) (t : Thread) (k : RingCall) : Chip :=
  let d := match k.buf with | some v => if t.onCompute then c.spillRange t v (v + 64) else c | none => c
  if k.op.puts then d.release t.id 1 else d

/-- A ring request is at its engine and the thread waits for it (R187, R363, R364). -/
def Chip.ringSent (c : Chip) (t : Thread) (k : RingCall) (ps : List Span) : Chip :=
  let d := c.ringReady t k
  let q := c.ringAsks t k d.eng.next
  let d := (d.ringAdmit t q).getD d
  let d := { d with
    eng := { d.eng with next := q.id + 1 }
    disp := { d.disp with ringReqs := d.disp.ringReqs ++ [q] } }
  let d := d.onThread t.id fun u => { u with wait := .ring q.id, waitSince := d.tick, converged := false }
  if touchesSp ps then d.windowUpdate t.id else d

/-- Whether a ring request can be sent: its addresses aligned, its pages translated and in memory, its engine's queue open
(R186-R190, R363). -/
def Chip.ringOpen (c : Chip) (t : Thread) (k : RingCall) : Bool :=
  decide (k.va % 64 = 0) && (match k.buf with | some b => decide (b % 64 = 0) | none => true) && (c.ringStop t k).isNone &&
  ((c.ringReady t k).ringAdmit t (c.ringAsks t k (c.ringReady t k).eng.next)).isSome

/-- Rows of the ring instructions (R187, R363, R364): an aligned request is sent; a misaligned header gives -3, a misaligned buffer
-5, and nothing is sent. -/
def ringRows (f : Long) (rd rs1 rs2 : BitVec 5) (nw : Bool) : List ActRow :=
  let s0 := fStart f.d
  let row (i : Instr) (uses : Uses) (call : Thread → RingCall) : ActRow := {
    instr := i, uses := uses, hart := true
    ok := fun s _ t => !f.grouped && s.chip.ringOpen t (call t)
    chip := fun s _ t => s.chip.ringSent t (call t) uses.writes }
  let long (i : Instr) (op : RingOp) (src dst : List Span) : ActRow := row i { strict := spanI f.a :: src, writes := dst } fun t => {
    op := op, noWait := f.x.getLsbD 0, va := srcOf t.regs f.a 64 false, key := srcOf t.regs f.d 64 false
    payload := bytesOf (readSlices t.regs (fStart f.b) (fWidth f.b)) ((fWidth f.b + 7) / 8), d := f.d }
  let memUses : Uses := { strict := [spanX rs1.toNat, spanX rs2.toNat], writes := [spanX rd.toNat] }
  let mem (i : Instr) (op : RingOp) : List ActRow :=
    let x (t : Thread) (r : BitVec 5) : Nat := (readX t.regs r.toNat).toNat
    [row i memUses fun t => { op := op, noWait := nw, va := x t rs1, buf := some (x t rs2), rd := rd.toNat },
     { instr := i, uses := memUses, hart := true, ok := fun _ _ t => decide (x t rs2 % 64 ≠ 0) && decide (t.wait = .ready)
       chip := fun s _ t => ((s.chip.answerX t rd (-5) false)) },
     { instr := i, uses := memUses, hart := true
       ok := fun _ _ t => decide (x t rs2 % 64 = 0) && decide (x t rs1 % 64 ≠ 0) && decide (t.wait = .ready)
       chip := fun s _ t => (s.chip.answerX t rd (-3) false) }]
  [long (.rtkt f) .ticket [] [spanI f.d], long (.rfill f) .fill [spanI f.d, spanI f.b] [spanI f.d],
   long (.rpush f) .push [spanI f.b] [spanI f.d], long (.rpop f) .pop [] [spanI f.d, (s0 + fWidth f.d / 4, 1)],
   long (.kpush f) .kpush [spanI f.d, spanI f.b] [spanI f.d], long (.kpop f) .kpop [] [(s0, 32), (s0 + 32, 1)]] ++
  mem (.rfillm rd rs1 rs2 nw) .fill ++ mem (.rpushm rd rs1 rs2 nw) .push ++ mem (.rpopm rd rs1 rs2 nw) .pop ++
  mem (.kpushm rd rs1 rs2 nw) .kpush ++ mem (.kpopm rd rs1 rs2 nw) .kpop

/-- Rows of a system call from a compute core (R118, R119): a release of device scope, then the thread waits in the open batch of
its issue group and service number, or in a new one; the thirty-second member closes the batch. -/
def ecallRows : List ActRow :=
  let uses : Uses := { strict := (List.range 8).map fun i => spanX (10 + i) }
  let wait (c : Chip) (t : Thread) (id : Nat) : Chip :=
    c.onThread t.id fun u => { u with wait := .batch id, waitSince := c.tick }
  let at_ (t : Thread) : Nat × Nat × Nat := match t.place with | .slot core q ig _ => (core, q, ig) | _ => (0, 0, 0)
  let may (s : State) (t : Thread) : Bool := (s.chip.releaseStop t 4 false).isNone
  let open_ (s : State) (t : Thread) : Option Batch :=
    (s.chip.release t.id 4).openBatch (at_ t).1 (at_ t).2.1 (at_ t).2.2 (readX t.regs 17)
  [{ instr := .ecall, uses := uses, ok := fun s _ t => may s t && (open_ s t).isNone
     chip := fun s _ t =>
       let c := s.chip.release t.id 4
       let b : Batch := { id := c.eng.next, core := (at_ t).1, qtr := (at_ t).2.1, ig := (at_ t).2.2, key := readX t.regs 17, members := [t.id]
                          since := c.tick, closed := false }
       wait { c with eng := { c.eng with
         batches := (c.eng.batches.map fun k => if k.id = b.id then b else k) ++ [b], next := c.eng.next + 1 } } t b.id },
   { instr := .ecall, uses := uses, ok := fun s _ t => may s t && (match open_ s t with | some b => decide (b.members.length < 31) | none => false)
     chip := fun s _ t =>
       let c := s.chip.release t.id 4
       let b := (open_ s t).getD default
       let b := { b with members := b.members ++ [t.id] }
       wait { c with eng := { c.eng with batches := c.eng.batches.map fun k => if k.id = b.id then b else k } } t b.id },
   { instr := .ecall, uses := uses, ok := fun s _ t => may s t && (match open_ s t with | some b => b.members.length = 31 | none => false)
     chip := fun s _ t =>
       let c := s.chip.release t.id 4
       let b := (open_ s t).getD default
       let b := { b with members := b.members ++ [t.id] }
       (wait { c with eng := { c.eng with batches := c.eng.batches.map fun k => if k.id = b.id then b else k } } t b.id).closeBatch b.id }]

/-! ## Steps of other agents -/

/-- A row of a step of another agent: when it has its effect, and the state after it. -/
structure EventRow where
  instr : Instr
  ok : State → Bool := fun _ => true
  next : State → State

/-- The row says what the step does in every state that meets its condition. -/
def EventRow.holds (r : EventRow) : Prop :=
  ∀ s : State, r.ok s = true → exec r.instr s = .next (r.next s)

/-- The firmware's state changed. -/
def State.onTrust (s : State) (f : Trust → Trust) : State := { s with plat := { s.plat with trust := f s.plat.trust } }

/-- Bring-up stands before stage n, and the package is on (R54). -/
def State.before (s : State) (n : Nat) : Bool :=
  let t := s.plat.trust
  t.power = .on && (if n = 0 then t.stage = 0 && !t.stageDone else t.stageDone && t.stage + 1 = n)

/-- Stage n is reached and done (R54). -/
def State.reach (s : State) (n : Nat) : State := s.onTrust fun t => { t with stage := n, stageDone := true }

/-- Bring-up stopped at stage n with a non-zero code, which the I2C target reports, and from stage 4 MGCODE (R54). -/
def State.stopAt (s : State) (n : Nat) : State :=
  let code : BitVec 8 := BitVec.ofNat 8 (1 + (Config.failureCode n).toNat % 255)
  s.onTrust fun t => { t with
    power := .stopped, stage := n, stageDone := false, i2c := (BitVec.ofNat 8 n, code), code := if 4 ≤ n then code else t.code }

/-- The identity key signs once with its next index, which the counter in flash has passed before; where the write (flash 1) or the
read-back (flash 2) fails there is no signature, and at most one index is lost (R48). -/
def Trust.certify (t : Trust) (flash gen pair : Nat) : Option (List Byte) × Trust :=
  if flash = 1 || decide (2 ^ 20 ≤ t.identity) then (none, t)
  else if flash = 2 then (none, { t with identity := t.identity + 1 })
  else (some (xmssSign 0 20 t.identity (t.certText gen pair)),
    { t with identity := t.identity + 1, usedIdentity := t.identity :: t.usedIdentity })

/-- Flash records of types that are skipped and logged (R52). -/
def Trust.oddRecords (t : Trust) : Nat := (t.records.filter fun r => !flashTypes.contains r.kind).length

/-- The operator keys, the configuration records in use and their stored numbers after stage 2 (R47, R52, R53). -/
def Trust.configured (t : Trust) : Trust :=
  let t := t.enrol
  { t with
    used := t.pickAll, skipped := t.skipped + t.oddRecords
    rollback := t.pickAll.foldl (fun l r => assocSet l r.kind r.number) t.rollback }

/-- Whether every record type that a package must have is among those in use, and the die-enablement record yields the dies' cores
(R12, R53). -/
def Trust.hasAll (t : Trust) : Bool :=
  ([1, 2, 4, 5, 7, 8].all fun k => t.used.any fun r => r.kind = k) &&
  (match t.used.find? fun r => r.kind = 1 with | some r => enablementOk r.body | none => enablementOk [])

/-- Session generation 0 of a bring-up: a pair that no generation had before, certified where the identity key signs (R49). -/
def Trust.opened (t : Trust) (flash : Nat) : Trust :=
  let r := t.certify flash 0 t.pairs
  { r.2 with
    sessionGen := 0, sessionPair := t.pairs, pairs := t.pairs + 1, sessionIndex := 0, nextSession := none
    certified := r.1.isSome, certificate := match r.1 with | some x => x | none => [] }

/-- The package as power finds it, where it was off or its bring-up had stopped; else as it stands (R54). -/
def State.poweredOn (s : State) : State := if s.plat.trust.power = .on then s else s.powerOn

/-- Rows of bring-up (R12, R41-R54): each stage runs after the one before it, with both copies of the root firmware, checks what it
must, and reports a failure. -/
def bootRows (agree trained : Bool) (hbmStacks : BitVec 16) (channels : BitVec 32) (ports : BitVec 8) : List EventRow :=
  let ready (s : State) (n : Nat) : Bool := s.before n && !s.plat.trust.mirrorLost
  let alone (i : Instr) (n : Nat) : EventRow := {
    instr := i, ok := fun s => s.before n && s.plat.trust.mirrorLost, next := fun s => s.stopAt n }
  let sizes (s : State) : List Nat := [Config.lpddrGiB (s.bodyOf 4) 0, Config.lpddrGiB (s.bodyOf 4) 1]
  let low : Bool := channels.toNat % 65536 = 65535
  let mgmt (t : Trust) : Bool := t.signatureOk t.mgmtImage
  let boot (t : Trust) : Bool := t.signatureOk t.loader
  let root (t : Trust) : Bool := shake256 t.rootImage = t.romDigest || shake256 t.rootMirror = t.romDigest
  let starts (c : Chip) (core : Nat) (entry : Word) : Chip := { c with
    threads := c.threads ++ [{ id := c.eng.next, place := .hart 0 core, mode := .m, pc := entry, tfoot := 512 }]
    harts := c.harts ++ [{ ldie := 0, core := core, started := true }], eng := { c.eng with next := c.eng.next + 1 } }
  let has (s : State) (k : Nat) : Bool := s.plat.trust.used.any fun r => r.kind = k
  [{ instr := .bootStage0, ok := fun s => s.poweredOn.before 0
     next := fun s => if root s.plat.trust then s.poweredOn.reach 0 else s.poweredOn.stopAt 0 },
   { instr := .bootStage0, ok := fun s => s.plat.trust.power = .on && !s.before 0, next := id },
   { instr := .bootStage1 agree, ok := fun s => s.before 1 && agree
     next := fun s =>
       let u : State := if s.plat.trust.overTemp then { s with chip := s.chip.logEvent 41 } else s
       (u.onTrust fun t => { t with
         bringUps := t.bringUps + 1, mirrorLost := false, unlocked := false, nonce := none, overTemp := false }).reach 1 },
   { instr := .bootStage1 agree, ok := fun s => s.before 1 && !agree, next := fun s => s.stopAt 1 },
   alone .bootStage2 2, alone (.bootStage3 trained) 3, alone (.bootStage4 hbmStacks channels) 4, alone .bootStage5 5,
   alone (.bootStage6 ports) 6, alone .bootStage7 7,
   { instr := .bootStage2, ok := fun s => ready s 2
     next := fun s =>
       let t := s.plat.trust.configured
       let u : State := { s with chip := (List.range s.plat.trust.oddRecords).foldl (fun c _ => c.logEvent 52) s.chip }
       if t.hasAll then (u.onTrust fun _ => t.opened s.subject).reach 2 else (u.onTrust fun _ => t).stopAt 2 },
   { instr := .bootStage3 trained, ok := fun s => ready s 3 && trained
     next := fun s => { (s.onTrust fun t => { t with coreMap := (List.range 10).map (Config.enabled (s.bodyOf 1)) }).reach 3 with
       chip := { s.chip with
         pcie := [0, 1].map fun l => {
           up := true, endpoint := Config.endpointPort (s.bodyOf 7) l, bars := min (Config.attachedBars l) (2 ^ 39) }
         cxl := [min (Config.attachedCxl 0) (2 ^ 39), min (Config.attachedCxl 1) (2 ^ 39)] } } },
   { instr := .bootStage3 trained, ok := fun s => ready s 3 && !trained, next := fun s => s.stopAt 3 },
   { instr := .bootStage4 hbmStacks channels, ok := fun s => ready s 4 && low
     next := fun s =>
       let r := s.chip.ras
       let well := hbmStacks = BitVec.allOnes 16 && channels = BitVec.allOnes 32
       let u : State := if well then s.reach 4 else (s.reach 4).onTrust fun t => { t with i2c := (4#8, failCode 4), code := failCode 4 }
       { u with chip := { s.chip with
         mem := s.chip.mem.devicePart, lpddr := sizes s, firewall := true
         ras := { r with
           hbmStacks := r.hbmStacks ||| ~~~hbmStacks, channels := r.channels ||| ~~~channels
           rows := Config.repairedRows (s.bodyOf 3) } } } },
   { instr := .bootStage4 hbmStacks channels, ok := fun s => ready s 4 && !low, next := fun s => s.stopAt 4 },
   { instr := .bootStage5, ok := fun s => ready s 5
     next := fun s => if !mgmt s.plat.trust then s.stopAt 5 else
       let c := { s.chip with ras := { s.chip.ras with cap := min (Config.powerLimit (s.bodyOf 8)) 2600 } }
       let base := c.mgmtBase
       let laid := (s.plat.trust.mgmtImage.body.zip (List.range (2 ^ 28))).foldl (fun c b => c.putByte (base + b.2) b.1) c
       { s.reach 5 with chip := starts laid 47 (BitVec.ofNat 64 base) } },
   { instr := .bootStage6 ports, ok := fun s => ready s 6
     next := fun s => { s with plat := { s.plat with
       pod := {
         self := Config.routedSelf (s.bodyOf 6) % 32, manifest := Config.manifestHash (s.bodyOf 11), since := s.chip.tick
         sent := s.plat.pod.sent }
       link := s.linkOfRecords ports
       trust := { s.plat.trust with stage := 6, stageDone := !has s 6 || !has s 11 } } } },
   { instr := .bootStage7, ok := fun s => ready s 7
     next := fun s => if !boot s.plat.trust then s.stopAt 7 else
       let at_ := s.plat.trust.loaderAt + BitVec.ofNat 64 (s.chip.pkg * 2 ^ 51)
       { s.reach 7 with chip := starts (s.chip.agentStore (.ldie 0) at_.toNat s.plat.trust.loader.body) 0 at_ } }]

/-- Rows of the root firmware after bring-up and of the debug unlock (R41-R50): an identity index signs once; a report uses up a
session index; a nonce lives until the next record; a record that is bound to the package and the nonce unlocks. -/
def trustRows (addr : Word) : List EventRow :=
  let fresh (t : Trust) : Bool := t.nextSession.isNone && t.certified && decide (65536 ≤ t.sessionIndex + 4096)
  let req (s : State) : Nat := (s.plat.trust.attreq.getD 0).toNat
  let dst (s : State) : Nat := s.plat.trust.attdst.toNat
  let asked (s : State) : Bool := s.plat.trust.attreq.isSome
  let unsigned (s : State) : Bool := decide (2 ^ 20 ≤ s.plat.trust.identity) || !s.plat.trust.certified
  let bad (s : State) : Bool := !s.chip.inMain (dst s) 19676 || !s.chip.inMain (req s) 96
  let key (s : State) : Trust :=
    let t := s.plat.trust
    match t.nextSession with
    | some (g, pair, cert) => if t.sessionIndex < 65536 then t
      else { t with sessionGen := g, sessionPair := pair, sessionIndex := 0, certificate := cert, nextSession := none }
    | none => t
  let nonce (s : State) : List Byte := (List.range 32).map fun i => Config.randomByte (32 * s.plat.trust.draws + i)
  let opens (s : State) : Bool :=
    let r := s.recordAt addr.toNat
    s.chip.inMain addr.toNat 32 && r.kind = 10 && s.plat.trust.verifies r && r.serial = Config.serial &&
    s.plat.trust.nonce = some r.body
  let running (s : State) : Bool := s.plat.trust.stage = 7 && s.plat.trust.stageDone
  [{ instr := .mgattreq addr, ok := fun s => !asked s, next := fun s => s.onTrust fun t => { t with attreq := some addr, attsts := 0 } },
   { instr := .mgattreq addr, ok := asked, next := id },
   { instr := .attestationReport, ok := fun s => !asked s, next := id },
   { instr := .attestationReport, ok := fun s => asked s && unsigned s
     next := fun s => s.onTrust fun t => { t with attreq := none, attsts := 3 } },
   { instr := .attestationReport, ok := fun s => asked s && !unsigned s && bad s
     next := fun s => s.onTrust fun t => { t with attreq := none, attsts := 2 } },
   { instr := .attestationReport, ok := fun s => asked s && !unsigned s && !bad s && (decide ((key s).sessionIndex < 65536))
     next := fun s =>
       let body := s.reportBody (key s) (s.chip.firmwareRead (req s) 96)
       let sig := xmssSign ((key s).sessionPair + 1) 16 (key s).sessionIndex body
       { s.onTrust fun _ => { key s with sessionIndex := (key s).sessionIndex + 1, attreq := none, attsts := 1 } with
         chip := s.chip.agentStore (.ldie 0) (dst s) (body ++ sig) } },
   { instr := .attestationReport, ok := fun s => asked s && !unsigned s && !bad s && (decide (65536 ≤ (key s).sessionIndex))
     next := id },
   { instr := .sessionKeyGeneration, ok := fun s => fresh s.plat.trust
     next := fun s => s.onTrust fun t =>
       let r := t.certify s.subject (t.sessionGen + 1) t.pairs
       { r.2 with
         pairs := t.pairs + 1, nextSession := match r.1 with | some x => some (t.sessionGen + 1, t.pairs, x) | none => none } },
   { instr := .sessionKeyGeneration, ok := fun s => !fresh s.plat.trust, next := id },
   { instr := .lockstepMismatch, ok := fun s => s.plat.trust.mirrorLost, next := id },
   { instr := .lockstepMismatch, ok := fun s => !s.plat.trust.mirrorLost && running s
     next := fun s => { s.onTrust fun t => { t with power := .off, overTemp := true } with
       chip := { s.chip with mem := {}, threads := [], groups := [] } } },
   { instr := .lockstepMismatch, ok := fun s => !s.plat.trust.mirrorLost && !running s
     next := fun s => s.stopAt s.plat.trust.stage },
   { instr := .mgdbgnonce addr, ok := fun s => s.chip.inMain addr.toNat 32
     next := fun s => { s.onTrust fun t => { t with nonce := some (nonce s), draws := t.draws + 1, dbgsts := 1 } with
       chip := s.chip.agentStore (.ldie 0) addr.toNat (nonce s) } },
   { instr := .mgdbgnonce addr, ok := fun s => !s.chip.inMain addr.toNat 32, next := id },
   { instr := .mgdbgrec addr
     next := fun s => if !opens s then s.onTrust fun t => { t with nonce := none, dbgsts := 3 } else
       let c := s.chip
       { s with
         chip := {
           tick := c.tick, cycle := c.cycle, free := c.free, mem := (c.mem.renumber c.pkg 0).devicePart
           ras := { dies := c.ras.dies, ldie1 := c.ras.ldie1, hbmStacks := c.ras.hbmStacks, channels := c.ras.channels
                    links := c.ras.links, log := c.ras.log } }
         issue := none
         plat := {
           trust := { s.plat.trust with nonce := none, dbgsts := 2, unlocked := true, stage := 2, stageDone := true } } } }]

/-- Rows of the SBI calls that name a DTU's hart, 1024 to 1279 (R88): a start or stop is not supported, an IPI succeeds without
effect. -/
def sbiRows (hart : Nat) (start : Bool) : List EventRow :=
  let dtu (h : Nat) : Bool := decide (1024 ≤ h) && decide (h ≤ 1279)
  [{ instr := .sbiHartStartStop hart start, ok := fun _ => dtu hart, next := fun s => s.onTrust fun t => { t with sbi := some .notSupported } },
   { instr := .sbiIpi, ok := fun s => dtu s.subject, next := fun s => s.onTrust fun t => { t with sbi := some .success } }]

/-- A row of a step of another agent with a wide effect: when it has it, and what holds of the states before and after. -/
structure FactRow where
  instr : Instr
  ok : State → Bool := fun _ => true
  post : State → State → Prop

/-- The row says what the step leaves. -/
def FactRow.holds (r : FactRow) : Prop :=
  ∀ s : State, r.ok s = true → ∃ t, exec r.instr s = .next t ∧ r.post s t

/-- The failures and fences changed. -/
def State.onRas (s : State) (f : Ras → Ras) : State := { s with chip := { s.chip with ras := f s.chip.ras } }

/-- An event is in the management error log. -/
def State.logged (s : State) (kind : Nat) : State := s.onRas fun r => { r with log := kind :: r.log }

/-- Rows of the errors and temperatures (R13, R18-R22, R40, R41): a lane repair and a corrected error are logged, an error that
cannot be corrected poisons its granule, a hot stack is throttled and then fenced. -/
def rasRows (a b stack celsius ldie channel : Nat) (addr : Word) (found : ScrubResult) : List EventRow :=
  let temp (s : State) (h : BitVec 16) : State := s.onRas fun r => { r with temps := listSet r.temps stack celsius, halved := h }
  let bit := 1#16 <<< stack
  let mine (s : State) : Option Nat := match s.chip.mapped addr.toNat with
    | .main l => if l / 2 ^ 51 % 32 = s.chip.pkg && l / 2 ^ 48 % 8 ≠ 5 then some l else none
    | _ => none
  let met (s : State) : State := { s with chip := { s.chip with mem := { s.chip.mem with
    latent := s.chip.mem.latent.filter fun k => k.1 ≠ granuleOf ((mine s).getD 0) } } }
  [{ instr := .ucieLaneRepair a b, ok := fun _ => decide (a < 10) && decide (b < 10) && decide (a ≠ b)
     next := fun s => (s.logged 13).onRas fun r => { r with repairs := r.repairs + 1 } },
   { instr := .hbmStackFenced, ok := fun s => decide (s.subject < 16)
     next := fun s => s.onRas fun r => { r with hbmStacks := r.hbmStacks ||| (1#16 <<< s.subject) } },
   { instr := .stackTemperatureChange stack celsius, ok := fun _ => decide (stack < 16) && decide (celsius < 93)
     next := fun s => temp s (s.chip.ras.halved &&& ~~~bit) },
   { instr := .stackTemperatureChange stack celsius, ok := fun _ => decide (stack < 16) && decide (93 ≤ celsius) && decide (celsius ≤ 95)
     next := fun s => temp s s.chip.ras.halved },
   { instr := .stackTemperatureChange stack celsius, ok := fun _ => decide (stack < 16) && decide (95 < celsius) && decide (celsius ≤ 105)
     next := fun s => temp s (s.chip.ras.halved ||| bit) },
   { instr := .stackTemperatureChange stack celsius, ok := fun _ => decide (stack < 16) && decide (105 < celsius)
     next := fun s => (temp s (s.chip.ras.halved ||| bit)).onRas fun r => { r with hbmStacks := r.hbmStacks ||| bit } },
   { instr := .patrolScrub addr found, ok := fun s => (mine s).isSome
     next := fun s => match found with
       | .clean => s
       | .corrected => (met s).logged 19
       | .uncorrectable => let u := (met s).logged 19; { u with chip := u.chip.setPoison ((mine s).getD 0) } },
   { instr := .patrolScrub addr found, ok := fun s => (mine s).isNone, next := id },
   { instr := .lpddrChannelFailed ldie channel, ok := fun _ => decide (ldie < 2) && decide (channel < 16)
     next := fun s => s.onRas fun r => { r with channels := r.channels ||| (1#32 <<< (16 * ldie + channel)) } },
   { instr := .junctionAbove105, next := fun s => s.onRas fun r => { r with hot := r.hot ||| (1#10 <<< s.subject) } },
   { instr := .junctionBelow100, next := fun s => s.onRas fun r => { r with hot := r.hot &&& ~~~(1#10 <<< s.subject) } },
   { instr := .junctionAbove115
     next := fun s => { s.onTrust fun t => { t with power := .off, overTemp := true } with
       chip := { s.chip with mem := {}, threads := [], groups := [] } } },
   { instr := .powerCapExceeded, next := fun s => s.onRas fun r => { r with eighths := min 7 s.subject, slowed := true } },
   { instr := .lDie0Failure, next := fun s => s.onTrust fun t => { t with power := .off } }]

/-- A package with no grid and no block. -/
def Chip.idle (c : Chip) : Bool := c.disp.grids.isEmpty && c.disp.blocks.isEmpty

/-- No thread, group, engine operation or cached byte of a C-die is left (R20, R77, R170). -/
def State.withoutDie (s : State) (d : Nat) : Prop :=
  (∀ t ∈ s.chip.threads, t.onCompute = true → t.core / 80 ≠ d) ∧ (∀ g ∈ s.chip.groups, g.core / 80 ≠ d) ∧
  (∀ k ∈ s.chip.eng.copies, k.core / 80 ≠ d) ∧ (∀ k ∈ s.chip.eng.mats, k.core / 80 ≠ d) ∧
  (∀ l ∈ s.chip.mem.l1, l.core / 80 ≠ d) ∧ (∀ l ∈ s.chip.mem.icache, l.core / 80 ≠ d)

/-- A C-die is fenced, with both its stacks (R20, R77). -/
def Ras.fenced (r : Ras) (d : Nat) : Prop :=
  r.dies.getLsbD d = true ∧ r.hbmStacks.getLsbD (2 * d) = true ∧ r.hbmStacks.getLsbD (2 * d + 1) = true

/-- Rows of the fenced dies and die links (R15, R42, R77, R170). -/
def fenceDieRows (a b : Nat) : List FactRow :=
  let cut (s : State) : Ras := { s.chip.ras with links := s.chip.ras.links ++ [(min a b, max a b)] }
  [{ instr := .cDieFenced, ok := fun s => decide (s.subject < 8) && !s.chip.ras.dies.getLsbD s.subject
     post := fun s t => t.withoutDie s.subject ∧ (s.chip.idle = true → t.chip.ras.fenced s.subject) },
   { instr := .cDieFenced, ok := fun s => s.chip.ras.dies.getLsbD s.subject, post := fun s t => t = s },
   { instr := .lDie1Fenced, ok := fun s => !s.chip.ras.ldie1
     post := fun s t => t.chip.ras.ldie1 = true ∧ t.plat.trust.mirrorLost = true ∧
       (∀ u ∈ t.chip.threads, ∀ k, u.place ≠ .hart 1 k) ∧ (∀ h ∈ t.chip.harts, h.ldie ≠ 1) ∧
       (t.plat.trust.power = .stopped ∨ s.plat.trust.stage = 7) },
   { instr := .lDie1Fenced, ok := fun s => s.chip.ras.ldie1, post := fun s t => t = s },
   { instr := .dieLinkFenced a b, ok := fun s => linked a b && !s.chip.ras.cutLink a b
     post := fun s t => t = (({ s with chip := s.chip.setRas (cut s) } : State).interruptAll s.chip.ras (min a b, max a b)).fenceSevered ∧
       (s.chip.idle = true → (min a b, max a b) ∈ t.chip.ras.links ∧
         ∀ d, d < 8 → (cut s).severed d = true → t.chip.ras.dies.getLsbD d = true) },
   { instr := .dieLinkFenced a b, ok := fun s => !(linked a b && !s.chip.ras.cutLink a b), post := fun s t => t = s }]

/-! ## Homes -/

/-- No home holds or refuses a write-back, and none will while every dirty line of the package goes back (R35, R75, R76). -/
def Chip.calm (c : Chip) : Bool :=
  c.mem.parked.isEmpty && c.mem.dirBad.isEmpty && c.ras.cut.isEmpty && decide (c.mem.applied.length + c.mem.l1.length < 16384)

/-- Whether no core but one holds byte i of a line dirty. -/
def Chip.onlyDirty (c : Chip) (core line i : Nat) : Prop := ∀ l ∈ c.mem.l1, l.line = line → l.dirty.getLsbD i = true → l.core = core

/-- The dirty bytes that core held of a line have reached the L2s and homes: where it writes back alone every one of them, else those
that no other core held dirty. -/
def Chip.reached (c d : Chip) (core line : Nat) (alone : Bool) : Prop :=
  ∀ l, c.l1Line? core line = some l → ∀ i, i < 64 → l.dirty.getLsbD i = true → c.lostAt (64 * line + i) = false →
    (alone = true ∨ c.onlyDirty core line i) → d.getByte (64 * line + i) = lineByte l.data i

/-- A core's write-back of a line (R65, R69): where no home holds it up the line is clean, its dirty bytes are at the L2, and the
directory has the line in M at the core's die; where one does, either that or the core still holds it. -/
def State.written (s t : State) (core line : Nat) : Prop :=
  (s.chip.calm = true → t.chip.holdsDirty core line = false) ∧
  (Memory.wf s.chip.mem.bytes = true → t.chip.holdsDirty core line = false → s.chip.reached t.chip core line true) ∧
  (s.chip.calm = true → s.chip.holdsDirty core line = true →
    t.chip.dirEntry? line = some ⟨line, .m, some (agentOf core), []⟩)

/-- Rows of the write-backs of a core (R64-R66, R69, R139): an ownership notice that reaches the L2 recalls the previous owner of the
die; a line goes back after 256 ticks; an evicted copy is written back and gone; a recall leaves no dirty line. -/
def cacheFacts (core line : Nat) : List FactRow :=
  let under (s : State) : Bool := s.chip.mem.notices.contains (core, line)
  let old (s : State) : Bool := match s.chip.l1Line? core line with
    | some l => l.dirty ≠ 0 && decide (256 ≤ s.chip.tick - l.since)
    | none => false
  [{ instr := .ownershipNotice core line, ok := under
     post := fun s t =>
       (core, line) ∉ t.chip.mem.notices ∧
       (t.chip.holdsDirty core line = true → (core / 80, line, core) ∈ t.chip.mem.owned ∧
         ∀ k, (core / 80, line, k) ∈ t.chip.mem.owned → k = core) ∧
       (s.chip.calm = true → ∀ k, k / 80 = core / 80 → k ≠ core → t.chip.holdsDirty k line = false ∧
         (Memory.wf s.chip.mem.bytes = true → s.chip.reached t.chip k line false)) },
   { instr := .ownershipNotice core line, ok := fun s => !under s, post := fun s t => t = s },
   { instr := .dirtyAgeWriteback core line, ok := old, post := fun s t => s.written t core line },
   { instr := .dirtyAgeWriteback core line, ok := fun s => !old s, post := fun s t => t = s },
   { instr := .lineEviction (.core core) line
     post := fun s t => s.written t core line ∧ (s.chip.calm = true → t.chip.l1Line? core line = none) },
   { instr := .recallWriteback
     post := fun s t => s.chip.calm = true → ∀ k, t.chip.holdsDirty s.subject k = false ∧
       (Memory.wf s.chip.mem.bytes = true → s.chip.reached t.chip s.subject k false) }]

/-- Rows of the caches and directories (R65, R69, R71): a line that an agent or the directory gives up is recalled first; a reservation
ends after 1,024 ticks. -/
def cacheRows (core line : Nat) (a : Agent) : List EventRow :=
  let held (s : State) : DirEntry := (s.chip.dirEntry? line).getD default
  let has (s : State) : Bool := (s.chip.dirEntry? line).isSome && ((held s).owner = some a || (held s).sharers.contains a)
  -- the bytes recalled take the line in M first
  let now (s : State) : Chip := s.chip.recallFrom line (behind a)
  let entry (s : State) : DirEntry := ((now s).dirEntry? line).getD (held s)
  let rest (s : State) : List Agent := (entry s).sharers.filter (· ≠ a)
  let stays (s : State) : Bool := (now s).mem.l1.any fun l => l.line = line && l.dirty ≠ 0 && behind a l.core
  [{ instr := .lineEviction (.icache core) line
     next := fun s => { s with chip := { s.chip with mem := { s.chip.mem with
       icache := s.chip.mem.icache.filter fun l => !(l.core = core && l.line = line) } } } },
   { instr := .lineEviction (.agent a) line
     ok := fun s => has s && !stays s && (entry s).owner = some a
     next := fun s =>
       let e : Option DirEntry := if (rest s).isEmpty then none else some ⟨line, .s, none, rest s⟩
       { s with chip := (now s).setDir line e } },
   { instr := .lineEviction (.agent a) line
     ok := fun s => has s && !stays s && (entry s).owner ≠ some a
     next := fun s =>
       let e : Option DirEntry := if (rest s).isEmpty && (entry s).owner.isNone then none else some { entry s with sharers := rest s }
       { s with chip := (now s).setDir line e } },
   { instr := .lineEviction (.agent a) line, ok := fun s => has s && stays s, next := fun s => { s with chip := now s } },
   { instr := .lineEviction (.agent a) line, ok := fun s => !has s, next := id },
   { instr := .directoryEviction, ok := fun s => (s.chip.dirEntry? s.subject).isSome && !s.chip.recallWaits s.subject
     next := fun s => { s with chip := (s.chip.recallLine s.subject).setDir s.subject none } },
   { instr := .directoryEviction, ok := fun s => (s.chip.dirEntry? s.subject).isNone || s.chip.recallWaits s.subject, next := id },
   { instr := .reservationExpiry
     next := fun s => { s with chip := { s.chip with mem := { s.chip.mem with
       resv := s.chip.mem.resv.filter fun r => r.thread ≠ s.subject || decide (s.chip.tick < r.since + 1024) } } } }]

/-- An answer of a home. -/
def Chip.answered (c : Chip) (a : Answer) : Chip := { c with mem := { c.mem with answers := a :: c.mem.answers } }

/-- The memory system changed, and then the package. -/
def State.refit (s : State) (f : MemSys → MemSys) (g : Chip → Chip) : State := { s with chip := g { s.chip with mem := f s.chip.mem } }

/-- The register of the graph block that a foreign host's access names: through BAR 0 of a port in endpoint mode, bits 63:60 of its
address 0, an aligned offset below 0x100 (R38, R123; notes/assumptions/130). -/
def Chip.hostOffset (c : Chip) (r : Request) : Option (Nat × Nat) :=
  match r.agent with
  | .cxl l =>
    let p := c.pciePort l
    let o := r.addr.toNat
    if p.up && !p.fenced && p.endpoint && decide (o < 0x100) && decide (o % 8 = 0) then some (l, o) else none
  | _ => none

/-- Rows of the requests of other agents at a home (R38, R69, R70, R75, R76, R123): a foreign host reads and writes the graph block; an
inbound device's address is translated first; one
that was applied gets its recorded answer again and acts no second time; one to a line that waits, or whose data or entry a read
finds in error, is parked; a full queue and full applied records refuse it; a read is answered with the line, a store and an atomic
leave an applied record. -/
def requestRows (r : Request) (replay : Bool) (index : Nat) : List EventRow :=
  let came (s : State) : Option Request × Chip := s.chip.inbound r
  let req (s : State) : Request := (came s).1.getD r
  let loc (s : State) : Nat := ((came s).2.requestLoc (req s)).getD 0
  let c (s : State) : Chip := (came s).2.acknowledge r.agent s.subject
  let old (s : State) : Option Answer := (c s).mem.applied.find? fun a => !a.own && a.agent = r.agent && a.seq = r.seq
  let isAtomic := match r.op with | .atomic _ _ _ _ => true | _ => false
  let host (s : State) : Option (Nat × Nat) := if isAtomic then none else s.chip.hostOffset r
  let hostAt (s : State) : Nat := s.chip.pkg * 2 ^ 51 + 4 * 2 ^ 48 + 0x3000 + ((host s).map (·.2)).getD 0
  let here (s : State) : Bool := (host s).isNone && (came s).1.isSome && ((came s).2.requestLoc (req s)).isSome
  let isRead := r.op = .read
  let isWrite := match r.op with | .write _ => true | _ => false
  let new (s : State) : Bool := here s && (old s).isNone
  let waits (s : State) : Bool := new s && ((c s).lineHeld (loc s / 64) || (c s).dirFaulty (loc s / 64) ||
    (c s).recallWaits (loc s / 64) || (!isWrite && (c s).dataFaulty (loc s / 64)))
  let full (s : State) : Bool := decide (2048 ≤ (c s).parkedAt ((c s).homeOf (loc s)))
  let free (s : State) : Bool := new s && !waits s
  let home (s : State) : Agent := (c s).homeOf (loc s)
  let base (s : State) : Answer := { agent := r.agent, seq := r.seq, home := home s, value := 0, poison := (c s).poisonedAt (loc s) }
  let away (i : Instr) (kind : Bool) : EventRow := {
    instr := i, ok := fun s => kind && (host s).isNone && !here s, next := fun s => { s with chip := (came s).2 } }
  let again (i : Instr) (kind : Bool) : EventRow := {
    instr := i, ok := fun s => kind && here s && (old s).isSome
    next := fun s => { s with chip := (c s).answered ((old s).getD (base s)) } }
  let parks (i : Instr) (kind : Bool) : EventRow := {
    instr := i, ok := fun s => kind && waits s && !full s
    next := fun s => { s with chip := { c s with mem := { (c s).mem with
      parked := (c s).mem.parked ++ [{ req := req s, line := loc s / 64 }] } } } }
  let refused (i : Instr) (kind : Bool) : EventRow := {
    instr := i, ok := fun s => kind && ((waits s && full s) || (free s && !isRead && (c s).refuses (home s)))
    next := fun s => { s with chip := { c s with mem := { (c s).mem with retries := (c s).mem.retries ++ [(req s, (c s).tick)] } } } }
  let each (row : Instr → Bool → EventRow) : List EventRow :=
    [row (.directoryRead r) isRead, row (.directoryWrite r) isWrite, row (.homeAtomic r) isAtomic]
  let supported (s : State) : Bool := match r.op with
    | .atomic op w _ _ => atomicSupported (.main (loc s)) (atomicFamily op w)
    | _ => false
  let due (s : State) : Option Nat := match s.chip.mem.retries[s.subject]? with
    | some k => if k.1 = r then some (k.2 + 1000) else none
    | none => none
  let mine (s : State) : Option ParkedReq := s.chip.mem.parked[index]?
  let first (s : State) (p : ParkedReq) : Bool :=
    !((s.chip.mem.parked.take index).any fun k => k.line = p.line) && !s.chip.lineCut p.line
  each away ++ each again ++ each parks ++ each refused ++
  [{ instr := .directoryRead r, ok := fun s => isRead && (host s).isSome
     next := fun s => { s with chip := s.chip.answered {
       agent := r.agent, seq := r.seq, home := .ldie ((host s).getD (0, 0)).1, value := (s.ioLoad s.chip (hostAt s) 8).1, poison := false } } },
   { instr := .directoryWrite r, ok := fun s => isWrite && (host s).isSome
     next := fun s => { s with chip := match r.op with
       | .write data => if data.length = 8 && decide (s.chip.pkg < 32) then { s.chip with regWrites :=
           s.chip.regWrites ++ [(BitVec.ofNat 64 (hostAt s), BitVec.ofNat 64 (numOf data))] } else s.chip
       | _ => s.chip } },
   { instr := .directoryRead r, ok := fun s => isRead && free s
     next := fun s =>
       let d := ((c s).dirRead r.agent (loc s / 64)).ecc (loc s)
       { s with chip := d.answered { base s with value := (d.lineAt (loc s / 64) 64 0).toNat, poison := d.poisonedAt (loc s) } } },
   { instr := .directoryWrite r, ok := fun s => isWrite && free s && !(c s).refuses (home s)
     next := fun s => { s with chip := match r.op with
       | .write data => ((c s).byLines (loc s) data fun d l bs => d.homeStore (req s).agent l bs).recordApplied { base s with poison := false }
       | _ => s.chip } },
   { instr := .homeAtomic r, ok := fun s => free s && !(c s).refuses (home s) && supported s
     next := fun s => { s with chip := match r.op with
       | .atomic op w b cmp =>
         let x := (c s).atomicAt none none (.main (loc s)) (w / 8) fun v => atomicNew op w v b cmp
         x.2.2.recordApplied { base s with value := x.1, poison := x.2.1 }
       | _ => s.chip } },
   { instr := .homeAtomic r, ok := fun s => isAtomic && free s && !(c s).refuses (home s) && !supported s
     next := fun s => { s with chip := (c s).answered { base s with unsupported := true } } },
   { instr := .requestResend, ok := fun s => match due s with | some t => decide (t ≤ s.chip.tick) | none => false
     next := fun s => s.refit (fun m => { m with retries := removeAt m.retries s.subject }) fun d => match d.requestLoc r with
       | some l => d.receive r l false
       | none => d },
   { instr := .requestResend, ok := fun s => match due s with | some t => decide (s.chip.tick < t) | none => false, next := id },
   { instr := .faultQueueReplay index replay
     ok := fun s => match mine s with | some p => first s p && p.req = r && p.thread.isNone && !p.unit_ | none => false
     next := fun s => s.refit (fun m => { m with parked := removeAt m.parked index }) fun d =>
       let d := d.repairLine (match mine s with | some p => p.line | none => 0) replay
       match d.requestLoc r with
       | some l => (d.receive r l true).wakeParked
       | none => d.wakeParked },
   { instr := .faultQueueReplay index replay
     ok := fun s => match mine s with | some p => first s p && p.unit_ | none => false
     next := fun s => s.refit (fun m => { m with parked := removeAt m.parked index }) fun d =>
       (d.repairLine (match mine s with | some p => p.line | none => 0) replay).wakeParked },
   { instr := .faultQueueReplay index replay
     ok := fun s => match mine s with | some p => first s p && p.thread.isSome && !p.unit_ | none => false
     next := fun s => { s with chip :=
       (s.chip.repairLine (match mine s with | some p => p.line | none => 0) replay).wakeParked } },
   { instr := .faultQueueReplay index replay, ok := fun s => match mine s with | some p => !first s p | none => true, next := id }]

/-! ## The pod and the link -/

/-- The formation state changes. -/
def State.onPod (s : State) (f : Pod → Pod) : State := { s with plat := { s.plat with pod := f s.plat.pod } }

/-- Messages sent, the newest first. -/
def Pod.said (p : Pod) (ms : List PodMsg) : Pod := { p with sent := ms.reverse ++ p.sent }

/-- R55: the highest round seen. -/
def Pod.heardOf (p : Pod) (round : Nat) : Pod := { p with seen := max p.seen round }

/-- R55: follow a package in a round: acknowledge it, throw the image away. -/
def Pod.obeys (p : Pod) (leader round now : Nat) : Pod :=
  { p with
    state := .following, leader := leader, round := round, image := [], complete := false, acked := 0, dones := 0, heard := now
    sent := .ack leader round :: p.sent }

/-- R55: claim in a round at every package of the reachable set. -/
def Pod.claims (p : Pod) (round now : Nat) : Pod :=
  ({ p with state := .claiming, round := round, seen := max p.seen round, acked := 0, heard := now } : Pod).said
    (((List.range 32).filter p.reachable.getLsbD).map fun (d : Nat) => .claim d round)

/-- The state of formation while stage 6 is under way. -/
def State.podIs (s : State) (q : PodState) : Bool :=
  s.plat.trust.stage = 6 && !s.plat.trust.stageDone && s.plat.pod.state = q

/-- Rows of pod formation (R54-R56), state by state of R55's table. -/
def podRows (f round leader : Nat) (bytes : List Byte) (last : Bool) : List EventRow :=
  let pod (s : State) : Pod := s.plat.pod
  let under (s : State) : Bool := s.podIs .following || s.podIs .loading
  let ours (s : State) : Bool := f = (pod s).leader && round = (pod s).round
  let got (s : State) : List Byte := if (pod s).state = .following || (pod s).complete then bytes else (pod s).image ++ bytes
  let kept (s : State) (now : Nat) : Pod := { pod s with state := .loading, heard := now, complete := false, image := got s }
  let reach (s : State) : BitVec 32 := maskOf (s.routed.filter fun d => (s.plat.link.portTo d).isSome)
  let settled (s : State) : Bool := s.podIs .solo && decide (1000000000 ≤ s.chip.tick - (pod s).since)
  let waited (s : State) (n : Nat) : Bool := decide (n ≤ s.chip.tick - (pod s).heard)
  let all (m : BitVec 32) : List Nat := (List.range 32).filter m.getLsbD
  let forms (s : State) (p : Pod) : State :=
    s.join (p.said ((all p.reachable).map fun (d : Nat) => .formed d p.round)) (withPkg p.reachable p.self)
  let doneOf (s : State) : Pod := { pod s with dones := withPkg (pod s).dones f }
  let lostOf (s : State) : Pod := { pod s with reachable := withoutPkg (pod s).reachable s.subject }
  let left (p : Pod) : BitVec 32 := p.reachable &&& ~~~p.dones
  let hears (s : State) : State := s.onPod fun p => if f = p.leader then { p with heard := s.chip.tick } else p
  let alone (s : State) : Pod :=
    { pod s with image := [], complete := false, leader := 0xFFFF_FFFF, reachable := withoutPkg (pod s).reachable (pod s).leader }
  let isDone (s : State) (q : PodState) : Bool := (pod s).state = q && round = (pod s).round && (pod s).reachable.getLsbD f
  [{ instr := .reachableSetFixed, ok := fun s => settled s && reach s = 0
     next := fun s => s.onTrust fun t => { t with i2c := (6#8, failCode 6), code := failCode 6, stageDone := true } },
   { instr := .reachableSetFixed, ok := fun s => settled s && reach s ≠ 0
     next := fun s => s.onPod fun p => ({ p with reachable := reach s } : Pod).claims 1 s.chip.tick },
   { instr := .formationClaim f round, ok := fun s => s.podIs .claiming && decide (f < (pod s).self) && decide ((pod s).round ≤ round)
     next := fun s => s.onPod fun p => (p.heardOf round).obeys f round s.chip.tick },
   { instr := .formationClaim f round, ok := fun s => s.podIs .claiming && decide (f < (pod s).self) && decide (round < (pod s).round)
     next := fun s => s.onPod fun p => p.heardOf round },
   { instr := .formationClaim f round, ok := fun s => s.podIs .claiming && decide ((pod s).self < f) && decide ((pod s).round < round)
     next := fun s => s.onPod fun p => (p.heardOf round).claims round s.chip.tick },
   { instr := .formationClaim f round, ok := fun s => s.podIs .claiming && decide ((pod s).self < f) && decide (round ≤ (pod s).round)
     next := fun s => s.onPod fun p => (p.heardOf round).said [.claim f p.round] },
   { instr := .formationClaim f round, ok := fun s => s.podIs .leading && decide (f < (pod s).self) && decide ((pod s).round ≤ round)
     next := fun s => s.onPod fun p => (p.heardOf round).obeys f round s.chip.tick },
   { instr := .formationClaim f round, ok := fun s => s.podIs .following && decide (f < (pod s).leader) && decide ((pod s).round ≤ round)
     next := fun s => s.onPod fun p => (p.heardOf round).obeys f round s.chip.tick },
   { instr := .formationClaim f round, ok := fun s => (pod s).state = .member
     next := fun s => s.onPod fun p => (p.heardOf round).said [.reply f p.round p.leader] },
   { instr := .acknowledgement f round
     ok := fun s => s.podIs .claiming && round = (pod s).round && ((pod s).reachable &&& ~~~(withPkg (pod s).acked f)) = 0
     next := fun s => s.onPod fun p =>
       ({ p with state := .leading, leader := p.self, acked := withPkg p.acked f, dones := 0 } : Pod).said
         ((all p.reachable).map fun (d : Nat) => .image d round) },
   { instr := .acknowledgement f round
     ok := fun s => s.podIs .claiming && round = (pod s).round && ((pod s).reachable &&& ~~~(withPkg (pod s).acked f)) ≠ 0
     next := fun s => s.onPod fun p => { p with acked := withPkg p.acked f } },
   { instr := .acknowledgement f round
     ok := fun s => (pod s).state = .member && (pod s).leader = (pod s).self && round = (pod s).round && !(pod s).members.getLsbD f
     next := fun s => s.onPod fun p => ({ p with reachable := withPkg p.reachable f } : Pod).said [.image f round] },
   { instr := .memberReply f round leader, ok := fun s => s.podIs .claiming && decide ((pod s).round ≤ round)
     next := fun s => s.onPod fun p => (p.heardOf round).obeys leader round s.chip.tick },
   { instr := .image f round bytes last, ok := fun s => under s && ours s
     next := fun s =>
       let k := kept s s.chip.tick
       s.onPod fun p => if !last then k
         else if shake256 (got s) = p.manifest then ({ k with complete := true } : Pod).said [.done f round]
         else ({ k with image := [] } : Pod).said [.again f round] },
   { instr := .image f round bytes last, ok := fun s => under s && !ours s, next := hears },
   -- whatever else its leader says is heard too
   { instr := .memberReply f round leader, ok := under, next := hears },
   { instr := .acknowledgement f round, ok := under, next := hears },
   { instr := .formed f round, ok := fun s => s.podIs .following || (s.podIs .loading && !ours s), next := hears },
   { instr := .formationClaim f round, ok := fun s => s.podIs .loading
     next := fun s => hears (s.onPod fun p => p.heardOf round) },
   { instr := .formationDone f round, ok := fun s => isDone s .leading && left (doneOf s) = 0
     next := fun s => forms (s.onPod fun _ => doneOf s) (doneOf s) },
   { instr := .formationDone f round, ok := fun s => isDone s .leading && left (doneOf s) ≠ 0
     next := fun s => s.onPod fun _ => doneOf s },
   { instr := .formationDone f round
     ok := fun s => isDone s .member && (pod s).leader = (pod s).self && !(pod s).members.getLsbD f
     next := fun s => s.join ((pod s).said [.formed f round]) (withPkg (pod s).members f) },
   { instr := .formed f round, ok := fun s => s.podIs .loading && ours s
     next := fun s =>
       let t := s.join (pod s) (withPkg (withPkg (pod s).reachable (pod s).self) f)
       { t with plat := { t.plat with link := { s.plat.link with synced := false, slewing := false } } } },
   { instr := .claimResend, ok := fun s => s.podIs .claiming && waited s 100000000
     next := fun s => s.onPod fun p => ({ p with heard := s.chip.tick } : Pod).said
       ((all (p.reachable &&& ~~~p.acked)).map fun (d : Nat) => .claim d p.round) },
   { instr := .leaderSilence, ok := fun s => under s && waited s 2000000000 && (alone s).reachable ≠ 0
     next := fun s => s.onPod fun p => (alone s).claims (max p.seen p.round + 1) s.chip.tick },
   -- with no package left that it reaches, it runs as a pod of one (notes/assumptions/134)
   { instr := .leaderSilence, ok := fun s => under s && waited s 2000000000 && (alone s).reachable = 0
     next := fun s => (s.onPod fun _ => { alone s with state := .solo }).onTrust fun t =>
       { t with i2c := (6#8, failCode 6), code := failCode 6, stageDone := true } },
   { instr := .followerRouteLost, ok := fun s => s.podIs .leading && left (lostOf s) ≠ 0
     next := fun s => s.onPod fun _ => lostOf s },
   { instr := .followerRouteLost, ok := fun s => s.podIs .leading && left (lostOf s) = 0
     next := fun s => forms (s.onPod fun _ => lostOf s) (lostOf s) }]

/-- One port of the link changed. -/
def State.onPort (s : State) (n : Nat) (f : Port → Port) : State :=
  { s with plat := { s.plat with link := { s.plat.link with ports := listSet s.plat.link.ports n (f (s.plat.link.ports.getD n {})) } } }

/-- R30, R31: what a flit in sequence does to its port: progress, the flits that its `ack` names leave the replay buffer, and its
pause holds for 256 ns. -/
def Port.advanced (p : Port) (f : Flit) (now : Nat) : Port :=
  { p with
    recvSeq := p.recvSeq + 1, retry := none, retries := 0, replay := freeAcked f.ack p.replay
    pausedTo := if f.pause then now + 256 else p.pausedTo }

/-- R31: a retry request names the flit that is expected. -/
def Link.complains (l : Link) (p : Port) : Port :=
  let header := flitHeader p.sendSeq (p.recvSeq - 1) 2 p.full
  let payload := flitPayload [p.recvSeq.toNat]
  let f : Flit := { header := header, payload := payload, crc := l.crcOf header payload, msgs := [] }
  { p with
    retry := some p.recvSeq, retries := p.retries + 1, sendSeq := p.sendSeq + 1, replay := p.replay ++ [f], wire := f :: p.wire }

/-- A port changed, and what waits at it leaves as it may (R30-R32). -/
def State.flowsAt (s : State) (n : Nat) (f : Port → Port) : State :=
  let u := s.onPort n f
  { u with plat := { u.plat with link := u.plat.link.pumpPort s.chip.tick n } }

/-- Rows of the flits (R30-R36): a flit out of sequence, with a bad CRC, of a reserved type or without room is answered with a retry
request, and has no other effect; one in sequence acts by its type. -/
def flitRows (n : Nat) (f : Flit) (expected : BitVec 16) (leaderTick : Nat) : List EventRow :=
  let port (s : State) : Port := s.plat.link.ports.getD n {}
  let up (s : State) : Bool := decide (n < 8) && (port s).state = .up
  let sound (s : State) : Bool :=
    s.plat.link.crcOk f && f.seq = (port s).recvSeq &&
      !(f.ftype = 1 && f.msgs.any fun m => decide (inboundRoom ≤ classIn (port s).inbox (hopClass m)))
  let good (s : State) : Bool := up s && sound s
  let again (i : Instr) (k : Bool) : EventRow := {
    instr := i, ok := fun s => k && up s && !sound s, next := fun s => s.onPort n s.plat.link.complains }
  let taken (s : State) : State := s.flowsAt n fun (p : Port) => p.advanced f s.chip.tick
  let leads (s : State) : Bool := s.chip.members = 0 || s.plat.pod.leader = s.plat.pod.self
  let follow (s : State) (tick : Nat) (slews : Bool) : State :=
    let u := taken s
    let near := decide (tick ≤ leaderTick + 20) && decide (leaderTick ≤ tick + 20)
    let l := { u.plat.link with synced := near, slewing := slews && !near, gain := leaderTick - tick, lag := tick - leaderTick }
    { u with chip := { u.chip with tick := tick }, plat := { u.plat with link := l } }
  [again (.idleFlit n f) (f.ftype = 0), again (.dataFlit n f) (f.ftype = 1), again (.retryRequest n f expected) (f.ftype = 2),
   again (.retrainMarker n f) (f.ftype = 3), again (.timebaseFlit n f leaderTick) (f.ftype = 4),
   { instr := .dataFlit n f, ok := fun s => decide (5 ≤ f.ftype.toNat) && up s
     next := fun s => s.onPort n s.plat.link.complains },
   { instr := .idleFlit n f, ok := fun s => f.ftype = 0 && good s, next := taken },
   { instr := .dataFlit n f, ok := fun s => f.ftype = 1 && good s
     next := fun s => (taken s).onPort n fun (p : Port) => { p with inbox := p.inbox ++ f.msgs } },
   { instr := .retryRequest n f expected, ok := fun s => f.ftype = 2 && good s
     next := fun s => (taken s).onPort n fun (p : Port) =>
       { p with wire := (p.replay.dropWhile fun (k : Flit) => k.seq ≠ expected).reverse ++ p.wire } },
   { instr := .retrainMarker n f, ok := fun s => f.ftype = 3 && good s
     next := fun s => (taken s).onPort n fun (p : Port) => { p with state := .training, since := s.chip.tick } },
   { instr := .timebaseFlit n f leaderTick, ok := fun s => f.ftype = 4 && good s && leads s, next := taken },
   { instr := .timebaseFlit n f leaderTick, ok := fun s => f.ftype = 4 && good s && !leads s && !s.plat.link.slewing
     next := fun s => follow s (max s.chip.tick leaderTick) false },
   { instr := .timebaseFlit n f leaderTick, ok := fun s => f.ftype = 4 && good s && !leads s && s.plat.link.slewing
     next := fun s => follow s s.chip.tick true }]

/-- Rows of the ports (R32, R34): retraining, its end, and the end of a pause. -/
def portRows (n : Nat) (cause : RetrainCause) : List EventRow :=
  let port (s : State) : Port := s.plat.link.ports.getD n {}
  let up (s : State) : Bool := decide (n < 8) && (port s).state = .up
  let mine (s : State) : Bool := s.subject = n && decide (n < 8)
  let late (s : State) : Bool := decide (5000000 < s.chip.tick - (port s).since)
  [{ instr := .retrain n cause, ok := fun s => up s && (cause ≠ .sixteenRetries || decide (16 ≤ (port s).retries))
     next := fun s => s.onPort n fun (p : Port) => { p with state := .training, since := s.chip.tick } },
   { instr := .retrain n cause, ok := fun s => up s && cause = .sixteenRetries && decide ((port s).retries < 16), next := id },
   { instr := .retrainComplete, ok := fun s => mine s && (port s).state = .training && !late s
     next := fun s => s.flowsAt n fun (p : Port) =>
       { p with state := .up, retries := 0, retry := none, wire := p.replay.reverse ++ p.wire } },
   { instr := .retrainComplete, ok := fun s => mine s && (port s).state = .training && late s, next := fun s => s.dropPort n },
   { instr := .retrainComplete, ok := fun s => mine s && (port s).state ≠ .training, next := id },
   { instr := .pauseExpiry, ok := fun s => mine s && (port s).pausedTo ≠ 0 && decide ((port s).pausedTo ≤ s.chip.tick)
     next := fun s => s.flowsAt n fun (p : Port) => { p with pausedTo := 0 } }]

/-- What becomes of a message that a port has received (R33): one for this package acts here, unless it came before (R35); one that has
made two hops is not sent on; any other goes on one hop farther where its next port has room for its class, and waits where it has none. -/
def State.forwards (s : State) (n : Nat) (m : LinkMsg) : Prop :=
  let out := s.onPort n fun (p : Port) => { p with inbox := p.inbox.erase m }
  let go := { m with hop := m.hop + 1 }
  (m.dest = s.chip.pkg → (m.source, m.ident) ∈ s.plat.link.taken → s.takeMsg n m = some out) ∧
  (m.dest = s.chip.pkg → (m.source, m.ident) ∉ s.plat.link.taken → ∃ v, s.takeMsg n m = some v ∧
    v.chip = s.chip.takeBody m.source m.body ∧ v.plat.link.taken = (m.source, m.ident) :: s.plat.link.taken) ∧
  (m.dest ≠ s.chip.pkg → 2 ≤ m.hop → ∃ v, s.takeMsg n m = some v ∧ v.chip = s.chip.logEvent 33 ∧
    v.plat.link.misrouted = s.plat.link.misrouted + 1) ∧
  (m.dest ≠ s.chip.pkg → m.hop < 2 → ∀ k r, out.plat.link.routed go = some (k, r) →
    s.takeMsg n m = if (out.plat.link.port k).takes r
      then some { out with plat := { out.plat with link := out.plat.link.queueAt s.chip.tick k r } } else none)

/-- Rows of a lost port or package and of a returned route (R34, R35, R36, R170). -/
def lossRows (n : Nat) : List FactRow :=
  let port (s : State) : Port := s.plat.link.ports.getD n {}
  let mine (s : State) : Bool := s.subject = n && decide (n < 8) && (port s).state = .training
  let since (s : State) : Option Nat := (s.chip.ras.cut.find? fun (k : Nat × Nat) => k.1 = s.subject).map (·.2)
  let backs (s : State) : Bool := s.chip.ras.cut.any fun (k : Nat × Nat) => k.1 = s.subject && decide (s.chip.tick - k.2 < 100000000)
  [{ instr := .portDown, ok := fun s => mine s && decide (s.chip.tick - (port s).since ≤ 5000000), post := fun s t => t = s },
   { instr := .portDown, ok := fun s => mine s && decide (n < s.plat.link.ports.length) && decide (5000000 < s.chip.tick - (port s).since)
     post := fun s t => (port t).state = .down ∧ (port t).queue = [] ∧ (port t).replay = [] ∧
       ∀ p, p < 32 → p ≠ s.chip.pkg → s.chip.members.getLsbD p = true → t.plat.link.portTo p = none →
         s.chip.ras.lost.getLsbD p = false → ∃ k, (p, k) ∈ t.chip.ras.cut },
   { instr := .packageLost, ok := fun s => match since s with | some k => decide (s.chip.tick - k < 100000000) | none => true
     post := fun s t => t = s },
   { instr := .packageLost
     ok := fun s => decide (s.subject < 32) && (match since s with | some k => decide (100000000 ≤ s.chip.tick - k) | none => false)
     post := fun s t => (s.chip.disp.grids.isEmpty = true → t.chip.ras.lost.getLsbD s.subject = true ∧ (∀ k ∈ t.chip.ras.cut, k.1 ≠ s.subject) ∧
         (∀ e ∈ t.chip.mem.dir, e.owner ≠ some (.pkg s.subject) ∧ (.pkg s.subject) ∉ e.sharers)) ∧
       (∀ m ∈ t.plat.link.stranded, m.dest ≠ s.subject) },
   { instr := .routeReturn, ok := backs
     post := fun s t => (∀ k ∈ t.chip.ras.cut, k.1 ≠ s.subject) ∧ ∀ u ∈ t.chip.threads, ∀ l, u.wait ≠ .homePark l },
   { instr := .routeReturn, ok := fun s => !backs s, post := fun s t => t = s }]

/-! ## Device registers and translation -/

/-- The package changed. -/
def State.onChip (s : State) (f : Chip → Chip) : State := { s with chip := f s.chip }

/-- A translation unit changed. -/
def State.onUnit (s : State) (u : Nat) (f : Unit_ → Unit_) : State := s.onChip fun c => c.setUnit u (f (c.unit u))

/-- The thread and graph registers changed. -/
def State.onDev (s : State) (f : DevRegs → DevRegs) : State := s.onChip fun c => { c with dev := f c.dev }

/-- The written fields of the registers of the translation units (R100): offset in the unit, and what changes. Units 8 and 9, the
L-dies', have no fault ring. -/
def unitFields (u : Nat) (v : Word) : List (Nat × (Unit_ → Unit_)) :=
  let fault : List (Nat × (Unit_ → Unit_)) := [
    (0x50, fun x => { x with frbase := v }), (0x58, fun x => { x with frsize := v.setWidth 5 }),
    (0x68, fun x => { x with frcons := v.setWidth 32 })]
  [(0x00, fun x => { x with zpbase := v }),
   (0x08, fun x => { x with zplow := v.extractLsb' 16 16, zpsize := v.setWidth 5 }),
   (0x10, fun x => { x with zpprod := v.setWidth 32 }), (0x20, fun x => { x with zlbase := v }),
   (0x28, fun x => { x with zlsize := v.setWidth 5 }), (0x38, fun x => { x with zlcons := v.setWidth 32 }),
   (0x40, fun x => { x with zmsiaddr := v }), (0x48, fun x => { x with zmsidata := v.setWidth 32 })] ++
  if u < 8 then fault else []

/-- The written fields of the registers of the thread and graph blocks (R124, R172, R236). -/
def devFields (v : Word) : List (Nat × (DevRegs → DevRegs)) :=
  let ring (l : Nat) : List (Nat × (DevRegs → DevRegs)) := [
    (0x2100 + 0x40 * l, fun d => { d with arbase := listSet d.arbase l v }),
    (0x2108 + 0x40 * l, fun d => { d with arsize := listSet d.arsize l (v.setWidth 4) }),
    (0x2118 + 0x40 * l, fun d => { d with arcons := listSet d.arcons l (v.setWidth 32) }),
    (0x2120 + 0x40 * l, fun d => { d with armsiaddr := listSet d.armsiaddr l v }),
    (0x2128 + 0x40 * l, fun d => { d with armsidata := listSet d.armsidata l (v.setWidth 32) })]
  ring 0 ++ ring 1 ++
  [(0x2180, fun d => { d with jobbase := v }), (0x2188, fun d => { d with jobsize := v.setWidth 5 }),
   (0x2190, fun d => { d with svbase := v }), (0x2198, fun d => { d with svsize := v.extractLsb' 12 28 }),
   (0x3000, fun d => { d with grstage := v }), (0x3028, fun d => { d with grmsiaddr := v }),
   (0x3030, fun d => { d with grmsidata := v.setWidth 32 })]

/-- Registers of the register blocks that a write does not change (R4, R57, R100, R124, R172, R236). -/
def readOnly : List Nat :=
  [0x000, 0x008, 0x010, 0x030, 0x048, 0x1008, 0x2000, 0x2110, 0x2150, 0x21A0, 0x21B0, 0x3010, 0x3020] ++
  (List.range 10).flatMap fun u => [0x18, 0x30, 0x60, 0x78].map fun r => 0x1100 + 0x80 * u + r

/-- Rows of the plain register writes (R4): each register takes its written fields; a read-only one ignores the write. -/
def registerRows (addr v : Word) : List EventRow :=
  let row (o : Nat) (next : State → State) : EventRow := {
    instr := .registerWrite addr v, ok := fun s => s.chip.isReg addr.toNat && regOff addr.toNat = o, next := next }
  let unit (u : Nat) : List EventRow := (unitFields u v).map fun (k : Nat × (Unit_ → Unit_)) =>
    row (0x1100 + 0x80 * u + k.1) fun s => s.onUnit u k.2
  [row 0x020 fun s => s.onTrust fun t => { t with attdst := v },
   row 0x028 fun s => s.onTrust fun t => { t with attsts := t.attsts &&& ~~~(v.setWidth 2) },
   row 0x1010 fun s => s.onChip fun c => { c with xl := { c.xl with leasersw := v.getLsbD 0 } },
   { instr := .registerWrite addr v, ok := fun s => !s.chip.isReg addr.toNat, next := id }] ++
  (List.range 10).flatMap unit ++ (devFields v).map (fun k => row k.1 fun s => s.onDev k.2) ++ readOnly.map fun o => row o id

/-- The registers whose write starts an action of the device, with the step that it starts (R45, R50, R87, R114, R125, R126, R225). -/
def startRows (v : Word) : List (Nat × Instr) :=
  [(0x018, .mgattreq v), (0x038, .mgdbgnonce v), (0x040, .mgdbgrec v), (0x1000, .trgen v), (0x2040, .recall v), (0x21A8, .preempt v),
   (0x3008, .grupload v), (0x3018, .grkick v)]

/-- What a write of a register of this package comes to: it is the next step of the device, ahead of the others. A register of that table
starts its step; FRRESUME retries or migrates the waiters of its record, and does nothing with another action (R99); any other takes the
value as a plain write. -/
def registerStarts : Prop :=
  ∀ (s : State) (addr v : Word), s.chip.regWrites = [(addr, v)] →
    let off := addr.toNat % 2 ^ 40
    let starts (ks : List Instr) : Prop := s.deliverMsis = { s with
      agenda := ks.map (fun k => (k, s.subject)) ++ s.agenda, chip := { s.chip with regWrites := [] } }
    let resume (u : Nat) : Prop := off = 0x1170 + 0x80 * u
    (∀ p ∈ startRows v, off = p.1 → starts [p.2]) ∧
    (∀ u, u < 8 → resume u →
      starts (match v.toNat % 4 with
        | 0 => [.frresumeRetry u (v.toNat / 2 ^ 32 % 2 ^ 16)]
        | 1 => [.frresumeMigrate u (v.toNat / 2 ^ 32 % 2 ^ 16)]
        | _ => [])) ∧
    (off ∉ (startRows v).map Prod.fst → (∀ u, u < 8 → ¬ resume u) → starts [.registerWrite addr v])

/-- What a load of a device register of this package reads, by its offset in region 4 (R57, R123). -/
def State.register (s : State) (off : Nat) : Nat := (s.ioLoad s.chip (s.chip.pkg * 2 ^ 51 + 4 * 2 ^ 48 + off) 8).1

/-- What the registers read at reset (R57, R100, R124, R172, R236): the leader is no package, the ring sizes are 6 and 4, the feature mask
is the device's own, and all others read zero. MGSERIAL is no value of this list. -/
def resetReads : List (Nat × Nat) :=
  let zeros (l : List Nat) : List (Nat × Nat) := l.map fun o => (o, 0)
  let unit (u : Nat) : List (Nat × Nat) :=
    let b := 0x1100 + 0x80 * u
    zeros ([0x00, 0x10, 0x18, 0x20, 0x30, 0x38, 0x40, 0x48, 0x50, 0x60, 0x68, 0x70, 0x78].map (b + ·)) ++
    [(b + 0x08, 6), (b + 0x28, 6), (b + 0x58, if u < 8 then 6 else 0)]
  let ring (b : Nat) : List (Nat × Nat) := zeros ([0x00, 0x10, 0x18, 0x20, 0x28].map (b + ·)) ++ [(b + 0x08, 4)]
  zeros [0x008, 0x018, 0x020, 0x028, 0x030, 0x038, 0x040, 0x048] ++ [(0x010, 0xFFFF_FFFF)] ++ zeros [0x1000, 0x1008, 0x1010] ++
  (List.range 10).flatMap unit ++ [(0x2000, 0x1FF_FFFF)] ++ zeros [0x2008, 0x2010, 0x2018, 0x2020, 0x2028, 0x2030, 0x2038, 0x2040] ++
  ring 0x2100 ++ ring 0x2140 ++
  zeros [0x2180, 0x2188, 0x2190, 0x2198, 0x21A0, 0x21A8, 0x21B0, 0x3000, 0x3008, 0x3010, 0x3018, 0x3020, 0x3028, 0x3030]

/-- The CSRs of a thread of a latency core that holds no grid thread, and of one that has not written them, at reset (R102, R222, R264,
R266): tstat to tprio and tsafe, the hook's registers, the modes and the flags. -/
def resetCsrs : List (Nat × Word) :=
  [(1, 0), (2, 0), (3, 0), (0x800, 0), (0x801, 512), (0x802, 0), (0x803, 0), (0x804, 0), (0x805, 0), (0x806, 0), (0x807, 0), (0x809, 0),
   (0x80A, 0x4_0000_0000_0000), (0x80B, 0), (0x80C, 0), (0x80D, 0), (0x80E, 0), (0x80F, 0)]

/-- Rows of the walks, fault records and page pools (R93, R94, R97-R99, R410). -/
def unitRows (u record : Nat) : List EventRow :=
  let mine (s : State) : Bool := s.subject = u
  let known (s : State) : Bool := (s.chip.unit u).records.any fun (r : FaultRec) => r.number = record
  let ids (s : State) : List Nat := (s.chip.threads.filter fun (t : Thread) => t.wait = .parked u record).map (·.id)
  let entry (s : State) : Nat :=
    let x := s.chip.unit u
    x.zpbase.toNat + 8 * (x.zpcons.toNat % 2 ^ ringLog x.zpsize.toNat)
  let feeds (s : State) : Bool :=
    let x := s.chip.unit u
    mine s && decide (u < 10) && x.zpprod ≠ x.zpcons && decide (x.reserve.length < 64) &&
      s.chip.ringUsable x.zpbase.toNat (8 * 2 ^ ringLog x.zpsize.toNat) && s.chip.entryClean (entry s) 8
  let blocked (s : State) : Bool :=
    let x := s.chip.unit u
    mine s && decide (u < 10) && x.zpprod ≠ x.zpcons && decide (x.reserve.length < 64) &&
      !(s.chip.ringUsable x.zpbase.toNat (8 * 2 ^ ringLog x.zpsize.toNat) && s.chip.entryClean (entry s) 8)
  let read (s : State) : Nat × Bool × Chip := (s.chip.ringSeen (3 * u) true).agentLoad (unitAgent u) (entry s) 8
  let after (s : State) : Unit_ := { (read s).2.2.unit u with zpcons := (s.chip.unit u).zpcons + 1 }
  let recAt (s : State) : Nat :=
    let x := s.chip.unit u
    x.frbase.toNat + 32 * (x.frprod.toNat % 2 ^ ringLog x.frsize.toNat)
  let recs (s : State) : Nat := 2 ^ ringLog (s.chip.unit u).frsize.toNat
  let due (s : State) : Bool := mine s && decide (u < 8) && (s.chip.unit u).records.any fun r => !r.written
  let ringOk (s : State) : Bool := s.chip.ringUsable (s.chip.unit u).frbase.toNat (32 * recs s) && s.chip.entryClean (recAt s) 32
  let roomy (s : State) : Bool := decide (((s.chip.unit u).frprod - (s.chip.unit u).frcons).toNat < recs s)
  let writes (s : State) : Bool := due s && ringOk s && roomy s
  let rec_ (s : State) : FaultRec := ((s.chip.unit u).records.find? fun r => !r.written).getD default
  let wrote (s : State) : Chip :=
    let c := (s.chip.ringSeen (3 * u + 2) true).agentStore (unitAgent u) (recAt s) (faultBytes (rec_ s))
    let mark (k : FaultRec) : FaultRec := if k.number = (rec_ s).number then { k with written := true } else k
    let y := c.unit u
    c.setUnit u { y with frprod := y.frprod + 1, records := y.records.map mark }
  let empty (s : State) : Bool := (s.chip.unit u).frprod = (s.chip.unit u).frcons
  [{ instr := .frresumeRetry u record, ok := known
     next := fun s => s.onChip fun c =>
       let go (t : Thread) : Thread := { t with wait := .ready }
       ((ids s).foldl (fun c i => c.onThread i go) ((c.dropRecord u record).retryHead u record)).retryHead u 65536 },
   { instr := .frresumeRetry u record, ok := fun s => !known s, next := id },
   { instr := .frresumeMigrate u record, ok := known
     next := fun s => s.onChip fun c =>
       let go (t : Thread) : Thread := { t with wait := .moving .frresume 0 0 0, waitSince := s.chip.tick }
       ((ids s).foldl (fun c i => c.onThread i go) ((c.dropRecord u record).abandonHead u record)).retryHead u 65536 },
   { instr := .frresumeMigrate u record, ok := fun s => !known s, next := id },
   { instr := .walk, ok := fun s => mine s && (s.chip.nextWalk u).isSome
     next := fun s => match s.chip.nextWalk u with
       | none => s
       | some m =>
         let w := s.chip.walk ⟨u, m.ctx, m.mode, true, m.acc, false, m.va, false⟩ (.die u) m.va
         s.onChip fun _ => match w.1 with
           | .inl e => w.2.onMiss u m.id fun k => { k with done := some (.inl e) }
           | .inr f => if f.cause = 0 then w.2 else w.2.onMiss u m.id fun k => { k with done := some (.inr (f.cause, f.gpa, f.flags)) } },
   { instr := .walk, ok := fun s => mine s && (s.chip.nextWalk u).isNone, next := id },
   { instr := .walkComplete, ok := fun s => mine s && (s.chip.unit u).misses.any fun m => m.done.isSome
     next := fun s => match (s.chip.unit u).misses.find? fun m => m.done.isSome with
       | some m => s.onChip fun c => c.answerMiss u m
       | none => s },
   { instr := .walkComplete, ok := fun s => mine s && !(s.chip.unit u).misses.any fun m => m.done.isSome, next := id },
   { instr := .poolFeed, ok := fun s => mine s && (s.chip.unit u).zpprod = (s.chip.unit u).zpcons, next := fun s => s },
   { instr := .poolFeed, ok := blocked, next := fun s => s.onChip fun c => c.ringSeen (3 * u) false },
   { instr := .poolFeed, ok := fun s => feeds s && (read s).2.2.frameOk (read s).1
     next := fun s =>
       let frame := bits 43 0 (read s).1
       let c := (read s).2.2.setUnit u { after s with reserve := (after s).reserve ++ [frame] }
       s.onChip fun _ => c.agentStore (unitAgent u) (frame * 4096) (List.replicate 4096 0) },
   { instr := .poolFeed, ok := fun s => feeds s && !(read s).2.2.frameOk (read s).1
     next := fun s =>
       let c := (read s).2.2
       let n := if (after s).badfrm = 0xFFFF then (after s).badfrm else (after s).badfrm + 1
       s.onChip fun _ => (c.setUnit u { after s with badfrm := n }).poolLow u (c.unit u).frames (c.logFree u) },
   { instr := .faultRecordWrite, ok := fun s => writes s && !empty s, next := fun s => s.onChip fun _ => wrote s },
   { instr := .faultRecordWrite, ok := fun s => writes s && empty s
     next := fun s => s.onChip fun _ => (wrote s).sendMsi (s.chip.unit u).zmsiaddr (s.chip.unit u).zmsidata },
   { instr := .faultRecordWrite, ok := fun s => due s && ringOk s && !roomy s
     next := fun s => s.onChip fun c => c.ringSeen (3 * u + 2) true },
   { instr := .faultRecordWrite, ok := fun s => due s && !ringOk s, next := fun s => s.onChip fun c => c.ringSeen (3 * u + 2) false },
   { instr := .faultRecordWrite, ok := fun s => mine s && (s.chip.unit u).records.all fun r => r.written, next := id }]

/-- A row of a remote fence (R87, R89-R91): the entries of the DTU, of its die's cores and of its walk cache that it names are gone, no
other; the DTU has it to acknowledge, after its walks that are past their last PTE. -/
def fenceRow (i : Instr) (die : Nat) (v : Bool) (vmid asid : Option Nat) (range : Option (Nat × Nat)) (gstage : Bool := false) : FactRow :=
  let f : FenceReq := { die := die, cores := [], v := v, vmid := vmid, asid := asid, range := range, gstage := gstage }
  let here (e : TlbEntry) : Bool := (match e.level with | .core k => k / 80 = die | .die d => d = die | .hart _ _ => false) && f.entry e
  { instr := i
    post := fun s t => (∀ e, e ∈ t.chip.xl.tlb ↔ e ∈ s.chip.xl.tlb ∧ here e = false) ∧
      (∀ w, w ∈ t.chip.xl.walks ↔ w ∈ s.chip.xl.walks ∧ f.walk w = false) ∧
      (∃ cores ws, t.chip.xl.fences = s.chip.xl.fences ++ [{ f with cores := cores, walks := ws }] ∧
        ∀ id, id ∈ ws ↔ ∃ m ∈ (s.chip.unit die).misses, m.id = id ∧ f.context m.ctx = true ∧ m.done.isSome = true) ∧
      t.chip.mem = s.chip.mem ∧ t.chip.threads = s.chip.threads }

/-- Rows of the remote fences (R89, R91) and of the generations (R87). -/
def remoteRows (die : Nat) (range : FenceRange) (vmid : BitVec 14) (asid : BitVec 16) : List FactRow :=
  [fenceRow (.remoteSfenceVma die range) die false none none (fencePages range),
   fenceRow (.remoteSfenceVmaAsid die range asid) die false none (some asid.toNat) (fencePages range),
   fenceRow (.remoteHfenceGvma die range) die true none none none true,
   fenceRow (.remoteHfenceGvmaVmid die range vmid) die true (some vmid.toNat) none none true,
   fenceRow (.remoteHfenceVvma die range vmid) die true (some vmid.toNat) none (fencePages range),
   fenceRow (.remoteHfenceVvmaAsid die range vmid asid) die true (some vmid.toNat) (some asid.toNat) (fencePages range)]

/-- Rows of the instruction fence, the acknowledgements and the generations (R87-R90, R217). -/
def ackRows (v : Word) : List EventRow :=
  let ours (s : State) : Option FenceReq := s.chip.xl.fences.find? fun f => f.die = s.subject
  let out (s : State) (f : FenceReq) : Bool := s.chip.buffersOut fun t va =>
    t.core / 80 = s.subject && f.context t.ctx && f.covers (va / 4096) 1
  let walking (s : State) (f : FenceReq) : Bool := (s.chip.unit s.subject).misses.any fun m => f.walks.contains m.id
  let raised (s : State) (v : Word) : Bool := s.chip.buffersOut fun t _ => trgenNames v (s.chip.ctxOf t)
  let acks (c : Chip) (d : Nat) : Chip := { c with xl := { c.xl with acks := listSet c.xl.acks d (c.xl.acks.getD d 0 + 1) } }
  [{ instr := .remoteFenceI
     next := fun s => s.onChip fun c =>
       acks { c with mem := { c.mem with icache := c.mem.icache.filter fun l => l.core / 80 ≠ s.subject } } s.subject },
   { instr := .dtuAcknowledge, ok := fun s => match ours s with | none => true | some f => out s f || walking s f, next := id },
   { instr := .dtuAcknowledge, ok := fun s => match ours s with | none => false | some f => !out s f && !walking s f
     next := fun s => match ours s with
       | none => s
       | some f => s.onChip fun c =>
         let late := if f.walks.isEmpty then ([], c) else c.fenceOut f
         let c := late.2
         let ids := (c.threads.filter fun (t : Thread) => t.onCompute && t.core / 80 = s.subject && f.context t.ctx).map (·.id)
         let c := ids.foldl (fun c i => c.windowClean i fun u => f.covers (u.base / 4096) 1) c
         let c := (f.cores ++ late.1).foldl (fun c k => c.writeBackAll k) c
         let c := { c with xl := { c.xl with fences := c.xl.fences.erase f } }
         let rs := ((c.unit s.subject).records.filter fun (r : FaultRec) => f.context r.ctx && f.covers (r.va.toNat / 4096) 1).map (·.number)
         rs.foldl (fun c n => c.retryRecord s.subject n) (acks c s.subject) },
   { instr := .trgen v, ok := fun s => s.chip.xl.busy.isSome
     next := fun s => s.onChip fun c => { c with xl := { c.xl with heldRaise := c.xl.heldRaise ++ [v] } } },
   { instr := .trgen v, ok := fun s => s.chip.xl.busy.isNone, next := fun s => s.onChip fun c => c.raise v },
   { instr := .generationRaiseComplete, ok := fun s => s.chip.xl.busy = none, next := id },
   { instr := .generationRaiseComplete, ok := fun s => s.chip.xl.busy = some v && raised s v, next := id },
   { instr := .generationRaiseComplete, ok := fun s => s.chip.xl.busy = some v && !raised s v
     next := fun s => s.onChip fun c =>
       let ids := (c.threads.filter fun (t : Thread) => t.onCompute && trgenNames v t.ctx).map (·.id)
       let c := ids.foldl (fun c i => c.windowClean i fun _ => true) c
       let c := c.dirtyCores.foldl (fun c k => c.writeBackAll k) c
       let c := { c with xl := { c.xl with busy := none } }
       match c.xl.heldRaise with
       | [] => c
       | w :: rest => ({ c with xl := { c.xl with heldRaise := rest } } : Chip).raise w }]


/-! ## Service calls, moves and placement -/

/-- Rows of the service calls (R118, R119, R226): the completion writes a0 and a1, 8 bytes of pc further; a forwarded thread
moves. -/
def serviceRows (id : Nat) (a0 a1 : Word) : List EventRow :=
  let of (s : State) (i : Nat) : Option (Thread × Batch) :=
    (s.chip.thread? i).bind fun (t : Thread) => (s.chip.servedBatch t).map fun (b : Batch) => (t, b)
  let pair (s : State) (i : Nat) : Thread × Batch := (of s i).getD default
  let named (s : State) : Option Batch := s.chip.eng.batches.find? fun b => b.id = s.subject
  let due (s : State) (b : Batch) : Bool := !b.closed && (decide (320 ≤ (s.chip.tick - b.since) * 7) || decide (32 ≤ b.members.length))
  let completed (s : State) : Chip :=
    let t := (pair s id).1
    let c := s.chip.leaveBatch (pair s id).2 id
    let w : Thread := t.apply (c.bars t) { sets := [(160, 64, a0.toNat), (176, 64, a1.toNat)] }
    (c.setThread { w.complete 4 with arrived := none }).acquire id 4
  let asked (s : State) : Bool := (pair s id).1.reqPending && !(pair s id).1.handler
  [{ instr := .serviceCompletion id a0 a1, ok := fun s => (of s id).isNone, next := fun s => s },
   { instr := .serviceCompletion id a0 a1, ok := fun s => (of s id).isSome && !asked s
     next := fun s => s.onChip fun _ => completed s },
   { instr := .serviceCompletion id a0 a1, ok := fun s => (of s id).isSome && asked s
     next := fun s => s.onChip fun _ => (completed s).onThread id fun t => t.parkHere 0 },
   { instr := .serviceForward, ok := fun s => (of s s.subject).isSome
     next := fun s => s.onChip fun c => (c.leaveBatch (pair s s.subject).2 (pair s s.subject).1.id).onThread (pair s s.subject).1.id
       fun t => { t with wait := .moving .forwardedEcall 8 0 0, waitSince := s.chip.tick } },
   { instr := .serviceForward, ok := fun s => (of s s.subject).isNone, next := fun s => s },
   { instr := .batchClose
     ok := fun s => match named s with | some b => due s b | none => false
     next := fun s => match named s with | some b => s.onChip fun c => c.closeBatch b.id | none => s },
   { instr := .batchClose
     ok := fun s => match named s with | some b => !due s b | none => true
     next := fun s => s }]
/-- Rows of the moves (R104-R109, R112, R114, R124, R409). -/
def moveRows (osid : Word) : List EventRow :=
  let th (s : State) : Thread := (s.chip.thread? s.subject).getD {}
  let known (s : State) : Bool := (s.chip.thread? s.subject).isSome
  let fetched (s : State) : Option (Word × Instr) := match s.chip.fetch (s.chip.adopt (th s)) (s.chip.adopt (th s)).pc with
    | .inr (w, _, _) => (match (decodeWord w).2 with | .op i => some (w, i) | _ => none)
    | .inl _ => none
  let needs (s : State) : Bool := known s && (th s).onHart && (match fetched s with
    | some p => needsCompute p.2 (s.chip.adopt (th s)).block.isSome
    | none => false)
  let ready (s : State) : Bool := (s.chip.nextDeparture s.subject).isSome && (s.chip.arrivalSlot s.subject).isSome
  [{ instr := .automaticMoveToCompute, ok := needs
     next := fun s => s.onChip fun c => (c.setThread (c.adopt (th s))).applyStop (c.adopt (th s)).id ((fetched s).map (·.1) |>.getD 0) .depart },
   { instr := .automaticMoveToCompute, ok := fun s => known s && !(th s).onHart, next := fun s => s },
   { instr := .automaticMoveToLatency
     ok := fun s => known s && (th s).onCompute && (match (th s).wait with | .moving _ _ _ _ => true | _ => false)
     next := fun s => match (th s).wait with
       | .moving why cause tval ldie => s.onChip fun c => c.departCompute (th s) why cause tval ldie
       | _ => s },
   { instr := .recall osid, ok := fun _ => osid = 0, next := fun s => s },
   { instr := .recall osid, ok := fun _ => osid ≠ 0
     next := fun s => s.onChip fun c => { c with threads := c.threads.map fun (t : Thread) =>
       if t.osid = osid && (t.onCompute || t.place = .inbound || t.place = .saved) then { t with recalled := true } else t } },
   { instr := .arrivalRingWrite, ok := fun s => !ready s, next := fun s => s },
   { instr := .arrivalRingWrite, ok := ready
     next := fun s => s.onChip fun c0 =>
       let l := s.subject
       let t := (c0.nextDeparture l).getD {}
       let c := c0.agentStore (.ldie l) ((c0.arrivalSlot l).getD 0) (c0.departureRecord t)
       let first := decide (c.dev.arprod.getD l 0 = c.dev.arcons.getD l 0)
       let c := { c with dev := { c.dev with arprod := listSet c.dev.arprod l (c.dev.arprod.getD l 0 + 1) } }
       let away : Thread := { t with
         place := .os, wait := .ready, barPoison := 0, corrupt := 0, held := if t.block.isSome then t.held else none }
       let c := if t.block.isSome || t.cancelled then c.setThread away
         else { c with threads := c.threads.filter fun (u : Thread) => u.id ≠ t.id }
       let c := match t.held with | some (k, q, i, _) => c.vacate k q i | none => c
       if first then c.sendMsi (c.dev.armsiaddr.getD l 0) (c.dev.armsidata.getD l 0) else c }]

/-- Whether some waiting work goes to a free place of a die: it has a place there now, held places are left alone, and all other work
that has one comes after it (R107, R161, R162, R183). -/
def Chip.goesFirst (c : Chip) (die : Nat) (ws : List WorkRank) (item : WorkItem) : Bool :=
  let hasPlace (w : WorkRank) : Bool := ((c.tryWork die w.item).filter (·.keepsHolds)).isSome
  match ws.find? fun w => w.item = item with
  | none => false
  | some w => hasPlace w && ws.all fun k => k.item = item || !hasPlace k || w.before k

/-- Some work of a die starts in its place: the package is as that start leaves it. -/
def State.starts (s t : State) (c : Option Chip) : Prop := ∃ d, c = some d ∧ t = s.onChip fun _ => d

/-- Rows of the places that waiting work takes (R107, R109, R157, R159, R161, R169, R183, R233): in a state where the work has a place
and goes first, the step starts it; and a step that finds none changes nothing. -/
def placeRows (slot entry : Nat) : List FactRow :=
  let c (s : State) : Chip := s.chip
  let die (s : State) : Nat := s.subject
  let up (s : State) : Bool := !s.chip.ras.dies.getLsbD s.subject
  let bl (s : State) : Block := (s.chip.block? s.subject).getD default
  let th (s : State) : Thread := (s.chip.thread? s.subject).getD {}
  let saved (s : State) : Bool := (s.chip.block? s.subject).isSome && !s.chip.ras.dies.getLsbD (bl s).saveDie
  let waits (s : State) : Bool := (s.chip.thread? s.subject).isSome && (th s).place = .inbound && !s.chip.isSpilled .inbound (th s).id
  let free (s : State) : Bool := waits s && !(th s).cancelled && (th s).block.isNone
  let gone (s : State) : Bool := (hintOf (th s).hint).kind ≠ 0 && s.chip.ras.dies.getLsbD (hintOf (th s).hint).die
  let spotDie (s : State) : Nat := ((s.chip.moveSpot (th s)).map (·.1 / 80)).getD 0
  let same (s t : State) : Prop := t = s
  [{ instr := .blockStart, ok := fun s => up s && (c s).goesFirst (die s) ((c s).waitingWork (die s)) (.deal slot)
     post := fun s t => s.starts t ((c s).dealOne slot (die s)) },
   { instr := .blockStart, ok := fun s => (c s).disp.grids.all fun g => !((c s).mayDeal g && (g.rangeOf (die s)).isSome), post := same },
   { instr := .taskDispatch, ok := fun s => up s && (c s).goesFirst (die s) ((c s).waitingWork (die s)) (.task entry)
     post := fun s t => s.starts t ((c s).tryWork (die s) (.task entry)) },
   { instr := .taskDispatch
     ok := fun s => up s && ((c s).waitingWork (die s)).isEmpty && (c s).goesFirst (die s) ((c s).stolenWork (die s)) (.task entry)
     post := fun s t => s.starts t ((c s).tryWork (die s) (.task entry)) },
   { instr := .taskDispatch, ok := fun s => !up s || (c s).disp.tasks.all fun k => !(k.isReady && k.ready && k.write = .none)
     post := same },
   { instr := .restore
     ok := fun s => saved s && (c s).goesFirst (bl s).saveDie ((c s).waitingWork (bl s).saveDie) (.saved (bl s).id)
     post := fun s t => s.starts t ((c s).restoreWhole (bl s)) },
   { instr := .restore, ok := fun s => (c s).disp.blocks.all fun b => b.preempt ≠ .saved, post := same },
   { instr := .threadPlacement, ok := fun s => waits s && (th s).cancelled
     post := fun s t => (∀ u, u ∈ t.chip.threads ↔ u ∈ s.chip.threads ∧ u.id ≠ (th s).id) ∧ t.chip.mem = s.chip.mem },
   { instr := .threadPlacement, ok := fun s => waits s && !(th s).cancelled && (th s).block.isSome && ((c s).placeMove (th s)).isSome
     post := fun s t => s.starts t ((c s).placeMove (th s)) },
   { instr := .threadPlacement, ok := fun s => waits s && !(th s).cancelled && (th s).block.isSome && ((c s).placeMove (th s)).isNone
     post := same },
   { instr := .threadPlacement, ok := fun s => free s && gone s
     post := fun s t => s.starts t (some ((c s).returnMove (th s))) },
   { instr := .threadPlacement
     ok := fun s => free s && !gone s && ((c s).moveSpot (th s)).isSome && !(c s).ras.dies.getLsbD (spotDie s) &&
       (c s).goesFirst (spotDie s) ((c s).waitingWork (spotDie s)) (.move (th s).id)
     post := fun s t => s.starts t ((c s).placeMove (th s)) },
   { instr := .threadPlacement, ok := fun s => free s && !gone s && ((c s).moveSpot (th s)).isNone, post := same }]

/-- What a starting block gives its threads (R157): thread t of block i has the entry, arg in a0, sp at the top of its part of the
stacks, its identity, its role and its footprint; all other slices are zero, and it is ready. -/
def startStates : Prop :=
  ∀ (c d : Chip) (g : Grid) (index member : Nat) (cores : List Nat) (p : Spot), c.startBlock g index member cores p = some d →
    ∃ new, d.threads = c.threads ++ new ∧ new.length = g.desc.nthr ∧
      ∀ n u, new[n]? = some u →
        u.pc = g.desc.entry ∧ u.tgrid = c.gridHandle g ∧ u.tblk = index ∧ u.ttid = n ∧ u.trole = roleOf g.desc.roles n ∧
        u.tfoot = g.desc.foot ∧ u.tprio = g.desc.prio ∧ u.mode = .u ∧ u.wait = .ready ∧ u.ctx = g.ctx ∧ readX u.regs 10 = g.desc.arg ∧
        readX u.regs 2 = (if g.desc.stkbytes = 0 then 0
          else g.desc.stkbase + BitVec.ofNat 64 ((g.desc.nthr * index + n + 1) * g.desc.stkbytes)) ∧
        (∀ x, x < 32 → x ≠ 2 → x ≠ 10 → readX u.regs x = 0) ∧ u.tflags = 0 ∧ u.tmode = 0 ∧ u.temu = 0 ∧ u.tdeleg = 0 ∧
        u.tepc = 0 ∧ u.tcause = 0 ∧ u.tval = 0 ∧ u.fcsr = 0 ∧ u.lane = [] ∧ u.win.units = [] ∧ u.win.cap = g.desc.swbytes ∧
        u.trng = (BitVec.ofNat 64 (index * 2 ^ 12 ||| n) ^^^ (c.gridHandle g <<< 20)) ||| 1

/-! ## Grids, tasks and pre-emption -/

/-- Rows of the steps of grids, those that this package heads and those of other packages (R158, R160, R162, R163, R165-R168, R170,
R171, R410). -/
def gridEventRows (slot : Nat) (caps : List (Nat × Nat)) (answers : List Bool) : List EventRow :=
  let of (s : State) (n : Nat) : Grid := (s.chip.grid? n).getD default
  let known (s : State) (n : Nat) : Bool := (s.chip.grid? n).isSome
  let g (s : State) : Grid := of s slot
  let reported (s : State) : Bool := ((g s).desc.named s.chip.pkg).all fun p =>
    p = s.chip.pkg || caps.any (fun k => k.1 = p) || (g s).reported.any fun k => k.1 = p
  let ours (s : State) : Bool := known s slot && !(g s).remote
  let earlier (s : State) : Bool := s.chip.disp.grids.any fun (e : Grid) =>
    e.gated && e.cut && !e.remote && e.retryAt = 0 && decide (e.order < (g s).order)
  let waits (s : State) : Bool := ours s && (g s).gated && (g s).cut && (g s).retryAt = 0 && !earlier s && s.chip.turnOf (g s) &&
    !s.chip.sluiceBlocks (g s)
  let given (s : State) : Option (List Bool) := s.chip.answersOf (g s) answers
  let asks (s : State) : Bool := waits s && (given s).isSome
  let share (s : State) : Option Chip :=
    if ((given s).getD []).all id && !s.chip.disp.grids.any (·.holds) then (s.chip.placeShare (g s)).filter (·.keepsHolds) else none
  let retries (s : State) : Bool := known s s.subject && (of s s.subject).gated && (of s s.subject).retryAt ≠ 0
  let due (s : State) : Bool := retries s && decide ((of s s.subject).retryAt ≤ s.chip.tick)
  let opened (s : State) : Chip := s.chip.setGrid { of s s.subject with retryAt := 0 }
  let home (s : State) : Bool := known s s.subject && !(of s s.subject).remote
  let away (s : State) : Bool := known s s.subject && (of s s.subject).remote
  let left (s : State) : Bool := s.chip.disp.blocks.any fun b => !b.isTask && b.owner = (of s s.subject).slot
  let over_ (s : State) : Bool := (of s s.subject).complete && (of s s.subject).write = .none && !(of s s.subject).remote
  let faultOf (r : Unit ⊕ (Nat × WalkFault)) : Option (Nat × WalkFault) := match r with | .inl _ => none | .inr f => some f
  let recorded (s : State) : (Unit ⊕ (Nat × WalkFault)) × Chip :=
    let g := of s s.subject
    if g.statusDone || g.desc.srec = 0 then (.inl (), s.chip)
    else s.chip.headStore g.ctx g.desc.srec.toNat (s.chip.statusRecord g g.outcome)
  let recordFault (s : State) : Option (Nat × WalkFault) := faultOf (recorded s).1
  let worded (s : State) : (Unit ⊕ (Nat × WalkFault)) × Chip :=
    (recorded s).2.headStore (of s s.subject).ctx (of s s.subject).desc.cword.toNat (of s s.subject).word
  let count (g : Grid) (r : Nat × Nat) : Grid := g.account r.1 r.2
  [{ instr := .capacityReport slot caps, ok := fun s => ours s && !(g s).cut && reported s && (g s).retryAt = 0
     next := fun s => s.onChip fun c => c.cutGrid (g s) caps },
   { instr := .capacityReport slot caps, ok := fun s => ours s && ((g s).cut || !reported s || (g s).retryAt ≠ 0), next := fun s => s },
   { instr := .capacityReport slot caps, ok := fun s => known s slot && (g s).remote && !(g s).cut
     next := fun s => s.onChip fun c => c.tellHead (g s) (.capacity · (c.capacity (g s))) },
   { instr := .capacityReport slot caps, ok := fun s => known s slot && (g s).remote && (g s).cut, next := fun s => s },
   { instr := .sluiceCommit slot answers, ok := fun s => asks s && (share s).isSome
     next := fun s => s.onChip fun c => ((share s).getD c).tellOthers (g s) .begin_ },
   { instr := .sluiceCommit slot answers, ok := fun s => asks s && (share s).isNone
     next := fun s => s.onChip fun c => c.refuseCommit (g s) },
   { instr := .sluiceCommit slot answers, ok := fun s => known s slot && !asks s, next := fun s => s },
   { instr := .sluiceRetry, ok := fun s => due s && !(of s s.subject).begun, next := fun s => s.onChip fun _ => opened s },
   { instr := .sluiceRetry, ok := fun s => due s && (of s s.subject).begun
     next := fun s => s.onChip fun _ => (opened s).tellOthers (of s s.subject) .commit },
   { instr := .sluiceRetry, ok := fun s => retries s && !due s, next := fun s => s },
   { instr := .retirementReport, ok := home
     next := fun s => s.onChip fun c =>
       c.setGrid ((of s s.subject).unreported.foldl count { of s s.subject with unreported := [] }) },
   { instr := .retirementReport, ok := fun s => away s && s.chip.headLost (of s s.subject) && left s, next := fun s => s },
   { instr := .retirementReport, ok := fun s => away s && s.chip.headLost (of s s.subject) && !left s
     next := fun s => s.onChip fun c => { c with disp := { c.disp with
       grids := c.disp.grids.filter fun k => k.slot ≠ (of s s.subject).slot } } },
   { instr := .retirementReport, ok := fun s => away s && !s.chip.headLost (of s s.subject)
     next := fun s => s.onChip fun c =>
       let g := of s s.subject
       let runs (o : Nat) : List (Nat × Nat) :=
         runsOf ((g.unreported.filter fun r => r.2 = o).foldl (fun l r => setInsert r.1 l) [])
       let tell (c : Chip) (o : Nat) : Chip := (runs o).foldl (fun c r => c.tellHead g (.retired · r.1 (r.1 + r.2) o)) c
       let c := (tell (tell (tell c 0) 1) 2).tellHead g (.undealt · (g.dieRanges.map fun r => (r.lo, r.hi)))
       c.setGrid { g with unreported := [] } },
   { instr := .gridCompletion, ok := fun s => known s s.subject && !over_ s, next := fun s => s },
   -- the status record first, where there is one to write; one that faults parks, and the word waits behind it
   { instr := .gridCompletion, ok := fun s => known s s.subject && over_ s && (recordFault s).isSome
     next := fun s => s.onChip fun _ =>
       let r := (recorded s).2.parkHead (of s s.subject).ctx ((recordFault s).getD (0, ⟨0, 0, 0⟩)) s.subject (.statusParked 0 0)
       r.2.setGrid { of s s.subject with write := r.1 } },
   { instr := .gridCompletion
     ok := fun s => known s s.subject && over_ s && (recordFault s).isNone && (faultOf (worded s).1).isSome
     next := fun s => s.onChip fun _ =>
       let r := (worded s).2.parkHead (of s s.subject).ctx ((faultOf (worded s).1).getD (0, ⟨0, 0, 0⟩)) s.subject (.wordParked 0 0)
       r.2.setGrid { of s s.subject with statusDone := true, write := r.1 } },
   -- both written: the grid leaves the table of every package that it names
   { instr := .gridCompletion
     ok := fun s => known s s.subject && over_ s && (recordFault s).isNone && (faultOf (worded s).1).isNone
     next := fun s => s.onChip fun _ =>
       let c := match (worded s).2.grid? s.subject with
         | some k => ((worded s).2.partners k).foldl (fun (c : Chip) p => c.post p (.finished (c.gridHandle k).toNat)) (worded s).2
         | none => (worded s).2
       { c with disp := { c.disp with grids := c.disp.grids.filter fun k => k.slot ≠ s.subject } } }]

/-- The bytes of a record: its length, and at each offset a little-endian field of so many bytes with its value (R3). -/
def laidOut (bs : List Byte) (n : Nat) (fields : List (Nat × Nat × Nat)) : Prop :=
  bs.length = n ∧ ∀ f ∈ fields, numOf ((bs.drop f.1).take f.2.1) = f.2.2 % 2 ^ (8 * f.2.1)

/-- The completion word and the status record (R165, R166): the word holds the outcome and the completed blocks; the record holds the
handle, the state, the counts, the causes, the reports in order and the maximal runs of completed blocks, 64 at most. -/
def gridRecords : Prop :=
  (∀ g : Grid, laidOut g.word 8 [(0, 4, g.completed.length), (4, 3, 0), (7, 1, g.outcome)] ∧
    g.outcome = (if g.soft || g.hard then 3 else if g.faulted = [] then 1 else 2)) ∧
  (∀ l : List Nat, l.Pairwise (· < ·) →
    (∀ i, i ∈ l ↔ ∃ r ∈ runsOf l, r.1 ≤ i ∧ i < r.1 + r.2) ∧ (runsOf l).Pairwise fun a b => a.1 + a.2 < b.1) ∧
  ∀ (c : Chip) (g : Grid) (state : Nat),
    let runs := runsOf g.completed
    let bs := c.statusRecord g state
    laidOut bs 1056 [(0, 8, (c.gridHandle g).toNat), (8, 1, state),
      (9, 1, (g.flags ||| (if 64 < runs.length then 8 else 0)).toNat), (0xA, 1, min 8 g.reports.length), (0xB, 1, min 64 runs.length),
      (0xC, 4, 0), (0x10, 4, g.completed.length), (0x14, 4, g.cancelled.length), (0x18, 4, g.neverStarted), (0x1C, 4, g.faulted.length)] ∧
    (∀ k, k < 64 → laidOut bs 1056 [(0x20 + 4 * k, 4, min (assocGet g.causes k 0) 0xFFFF_FFFF),
      (0x220 + 8 * k, 4, (runs.getD k (0, 0)).1), (0x224 + 8 * k, 4, (runs.getD k (0, 0)).2)]) ∧
    ∀ k r, k < 8 → g.reports[k]? = some r → laidOut ((bs.drop (0x120 + 32 * k)).take 32) 32
      [(0, 8, r.tval.toNat), (8, 8, r.pc.toNat), (0x10, 4, r.block), (0x14, 2, r.thread), (0x16, 1, r.cause), (0x17, 1, r.pkg), (0x18, 8, r.tick)]

/-- Undealt indices. -/
def covers (rs : List Range) (i : Nat) : Prop := ∃ r ∈ rs, r.lo ≤ i ∧ i < r.hi

/-- Ranges with something in them, no index twice (R160). -/
def apart (rs : List Range) : Bool :=
  rs.all (fun r => decide (r.lo < r.hi)) && decide (rs.Pairwise fun a b => a.hi ≤ b.lo ∨ b.hi ≤ a.lo)

/-- The highest n indices of some ranges are taken; what stays is below them, each part where it was. -/
def takesTop (rs left taken : List Range) (n : Nat) : Prop :=
  (∀ i, covers rs i ↔ covers left i ∨ covers taken i) ∧ (∀ i j, covers left i → covers taken j → i < j) ∧
  indicesIn taken = n ∧ ∀ r ∈ left, ∃ k ∈ rs, k.who = r.who ∧ k.lo = r.lo

/-- Rows of stealing (R160): a die with room whose range of a grid is exhausted takes the upper half, in whole units, of the largest
range among its package's dies; a package with none asks the head, and the head moves the upper half of the largest undealt range of the
other packages, its own at once and another one's by asking for it. Ties go to the lower number; one unit is not split. -/
def stealFacts : List FactRow :=
  let unit (g : Grid) : Nat := g.desc.demand.unit
  let size (r : Range) : Nat := r.hi - r.lo
  let half (g : Grid) (n : Nat) : Nat := n / unit g / 2 * unit g
  let same (s t : State) : Prop := t = s
  let die (s : State) : Bool := decide (s.subject < 8)
  let pkg (s : State) : Bool := !die s && decide (s.subject < 16)
  let hungry (s : State) (g : Grid) : Bool := (g.dieRanges.all fun r => r.who ≠ s.subject || decide (r.hi ≤ r.lo)) &&
    !s.chip.ras.dies.getLsbD s.subject && (s.chip.dieSpFit g s.subject).isSome && (s.chip.unitSpot g.desc.demand s.subject).isSome &&
    g.dieRanges.any fun r => decide (unit g < size r)
  let taker (s : State) : Option Grid := s.chip.dealable.find? (hungry s)
  -- what each package of a grid but one has undealt
  let undealt (c : Chip) (g : Grid) (p : Nat) : Nat := indicesIn (if p = c.pkg then g.dieRanges else g.elsewhere.filter fun r => r.who = p)
  let others (c : Chip) (g : Grid) (p : Nat) : List Nat := (c.pkg :: c.partners g).filter (· ≠ p)
  let rich (c : Chip) (g : Grid) (p : Nat) : Bool := (others c g p).any fun q => decide (unit g < undealt c g q)
  let asker (s : State) : Option Grid := s.chip.dealable.find? fun g =>
    g.dieRanges.isEmpty && (g.desc.named (s.chip.headOf g)).contains s.chip.pkg && (g.remote || rich s.chip g s.chip.pkg)
  let asked (s : State) : Option Grid := (s.chip.disp.grids.filter (·.open)).find? fun g =>
    !g.remote && (g.desc.named s.chip.pkg).contains (s.subject - 16) && s.subject - 16 ≠ s.chip.pkg &&
      !(g.elsewhere.any fun r => r.who = s.subject - 16) && rich s.chip g (s.subject - 16)
  -- the head moves half of the richest other package's indices to p
  let moves (s t : State) (g : Grid) (p : Nat) : Prop := ∃ q ∈ others s.chip g p,
    (∀ k ∈ others s.chip g p, undealt s.chip g k < undealt s.chip g q ∨ (undealt s.chip g k = undealt s.chip g q ∧ q ≤ k)) ∧
    unit g < undealt s.chip g q ∧ ∃ left taken,
    (apart (if q = s.chip.pkg then g.dieRanges else g.elsewhere.filter fun r => r.who = q) = true →
      takesTop (if q = s.chip.pkg then g.dieRanges else g.elsewhere.filter fun r => r.who = q) left taken (half g (undealt s.chip g q))) ∧
    (q = s.chip.pkg → t = s.onChip fun c =>
      let theirs := taken.map fun r => { r with who := p }
      let d := c.setGrid { g with dieRanges := left, pkgRanges := g.pkgRanges ++ theirs, elsewhere := g.elsewhere ++ theirs }
      theirs.foldl (fun d r => d.post p (.share (c.gridHandle g).toNat r.lo r.hi)) d) ∧
    (q ≠ s.chip.pkg → t = s.onChip fun c =>
      (c.setGrid { g with elsewhere := (g.elsewhere.filter fun r => r.who ≠ q) ++ left }).post q (.giveUp (c.gridHandle g).toNat p))
  [{ instr := .steal, ok := fun s => die s && (taker s).isSome
     post := fun s t => ∃ g r, taker s = some g ∧ r ∈ g.dieRanges ∧ unit g < size r ∧
       (∀ k ∈ g.dieRanges, size k < size r ∨ (size k = size r ∧ r.who ≤ k.who)) ∧
       t = s.onChip fun c => c.setGrid { g with dieRanges :=
         (g.dieRanges.map fun k => if k = r then { k with hi := k.hi - half g (size r) } else k) ++
         [{ who := s.subject, lo := r.hi - half g (size r), hi := r.hi }] } },
   { instr := .steal, ok := fun s => die s && (taker s).isNone, post := same },
   { instr := .steal, ok := fun s => pkg s && (asker s).isNone, post := same },
   { instr := .steal, ok := fun s => pkg s && (asker s).any (·.remote)
     post := fun s t => ∃ g, asker s = some g ∧ t = s.onChip fun c => c.post (g.slot / 65536 - 1) (.ask (c.gridHandle g).toNat) },
   { instr := .steal, ok := fun s => pkg s && (asker s).any fun g => !g.remote
     post := fun s t => ∃ g, asker s = some g ∧ moves s t g s.chip.pkg },
   { instr := .steal, ok := fun s => !die s && !pkg s && (asked s).isNone, post := same },
   { instr := .steal, ok := fun s => !die s && !pkg s && (asked s).isSome
     post := fun s t => ∃ g, asked s = some g ∧ moves s t g (s.subject - 16) }]

/-- Rows of the time that a cancelled thread is given (R168, R182): 100 µs. -/
def timeoutRows : List EventRow :=
  let late (s : State) (task : Bool) : Bool := match s.chip.thread? s.subject with
    | none => false
    | some t => (match s.chip.blockOf t with
      | some b => t.cancelled && t.onCompute && b.isTask = task && decide (100000 ≤ s.chip.tick - t.cancelSince)
      | none => false)
  [{ instr := .hardCancelTimeout, next := fun s => if late s false then s.onChip fun c => c.endThread s.subject else s },
   { instr := .abortTimeout, next := fun s => if late s true then s.onChip fun c => c.endThread s.subject else s }]

/-- A completed task settles (R174, R179, R180, R182, R410): what its core stored is released at pod scope; the versions that it wrote
are committed where no later writer has been; its completion word, 1 in bits 63:56, is written where it names one, or parks; the job's
count falls, and the entry comes free. -/
def Chip.settles (c : Chip) (k : Task) : Chip :=
  let released := (c.setTask { k with settled := true }).writeBackAll k.core
  let commits (c : Chip) (r : RegionRec) : Chip := match c.region? r.base, r.bound with
    | some g, some v => if k.order < g.committedAt then c else c.setRegion { g with committed := v, committedAt := k.order + 1 }
    | _, _ => c
  let committed := (k.regions.filter fun r => r.isWrite && r.renamable).foldl commits released
  let worded := if k.cword = 0 then committed
    else match committed.headStore k.ctx k.cword.toNat [0, 0, 0, 0, 0, 0, 0, 1] with
      | (.inl _, d) => d
      | (.inr f, d) =>
        let r := d.parkHead k.ctx f k.entry (.wordParked 0 0)
        r.2.setTask { k with settled := true, write := r.1 }
  (worded.jobCount k.job false).freeTask k.entry

/-- The first completed task that is confirmed and has not settled (R180, R181): committed where it was speculative, and each version
that it reads is of a settled writer, or of none. -/
def Chip.dueToSettle (c : Chip) : Option Task :=
  c.disp.tasks.find? fun k => k.state = .completed && !k.settled && (!k.spec || k.commit) && k.regions.all fun r =>
    r.isWrite || !r.renamable || match r.bound with
      | none => true
      | some v => (c.writerOf r.base v).all fun w => w.settled || w.entry = k.entry

/-- A task's threads have all ended (R147, R178, R185): a release of its completion scope, its block gone, its successors without its
edge; where its scope is the core, they and the versions that it wrote name the core, for a promoted dispatch and promoted reads. -/
def Chip.taskEnds (c : Chip) (k : Task) (b : Block) : Chip :=
  let released := if k.cscope < 2 then c else c.writeBackAll b.core
  let gone := released.dropBlock b
  let names (c : Chip) (r : RegionRec) : Chip := match c.region? r.base, r.bound with
    | some g, some v =>
      let others := g.writers.filter fun w => w.1 ≠ v
      c.setRegion { g with writers := if k.cscope < 2 then others ++ [(v, b.core)] else others }
    | _, _ => c
  let named := (k.regions.filter fun r => r.isWrite && r.renamable).foldl names gone
  let after (j : Task) : Task :=
    if j.edges.contains k.entry && decide (k.cscope < 2) then { j with promote := j.promote ++ [b.core] } else j
  let over_ (j : Task) : Task := if j.entry = k.entry then { k with state := .completed } else j
  let free (j : Task) : Task := { j with edges := j.edges.filter (· ≠ k.entry) }
  { named with disp := { named.disp with tasks := ((named.disp.tasks.map after).map over_).map free } }

/-- Rows of the age of waiting tasks and of the completion, release and settlement of tasks (R147, R180, R182, R184, R185). -/
def taskEventRows : List EventRow :=
  let of (s : State) : Task := (s.chip.task? s.subject).getD default
  let known (s : State) : Bool := (s.chip.task? s.subject).isSome
  let waits (s : State) : Bool := known s && (of s).isReady && (of s).ready
  let aged (s : State) : Task := s.chip.ageTask (of s)
  let bl (s : State) : Option Block := s.chip.disp.blocks.find? fun b => b.isTask && b.owner = s.subject
  let isOver (s : State) : Bool := known s && (bl s).any fun b => s.chip.taskOver b && b.resident
  let b (s : State) : Block := (bl s).getD default
  let place (s : State) : Bool := (List.range 8).any fun d => ((s.chip.setTask (aged s)).taskSpot (aged s) d).isSome
  [{ instr := .taskAging, ok := fun s => known s && !((of s).isReady && (of s).ready), next := fun s => s },
   { instr := .taskAging, ok := fun s => waits s && (decide ((aged s).level < 48) || place s)
     next := fun s => s.onChip fun c => c.setTask (aged s) },
   { instr := .taskAging, ok := fun s => waits s && decide (48 ≤ (aged s).level) && !place s
     next := fun s => s.onChip fun c =>
       let d := c.setTask (aged s)
       match d.victim (aged s).level with | none => d | some v => d.requestBlock v.id },
   { instr := .taskCompletion, ok := fun s => known s && (bl s).isSome && !isOver s, next := fun s => s },
   { instr := .taskCompletion, ok := fun s => isOver s && (of s).state = .running && (s.chip.taskEnds (of s) (b s)).dueToSettle.isNone
     next := fun s => s.onChip fun c => c.taskEnds (of s) (b s) },
   -- a task that is confirmed settles, and those that its settlement confirms after it
   { instr := .taskCompletion
     ok := fun s => isOver s && (of s).state = .running && (s.chip.taskEnds (of s) (b s)).dueToSettle.any fun k =>
       (s.chip.taskEnds (of s) (b s)).task? k.entry = some k
     next := fun s => s.onChip fun c =>
       let d := c.taskEnds (of s) (b s)
       (d.settles (d.dueToSettle.getD default)).settleAll d.disp.tasks.length },
   { instr := .taskCompletion, ok := fun s => isOver s && ((of s).state = .aborted || (of s).state = .failed)
     next := fun s => s.onChip fun c => ((c.writeBackAll (b s).core).dropBlock (b s)).freeTask (of s).entry }]

/-- Rows of the graphs (R124-R126). -/
def graphRows (v : Word) : List EventRow :=
  let graph := bits 63 56 v.toNat
  let len := bits 55 40 v.toNat
  let o := bits 39 0 v.toNat
  let img (s : State) : Option (List Byte) := (s.chip.dev.graphs.find? fun g => g.1 = graph).map (·.2)
  let free (s : State) : Bool := s.chip.dev.grcode ≠ 1
  let code (s : State) : Option (Nat × Nat) := s.chip.kickCode graph len o (img s)
  let image (s : State) : List Byte :=
    let at_ := s.chip.dev.grupload
    let n := numOf (s.chip.stage (at_ + 12) 4)
    if s.chip.staged at_ 64 && s.chip.staged at_ n && at_ % 4096 = 0 then s.chip.stage at_ n else []
  let number (s : State) : Option Nat := (List.range 256).find? fun k => !(s.chip.dev.graphs.any fun g => g.1 = k)
  let valid (s : State) : Bool := (s.chip.graphOf (image s)).isSome && (number s).isSome
  let live (s : State) : Bool := s.chip.disp.tasks.any fun k => s.chip.dev.replay.contains (s.chip.taskHandle k)
  let msi (s : State) : State := s.onChip fun c => c.sendMsi c.dev.grmsiaddr c.dev.grmsidata
  [{ instr := .grupload v, ok := fun s => s.chip.dev.grupsts = 1, next := fun s => s },
   { instr := .grupload v, ok := fun s => s.chip.dev.grupsts ≠ 1
     next := fun s => s.onDev fun d => { d with grupload := o, grupsts := 1 } },
   { instr := .graphValidationDone, ok := fun s => s.chip.dev.grupsts ≠ 1, next := fun s => s },
   { instr := .graphValidationDone, ok := fun s => s.chip.dev.grupsts = 1 && valid s
     next := fun s => s.onDev fun d => { d with
       grupsts := 2, grupnum := BitVec.ofNat 8 ((number s).getD 0), graphs := d.graphs ++ [((number s).getD 0, image s)] } },
   { instr := .graphValidationDone, ok := fun s => s.chip.dev.grupsts = 1 && !valid s
     next := fun s => s.onDev fun d => { d with grupsts := 3 } },
   { instr := .grkick v, ok := fun s => !free s, next := fun s => s.onDev fun d => { d with grlost := true } },
   { instr := .grkick v, ok := fun s => free s && (code s).isSome
     next := fun s => msi (s.onDev fun d => { d with
       grcode := BitVec.ofNat 8 ((code s).getD (0, 0)).1, grentry := BitVec.ofNat 16 ((code s).getD (0, 0)).2 }) },
   { instr := .grkick v, ok := fun s => free s && (code s).isNone
     next := fun s =>
       let n := numOf (s.chip.stage (o + 4) 4)
       let entries := (List.range n).map fun i => s.chip.stage (o + 16 + 16 * i) 16
       let t := s.onDev fun d => { d with grcode := 1, grentry := 0, grlost := false, replay := [], replayFailed := false }
       t.onChip fun c =>
         let rest := c.replayTasks ((img s).getD []) entries ((c.graphOf ((img s).getD [])).getD [])
         ({ c with dev := { c.dev with replayRest := rest } } : Chip).replayMore },
   { instr := .graphReplayDone, ok := fun s => free s || live s || !s.chip.dev.replayRest.isEmpty, next := fun s => s },
   { instr := .graphReplayDone, ok := fun s => !free s && !live s && s.chip.dev.replayRest.isEmpty
     next := fun s => msi (s.onDev fun d => { d with
       grcode := if d.replayFailed then 10 else 2, replay := [], replayFailed := false }) }]

/-- Steps 3 and 4 of a save (R163, R228-R232, R214): the windows spilled and every line of the block's cores written back; the header,
the issue groups, the tiles, the phase-barrier words, the threads in ttid order, their lane stores and, for a block without a handler, the
scratchpad, accumulators and weight buffers stored in their sections; then the slots and issue groups are free and the block is saved. -/
def Chip.savedOf (c : Chip) (b : Block) : Chip :=
  let ts := c.threadsOf b
  let a := b.area
  let store (c : Chip) (o : Nat) (bs : List Byte) : Chip := c.agentStore (.cdie (b.core / 80)) (b.saveBase + o) bs
  let spill (c : Chip) (t : Thread) : Chip := if t.onCompute then (c.spillWindow t.id).dropResv t.id else c
  let c := b.cores.foldl (fun c k => c.writeBackAll k) (ts.foldl spill c)
  let c := store c 0 (c.areaHeader b ((ts.head?.map (·.tgrid)).getD 0))
  let c := (b.igs.zip (List.range b.igs.length)).foldl (fun c p => store c (a.groups + 64 * p.2) (c.groupRecord b p.2 p.1)) c
  let c := (b.tiles.zip (List.range b.tiles.length)).foldl (fun c p => store c (a.tiles + 32 * p.2) (tileRecord p.1)) c
  let c0 := c
  let c := c.saveImage b a.bars (8 * b.nbar) (fun o => cellGet c0.mem.bytes (c0.pbLoc b (o / 8) + o % 8)) fun o => c0.poisonedAt (c0.pbLoc b (o / 8))
  -- the elected thread's record was written before its handler ran
  let first : Option Nat := if b.preempt = .saving then (c.elected b).map (·.id) else none
  let record (c : Chip) (t : Thread) : Chip := if first = some t.id then c
    else match c.thread? t.id with | some t => store c (a.threads + 512 * t.ttid) (c.saveRecord b t) | none => c
  let c := ts.foldl record c
  let lane (c : Chip) (t : Thread) : Chip := if t.lsbytes = 0 then c
    else c.saveImage b (a.lanes + b.lsbytes * t.ttid) b.lsbytes (fun o => cellGet t.lane o) fun o => t.lanePoison.contains (roundDown o 8)
  let c := ts.foldl lane c
  let c := if b.preh = 0 then c.saveImages b else c
  let free (t : Thread) : Thread := if t.ofBlock b.id && t.onCompute then { t with place := .saved, wait := .safePark } else t
  let kept (g : IssueGroup) : Bool := !(b.igs.any fun i => i.1 = g.core && i.2.1 = g.qtr && i.2.2 = g.ig)
  let c := { c with threads := c.threads.map free, groups := c.groups.filter kept }
  let c := match first with
    | none => c
    | some id => c.onThread id fun t => { t with tfoot := recField (c.areaRead b (a.threads + 512 * t.ttid) 512) 0x190 4 }
  let c := c.setBlock { b with preempt := .saved }
  -- a gang grid enters its sluice again once every block is saved
  let whole (g : Grid) : Bool := g.evicted && !g.remote && !g.gated && c.disp.blocks.all fun k => k.isTask || k.owner ≠ b.owner || k.preempt = .saved
  match (if b.isTask then none else (c.grid? b.owner).filter whole) with
  | some g => (c.partners g).foldl (fun (d : Chip) p => d.post p (.commit (c.gridHandle g).toNat))
      (c.setGrid { g with gated := true, evicted := false, gateSince := c.tick, retryAt := 0, answers := [] })
  | none => c

/-- The save area (R110, R230-R232): its sections in order, its header, and the records of an issue group, a tile and a thread. -/
def areaLayout : Prop :=
  (∀ b : Block,
    let a := b.area
    let n := (b.demand 16).n
    a.groups = 64 ∧ a.tiles = a.groups + 64 * n ∧ a.bars = a.tiles + roundUp (32 * b.tiles.length) 64 ∧
    a.threads = a.bars + roundUp (8 * b.nbar) 64 ∧ a.lanes = a.threads + 512 * b.nthr ∧ a.sp = a.lanes + roundUp (b.lsbytes * b.nthr) 64 ∧
    a.acc = a.sp + (if b.preh = 0 then roundUp b.spbytes 64 else 0) ∧
    a.wb = a.acc + (if b.preh = 0 then (if b.twin then 2 else 1) * b.accbytes else 0)) ∧
  (∀ (c : Chip) (b : Block) (h : Word), laidOut (c.areaHeader b h) 64 [(0, 8, h.toNat), (8, 4, b.index), (0xC, 2, b.nthr),
    (0xE, 1, (b.demand 16).n),
    (0xF, 1, flag b.twin + 2 * flag (b.preh ≠ 0) + 4 * flag b.watchdog + 8 * flag (c.isGang b) + 16 * flag b.handlerFailed + 32 * flag b.detecting),
    (0x10, 1, b.core / 80), (0x11, 1, b.member), (0x12, 1, b.groupLog),
    (0x13, 1, (c.threads.filter fun t => t.ofBlock b.id && t.away).length), (0x14, 4, b.saveSize), (0x18, 8, c.tick), (0x20, 32, 0)]) ∧
  (∀ (c : Chip) (b : Block) (i : Nat) (p : Nat × Nat × Nat) (g : IssueGroup), c.ig? p.1 p.2.1 p.2.2 = some g → g.gm.length = 12 →
    (∀ k, k < 12 → laidOut (c.groupRecord b i p) 64 [(4 * k, 4, (g.gm.getD k 0).toNat), (0x34, 1, i), (0x35, 11, 0)]) ∧
    ∀ k, k < 32 → ((numOf (((c.groupRecord b i p).drop 0x30).take 4)).testBit k = true ↔
      ∃ t ∈ c.threads, t.ofBlock b.id = true ∧ t.ttid = 32 * i + k ∧ t.place ≠ .ended)) ∧
  (∀ k : Tile, laidOut (tileRecord k) 32 [(0, 4, k.base), (4, 2, k.rows), (6, 2, k.rowBytes), (8, 1, k.swz),
    (9, 1, (match k.state with | .empty => 0 | .filling => 1 | .ready => 2 | .draining => 0) + 4 * flag k.phase),
    (0xA, 2, 0), (0xC, 4, if k.state = .filling then k.issued else 0), (0x10, 4, if k.state = .filling then k.pending else 0), (0x14, 12, 0)]) ∧
  ∀ (c : Chip) (b : Block) (t : Thread),
    (t.onCompute = true →
      let bs := c.saveRecord b t
      laidOut bs 512 [(0, 8, t.pc.toNat), (0x100, 8, t.fcsr.toNat), (0x108, 8, t.tflags.toNat), (0x110, 8, t.tmode.toNat),
        (0x118, 8, t.trng.toNat), (0x120, 8, t.temu.toNat), (0x128, 8, (t.tdeleg ||| (1#64 <<< 50)).toNat), (0x130, 8, t.tepc.toNat),
        (0x138, 8, t.tcause.toNat), (0x140, 8, t.tval.toNat), (0x150, 8, t.ctx.satp.toNat), (0x158, 8, t.ctx.vsatp.toNat),
        (0x160, 8, t.ctx.hgatp.toNat), (0x170, 8, t.osid.toNat), (0x178, 8, t.tgrid.toNat), (0x180, 8, t.tblk), (0x190, 4, t.tfoot),
        (0x194, 1, 6), (0x195, 1, t.parkCause),
        (0x196, 1, t.parkFlags.toNat % 64 + (match t.arrived with | some p => 64 + 128 * flag p | none => 0)), (0x197, 1, 0),
        (0x198, 4, t.live.toNat), (0x19C, 4, b.locator t.ttid), (0x1A0, 8, t.parkTval.toNat),
        (0x1C0, 64, (t.savedPoison (c.bars t) t.live).toNat)] ∧
      ∀ k, 0 < k → k < 32 → laidOut bs 512 [(8 * k, 8, if t.live.getLsbD k then (readX t.regs k).toNat else 0)]) ∧
    (t.place = .ended → laidOut (c.saveRecord b t) 512 [(0, 0x194, 0), (0x194, 1, 7), (0x195, 7, 0), (0x19C, 4, b.locator t.ttid), (0x1A0, 0x60, 0)]) ∧
    (t.away = true → laidOut (c.saveRecord b t) 512 [(0, 0x194, 0), (0x194, 1, 6), (0x195, 1, 0), (0x196, 1, 8), (0x197, 5, 0),
      (0x19C, 4, b.locator t.ttid), (0x1A0, 0x60, 0)])

/-- What a restore gives a thread back from its record (R79, R215, R232, R234): pc, registers, CSRs, context, footprint, the arrival that it
had made; each bar of its window poisoned that holds a poisoned slice; its stack window empty at its sp; its tokens and the faults it was
parked with gone. -/
def recordReloads : Prop :=
  ∀ (c : Chip) (b : Block) (t : Thread),
    let bs := c.areaRead b (b.area.threads + 512 * t.ttid) 512
    let w (o : Nat) : Word := BitVec.ofNat 64 (recField bs o 8)
    let u := c.reload b t
    u.pc = w 0 ∧ (∀ k, 0 < k → k < 32 → readX u.regs k = w (8 * k)) ∧ u.fcsr = BitVec.ofNat 8 (recField bs 0x100 8) ∧
    u.tflags = (t.writeX8 0x806 (w 0x108)).tflags ∧ u.tmode = (t.writeX8 0x807 (w 0x110)).tmode ∧ u.trng = (t.writeX8 0x808 (w 0x118)).trng ∧
    u.temu = (t.writeX8 0x809 (w 0x120)).temu ∧ u.tdeleg = (t.writeX8 0x80A (w 0x128)).tdeleg ∧ u.tepc = (t.writeX8 0x80B (w 0x130)).tepc ∧
    u.tcause = (t.writeX8 0x80C (w 0x138)).tcause ∧ u.tval = w 0x140 ∧
    u.ctx.satp = w 0x150 ∧ u.ctx.vsatp = w 0x158 ∧ u.ctx.hgatp = w 0x160 ∧ u.ctx.v = (w 0x168).getLsbD 0 ∧ u.ctx.mxr = (w 0x168).getLsbD 1 ∧
    u.tfoot = recField bs 0x190 4 ∧
    u.arrived = (if (recField bs 0x196 1).testBit 6 then some ((recField bs 0x196 1).testBit 7) else none) ∧
    (∀ n, n < 64 → (u.barPoison.getLsbD n = true ↔
      ∃ a, 16 ≤ a ∧ a < u.tfoot ∧ (recField bs 0x1C0 64).testBit a = true ∧ barOf t.p0 (barSize b.detecting) a = n)) ∧
    u.corrupt = 0 ∧ u.win.units = [] ∧ u.win.lo = roundDown (readX u.regs 2).toNat 64 ∧ u.win.hi = u.win.lo ∧
    u.tokens.all (fun k => !k.live) = true ∧ u.parkFlags = 0 ∧ u.parkCause = 0 ∧ u.live = 0 ∧
    u.id = t.id ∧ u.ttid = t.ttid ∧ u.block = t.block ∧ u.tblk = t.tblk ∧ u.tgrid = t.tgrid ∧ u.trole = t.trole

/-- What a restore of a block gives back, in order (R225, R233, R234): its resources on the new cores, its tiles from their records, its
memories from their images or zero, its phase-barrier words, its group masks, its saved threads at their own places of the block with their
records and lane stores, while ended ones stay ended and away ones hold their slots; then the restore handler runs with a0 = 1, or 2
after a handler that failed, and a1 = tblk; without one every thread goes on at its pc with an acquire of pod scope, and a request held
meanwhile takes effect. -/
def restoreGives : Prop :=
  ∀ (c : Chip) (b0 : Block) (cores : List Nat) (p : Spot),
    let a := b0.area
    let b : Block := { b0 with
      core := cores.headD 0, igs := p.igs, spBase := p.sp, accBase := p.acc, accBase2 := p.acc2, wbBase := p.wb, wbBase2 := p.wb2
      started := c.disp.order, preempt := .restoring c.tick, watchdog := false, yieldFor := false
      tiles := (List.range b0.tiles.length).map fun k => tileOf (c.areaRead b0 (a.tiles + 32 * k) 32) }
    let placed := ((({ c with disp := { c.disp with order := c.disp.order + 1 } } : Chip).setBlock b).zeroBlock b)
    let loaded := if b.preh = 0 then placed.loadImages b else placed
    let word (c : Chip) (k : Nat) : Chip :=
      let d := c.pbPut b k (numOf (c.areaRead b (a.bars + 8 * k) 8))
      if c.areaBad b (a.bars + 8 * k) then d.setPoison (d.pbLoc b k) else d
    let masked (c : Chip) (x : (Nat × Nat × Nat) × Nat) : Chip :=
      let bs := c.areaRead b (a.groups + 64 * x.2) 64
      (c.addGroup x.1.1 x.1.2.1 x.1.2.2 0).onIg x.1.1 x.1.2.1 x.1.2.2 fun g =>
        { g with gm := (List.range 12).map fun k => BitVec.ofNat 32 (recField bs (4 * k) 4) }
    let ready := (b.igs.zip (List.range b.igs.length)).foldl masked ((List.range b.nbar).foldl word loaded)
    let slot (t : Thread) : Nat × Nat × Nat × Nat := b.slotOf t.ttid
    let back (t : Thread) : Thread :=
      if !t.ofBlock b.id || t.place = .ended then t
      else if t.place = .saved then
        let k := slot t
        let u := ready.reloadLane b (ready.reload b { t with place := .slot k.1 k.2.1 k.2.2.1 k.2.2.2, age := 0 })
        { u with place := .slot k.1 k.2.1 k.2.2.1 k.2.2.2, wait := .safePark }
      else { t with held := some (slot t) }
    let whole := { ready with threads := ready.threads.map back }
    let ids := (whole.threads.filter fun t => t.ofBlock b.id && t.onCompute).map (·.id)
    let resumed := ids.foldl (fun (d : Chip) i => (d.onThread i fun t => { t with wait := .ready, reqPending := b0.heldRequest }).acquire i 5) whole
    let asked : Preempt := if b0.heldRequest then .requested resumed.tick else .none
    (b0.resh = 0 ∨ whole.elected b = none →
      c.restoreBlock b0 cores p = resumed.setBlock { b with preempt := asked, heldRequest := false, handlerFailed := false }) ∧
    ∀ t, b0.resh ≠ 0 → whole.elected b = some t →
      c.restoreBlock b0 cores p = whole.onThread t.id fun t =>
        let u := t.apply (whole.bars t) { sets := [(160, 64, if b0.handlerFailed then 2 else 1), (176, 64, t.tblk)] }
        { u with handler := true, wait := .ready, pc := b0.resh, mode := .u, reqPending := false, arrived := none }

/-- Rows of pre-emption (R163, R171, R212, R224-R229, R234, R236). -/
def preemptRows (h : Word) (core quarter lane : Nat) : List EventRow :=
  let of (s : State) : Block := (s.chip.block? s.subject).getD default
  let known (s : State) : Bool := (s.chip.block? s.subject).isSome
  let asked (s : State) : Option Nat := match (of s).preempt with | .requested n => some n | _ => none
  let mine (s : State) (t : Thread) : Bool := t.ofBlock (of s).id
  let unparked (s : State) : List Thread := s.chip.threads.filter fun t => mine s t && t.onCompute && t.wait ≠ .safePark
  let late (s : State) : Bool := decide (100000 ≤ s.chip.tick - (asked s).getD 0)
  let asks (s : State) : Bool := (asked s).isSome
  let saves (s : State) : Bool := asks s || (of s).preempt = .saving
  let runs (s : State) : Bool := asks s && (of s).preh ≠ 0 && (s.chip.elected (of s)).isSome
  let drained (s : State) : Bool := s.chip.quiet (of s).id && s.chip.homesTake (of s).cores && s.chip.threads.all fun t =>
    !(mine s t && t.onCompute) || (t.tokens.all (fun k => !k.live) && !(s.chip.disp.ringReqs.any fun r => r.thread = t.id))
  let running (s : State) : Option Thread := s.chip.threads.find? fun t => mine s t && t.handler
  let hold (s : State) : Option Nat := match (of s).preempt with | .handler n => some n | _ => none
  let rest (s : State) : Option Nat := match (of s).preempt with | .restoring n => some n | _ => none
  let timeout (i : Instr) (k : State → Option Nat) : EventRow := {
    instr := i, ok := fun s => known s && (k s).isSome && (running s).isSome
    next := fun s => if 1000000 ≤ s.chip.tick - (k s).getD 0 then s.onChip fun c => c.endHandler ((running s).getD {}) true else s }
  let lanes (s : State) : List Thread := s.chip.threads.filter fun t => t.onCompute && t.lane3 == (core, quarter, lane)
  let head (s : State) : Thread := (s.chip.laneHead core quarter lane).getD {}
  let stuck (t : Thread) : Bool := match t.wait with
    | .slices _ => true | .group _ _ => true | .barrier _ _ _ => true | .ring _ => true | .tile _ _ => true | .token _ => true | _ => false
  let starved (s : State) : Bool := (s.chip.laneHead core quarter lane).isSome && (lanes s).all stuck &&
    decide (10000 ≤ s.chip.tick - max (head s).waitSince (assocGet s.chip.laneMet (core, quarter, lane) 0))
  let lower (m : Option Block) (b : Block) : Option Block := match m with
    | none => some b
    | some k => if b.prio < k.prio || (b.prio = k.prio && k.started < b.started) then some b else some k
  let loser (s : State) : Option Block := (s.chip.disp.blocks.filter fun b => (lanes s).any fun t => t.ofBlock b.id).foldl lower none
  [{ instr := .preempt h, next := fun s => s.onChip fun c => c.requestHandle h },
   { instr := .preemptionRequest, ok := fun s => known s && (asked s).isSome
     next := fun s => s.onChip fun c => c.arriveRequest (of s).id },
   { instr := .preemptionRequest, ok := fun s => known s && (asked s).isNone, next := fun s => s },
   { instr := .preemptionWatchdog, ok := fun s => known s && (asked s).isSome && (!late s || (unparked s).isEmpty), next := fun s => s },
   { instr := .preemptionWatchdog, ok := fun s => known s && (asked s).isSome && late s && !(unparked s).isEmpty
     next := fun s => s.onChip fun c =>
       let c := c.arriveRequest (of s).id
       let c := (unparked s).foldl (fun c t => match c.thread? t.id with | some t => c.watchdogStop t | none => c) c
       c.setBlock { of s with watchdog := true } },
   { instr := .preemptionSave, ok := fun s => known s && !asks s && (of s).preempt ≠ .saving && !((of s).yieldFor && (of s).preempt = .saved)
     next := fun s => s },
   { instr := .preemptionSave, ok := fun s => known s && saves s && (!(unparked s).isEmpty || (!runs s && !drained s)), next := fun s => s },
   -- the elected thread's record is written first, then its slot runs the handler
   { instr := .preemptionSave, ok := fun s => known s && asks s && (unparked s).isEmpty && runs s
     next := fun s => s.onChip fun c =>
       let b := of s
       let t := (c.elected b).getD {}
       let c := c.agentStore (.cdie (b.core / 80)) (b.saveBase + b.area.threads + 512 * t.ttid) (c.saveRecord b t)
       let starts (t : Thread) : Thread :=
         let u := t.apply (c.bars t) { sets := [(160, 64, 0), (176, 64, t.tblk)] }
         { u with handler := true, wait := .ready, pc := b.preh, mode := .u, reqPending := false, arrived := none }
       (c.onThread t.id starts).setBlock { b with preempt := .handler c.tick } },
   { instr := .preemptionSave, ok := fun s => known s && saves s && (unparked s).isEmpty && !runs s && drained s && !(of s).yieldFor
     next := fun s => s.onChip fun c => c.savedOf (of s) },
   -- a place that a yield frees goes to waiting work of the same grid
   { instr := .preemptionSave
     ok := fun s => known s && saves s && (unparked s).isEmpty && !runs s && drained s && (of s).yieldFor &&
       ((s.chip.savedOf (of s)).block? (of s).id).any fun b => b.preempt = .saved
     next := fun s => s.onChip fun c => (c.savedOf (of s)).yieldPlace (of s) },
   { instr := .preemptionSave, ok := fun s => known s && (of s).yieldFor && (of s).preempt = .saved
     next := fun s => s.onChip fun c => c.yieldPlace (of s) },
   timeout .preemptionHandlerTimeout hold, timeout .restoreHandlerTimeout rest,
   { instr := .sliceStarvation core quarter lane, ok := fun s => !starved s, next := fun s => s },
   { instr := .sliceStarvation core quarter lane, ok := starved
     next := fun s => match loser s with | none => s | some b => s.onChip fun c => c.requestBlock b.id }]

/-- Rows of the yields (R171): a block whose threads have all waited longer than its grid's yield time makes room for another
block of the grid; where its undealt blocks are all with other packages they are asked for first (notes/assumptions/147). -/
def yieldRows : List EventRow :=
  let of (s : State) : Block := (s.chip.block? s.subject).getD default
  let grid (s : State) : Option Grid := if (of s).isTask then none else s.chip.grid? (of s).owner
  let g (s : State) : Grid := (grid s).getD default
  let ts (s : State) : List Thread := s.chip.threads.filter fun t => t.ofBlock (of s).id && t.onCompute
  let ticks (s : State) : Nat := 1000 * (if (g s).desc.yield = 0 then 50 else (g s).desc.yield)
  let waits (s : State) (t : Thread) : Bool := decide (ticks s < s.chip.tick - t.waitSince) && (match t.wait with
    | .barrier _ _ _ => true | .group _ _ => true | .ring _ => true | .tile _ _ => true | .token _ => true | _ => false)
  let more (s : State) : Bool := (s.chip.mayDeal (g s) && !(g s).dieRanges.isEmpty) ||
    s.chip.disp.blocks.any fun k => !k.isTask && k.owner = (of s).owner && k.preempt = .saved && k.saveDie = (of s).core / 80
  let idles (s : State) : Bool := (s.chip.block? s.subject).isSome && (grid s).isSome && !s.chip.isGang (of s) &&
    (of s).preempt = .none && !(of s).cancelled && !(ts s).isEmpty && (ts s).all (waits s)
  let elsewhere (s : State) : Bool := (g s).open && ((g s).remote || !(g s).elsewhere.isEmpty)
  [{ instr := .yieldEviction, ok := fun s => (s.chip.block? s.subject).isSome && !idles s, next := fun s => s },
   { instr := .yieldEviction, ok := fun s => idles s && more s
     next := fun s => s.onChip fun c => c.setBlock { of s with preempt := .requested c.tick, yieldFor := true } },
   { instr := .yieldEviction, ok := fun s => idles s && !more s && elsewhere s, next := fun s => s.onChip fun c => c.askFor (g s) },
   { instr := .yieldEviction, ok := fun s => idles s && !more s && !elsewhere s, next := fun s => s }]

/-! ## Rings, engines and issue -/

/-- Rows of the ring engine (R187-R190, R363-R365): the next request of its ring is served, held, or, as a no-wait form,
answered with -1; a fill is never held. -/
def ringEventRows (queue die job : Nat) : List EventRow :=
  let of (s : State) : RingReq := (s.chip.disp.ringReqs.find? fun q => q.id = s.subject).getD default
  let known (s : State) : Bool := s.chip.disp.ringReqs.any fun q => q.id = s.subject
  let next (s : State) : Bool := known s && (s.chip.ringNext (of s).header).any fun q => q.id = s.subject
  let served (s : State) : Option RingResult × Chip := s.chip.ringServe (of s)
  let row (i : Instr) (op : RingOp) : List EventRow := [
    { instr := i, ok := fun s => known s && ((of s).op ≠ op || !next s), next := fun s => s },
    { instr := i, ok := fun s => next s && (of s).op = op && (served s).1.isSome
      next := fun s => s.onChip fun _ =>
        (((served s).2.ringAnswer (of s) ((served s).1.getD {})).ringRetry (of s).header (served s).2.disp.ringReqs.length) }]
  let held (i : Instr) (op : RingOp) : List EventRow := [
    { instr := i, ok := fun s => next s && (of s).op = op && (served s).1.isNone && (of s).noWait
      next := fun s => s.onChip fun _ => (served s).2.ringAnswer (of s) { status := 1 } },
    { instr := i, ok := fun s => next s && (of s).op = op && (served s).1.isNone && !(of s).noWait
      next := fun s =>
        let hold (k : RingReq) : RingReq := if k.id = s.subject then { k with held := true } else k
        let c := (served s).2
        s.onChip fun _ => { c with disp := { c.disp with ringReqs := c.disp.ringReqs.map hold } } }]
  let gives (s : State) : Bool := known s && (of s).withdrawn && ((of s).held || s.chip.isSpilled .ring s.subject)
  let back (s : State) : Option (QueueKind × Spilled) := (queueOf queue).bind fun k =>
    ((s.chip.disp.spilled.find? fun r => r.queue = k && r.die = die && r.job = job).filter fun r =>
      r.what = 0 || decide (s.chip.queueLength k die < k.capacity)).map fun r => (k, r)
  row .ringTicket .ticket ++ held .ringTicket .ticket ++ row .ringFill .fill ++ row .ringPush .push ++ held .ringPush .push ++
  row .ringPop .pop ++ held .ringPop .pop ++ row .ringKpush .kpush ++ held .ringKpush .kpush ++ row .ringKpop .kpop ++
  held .ringKpop .kpop ++
  [{ instr := .ringWithdrawal, ok := fun s => known s && !gives s, next := fun s => s },
   { instr := .ringWithdrawal, ok := gives
     next := fun s => s.onChip fun c => (c.ringWaiters s.subject).foldl (fun c t => c.ringAbandon t) (c.dropRing s.subject) },
   { instr := .tailraceRefill queue die job, ok := fun s => (back s).isNone, next := fun s => s },
   { instr := .tailraceRefill queue die job, ok := fun s => (back s).isSome
     next := fun s => match back s with
       | none => s
       | some (k, r) => s.onChip fun c =>
         let a := c.jobAddr job
         let c := c.devWrite (a + 0x3C) 4 ((c.devRead (a + 0x3C) 4 + 1) % 2 ^ 32)
         let c := c.devWrite (a + 0x18) 8 ((c.devRead (a + 0x18) 8 + 2 ^ 64 - 64) % 2 ^ 64)
         let c := { c with disp := { c.disp with spilled := c.disp.spilled.erase r } }
         if r.what = 0 then c else c.refilled k r.what }]

/-! ## Engines at work -/

/-- One update of a phase barrier by an engine (R251): arrivals, units and a fault code; none names 255, and a poisoned word takes
none; where the phase inverts the waiters go on. -/
def Chip.engineArrives (c : Chip) (b : Block) (k arr units code : Nat) : Chip :=
  if k = 255 || c.pbPoisoned b k then c
  else
    let w := c.pbRead b k
    let v := pbUpdate w arr units code
    if pbPhase v = pbPhase w then c.pbPut b k v else (c.pbPut b k v).wakeAt b k (pbPhase v)

/-- An operation is over for its tokens and its block (R140, R157). -/
def Chip.workOver (c : Chip) (id : Nat) (block : Option Nat) : Chip :=
  match block with
  | some b => (c.opDone id).retireCheck b
  | none => c.opDone id

/-- A copy is over (R249, R251, R342): its bytes leave the tile's pending ones, or on a fault its issued ones return; a copy-out
empties the tile and inverts its phase; the barrier loses its units, with the fault. -/
def Chip.copyOver (c : Chip) (o : CopyOp) (fault : Option Nat) : Chip :=
  let total := o.rows * o.rowBytes
  let c := { c with eng := { c.eng with copies := c.eng.copies.filter fun k => k.id ≠ o.id } }
  let c := match o.block, o.kind with
    | some b, .fill k _ => c.onTile b k fun t =>
      if fault.isSome then { t with issued := t.issued - total }
      else if t.pending ≤ total then t.ready else { t with pending := t.pending - total }
    | some b, .drain k => c.onTile b k fun t => { t with state := .empty, phase := !t.phase }
    | _, _ => c
  let c := match o.block.bind c.block? with
    | some b => c.engineArrives b o.pb 0 ((total + 15) / 16) (fault.getD 0)
    | none => c
  c.workOver o.id o.block

/-- A matrix operation is over (R251, R255, R373, R381, R386): it leaves its queue, with fences that come to its head, and its barrier
loses one arrival, with the fault, but after a hard cancellation or an abort. -/
def Chip.operationOver (c : Chip) (m : MatOp) (code : Nat) : Chip :=
  let c := { c with eng := { c.eng with mats := c.eng.mats.filter fun k => k.id ≠ m.id } }
  let c := match m.block.bind c.block? with
    | some b => if b.cancelled then c else c.engineArrives b m.pb 1 0 code
    | none => c
  let c := c.opDone m.id
  let c := { c with eng := { c.eng with mats := dropFences m.queue c.eng.mats } }
  match m.block with | some b => c.retireCheck b | none => c

/-- A multiply is over: a reserved ternary byte that it met sets TERN in its members, and its tile has one reader less (R244, R376). -/
def Chip.multiplyOver (c : Chip) (m : MatOp) (w : Word) (tern : Bool) (code : Nat) : Chip :=
  let mark (c : Chip) (id : Nat) : Chip := c.onThread id fun t => { t with tflags := t.tflags ||| 4 }
  let c := if tern then m.members.foldl mark c else c
  let c := match m.block with
    | some b => if (matDesc w.toNat).as_ then c else c.onTile b (matDesc w.toNat).at_ fun k => { k with readers := k.readers - 1 }
    | none => c
  c.operationOver m code

/-- Rows of the copy and matrix engines (R238, R239, R246, R250, R251, R255, R342, R373, R378, R381): what each operation moves or
computes stands in `copyBytes`, `transferBytes` and `multiplyResult`; a code from 64 on names a line for which it waits (R35, R76). -/
def engineRows : List EventRow :=
  let copy (s : State) : Option CopyOp := s.chip.eng.copies.find? fun k => k.id = s.subject
  let tiles (s : State) (o : CopyOp) : List Tile := match o.block.bind s.chip.block? with | some b => b.tiles | none => []
  let mat (s : State) : MatOp := (s.chip.mat? s.subject).getD default
  let known (s : State) : Bool := (s.chip.mat? s.subject).isSome
  let owned (s : State) : Bool := known s && ((mat s).block.bind s.chip.block?).isSome
  let bl (s : State) : Block := ((mat s).block.bind s.chip.block?).getD default
  let mul (s : State) : Option (Word × Word × Word) := match (mat s).kind with | .multiply w b k => some (w, b, k) | _ => none
  let w (s : State) : Word := ((mul s).map (·.1)).getD 0
  let desc (s : State) : MatDesc := matDesc (w s).toNat
  let runs (s : State) : Bool := owned s && (mul s).isSome && (mat s).started
  let result (s : State) := s.chip.multiply (mat s) (bl s) (w s) (((mul s).map (·.2.1)).getD 0) (((mul s).map (·.2.2)).getD 0)
  let starts (s : State) : Bool := known s && !(mat s).started && s.chip.mayStart (mat s) && (mat s).kind ≠ .fence
  let moves (s : State) : Bool := known s && (mul s).isNone && (mat s).kind ≠ .fence
  let waitsAt (s : State) (line : Nat) : State := s.onChip fun c => c.parkUnit (agentOf (mat s).core) line
  [{ instr := .copyComplete, ok := fun s => (copy s).isNone, next := fun s => s },
   { instr := .copyComplete, ok := fun s => (copy s).isSome
     next := fun s => match copy s with
       | none => s
       | some o =>
         let r := s.chip.copyRows o (tiles s o) o.rows
         s.onChip fun c => match r.1 with
           | none => r.2.copyOver o none
           | some f => if f < 64 then r.2.copyOver o (some f) else c.parkUnit (agentOf o.core) (f - 64) },
   { instr := .matrixOperationStart, ok := fun s => starts s && (mul s).isSome && owned s
     next := fun s => s.onChip fun c =>
       let on (k : Nat) : List Nat := c.cWords k (bl s) (desc s)
       let fresh := decide ((desc s).cm = 1)
       c.setMat { mat s with
         started := true, shadow := if fresh then [] else ((mat s).cores (desc s)).map on
         badC := !fresh && ((mat s).cores (desc s)).any fun k => c.cBad k (bl s) (desc s) } },
   { instr := .matrixOperationStart, ok := fun s => starts s && !((mul s).isSome && owned s)
     next := fun s => s.onChip fun c => c.setMat { mat s with started := true } },
   { instr := .matrixOperationStart, ok := fun s => !starts s, next := fun s => s },
   { instr := .matrixCommit, ok := fun s => runs s && !(bl s).cancelled
     next := fun s => match result s with
       | (.inl out, tern, c) =>
         let put (c : Chip) (k : Nat × List Nat) : Chip := c.accPut (accAddr k.1 ((bl s).accOn k.1 + (desc s).ct * 4096)) k.2
         let c := (((mat s).cores (desc s)).zip out).foldl put c
         s.onChip fun _ => c.multiplyOver (mat s) (w s) tern 0
       | (.inr _, _, _) => s },
   { instr := .matrixCommit, ok := fun s => runs s && (bl s).cancelled
     next := fun s => s.onChip fun c => c.multiplyOver (mat s) (w s) false 0 },
   { instr := .matrixOperandFault, ok := fun s => runs s && !(bl s).cancelled
     next := fun s => match result s with
       | (.inr f, tern, c) => if f < 64 then s.onChip fun _ => c.multiplyOver (mat s) (w s) tern f else waitsAt s (f - 64)
       | (.inl _, _, _) => s },
   { instr := .matrixOperandFault, ok := fun s => runs s && (bl s).cancelled, next := fun s => s },
   { instr := .matrixCommit, ok := fun s => !runs s, next := fun s => s },
   { instr := .matrixOperandFault, ok := fun s => !runs s, next := fun s => s },
   { instr := .transferComplete, ok := fun s => moves s && s.chip.mayStart (mat s) && owned s && !(bl s).cancelled
     next := fun s =>
       let r := s.chip.xferMove (mat s) (bl s)
       match r.1 with
       | none => s.onChip fun _ => r.2.operationOver (mat s) 0
       | some f => if f < 64 then s.onChip fun _ => r.2.operationOver (mat s) f else waitsAt s (f - 64) },
   { instr := .transferComplete, ok := fun s => moves s && s.chip.mayStart (mat s) && !(owned s && !(bl s).cancelled)
     next := fun s => s.onChip fun c => c.operationOver (mat s) 0 },
   { instr := .transferComplete, ok := fun s => !(moves s && s.chip.mayStart (mat s)), next := fun s => s }]

/-- The bytes of a copy in ascending row and offset order, from where and to where (R248, R340). -/
def CopyOp.ends (o : CopyOp) (tiles : List Tile) : List (End × End) :=
  let linear (x : End) (stride r j : Nat) : End := { x with addr := x.addr + BitVec.ofNat 64 (r * stride + j) }
  let inTile (k i j : Nat) : End := ⟨1, BitVec.ofNat 64 ((tiles.getD k {}).at i j)⟩
  (List.range o.rows).flatMap fun r => (List.range o.rowBytes).map fun j => match o.kind with
    | .fill k first => (linear o.src o.srcStride r j, inTile k (first + r) j)
    | .drain k => (inTile k r j, linear o.dst o.dstStride r j)
    | _ => (linear o.src o.srcStride r j, linear o.dst o.dstStride r j)

/-- The scratchpad location of an end in space 1, 2 or 3 of a block. -/
def Chip.endAt (c : Chip) (b : Option Block) (x : End) : Option Nat :=
  if x.space = 0 then none
  else (b.bind fun b => c.spaceAddr b x.space x.addr.toNat).filter fun l => c.target l = .onDie l && !c.lostAt l

/-- What a copy between scratchpads moves (R73, R340): where no byte is a source and a destination, each destination receives the
source's byte, no other byte of memory changes, and outside tiles a poisoned source granule poisons the destination's. -/
def copyBytes : Prop :=
  ∀ (c : Chip) (o : CopyOp) (tiles : List Tile), Memory.wf c.mem.bytes = true → c.mem.latent = [] →
    let at_ (x : End) : Option Nat := c.endAt (o.block.bind c.block?) x
    let ends := o.ends tiles
    (∀ p ∈ ends, (at_ p.1).isSome = true ∧ (at_ p.2).isSome = true) → (∀ p ∈ ends, ∀ q ∈ ends, at_ p.1 ≠ at_ q.2) →
    (ends.map fun p => at_ p.2).Nodup →
    ∃ d, c.copyRows o tiles o.rows = (none, d) ∧
      (∀ p ∈ ends, ∀ a b, at_ p.1 = some a → at_ p.2 = some b → d.getByte b = c.getByte a ∧
        ((∀ k i, o.kind ≠ .fill k i) → c.poisonedAt a = true → d.poisonedAt b = true)) ∧
      ∀ l, (∀ p ∈ ends, at_ p.2 ≠ some l) → d.getByte l = c.getByte l

/-- What a transfer moves (R379, R380): the bytes of a weight-buffer load, the FP32 words of an accumulator load, zeros, and the
narrowed words of a drain, between the owned memories and scratchpads. -/
def transferBytes : Prop :=
  ∀ (c : Chip) (m : MatOp) (b : Block), m.block = some b.id → c.block? b.id = some b → c.mem.latent = [] →
    Memory.wf c.mem.bytes = true → cellsWf c.mem.wb = true → cellsWf c.mem.acc = true →
    let place (x : End) (j : Nat) : Option Nat := c.endAt (some b) { x with addr := x.addr + BitVec.ofNat 64 j }
    let word (k : MemSys) (at_ i : Nat) : Nat := cellRead k.acc (at_ + 4 * i) 4
    (∀ off src len, m.kind = .wbld off src len → (∀ j, j < len → (place src j).isSome = true) →
      ∃ d, c.xferMove m b = (none, d) ∧ d.mem.bytes = c.mem.bytes ∧ ∀ j l, j < len → place src j = some l →
        cellGet d.mem.wb (wbAddr m.core (b.wbOn m.core + off) + j) = c.getByte l) ∧
    (∀ off src len fmt, m.kind = .accld off src len fmt →
      let n := if fmt = 0 then 4 else 2
      (∀ j, j < len / n * n → (place src j).isSome = true) →
      ∃ d, c.xferMove m b = (none, d) ∧ d.mem.bytes = c.mem.bytes ∧ ∀ i, i < len / n →
        let v := numOf ((List.range n).map fun j => c.getByte ((place src (i * n + j)).getD 0))
        word d.mem (accAddr m.core (b.accOn m.core + off)) i =
          if fmt = 0 then v else (roundTo .fp32 0 false 1 (Fmt.value (xferFormat fmt) v)).val) ∧
    (∀ off len, m.kind = .acczr off len → ∃ d, c.xferMove m b = (none, d) ∧ d.mem.bytes = c.mem.bytes ∧
      ∀ i, i < len / 4 → word d.mem (accAddr m.core (b.accOn m.core + off)) i = 0) ∧
    (∀ dst off len fmt ftz, m.kind = .accdr dst off len fmt ftz →
      let n := if fmt = 0 then 4 else if fmt ≤ 2 then 2 else 1
      (∀ j, j < len / 4 * n → (place dst j).isSome = true) → ((List.range (len / 4 * n)).map (place dst)).Nodup →
      ∃ d, c.xferMove m b = (none, d) ∧ d.mem.acc = c.mem.acc ∧ ∀ i j l, i < len / 4 → j < n → place dst (i * n + j) = some l →
        let w := word c.mem (accAddr m.core (b.accOn m.core + off)) i
        let v := if fmt = 0 then w else (roundTo (xferFormat fmt) 0 ftz 1 (Fmt.value .fp32 w)).val
        d.getByte l = BitVec.ofNat 8 (v / 256 ^ j))

/-- One K-group of 8 (R271): C plus the exact sum of the products, rounded once to FP32, nearest to even; the sum as IEEE has it where
an operand is a NaN or an infinity. -/
def kStep (acc : Nat) (as bs : List Fv) : Nat :=
  let sum (start : Fv) : Fv := (as.zip bs).foldl (fun s p => (fvAdd 0 s (fvMul p.1 p.2).1).1) start
  let cv := Fmt.value .fp32 acc
  let odd := (as.zip bs).any fun p => match p with | (.fin _ _ _, .fin _ _ _) => false | _ => true
  (roundTo .fp32 0 false 1 (if odd then sum (fvAdd 0 Fv.zero cv).1 else (fvAdd 0 cv (sum Fv.zero)).1)).val

/-- What a multiply computes (R243-R246, R271, R272): element (i, j) of C takes K-groups in ascending K, each of eight elements of row
i of A and column j of B, from zero where CM = 1 and else from the shadow of C, on each core of a twin with that core's B. Where A lies
in a tile and no operand is in error. -/
def multiplyResult : Prop :=
  ∀ (c : Chip) (m : MatOp) (b : Block) (w base stride : Word),
    let d := matDesc w.toNat
    let cores := if d.tw then [m.core, m.core + 1] else [m.core]
    let tl := b.tiles.getD d.at_ {}
    let cell (i j : Nat) : Nat := spAddr c b (if d.ta then tl.at (j / 2) (2 * i + j % 2) else tl.at i j)
    let aRec (i r : Nat) : List Nat := (List.range (recordLen d.af false)).map fun x => (c.getByte (cell i (recordLen d.af false * r + x))).toNat
    let bAt (k j r : Nat) : Nat := wbAddr k (b.wbOn k + 256 * d.woff + (r * d.n + j) * recordLen d.bf d.sp)
    let bRec (k j r : Nat) : List Nat := (List.range (recordLen d.bf d.sp)).map fun x => (cellGet c.mem.wb (bAt k j r + x)).toNat
    let a (i r : Nat) : RecVals := recVals d.af false (aRec i r)
    let bv (k j r : Nat) : RecVals := recVals d.bf d.sp (bRec k j r)
    d.as_ = false → m.badC = false → recordLen d.af false * (d.k / 32) = (if d.ta then 2 * d.k else d.needBytes) →
    (∀ i x, i < d.m → x < recordLen d.af false * (d.k / 32) → c.poisonedAt (cell i x) = false) →
    (∀ k j r, k ∈ cores → j < d.n → r < d.k / 32 →
      c.wbBad (bAt k j r) (recordLen d.bf d.sp) = false ∧ (bv k j r).bad = false ∧ (m.ttrap = true → (bv k j r).tern = false)) →
    ∃ out tern, c.multiply m b w base stride = (.inl out, tern, c) ∧
      (tern = true ↔ ∃ k j r, k ∈ cores ∧ j < d.n ∧ r < d.k / 32 ∧ (bv k j r).tern = true) ∧
      ∀ p core i j, cores[p]? = some core → i < d.m → j < d.n →
        let row := (List.range (d.k / 32)).flatMap fun r => (a i r).els
        let col := (List.range (d.k / 32)).flatMap fun r => (bv core j r).els
        let start := if d.cm = 1 then 0 else (m.shadow.getD p []).getD (i * d.n + j) 0
        (out.getD p []).getD (i * d.n + j) 0 =
          (List.range (d.k / 8)).foldl (fun v g => kStep v ((row.drop (8 * g)).take 8) ((col.drop (8 * g)).take 8)) start

/-! ## Issue -/

/-- The threads of an issue group that are ready, in ascending bit order: resident, not waiting nor recalled, with their instruction
fetched (R196). -/
def Chip.readyThreads (c : Chip) (core q ig : Nat) : List Thread :=
  (List.range 32).filterMap fun b => c.threads.find? fun t =>
    t.place = .slot core q ig b && c.wakes t && !t.recalled && (match c.fetch t t.pc with | .inr _ => true | .inl _ => false)

/-- The PC that an issue selects among ready threads: the oldest's of those aged 64 issues, of equals the lowest; else the lowest
(R196). -/
def selects (cand : List Thread) (pc : Word) : Prop :=
  let aged := cand.filter fun t => 64 ≤ t.age
  (aged ≠ [] → ∃ t ∈ aged, t.pc = pc ∧ ∀ u ∈ aged, u.age < t.age ∨ (u.age = t.age ∧ pc.toNat ≤ u.pc.toNat)) ∧
  (aged = [] → ∃ t ∈ cand, t.pc = pc ∧ ∀ u ∈ cand, pc.toNat ≤ u.pc.toNat)

/-- What an issue group would issue at a port: the ready threads at the selected PC (R194, R196); of address spaces that differ, those
whose instruction there is the same one (notes/assumptions/13). -/
def Chip.asks (c : Chip) (core q ig : Nat) (port : IssuePort) (i : Issue) : Prop :=
  let here := (c.readyThreads core q ig).filter fun t => t.pc = i.pc
  let part := c.participants (c.readyThreads core q ig) i.pc
  selects (c.readyThreads core q ig) i.pc ∧ i = { parts := part.map (·.id), pc := i.pc } ∧
  ((∀ t ∈ here, ∀ u ∈ here, c.ctxOf t = c.ctxOf u ∧ t.mode = u.mode) → part = here) ∧
  ∃ t r, part.head? = some t ∧ c.fetch t i.pc = .inr r ∧ portOf r.1 = port

/-- The highest tprio of an issue group's threads (R194). -/
def Chip.topPrio (c : Chip) (g : IssueGroup) : Nat :=
  ((c.threads.filter fun t => t.inGroup g.core g.qtr g.ig).map (·.tprio)).foldl max 0

/-- Whether an active issue group of a quarter would issue at a port. -/
def Chip.contends (c : Chip) (core q : Nat) (port : IssuePort) (g : IssueGroup) : Prop :=
  g ∈ c.groups ∧ g.core = core ∧ g.qtr = q ∧ g.active = true ∧ ∃ i, c.asks core q g.ig port i

/-- The choice of a port (R194): an issue group with a ready thread for 32 cycles, the lowest-numbered first, else one of the highest
tprio, of equals the one that issued least recently. -/
def Chip.prefers (c : Chip) (core q : Nat) (port : IssuePort) (g : IssueGroup) : Prop :=
  c.contends core q port g ∧ ∀ h, c.contends core q port h →
    (32 ≤ g.idle port → 32 ≤ h.idle port → g.ig ≤ h.ig) ∧
    (g.idle port < 32 → h.idle port < 32 ∧ c.topPrio h ≤ c.topPrio g ∧ (c.topPrio h = c.topPrio g → g.lastIssue ≤ h.lastIssue))

/-- One cycle of a port counted at an issue group (R194, R198): for an active one its cycles with a ready thread for the port but no
issue; for a pending one, at the per-lane port, its cycles with a ready thread; and which issued last. -/
def Chip.counted (c : Chip) (core q : Nat) (port : IssuePort) (took : Option Nat) (g h : IssueGroup) : Prop :=
  let mine := g.core = core ∧ g.qtr = q
  let last := c.groups.foldl (fun m k => max m k.lastIssue) 0
  let waits : Prop := took ≠ some g.ig ∧ ∃ i, c.asks core q g.ig port i
  h.core = g.core ∧ h.qtr = g.qtr ∧ h.ig = g.ig ∧ h.gm = g.gm ∧ h.active = g.active ∧
  (¬ mine → h = g) ∧
  (mine → h.lastIssue = if took = some g.ig then last + 1 else g.lastIssue) ∧
  (mine → g.active = true →
    (∀ p, p ≠ port → h.idle p = g.idle p) ∧ h.starved = g.starved ∧
    (waits → h.idle port = g.idle port + 1) ∧ (¬ waits → h.idle port = 0)) ∧
  (mine → g.active = false →
    (∀ p, h.idle p = g.idle p) ∧ (port = .uniform → h.starved = g.starved) ∧
    (port = .perLane → (∃ p i, c.asks core q g.ig p i) → h.starved = g.starved + 1) ∧
    (port = .perLane → (¬ ∃ p i, c.asks core q g.ig p i) → h.starved = 0))

/-- The threads of a quarter's active issue groups whose fetch is stopped take what stops it, and are not ready (R97, R196, R286). -/
def Chip.fetchesMet (c : Chip) (core q : Nat) : Chip :=
  let mine (t : Thread) : Bool := (t.onCompute || t.onHart) && c.wakes t && !t.recalled &&
    c.groups.any fun g => g.core = core && g.qtr = q && g.active && t.inGroup core q g.ig
  let stops := (c.threads.filter mine).filterMap fun t => match c.fetch t t.pc with | .inl x => some (t.id, x) | .inr _ => none
  stops.foldl (fun c p => c.applyStop p.1 0 p.2) c

/-- What an issue of a port does (R193, R194, R196): fetches that stop are met; where an issue group has a ready thread for the port,
the one that the port prefers issues at its selected PC, the participants' ages become 0 and those of its other ready threads grow;
the counters follow. -/
def State.issues (core q : Nat) (port : IssuePort) (s t : State) : Prop :=
  let c := s.chip.fetchesMet core q
  let after (c : Chip) (took : Option Nat) (v : State) : Prop :=
    ∃ gs, List.Forall₂ (c.counted core q port took) c.groups gs ∧ t = { v with chip := { c with groups := gs } }
  ((∀ g, ¬ c.contends core q port g) → after c none s) ∧
  ((∃ g, c.contends core q port g) → ∃ g i, c.prefers core q port g ∧ c.asks core q g.ig port i ∧
    let ready := (c.readyThreads core q g.ig).map (·.id)
    let aged := { c with threads := c.threads.map fun u =>
      if i.parts.contains u.id then { u with age := 0 } else if ready.contains u.id then { u with age := u.age + 1 } else u }
    after aged (some g.ig) { s with issue := some i })

/-- Row of an issue, in every state (R193, R194, R196). -/
def issueFacts (core q : Nat) (port : IssuePort) : List FactRow := [{ instr := .issue core q port, post := State.issues core q port }]

/-- Rows of the swap of an active and a pending issue group (R198), one for each condition of the manual's table, and of the service of
a lane's oldest slice request (R212). -/
def issueRows (core quarter active pending lane : Nat) : List EventRow :=
  let mine (s : State) : List IssueGroup := s.chip.groups.filter fun g => g.core = core && g.qtr = quarter
  let in_ (s : State) : Option IssueGroup := (mine s).find? fun g => g.ig = pending && !g.active
  let out (s : State) : Option IssueGroup := (mine s).find? fun g => g.ig = active
  let starved (s : State) : Nat := ((in_ s).map (·.starved)).getD 0
  let ready (s : State) (ig : Nat) : Bool := !(s.chip.readyThreads core quarter ig).isEmpty
  let has (s : State) (p : Thread → Bool) : Bool := s.chip.threads.any fun t => t.inGroup core quarter active && p t
  let both (s : State) : Bool := (in_ s).isSome && (match out s with | some a => a.active | none => false)
  let stalled (s : State) : Bool := both s && !ready s active && has s (·.wait.swappable) && ready s pending &&
    (mine s).all fun g => g.active || decide (g.starved ≤ starved s)
  let long (s : State) : Bool := both s && decide (512 ≤ starved s) &&
    (mine s).all fun g => !g.active || decide ((((out s).map (·.lastIssue)).getD 0) ≤ g.lastIssue)
  let vacant (s : State) : Bool := both s && !has s (fun _ => true) && ready s pending
  let open_ (s : State) : Bool :=
    (in_ s).isSome && (out s).isNone && ready s pending && decide (((mine s).filter (·.active)).length < 8)
  let swapped (s : State) : State := s.onChip fun c =>
    let last := s.chip.groups.foldl (fun m g => max m g.lastIssue) 0
    let leaves (g : IssueGroup) : IssueGroup := { g with active := false, starved := 0, idleLane := 0, idleUniform := 0 }
    let enters (g : IssueGroup) : IssueGroup := { g with active := true, starved := 0, lastIssue := last + 1 }
    (c.onIg core quarter active leaves).onIg core quarter pending enters
  let swap (ok : State → Bool) : EventRow := { instr := .issueGroupSwap core quarter active pending, ok := ok, next := swapped }
  let head (s : State) : Thread := (s.chip.laneHead core quarter lane).getD {}
  let want (s : State) : Nat := match (head s).wait with | .slices n => n | _ => 0
  let asks (s : State) : Bool := (s.chip.laneHead core quarter lane).isSome && (match (head s).wait with | .slices _ => true | _ => false)
  let room (s : State) : Bool := decide (want s - (head s).tfoot ≤ s.chip.laneFree core quarter lane)
  [swap stalled, swap long, swap vacant, swap open_,
   { instr := .issueGroupSwap core quarter active pending, ok := fun s => !(stalled s || long s || vacant s || open_ s), next := fun s => s },
   { instr := .sliceGrant core quarter lane, ok := fun s => !(asks s && room s), next := fun s => s },
   { instr := .sliceGrant core quarter lane, ok := fun s => asks s && room s
     next := fun s => s.onChip fun c =>
       let grow (t : Thread) : Thread :=
         if t.arriving then { t with tfoot := max (want s) t.tfoot, arriving := false, wait := .ready }
         else { t.setFoot (max (want s) t.tfoot) with wait := .ready }
       (c.onThread (head s).id grow).metLane (core, quarter, lane) }]

/-! ## What stops a register instruction, and its frame -/

/-- The rows of the register instructions. -/
def regRows (f : Long) : List RegRow :=
  bitRows f ++ arithRows f ++ packedRows f ++ floatRows f ++ compareRows f ++ convertRows f ++ scaledRows f ++ blockRows f ++
  voteRows f ++ sumRows f

/-- A thread takes a trap at an instruction (R220): nothing changes but what taking the trap changes, and the thread waits in no queue
any more (R76, R189). -/
def State.trapped (s : State) (i : Issue) (t : Thread) (cause tval : Nat) : State :=
  { s with chip := s.chip.trapAt t.id cause tval i.word }

/-- The trap that the mode and the slices of an instruction give a thread, first in the order of R219: cause 2 for a reserved mode, 24
for a slice beyond the footprint (R210: the highest one touched), 29 for a corrupted slice that it reads (R209; of several the lowest,
notes/assumptions/142), 28 for a poisoned one whose poison traps (R74). -/
def Thread.firstTrap (t : Thread) (n : Nat) (u : Uses) (legal : Bool) (word : Word) (cause v : Nat) : Prop :=
  let used (a : Nat) : Bool := (u.reads ++ u.strict ++ u.writes).any (inSpan a)
  let read (a : Nat) : Bool := (u.reads ++ u.strict).any (inSpan a)
  let bad (a : Nat) : Bool := decide (16 ≤ a) && t.corrupt.getLsbD a
  let trap (a : Nat) : Bool := u.strict.any (inSpan a) && t.slicePoison n a
  (legal = false ∧ cause = 2 ∧ v = word.toNat) ∨
  (legal = true ∧
    ((cause = 24 ∧ used v = true ∧ t.tfoot ≤ v ∧ ∀ b, used b = true → b ≤ v) ∨
     ((∀ b, used b = true → b < t.tfoot) ∧
       ((cause = 29 ∧ read v = true ∧ bad v = true ∧ ∀ b, read b = true → bad b = true → v ≤ b) ∨
        ((∀ b, read b = true → bad b = false) ∧ cause = 28 ∧ trap v = true ∧ ∀ b, trap b = true → v ≤ b)))))

/-- What a thread's mode and slices decide at an instruction: none, or that trap. -/
def Thread.stoppedBy (t : Thread) (n : Nat) (u : Uses) (legal : Bool) (word : Word) (e : Option (Nat × Nat)) : Prop :=
  match e with
  | none => t.usable n u = true ∧ legal = true
  | some (cause, v) => t.firstTrap n u legal word cause v

/-- The traps of an instruction for a thread on its own that its mode and its slices decide (R219, R220). -/
def trapsInOrder (n : Instr) (u : Uses) (legal : Thread → Bool) (f : Long) : Prop :=
  n.wellFormed = true → f.grouped = false →
  ∀ (s0 : State) (i : Issue) (s : State) (t : Thread), s0.aloneOf i u s t → t.onCompute = true →
    ∀ cause v, t.firstTrap (s.chip.bars t) u (legal t) i.word cause v → exec n s0 = .next (s.trapped i t cause v)

/-- The traps of a register instruction; of those, none traps on poison (R74). -/
def RegRow.traps (r : RegRow) (f : Long) : Prop := trapsInOrder r.instr r.uses (fun t => r.legal [t] t) f

/-- The traps that the slices of a memory instruction decide: of its address, and of an atomic's operands (R74). -/
def MemRow.traps (r : MemRow) (f : Long) : Prop := trapsInOrder r.instr r.uses (fun _ => true) f

/-- The arrival of one thread at a collective over GMk (R199, R201, R219): outside GMk it takes the trap that its mode and its slices
decide, else cause 26 with bit 32 of tval set; a member before the last one waits, with that trap if there is one; and where the last
one arrives while another waits at a gwait or at another instruction, every member takes its own trap or cause 26. -/
def groupArrival (n : Instr) (u : Uses) (legal : Thread → Bool) (f : Long) : Prop :=
  n.wellFormed = true → f.grouped = true →
  ∀ (s0 : State) (i : Issue) (s : State) (t : Thread), s0.aloneOf i u s t → t.onCompute = true → t.converged = false →
    ∀ e, t.stoppedBy (s.chip.bars t) u (legal t) i.word e →
      let k := f.g.toNat
      let m := s.chip.gmOf t k
      let others := (s.chip.membersOf t k).filter fun v => v.id ≠ t.id
      let c := s.chip.onThread t.id fun v => { v.atGroup k s.chip.tick with early := e }
      (m.getLsbD t.bit = false → exec n s0 = .next (match e with
        | none => s.trapped i t 26 (m.toNat + 2 ^ 32)
        | some (cause, v) => s.trapped i t cause v)) ∧
      (m.getLsbD t.bit = true → (∃ v ∈ others, v.arrivedAt k = false) → exec n s0 = .next { s with chip := c }) ∧
      (m.getLsbD t.bit = true → (∀ v ∈ others, v.arrivedAt k = true) → (∃ v ∈ others, v.arrivedGwait k = true ∨ v.pc ≠ t.pc) →
        exec n s0 = .next { s with chip := c.allApart i.word k (c.membersOf t k) })

/-- A value that the instruction decodes to nothing, met by a complete collective once no slice lies beyond a footprint: every member
takes cause 2 (R299, R324). -/
def RegRow.spoilt (r : RegRow) (f : Long) : Prop :=
  r.instr.wellFormed = true → f.grouped = true → f.u = false →
  ∀ (s0 : State) (i : Issue) (s : State) (t0 : Thread) (ts : List Thread), s0.togetherOf i f.g.toNat r.uses s t0 ts →
    (∀ t ∈ ts, t.usable (s.chip.bars t) r.uses = true) → (∀ t ∈ ts, r.legal ts t = true) → r.readable ts = false →
    exec r.instr s0 = .next { s with
      chip := ts.foldl (fun c t => c.trapAt t.id 2 i.word.toNat i.word) (s.chip.gathered f.g.toNat ts) }

/-! ## Causes beyond the slices of an instruction -/

/-- A row of what one thread's instruction traps on beyond its mode and slices: the causes, with their tval. -/
structure TrapRow where
  instr : Instr
  uses : Uses := {}
  legal : Thread → Bool := fun _ => true
  trap : Chip → Thread → Nat → Nat → Prop

/-- The row says when the trap is taken, by a thread on its own on a compute core (R219, R220). -/
def TrapRow.alone (r : TrapRow) : Prop :=
  r.instr.wellFormed = true →
  ∀ (s0 : State) (i : Issue) (s : State) (t : Thread), s0.aloneOf i r.uses s t → t.onCompute = true →
    t.usable (s.chip.bars t) r.uses = true → r.legal t = true →
    ∀ cause v, r.trap s.chip t cause v → exec r.instr s0 = .next (s.trapped i t cause v)

/-- The first of some checks that fails, with its cause and tval (R219). -/
def firstOf (checks : List (Nat × (Nat → Prop))) (cause v : Nat) : Prop :=
  ∃ pre p post, checks = pre ++ p :: post ∧ p.1 = cause ∧ p.2 v ∧ ∀ q ∈ pre, ∀ w, ¬ q.2 w

/-- The tiles of a thread's block, none without a block (R154). -/
def Chip.tilesOf (c : Chip) (t : Thread) : List Tile := match c.blockOf t with | some b => b.tiles | none => []

/-- The phase barriers of a thread's block (R154). -/
def Chip.nbarOf (c : Chip) (t : Thread) : Nat := match c.blockOf t with | some b => b.nbar | none => 0

/-- Whether an offset lies outside the extent of a space for a thread on a compute core (R58). -/
def Chip.offSpace (c : Chip) (t : Thread) (space o : Nat) : Prop :=
  match space, c.blockOf t with
  | 0, _ => False
  | _, none => True
  | 1, some b => b.extent ≤ o
  | 4, some _ => t.lsbytes ≤ o
  | k, some b => c.spaceAddr b k o = none

/-- The lowest number of a set. -/
def lowest (p : Nat → Prop) (v : Nat) : Prop := p v ∧ ∀ w, p w → v ≤ w

/-- Rows of the phase-barrier forms and the tile wait: a barrier or a tile that the block does not have, and for all but pbinit a poisoned
word (R350, R351, R353). -/
def barrierTraps (k : BitVec 12) (rs1 : BitVec 5) : List TrapRow :=
  let n := k.toNat
  let none_ (c : Chip) (t : Thread) : Nat × (Nat → Prop) :=
    (49, fun v => v = n ∧ match c.blockOf t with | some b => b.isTask = true ∨ b.nbar ≤ n | none => True)
  let bad (c : Chip) (t : Thread) : Nat × (Nat → Prop) :=
    (28, fun v => ∃ b, c.blockOf t = some b ∧ c.pbPoisoned b n = true ∧ v = (b.spbytes + 63) / 64 * 64 + 8 * n)
  let row (i : Instr) (reads : Bool) : TrapRow := {
    instr := i, uses := { reads := [spanX rs1.toNat] }
    trap := fun c t => firstOf (none_ c t :: if reads then [bad c t] else []) }
  [row (.pbinit k rs1) false, row (.pbarr k rs1) true, row (.pbwait k rs1) true, row (.pbarw k rs1) true,
   { instr := .twait k, trap := fun c t => firstOf [(51, fun v => v = n ∧ (c.tilesOf t).length ≤ n)] }]

/-- Rows of the tile words and the fragment loads of one thread: a tile that the block does not have, a tile beyond the program data, a
row length that the swizzle does not take, and a read that does not fit its tile, at the lowest row and column outside (R375, R384). -/
def tileTraps (f : Long) : List TrapRow :=
  let w (t : Thread) : Nat := srcOf t.regs f.a 64 false
  let noTile (c : Chip) (t : Thread) : Nat × (Nat → Prop) := (51, fun v => v = w t % 64 ∧ (c.tilesOf t).length ≤ w t % 64)
  let rowBytes (t : Thread) : Nat := 16 * (w t / 2 ^ 32 % 512 + 1)
  let rows (t : Thread) : Nat := w t / 2 ^ 20 % 4096 + 1
  let base (t : Thread) : Nat := 64 * (w t / 64 % 2 ^ 14)
  let data (c : Chip) (t : Thread) : Nat := match c.blockOf t with | some b => (b.spbytes + 63) / 64 * 64 | none => 0
  let multiple (t : Thread) : Nat := match w t / 2 ^ 41 % 4 with | 0 => 16 | 2 => 64 | _ => 128
  let load (i : Instr) (nRows nCols : Nat) : TrapRow := {
    instr := i, uses := { strict := [spanI f.a], writes := [spanI f.d] }, legal := fun t => decide (w t < 2 ^ 31)
    trap := fun c t => firstOf [noTile c t, (25, fun v =>
      let tl := (c.tilesOf t).getD (w t % 64) {}
      let row0 := w t / 64 % 4096
      let col0 := w t / 2 ^ 18 % 8192
      let out (i k : Nat) : Prop := row0 ≤ i ∧ i < row0 + nRows ∧ col0 ≤ k ∧ k < col0 + nCols ∧ (tl.rows ≤ i ∨ tl.rowBytes ≤ k)
      ∃ i k, out i k ∧ (∀ i' k', out i' k' → i < i' ∨ (i = i' ∧ k ≤ k')) ∧ v = tl.base + i * tl.rowBytes + k)] }
  let es := 2 ^ (f.x.toNat % 4)
  [{ instr := .tdef f, uses := { strict := [spanI f.a] }, legal := fun t => decide (w t < 2 ^ 43)
     trap := fun c t => firstOf [noTile c t,
       (25, lowest fun o => base t ≤ o ∧ o < base t + rows t * rowBytes t ∧ data c t ≤ o),
       (27, fun v => v = 2 ^ t.bit + 2 ^ 32 ∧ rowBytes t % multiple t ≠ 0)] },
   { instr := .trel f, uses := { strict := [spanI f.a] }, legal := fun t => decide (w t < 64), trap := fun c t => firstOf [noTile c t] },
   load (.mld f) 1 (fWidth f.d / 8), load (.mldt f) (fWidth f.d / (8 * es)) es]

/-- Rows of the copies of one thread (R341): its phase barrier, its tile, and the lowest offset outside a space or the tile; a fill that
would bring a tile more bytes than it holds traps at the tile's end (R249). -/
def copyTraps (f : Long) : List TrapRow :=
  let row (i : Instr) (form : CopyForm) (ps : List Span) : TrapRow := {
    instr := i, uses := { strict := [spanI f.d, spanI f.a, spanI f.b] ++ ps }, legal := fun t => copyLegal form (copyWords f t)
    trap := fun c t =>
      let o := copyOf f form t (c.tilesOf t) 0
      let tile : Option Nat := match o.kind with | .fill k _ => some k | .drain k => some k | _ => none
      let tl : Tile := match tile with | some k => (c.tilesOf t).getD k {} | none => {}
      let fills : Bool := match o.kind with | .fill _ _ => true | _ => false
      let drains : Bool := match o.kind with | .drain _ => true | _ => false
      let first : Nat := match o.kind with | .fill _ n => n | _ => 0
      let out (e : End) (stride x : Nat) : Prop := ∃ r j, r < o.rows ∧ j < o.rowBytes ∧
        x = (e.addr + BitVec.ofNat 64 (r * stride)).toNat + j ∧ c.offSpace t e.space x
      firstOf [
        (49, fun v => v = o.pb ∧ o.pb ≠ 255 ∧ c.nbarOf t ≤ o.pb),
        (51, fun v => tile = some v ∧ (c.tilesOf t).length ≤ v),
        (25, lowest fun x => (fills = true ∧ tl.rows < first + o.rows ∧ x = tl.base + max first tl.rows * tl.rowBytes) ∨
          (drains = false ∧ out o.src o.srcStride x) ∨ (fills = false ∧ out o.dst o.dstStride x)),
        (25, fun v => fills = true ∧ TileNeed.fillable.met tl = true ∧
          tl.bytes < (if tl.state = .filling then tl.issued else 0) + o.rows * o.rowBytes ∧ v = tl.base + tl.bytes)] }
  [row (.cpy f) .cpy [], row (.cpys f) .cpys [(fStart f.b + 16, 16)], row (.tfill f) .tfill [], row (.tdrn f) .tdrn []]

/-- Rows of the multiplies and transfers of one thread: an invalid descriptor (R241, R242), its phase barrier, its tile, and the lowest
offset outside the accumulators, the weight buffer or a space (R376, R378). -/
def matrixTraps (f : Long) : List TrapRow :=
  let multiply (i : Instr) (stream : Bool) : TrapRow := {
    instr := i, uses := { strict := [spanI f.a] ++ (if stream then [spanI f.b, (fStart f.b + 16, 16)] else []) }
    legal := fun t => !stream || decide (readSlices t.regs (fStart f.b + 16) 64 < 2 ^ 32)
    trap := fun c t =>
      let d := matDesc (srcOf t.regs f.a 64 false)
      let twin : Prop := ∃ b, c.blockOf t = some b ∧ b.twin = true ∧ t.core = b.core
      let acc : Nat := match c.blockOf t with | some b => b.accbytes | none => 0
      let wb : Nat := match c.blockOf t with | some b => b.wbbytes | none => 0
      let small : Prop := d.as_ = false ∧ ∃ tl, (c.tilesOf t)[d.at_]? = some tl ∧ (tl.rows < d.needRows ∨ tl.rowBytes < d.needBytes)
      let invalid : Prop := d.reserved ≠ 0 ∨ 1 < d.cm ∨ formatRow d.af d.bf = false ∨ (d.sp = true ∧ (d.bf < 2 ∨ 8 < d.bf)) ∨
        (d.ta = true ∧ (d.af < 0xC ∨ d.as_ = true)) ∨ d.as_ ≠ stream ∨ (d.tw = true ∧ ¬ twin) ∨ small
      let range (lo n own : Nat) : Nat → Prop := lowest fun o => lo ≤ o ∧ o < lo + n ∧ own ≤ o
      firstOf [
        (27, fun v => v = 2 ^ t.bit + 2 ^ 32 ∧ invalid),
        (49, fun v => v = d.pb ∧ d.pb ≠ 255 ∧ c.nbarOf t ≤ d.pb),
        (51, fun v => v = d.at_ ∧ d.as_ = false ∧ (c.tilesOf t).length ≤ d.at_),
        (25, range (4096 * d.ct) (4 * d.m * d.n) acc),
        (25, range (256 * d.woff) d.bBytes wb)] }
  let transfer (i : Instr) (x : Transfer) (ps : List Span) : TrapRow := {
    instr := i, uses := { strict := ps }, legal := fun t => xferLegal f x (copyWords f t)
    trap := fun c t =>
      let w := copyWords f t
      let pb := w.b / 2 ^ 32 % 256
      let twin : Bool := match c.blockOf t with | some b => b.twin | none => false
      let own : Nat := match c.blockOf t with | some b => if x = .wbld then b.wbbytes else b.accbytes | none => 0
      let at_ := if x = .accdr then w.a else w.d
      firstOf [
        (49, fun v => v = pb ∧ pb ≠ 255 ∧ c.nbarOf t ≤ pb),
        (25, fun v => f.x.toNat / 64 = 1 ∧ twin = false ∧ v = at_),
        (25, lowest fun o => at_ ≤ o ∧ o < at_ + xferOwn f x w ∧ own ≤ o),
        (25, lowest fun o => ∃ j, j < xferMem f x w ∧ o = (if x = .accdr then w.d else w.a) + j ∧ c.offSpace t f.dstSpace o)] }
  [multiply (.mma f) false, multiply (.mmas f) true, transfer (.wbld f) .wbld [spanI f.d, spanI f.a, spanI f.b],
   transfer (.accld f) .accld [spanI f.d, spanI f.a, spanI f.b], transfer (.acczr f) .acczr [spanI f.d, spanI f.b],
   transfer (.accdr f) .accdr [spanI f.d, spanI f.a, spanI f.b]]

/-- Rows of the loads, stores and atomics of one thread: an offset outside its space, a misaligned atomic, and an operation that its
target does not support (R58, R60, R70). -/
def accessTraps (f : Long) : List TrapRow :=
  let bound (off : Thread → Nat) (n : Nat) (c : Chip) (t : Thread) : Nat × (Nat → Prop) :=
    (25, fun v => v = off t ∧ ∃ j, j < n ∧ c.offSpace t f.space (off t + j))
  let imm (t : Thread) : Nat := (((srcOf t.regs f.a 64 false : Nat) + f.b.toInt : Int) % 2 ^ 64).toNat
  let index (t : Thread) : Nat :=
    (((srcOf t.regs f.a 64 false : Nat) + sval (fWidth f.b) (readSlices t.regs (fStart f.b) (fWidth f.b)) : Int) % 2 ^ 64).toNat
  let plain (i : Instr) (u : Uses) (off : Thread → Nat) : TrapRow := {
    instr := i, uses := u, trap := fun c t => firstOf [bound off (fWidth f.d / 8) c t] }
  let addr (t : Thread) : Nat := srcOf t.regs f.a 64 false
  let atomic (i : Instr) (flt cas : Bool) (w : Nat) : TrapRow := {
    instr := i
    uses := { strict := [spanI f.a, spanOf flt f.b] ++ (if cas then [spanI f.d] else []), writes := [spanOf flt f.d] }
    trap := fun c t =>
      let narrow : Bool := !flt && decide (w < 32)
      -- the target is reached and takes requests, and does not support the operation
      let unsupported : Prop := c.accessStop t f.space (addr t) (w / 8) .store = none ∧
        ∃ p, c.locate t f.space (addr t) (addr t) .store = .inr (.phys p) ∧
          match c.targetOf t p.pa with
          | .main l => c.refuses (c.homeOf l) = false ∧ c.lineHeldFor t.id (l / 64) true = false ∧ c.recallWaits (l / 64) = false ∧
              (narrow = true ∨ (homeIsLdie l = true ∧ flt = true))
          | .onDie l => l / 2 ^ 29 % 8 ≠ 1 ∧ narrow = true
          | _ => False
      firstOf [bound addr (w / 8) c t, (6, fun v => v = addr t ∧ addr t % (w / 8) ≠ 0), (30, fun v => v = addr t ∧ unsupported)] }
  let int (i : Instr) : TrapRow := atomic i false false (fWidth f.d)
  let flt (i : Instr) : TrapRow := atomic i true false (fmtOf f.d).width
  [plain (.ld f) { strict := [spanI f.a], writes := [spanI f.d] } imm,
   plain (.ldr f) { strict := [spanI f.a, spanI f.b], writes := [spanI f.d] } index,
   plain (.st f) { strict := [spanI f.a, spanI f.d] } imm, plain (.str f) { strict := [spanI f.a, spanI f.d, spanI f.b] } index,
   int (.aadd f), int (.aand f), int (.aor f), int (.axor f), int (.amin f), int (.amax f), int (.aminu f), int (.amaxu f),
   int (.axchg f), atomic (.acas f) false true (fWidth f.d), flt (.afadd f), flt (.afmin f), flt (.afmax f)]

/-- The members of a group give an instruction different operand words: every member takes cause 27 with the group's mask (R242, R372). -/
def tornWords (f : Long) : Prop :=
  let w (t : Thread) : Nat := srcOf t.regs f.a 64 false
  let stream (t : Thread) : Nat × Nat := (srcOf t.regs f.b 64 false, readSlices t.regs (fStart f.b + 16) 64)
  let a : List Span := [spanI f.a]
  let torn (n : Instr) (u : Uses) (legal : Thread → Bool) (differ : Thread → Thread → Prop) : Prop :=
    n.wellFormed = true → f.grouped = true →
    ∀ (s0 : State) (i : Issue) (s : State) (t0 : Thread) (ts : List Thread), s0.togetherOf i f.g.toNat u s t0 ts →
      (∀ t ∈ ts, t.usable (s.chip.bars t) u = true ∧ legal t = true) → (∃ t ∈ ts, ∃ v ∈ ts, differ t v) →
      exec n s0 = .next { s with
        chip := ts.foldl (fun c t => c.trapAt t.id 27 (s.chip.gmOf t0 f.g.toNat).toNat i.word) (s.chip.gathered f.g.toNat ts) }
  torn (.tdef f) { strict := a } (fun t => decide (w t < 2 ^ 43)) (fun t v => w t ≠ w v) ∧
  torn (.trel f) { strict := a } (fun t => decide (w t < 64)) (fun t v => w t ≠ w v) ∧
  torn (.mld f) { strict := a, writes := [spanI f.d] } (fun t => decide (w t < 2 ^ 31)) (fun t v => w t ≠ w v) ∧
  torn (.mldt f) { strict := a, writes := [spanI f.d] } (fun t => decide (w t < 2 ^ 31)) (fun t v => w t ≠ w v) ∧
  torn (.mma f) { strict := a } (fun _ => true) (fun t v => w t ≠ w v) ∧
  torn (.mmas f) { strict := a ++ [spanI f.b, (fStart f.b + 16, 16)] } (fun t => decide ((stream t).2 < 2 ^ 32))
    (fun t v => w t ≠ w v ∨ stream t ≠ stream v)

/-- What stops a load, store or atomic of one thread beyond its slices leaves the instruction without effect (R220). -/
def MemRow.stops (r : MemRow) (f : Long) : Prop :=
  r.instr.wellFormed = true → f.grouped = false →
  ∀ (s0 : State) (i : Issue) (s : State) (t : Thread), s0.aloneOf i r.uses s t → t.usable (s.chip.bars t) r.uses = true →
    ∀ x, r.stop s.chip [t] t = some x → exec r.instr s0 = .next { s with chip := s.chip.applyStop t.id i.word x }

/-- What stops an access, at its lowest byte (R60, R219): a byte without a translation misses, one that the thread may not reach takes an
access fault (R23, R26, R27, R57, R100), and so does the first byte of I/O that the access may not reach in its form (R27). -/
def accessChecks : Prop :=
  ∀ (c : Chip) (t : Thread) (space off n : Nat) (acc : Access),
    let byte (j : Nat) : Nat := if space = 0 then (off + j) % 2 ^ 64 else off + j
    let at_ (j : Nat) : Stop ⊕ ByteLoc := c.locate t space off (byte j) acc
    let io (j : Nat) : Prop := ∃ p, at_ j = .inr (.phys p) ∧ c.targetOf t p.pa = .io ∧ ioFits off n p.pa = false
    (∀ x, c.accessStop t space off n acc = some x ↔
      (∃ j, j < n ∧ at_ j = .inl x ∧ ∀ k, k < j → ∃ y, at_ k = .inr y) ∨
      ((∀ k, k < n → ∃ y, at_ k = .inr y) ∧ ∃ j, j < n ∧ x = .access (byte j) acc ∧ io j ∧ ∀ k, k < j → ¬ io k)) ∧
    ∀ a, t.inWindow a = false →
      (c.xlate t a acc = none → c.locate t 0 off a acc = .inl (.miss a acc)) ∧
      ∀ p, c.xlate t a acc = some p →
        let user : Prop := c.modeOf t .load = .u
        (c.targetOf t p.pa = .fault ∨ ((∃ l, c.targetOf t p.pa = .onDie l) ∧ user) ∨
          (c.targetOf t p.pa = .io ∧ user ∧ p.pa / 2 ^ 48 % 8 ≠ 5)) →
        c.locate t 0 off a acc = .inl (.access a acc)

/-- A fault parks a thread of a compute core (R98): it joins the first record of its address space, page and kind; else it has a new
record, while fewer than 4,096 are outstanding; else it waits in the miss queue for one. -/
def Chip.parksOn (c d : Chip) (t : Thread) (core va gpa cause flags : Nat) (acc : Access) : Prop :=
  let u := core / 80
  let un := c.unit u
  let joins (r : FaultRec) : Prop := r.ctx.same t.ctx = true ∧ r.va.toNat / 4096 = va / 4096 ∧ r.acc = acc
  let parked (n : Nat) (x : Unit_) : Prop :=
    d = (c.setUnit u x).onThread t.id fun k => { k with wait := .parked u n, waitSince := c.tick }
  (∀ pre r post, un.records = pre ++ r :: post → joins r → (∀ q ∈ pre, ¬ joins q) →
    parked r.number { un with
      records := un.records.map fun k => if k.number = r.number then { k with waiters := k.waiters ++ [t.id] } else k }) ∧
  ((∀ r ∈ un.records, ¬ joins r) → un.records.length < 4096 → ∃ n, parked n { un with
    nextRec := (n + 1) % 65536
    records := un.records ++ [{
      number := n, ctx := t.ctx, va := BitVec.ofNat 64 va, gpa := BitVec.ofNat 64 gpa, cause := cause, acc := acc, flags := flags
      waiters := [t.id], locator := locatorOf t.place, written := false }] }) ∧
  ((∀ r ∈ un.records, ¬ joins r) → 4096 ≤ un.records.length →
    d = (c.setUnit u { un with noRecord := un.noRecord ++ [t.id] }).onThread t.id fun k => { k with wait := .miss, waitSince := c.tick })

/-- A miss of a thread of a compute core (R97): with 64 other pages in the core's miss file it waits as a load of global memory does; it
joins a miss of its page and address space; else it is a new miss. -/
def Chip.missesOn (c d : Chip) (t : Thread) (core va : Nat) (acc : Access) : Prop :=
  let u := core / 80
  let un := c.unit u
  let mine (m : Miss) : Bool := m.ctx.same t.ctx && decide (m.vpage = va / 4096)
  let file := un.misses.filter fun m => m.cores.contains core
  let waits (w : Wait) (k : Thread) : Thread := { k with wait := w, waitSince := c.tick }
  let full : Prop := 64 ≤ file.length ∧ ∀ m ∈ file, mine m = false
  let joined (m : Miss) : Miss := { m with
    waiters := m.waiters ++ [t.id], cores := if core ∈ m.cores then m.cores else m.cores ++ [core]
    late := if m.acc = acc ∧ m.mode = t.mode then m.late else m.late ++ [t.id] }
  (full → d = c.onThread t.id (waits .queueFull)) ∧
  (¬ full → (∃ m ∈ un.misses, mine m = true) →
    d = (c.setUnit u { un with misses := un.misses.map fun m => if mine m then joined m else m }).onThread t.id (waits .miss)) ∧
  (¬ full → (∀ m ∈ un.misses, mine m = false) →
    d = ({ c.setUnit u { un with misses := un.misses ++ [{
        id := c.eng.next, ctx := t.ctx, vpage := va / 4096, va := va, acc := acc, mode := t.mode, waiters := [t.id], cores := [core]
        done := none }] } with eng := { c.eng with next := c.eng.next + 1 } } : Chip).onThread t.id (waits .miss))

/-- Where the faults of a thread of a compute core outside a handler are taken (R97, R98, R218): an access fault, with cause 1, 5 or 7,
and a walk's fault park it; a miss joins its die's queue while that has room and nobody waits for it. -/
def faultsTaken : Prop :=
  ∀ (c : Chip) (t : Thread) (core q ig b : Nat) (word : Word), c.thread? t.id = some t → t.place = .slot core q ig b → t.handler = false →
    let free (u : Thread) : Thread := { u with wait := .ready, converged := false, early := none, record := [] }
    let c0 := ((c.onThread t.id free).unqueue t.id).unread t.id
    (∀ va acc, c0.parksOn (c.applyStop t.id word (.access va acc)) t core va 0
      (match acc with | .fetch => 1 | .load => 5 | .store => 7) 0 acc) ∧
    (∀ va acc, c.disp.line = [] → c.disp.spilled = [] → c.walkLength (core / 80) < 4096 →
      c0.missesOn (c.applyStop t.id word (.miss va acc)) t core va acc) ∧
    (∀ (m : Miss) (cause gpa flags : Nat), m.done = some (.inr (cause, gpa, flags)) → c.missWaiters m = [t] → m.late = [] →
      let x := c.unit (core / 80)
      let gone := c.setUnit (core / 80) { x with misses := x.misses.filter fun k => k.id ≠ m.id }
      (gone.onThread t.id fun u => { u with wait := .ready }).parksOn (c.answerMiss (core / 80) m) t core m.va gpa cause flags m.acc)

/-! ## Latency cores -/

/-- Two words agree but at some bits. -/
def sameBut (a b : Word) (js : List Nat) : Prop := ∀ j, j ∉ js → a.getLsbD j = b.getLsbD j

/-- A mode as the fields MPP and SPP number it. -/
def Mode.code : Mode → Nat
  | .u => 0 | .s => 1 | .m => 3

/-- Where a trap of a latency core goes and what it leaves (R101, R116; notes/assumptions/8): to M mode from M mode and where M mode does
not delegate the cause, else to HS mode, or to VS mode where the hart is virtual and HS mode delegates it on. The level's registers hold
the pc, the cause and the values, its status the interrupt enable and the mode from before, and the pc is at its vector. -/
def hartEntry : Prop :=
  ∀ (c : Chip) (t : Thread) (l k : Nat) (h : Hart) (cause : Word) (tval gpa : Nat) (guest : Bool),
    c.thread? t.id = some t → t.place = .hart l k → c.hart? l k = some h →
    let n := cause.toNat % 64
    let irq := cause.getLsbD 63
    let given : Prop := t.mode ≠ .m ∧ (if irq then h.mideleg else h.medeleg).getLsbD n = true
    let on : Prop := h.virt = true ∧ (if irq then h.hideleg else h.hedeleg).getLsbD n = true
    let gva : Bool := guest || (h.virt && ([0, 1, 3, 4, 5, 6, 7, 12, 13, 15, 20, 21, 23] : List Word).contains cause)
    let tv := BitVec.ofNat 64 tval
    let goes (h' : Hart) (vec own : Word) (lv : Mode) : Prop :=
      c.hartFault t cause tval gpa guest = (c.setHart h').onThread t.id fun u => { u with
        pc := (vec &&& ~~~3) + (if vec.getLsbD 0 && irq then 4 * (own &&& 0x7FFF_FFFF_FFFF_FFFF) else 0)
        mode := lv, wait := .ready, called := false, record := [] }
    let supervisor (old st : Word) : Prop := st.getLsbD 5 = old.getLsbD 1 ∧ st.getLsbD 1 = false ∧
      st.getLsbD 8 = decide (t.mode = .s) ∧ sameBut st old [1, 5, 8]
    (¬ given → ∃ st,
      goes { h with mstatus := st, mepc := t.pc, mcause := cause, mtval := tv, mtval2 := BitVec.ofNat 64 gpa, mtinst := 0, virt := false }
        h.mtvec cause .m ∧
      st.getLsbD 7 = h.mstatus.getLsbD 3 ∧ st.getLsbD 3 = false ∧ (st.extractLsb' 11 2).toNat = t.mode.code ∧
      st.getLsbD 39 = (h.virt && decide (t.mode ≠ .m)) ∧ st.getLsbD 38 = gva ∧ sameBut st h.mstatus [3, 7, 11, 12, 38, 39]) ∧
    (given → ¬ on → ∃ st hs,
      goes { h with mstatus := st, hstatus := hs, sepc := t.pc, scause := cause, stval := tv, htval := BitVec.ofNat 64 gpa, htinst := 0, virt := false }
        h.stvec cause .s ∧
      supervisor h.mstatus st ∧ hs.getLsbD 7 = h.virt ∧ hs.getLsbD 6 = gva ∧
      (h.virt = true → hs.getLsbD 8 = decide (t.mode = .s)) ∧ sameBut hs h.hstatus (if h.virt then [6, 7, 8] else [6, 7])) ∧
    (given → on → ∃ st,
      let own := if irq then cause - 1 else cause
      goes { h with vsstatus := st, vsepc := t.pc, vscause := own, vstval := tv } h.vstvec own .s ∧ supervisor h.vsstatus st)

/-- What reaches that entry (R101, R111, R116, R218): every trap and every access fault of a thread there, a page fault of its walk, and
the interrupt that is due; that one is pending and enabled, and its level's interrupts are on or its mode is below. -/
def hartTakes : Prop :=
  ∀ (c : Chip) (t : Thread) (l k : Nat) (h : Hart) (word : Word),
    c.thread? t.id = some t → t.place = .hart l k → c.hart? l k = some h →
    let free (u : Thread) : Thread := { u with wait := .ready, converged := false, early := none, record := [] }
    let c0 := ((c.onThread t.id free).unqueue t.id).unread t.id
    (∀ cause tval, cause ≠ 31 → c.takeTrap t.id cause tval word = c.hartFault t (BitVec.ofNat 64 cause) tval 0 false) ∧
    (∀ va acc, ∃ u, c0.thread? t.id = some u ∧ c.applyStop t.id word (.access va acc) =
      c0.hartFault u (match acc with | .fetch => 1 | .load => 5 | .store => 7) va 0 false) ∧
    (∀ cause va gpa flags acc, c.takeFault t.id cause va gpa flags acc = c.hartFault t (BitVec.ofNat 64 cause) va gpa false) ∧
    (∀ n, h.nextIrq t.mode = some n →
      c.takeIrq t.id = (c.unqueue t.id).hartFault t (BitVec.ofNat 64 (2 ^ 63 + n)) 0 0 false ∧
      (h.mip ||| h.sip ||| h.hvip).getLsbD n = true ∧ (h.mie ||| h.sie ||| h.hie).getLsbD n = true ∧
      (if h.mideleg.getLsbD n = false then t.mode ≠ .m ∨ h.mstatus.getLsbD 3 = true
       else if n ∈ [2, 6, 10] ∧ h.hideleg.getLsbD n = true then h.virt = true ∧ (t.mode = .u ∨ h.vsstatus.getLsbD 1 = true)
       else t.mode ≠ .m ∧ (t.mode = .u ∨ h.virt = true ∨ h.mstatus.getLsbD 1 = true)))

/-- The returns of a latency core (R101, R274; notes/assumptions/8): sret in S mode, where TSR or VTSR does not trap it, and in M mode;
mret in M mode; else cause 2, or 22 where HS mode may execute it. -/
def hartReturn : Prop :=
  ∀ (s0 : State) (i : Issue) (s : State) (t : Thread) (l k : Nat) (h : Hart) (word : Word),
    s0.aloneOf i {} s t → t.place = .hart l k → s.chip.hart? l k = some h →
    let goes (op : Priv) (h' : Hart) (pc : Word) (md : Mode) : Prop :=
      s0.standard word 4 (.priv op) = { s with chip := ((s.chip.setHart h').onThread t.id fun u => { u with
        pc := pc, mode := md, instret := u.instret + 1 }).unqueue t.id }
    let stopped (op : Priv) (cause : Nat) : Prop :=
      s0.standard word 4 (.priv op) = { s with chip := s.chip.applyStop t.id i.word (.trap cause word.toNat) }
    let back (old st : Word) (js : List Nat) : Prop := st.getLsbD 1 = old.getLsbD 5 ∧ st.getLsbD 5 = true ∧ st.getLsbD 8 = false ∧
      sameBut st old ([1, 5, 8] ++ js)
    let prior (old : Word) : Mode := if old.getLsbD 8 then .s else .u
    let may : Prop := t.mode = .m ∨ (t.mode = .s ∧ (if h.virt then h.hstatus else h.mstatus).getLsbD 22 = false)
    (may → h.virt = false → ∃ st, goes .sret { h with
        mstatus := st, virt := h.hstatus.getLsbD 7, hstatus := h.hstatus &&& ~~~0x80 } h.sepc (prior h.mstatus) ∧
      back h.mstatus st [17] ∧ st.getLsbD 17 = false) ∧
    (may → h.virt = true → ∃ st, goes .sret { h with vsstatus := st } h.vsepc (prior h.vsstatus) ∧ back h.vsstatus st []) ∧
    (¬ may → stopped .sret (if h.virt then 22 else 2)) ∧
    (t.mode = .m → ∃ st,
      let mpp := (h.mstatus.extractLsb' 11 2).toNat
      goes .mret { h with mstatus := st, virt := decide (mpp ≠ 3) && h.mstatus.getLsbD 39 } h.mepc
        (if mpp = 3 then .m else if mpp = 1 then .s else .u) ∧
      st.getLsbD 3 = h.mstatus.getLsbD 7 ∧ st.getLsbD 7 = true ∧ (st.extractLsb' 11 2).toNat = 0 ∧ st.getLsbD 39 = false ∧
      (mpp ≠ 3 → st.getLsbD 17 = false) ∧ sameBut st h.mstatus ([3, 7, 11, 12, 39] ++ if mpp = 3 then [] else [17])) ∧
    (t.mode ≠ .m → stopped .mret 2)

/-- CSRs of a latency core that hold what is written to them, with the bits that they hold (R101, R111; notes/assumptions/8): stthr, and
those of S, VS, HS and M mode. -/
def plainCsrs : List (Nat × Word) :=
  let all : Word := BitVec.allOnes 64
  [(0x5C0, ~~~63), (0x105, all), (0x106, all), (0x140, all), (0x141, ~~~1), (0x142, all), (0x143, all), (0x180, all),
   (0x205, all), (0x240, all), (0x241, ~~~1), (0x242, all), (0x243, all), (0x280, all),
   (0x602, ~~~0xF0_0E00), (0x605, all), (0x606, all), (0x607, ~~~1), (0x60A, all), (0x643, all), (0x64A, all), (0x680, all),
   (0x302, ~~~0x800), (0x303, all), (0x305, all), (0x306, all), (0x30A, all), (0x340, all), (0x341, ~~~1), (0x342, all), (0x343, all),
   (0x34A, all), (0x34B, all)]

/-- What a write of a CSR of a latency core changes (R101; notes/assumptions/8): such a CSR reads its bits of what was written, and every
other CSR reads as before; the status registers keep the bits that they do not hold. -/
def csrWrites : Prop :=
  ∀ (h : Hart) (v : Word),
    (∀ p ∈ plainCsrs, (h.write p.1 v).read p.1 = some (v &&& p.2) ∧ ∀ csr, csr ≠ p.1 → (h.write p.1 v).read csr = h.read csr) ∧
    (let st := (h.write 0x300 v).mstatus
     ∀ j, st.getLsbD j = if j ∈ [1, 3, 5, 7, 8, 11, 12, 17, 18, 19, 20, 21, 22, 38, 39] then v.getLsbD j else h.mstatus.getLsbD j) ∧
    (∀ j, (h.write 0x100 v).mstatus.getLsbD j = if j ∈ [1, 5, 8, 18, 19] then v.getLsbD j else h.mstatus.getLsbD j) ∧
    (∀ j, (h.write 0x200 v).vsstatus.getLsbD j = if j ∈ [1, 5, 8, 18, 19] then v.getLsbD j else h.vsstatus.getLsbD j) ∧
    (∀ j, (h.write 0x600 v).hstatus.getLsbD j = if j ∈ [6, 7, 8, 9, 20, 21, 22] then v.getLsbD j else h.hstatus.getLsbD j)

/-! ## Standard instructions -/

/-- A row of a standard instruction of one thread: its length, the slices it uses, what it needs beyond them, and the chip after it, before
the stack window follows a write of sp. -/
structure StdRow where
  std : Std
  len : Nat := 4
  uses : Uses
  ok : Chip → Thread → Bool := fun _ _ => true
  chip : Device → Chip → Thread → Chip

/-- The row says what the instruction does for a thread on its own, on any core (R101, R203). -/
def StdRow.alone (r : StdRow) : Prop :=
  ∀ (s0 : State) (i : Issue) (s : State) (t : Thread) (word : Word), s0.aloneOf i r.uses s t →
    t.usable (s.chip.bars t) r.uses = true → r.ok s.chip t = true →
    s0.standard word r.len r.std = { s with
      chip := let c := r.chip s.ioLoad s.chip t; (if touchesSp r.uses.writes then c.windowUpdate t.id else c).unqueue t.id }

/-- A thread has the value of an x register, and goes on after an instruction of a length. -/
def Chip.gives (c : Chip) (t : Thread) (len rd : Nat) (v : Word) (poison : Bool) : Chip :=
  (c.giveTo t.id { sets := [(16 * rd, 64, v.toNat)], poison := poison }).onThread t.id fun u => u.retired len

/-- Rows of moves, sums, logic, shifts, compares, products and quotients, jumps and branches (R101): of zero a quotient is all ones and a
remainder the dividend. -/
def stdCalcRows (len rd rs1 rs2 : Nat) (imm : Word) : List StdRow :=
  let x (k : Nat) (t : Thread) : Word := readX t.regs k
  let row (i : Std) (srcs : List Nat) (g : Thread → Word) : StdRow := {
    std := i, len := len, uses := { reads := srcs.map spanX, writes := [spanX rd] }
    chip := fun _ c t => c.gives t len rd (g t) (t.poisoned (c.bars t) (srcs.map spanX)) }
  let two (op : Alu) (g : Word → Word → Word) : List StdRow :=
    [row (.alu op false rd rs1 rs2) [rs1, rs2] fun t => g (x rs1 t) (x rs2 t), row (.aluI op false rd rs1 imm) [rs1] fun t => g (x rs1 t) imm]
  let half (op : Alu) (g : BitVec 32 → BitVec 32 → BitVec 32) : List StdRow :=
    let lo (v : Word) : BitVec 32 := v.setWidth 32
    [row (.alu op true rd rs1 rs2) [rs1, rs2] fun t => (g (lo (x rs1 t)) (lo (x rs2 t))).signExtend 64,
     row (.aluI op true rd rs1 imm) [rs1] fun t => (g (lo (x rs1 t)) (lo imm)).signExtend 64]
  let jump (i : Std) (srcs : List Nat) (target : Thread → Word) : StdRow := {
    std := i, len := len, uses := { strict := srcs.map spanX, writes := [spanX rd] }
    chip := fun _ c t => c.onThread t.id fun u =>
      { u.apply (c.bars u) { sets := [(16 * rd, 64, (t.pc + BitVec.ofNat 64 len).toNat)] } with
        pc := target t, instret := u.instret + 1, arrived := none } }
  let branch (cond : Nat) (g : Word → Word → Bool) : StdRow := {
    std := .branch cond rs1 rs2 imm, len := len, uses := { strict := [spanX rs1, spanX rs2] }
    chip := fun _ c t => c.onThread t.id fun u => { u with
      pc := if g (x rs1 t) (x rs2 t) then t.pc + imm else t.pc + BitVec.ofNat 64 len, instret := u.instret + 1, arrived := none } }
  [row (.lui rd imm) [] fun _ => imm, row (.auipc rd imm) [] fun t => t.pc + imm] ++
  two .add (· + ·) ++ two .sub (· - ·) ++ two .and (· &&& ·) ++ two .or (· ||| ·) ++ two .xor (· ^^^ ·) ++
  two .sll (fun a b => a <<< (b.toNat % 64)) ++ two .srl (fun a b => a >>> (b.toNat % 64)) ++
  two .sra (fun a b => a.sshiftRight (b.toNat % 64)) ++ two .slt (fun a b => if a.slt b then 1 else 0) ++
  two .sltu (fun a b => if a.ult b then 1 else 0) ++ two .mul (· * ·) ++
  two .div (fun a b => if b = 0 then BitVec.allOnes 64 else a.sdiv b) ++ two .divu (fun a b => if b = 0 then BitVec.allOnes 64 else a / b) ++
  two .rem (fun a b => if b = 0 then a else a.srem b) ++ two .remu (fun a b => if b = 0 then a else a % b) ++
  half .add (· + ·) ++ half .sub (· - ·) ++ half .sll (fun a b => a <<< (b.toNat % 32)) ++
  [jump (.jal rd imm) [] fun t => t.pc + imm, jump (.jalr rd rs1 imm) [rs1] fun t => (x rs1 t + imm) &&& ~~~1,
   branch 0 (· == ·), branch 1 (· != ·), branch 4 BitVec.slt, branch 5 (fun a b => !a.slt b), branch 6 BitVec.ult, branch 7 (fun a b => !a.ult b)]

/-- Rows of the standard loads and stores, which are relaxed accesses of space 0 (R128), and of LR, SC and the A-extension's atomics, whose
scope is the pod (R71, R128). LR takes its line in M in the cache of a latency core, and its thread then has one reservation; SC stores and
gives 0 where that is held and younger than 1,024 cycles, else it gives 1; none is left after it. -/
def stdMemRows (len n rd rs1 rs2 : Nat) (sg aq rl : Bool) (imm : Word) : List StdRow :=
  let x (k : Nat) (t : Thread) : Word := readX t.regs k
  let at_ (t : Thread) : Nat := (x rs1 t + imm).toNat
  let va (t : Thread) : Nat := (x rs1 t).toNat
  let ext (signed : Bool) (v : Nat) : Word :=
    if signed then BitVec.ofInt 64 (sval (8 * n) (v % 2 ^ (8 * n))) else BitVec.ofNat 64 v
  let ordered (c : Chip) (t : Thread) : Option Stop :=
    (if rl then c.releaseStop t 5 false else none).or (if aq && t.onHart then c.promoteStop t 0 (va t) n else none)
  let granule (c : Chip) (t : Thread) : Nat :=
    match c.xlate t (va t) .load with
    | some p => (match c.targetOf t p.pa with | .main l => l / 64 | .onDie l => l / 64 | _ => 2 ^ 64 + va t / 64)
    | none => 2 ^ 64 + va t / 64
  let others (c : Chip) (t : Thread) : List Reservation := c.mem.resv.filter fun r => decide (r.thread ≠ t.id)
  let taken (c : Chip) (t : Thread) : Chip :=
    if !t.onHart then c else match c.locate t 0 (va t) (va t) .load with
      | .inr (.phys p) => (match p.pbmt, c.targetOf t p.pa with
        | 0, .main l => (c.recallLine (l / 64)).dirWrite t.agent (l / 64)
        | _, _ => c)
      | _ => c
  let io (c : Chip) (t : Thread) : Bool := match c.locate t 0 (va t) (va t) .load with
    | .inr (.phys p) => decide (c.targetOf t p.pa = .io)
    | _ => false
  let held (c : Chip) (t : Thread) : Bool :=
    c.mem.resv.any fun r => decide (r.thread = t.id ∧ r.granule = granule c t ∧ c.tick < r.since + 1024)
  let amo (op : Amo) (g : Nat → Nat → Nat) : StdRow := {
    std := .amo op n rd rs1 rs2 aq rl, uses := { strict := [spanX rs1, spanX rs2], writes := [spanX rd] }
    ok := fun c t => (c.atomicStop t true 0 (va t) n 0).isNone && (ordered c t).isNone
    chip := fun _ c t =>
      let r := c.atomic t true true 0 (va t) n aq rl 5 fun old => g old ((x rs2 t).toNat % 2 ^ (8 * n))
      r.2.2.gives t 4 rd (ext true r.1) r.2.1 }
  [{ std := .load n sg rd rs1 imm, len := len, uses := { strict := [spanX rs1], writes := [spanX rd] }
     ok := fun c t => (c.loadStop t 0 (at_ t) n).isNone
     chip := fun io c t => match c.ioAt t 0 (at_ t) .load with
       | none => let r := c.loadN t.id 0 (at_ t) n; r.2.2.gives t len rd (ext sg r.1) r.2.1
       | some pa => let r := io c pa n; r.2.gives t len rd (ext sg r.1) false },
   { std := .store n rs1 rs2 imm, len := len, uses := { strict := [spanX rs1, spanX rs2] }
     ok := fun c t => (c.accessStop t 0 (at_ t) n .store).isNone
     chip := fun _ c t =>
       let d := match c.ioAt t 0 (at_ t) .store with
         | none => c.storeN t.id 0 (at_ t) n (x rs2 t).toNat
         | some pa => if pa / 2 ^ 48 % 8 = 4 ∧ pa / 2 ^ 51 % 32 = c.pkg
           then { c with regWrites := c.regWrites ++ [(BitVec.ofNat 64 pa, x rs2 t)] } else c
       d.onThread t.id fun u => u.retired len },
   { std := .lr n rd rs1 aq rl, uses := { strict := [spanX rs1], writes := [spanX rd] }
     ok := fun c t => decide (va t % n = 0) && (c.loadStop t 0 (va t) n).isNone && !io c t && (ordered c t).isNone
     chip := fun _ c t =>
       let c := taken (if rl then c.release t.id 5 else c) t
       let r := c.loadIn t 0 (va t) n (if aq then 1 else 0) 5
       let d := { r.2 with mem := { r.2.mem with resv := others r.2 t ++ ([⟨t.id, granule r.2 t, r.2.tick⟩] : List Reservation) } }
       d.gives t 4 rd (ext true r.1.1) r.1.2 },
   { std := .sc n rd rs1 rs2 aq rl, uses := { strict := [spanX rs1, spanX rs2], writes := [spanX rd] }
     ok := fun c t => (c.atomicStop t true 0 (va t) n 0).isNone && (ordered c t).isNone && held c t
     chip := fun _ c t =>
       let c := { c with mem := { c.mem with resv := others c t } }
       let r := c.atomic t true true 0 (va t) n aq rl 5 fun _ => (x rs2 t).toNat % 2 ^ (8 * n)
       r.2.2.gives t 4 rd (if r.2.1 then 1 else 0) r.2.1 },
   { std := .sc n rd rs1 rs2 aq rl, uses := { strict := [spanX rs1, spanX rs2], writes := [spanX rd] }
     ok := fun c t => (c.atomicStop t true 0 (va t) n 0).isNone && (ordered c t).isNone && !held c t
     chip := fun _ c t => ({ c with mem := { c.mem with resv := others c t } } : Chip).gives t 4 rd 1 false },
   amo .add (fun a b => (a + b) % 2 ^ (8 * n)), amo .swap (fun _ b => b), amo .xor (· ^^^ ·), amo .or (· ||| ·), amo .and (· &&& ·),
   amo .min (fun a b => if sval (8 * n) b < sval (8 * n) a then b else a), amo .max (fun a b => if sval (8 * n) a < sval (8 * n) b then b else a),
   amo .minu min, amo .maxu max]

/-- Rows of a CSR instruction (R101, R274, R368): kind 1 writes, 2 sets and 3 clears bits; a set or clear of x0 or of immediate 0 writes
nothing; rd has the old value. They name a CSR that every core has, or one of a latency core in a mode that may name it. -/
def csrRows (kind rd csr src : Nat) (imm : Bool) : List StdRow :=
  let writes : Bool := decide (kind = 1) || decide (src ≠ 0)
  let value (t : Thread) : Word := if imm then BitVec.ofNat 64 src else readX t.regs src
  let new (old v : Word) : Word := if kind = 1 then v else if kind = 2 then old ||| v else old &&& ~~~v
  let reads (c : Chip) (t : Thread) : Word := match csr with
    | 1 => (t.fcsr.setWidth 5).setWidth 64
    | 2 => (t.fcsr >>> 5).setWidth 64
    | 3 => t.fcsr.setWidth 64
    | _ => c.csrRead t csr
  let puts (c : Chip) (t : Thread) (v : Word) : Chip := match csr with
    | 1 => c.onThread t.id fun u => { u with fcsr := (u.fcsr &&& 0xE0) ||| (v.setWidth 5).setWidth 8 }
    | 2 => c.onThread t.id fun u => { u with fcsr := (u.fcsr &&& 0x1F) ||| (v.setWidth 8 <<< 5) }
    | 3 => c.onThread t.id fun u => { u with fcsr := v.setWidth 8 }
    | _ => c.csrWrite t csr v
  let everywhere : Bool := decide (1 ≤ csr ∧ csr ≤ 3) || decide (0x806 ≤ csr ∧ csr ≤ 0x80D) || (!writes && decide (0x800 ≤ csr ∧ csr ≤ 0x80F))
  let row (ok : Chip → Thread → Bool) : StdRow := {
    std := .csr kind imm rd csr src
    uses := { strict := if imm || !writes then [] else [spanX src], writes := [spanX rd] }, ok := ok
    chip := fun _ c t =>
      let d := if writes then puts c t (new (reads c t) (value t)) else c
      d.gives t 4 rd (reads c t) false }
  let level (c : Chip) (t : Thread) : Nat := if t.mode = .m then 3 else if t.mode = .u then 0 else if (c.hartOf t).any (·.virt) then 1 else 2
  let named (c : Chip) (t : Thread) : Bool := t.onHart && (plainCsrs.map (·.1)).contains csr && decide (csr / 256 % 4 ≤ level c t) &&
    match c.hartOf t with
    | some h => decide (csr ≠ 0x180 ∨ h.virt = false ∨ t.mode = .m ∨ h.hstatus.getLsbD 20 = false) &&
        decide ((csr ≠ 0x180 ∧ csr ≠ 0x680) ∨ t.mode ≠ .s ∨ h.virt = true ∨ h.mstatus.getLsbD 20 = false)
    | none => false
  [row fun _ _ => everywhere, row named]

/-! ## Traps, frames and invariants -/

/-- The default route of a trap on a compute core (R116): causes 2 and 3 migrate, 24 waits for slices up to a multiple of 16, 31
stays with the job, 52 ends the thread, and the others follow the grid policy. -/
def Chip.defaultRoute (c : Chip) (t : Thread) (cause tval : Nat) (word : Word) : Chip :=
  let waits (w : Wait) : Chip := c.onThread t.id fun u => { u with wait := w, waitSince := c.tick }
  match cause with
  | 2 => waits (.moving .automatic 2 word 0)
  | 3 => waits (.moving .automatic 3 word 0)
  | 24 => c.onThread t.id fun u => { u with
      wait := .slices (min 512 ((tval + 16) / 16 * 16)), waitSince := c.tick, claimed := c.nextClaim }
  | 31 => (c.onThread t.id fun u => { u with wait := .ready }).failJob tval
  | 52 => c.endThread t.id
  | _ => c.gridPolicy t cause tval

/-- Whether hardware absorbs a cause by window growth: the lane has the slices that the footprint lacks (R116, R210). -/
def Chip.grows (c : Chip) (t : Thread) (cause tval : Nat) : Bool :=
  cause = 24 && decide (min 512 ((tval + 16) / 16 * 16) - t.tfoot ≤ c.laneFree t.lane3.1 t.lane3.2.1 t.lane3.2.2)

/-- A register that no register instruction or store writes has the value it had: the modes, the hook's registers, the
footprint, the identity and the lane-store allocation (R206, R222, R264, R368). -/
def Thread.sameRest (t u : Thread) : Prop :=
  u.id = t.id ∧ u.place = t.place ∧ u.mode = t.mode ∧ u.tmode = t.tmode ∧ u.temu = t.temu ∧ u.tdeleg = t.tdeleg ∧ u.tepc = t.tepc ∧
  u.tcause = t.tcause ∧ u.tval = t.tval ∧ u.tfoot = t.tfoot ∧ u.tgrid = t.tgrid ∧ u.tblk = t.tblk ∧ u.ttid = t.ttid ∧
  u.trole = t.trole ∧ u.tprio = t.tprio ∧ u.ctx = t.ctx ∧ u.block = t.block ∧ u.tokens = t.tokens ∧ u.lsbytes = t.lsbytes

/-- The byte that a core finds at a location of main memory: its own dirty or leased copy, else what the L2s and homes hold
(R63-R65). -/
def Chip.seen (c : Chip) (core loc : Nat) : Byte :=
  match c.l1Line? core (loc / 64) with
  | some l => if l.dirty.getLsbD (loc % 64) || decide (c.tick < l.leaseEnd) then lineByte l.data (loc % 64) else c.getByte loc
  | none => c.getByte loc

/-- The byte that the stack window of a thread holds at an address, if it is valid there (R216). -/
def Thread.winByte (t : Thread) (a : Nat) : Option Byte :=
  match t.win.unit? a with
  | some u => if u.valid.getLsbD (a % 64) then some (lineByte u.data (a % 64)) else none
  | none => none

/-- The counters of the signing keys (R46, R48, R49): at most as many signatures as each key has, and every identity index that
was used once, in falling order, below the counter; and a stage of bring-up (R54). -/
def Trust.keysInv (t : Trust) : Prop :=
  t.stage ≤ 7 ∧ t.identity ≤ 2 ^ 20 ∧ t.sessionIndex ≤ 2 ^ 16 ∧ t.usedIdentity.Pairwise (· > ·) ∧ ∀ k ∈ t.usedIdentity, k < t.identity

end Sys2Proof.Machine
end

