-- ==== Sys2Proof/Certificates/Slice0/Obligations.lean ====
section
/-! DEFINITION. The statements for the provers. A family says of each of its rows (Sys2Proof/Safety.lean), in every form and with
every operand, that the instruction completes and what the whole next state then is. -/
open Sys2Proof Sys2Proof.Machine

/-! ## Encodings -/

/-- Words that the manual writes out decode to what they stand for (R273-R284); the words stand in the programs of files 19 to 21 and
the examples of 17_isa_control_and_sync.md. -/
def Obligations.DecodeWords : Prop :=
  decodeWord 0x0078_0770_774C_113F#64 = (8, .op (.addZ ⟨0x774#12, 0x770#12, 0x780#12, 0x00#8, 12#4, false⟩)) ∧
  decodeWord 0x8177_0780_7740_1D3F#64 = (8, .op (.addminZ ⟨0x774#12, 0x780#12, 0x770#12, 0x81#8, 0#4, false⟩)) ∧
  decodeWord 0x0004_4F30_F30C_0F3F#64 = (8, .op (.shi ⟨0xF30#12, 0xF30#12, 0x044#12, 0x00#8, 12#4, false⟩)) ∧
  decodeWord 0x00A0_0AA0_AA0C_463F#64 = (8, .op (.fmax ⟨0xAA0#12, 0xAA0#12, 0xA00#12, 0x00#8, 12#4, false⟩)) ∧
  decodeWord 0x2913_EE00_7A0C_603F#64 = (8, .op (.ld ⟨0x7A0#12, 0xE00#12, 0x13E#12, 0x29#8, 12#4, false⟩)) ∧
  decodeWord 0x00BD_0EF0_B00C_7A3F#64 = (8, .op (.afadd ⟨0xB00#12, 0xEF0#12, 0xBD0#12, 0x00#8, 12#4, false⟩)) ∧
  decodeWord 0x01EF_0EA0_EE0C_833F#64 = (8, .op (.tfill ⟨0xEE0#12, 0xEA0#12, 0xEF0#12, 0x01#8, 12#4, false⟩)) ∧
  decodeWord 0x00E5_0E00_F100_95BF#64 = (8, .op (.accdr ⟨0xF10#12, 0xE00#12, 0xE50#12, 0x00#8, 0#4, true⟩)) ∧
  decodeWord 0x0068_0000_6901_AC3F#64 = (8, .op (.scanadd ⟨0x690#12, 0x000#12, 0x680#12, 0x00#8, 1#4, false⟩)) ∧
  decodeWord 0x0008_0220_000C_B13F#64 = (8, .op (.safept ⟨0x000#12, 0x220#12, 0x080#12, 0x00#8, 12#4, false⟩)) ∧
  decodeWord 0x0030_000B#64 = (4, .op (.join 3#5)) ∧
  decodeWord 0x0410_000B#64 = (4, .op (.gwait 1#5)) ∧
  decodeWord 0x0600_002B#64 = (4, .op .gend) ∧
  decodeWord 0x0002_900B#64 = (4, .op (.pbinit 0#12 5#5))

/-- Every word that the encoder gives a well-formed instruction decodes to that instruction, with its length: no bit of any
operand is dropped (R275, R276, R281-R283). -/
def Obligations.EncodeDecodeRoundTrip : Prop :=
  ∀ (i : Instr) (w : BitVec 64) (n : Nat), i.wellFormed = true → encode i = some (w, n) → decodeWord w = (n, .op i)

/-! ## The step -/

/-- With a selected issue whose bytes are fetched, a step runs what they decode to, then the issue is over, waits that a request
meets end, and time passes (R193, R274, R284, R286; which threads lead an issue of several address spaces and how much time passes are
the model's, notes/assumptions/5, 13). -/
def Obligations.StepRunsDecoded : Prop :=
  ∀ (s : State) (i : Issue) (t : Thread) (w : Word) (n : Nat) (lines : List Nat),
    s.plat.trust.power = .on → s.lead = some (i, t) → s.chip.fetch t i.pc = .inr (w, n, lines) →
    let u : State := { s with
      issue := some { i with word := w, len := n }
      chip := if t.onHart then s.chip.setThread t else s.chip.fillCode t lines }
    let closed (v : State) : Host.Outcome State Fault Refusal := .next (({ v with issue := none } : State).sweep.pass)
    (∀ k, (decodeWord w).2 = .op k → step s = match exec k u with | .next v => closed v | o => o) ∧
    (∀ x, (decodeWord w).2 = .std x → step s = closed (u.standard w n (decodeStd x n))) ∧
    ((decodeWord w).2 = .illegal → step s = closed (u.issueOp (illegalOp n) none)) ∧
    ((decodeWord w).2 = .unassigned → step s = closed (u.issueOp (unassignedOp w n) none))

/-- Where no instruction is fetched: a fetch that is stopped stops every participant; without an issue the next step of another
agent runs with its subject, and then every thread that waits at a full queue is ready again and will re-execute its instruction
(notes/assumptions/137); without an agenda the default schedule chooses (notes/assumptions/9); and a package that is off or halted does
nothing more until a new bring-up begins (R41, R54, R286). The agenda is the model's own (notes/assumptions/54), and so is the time that
passes (notes/assumptions/5). -/
def Obligations.StepElsewhere : Prop :=
  ∀ s : State,
    (∀ (i : Issue) (t : Thread) (x : Stop), s.plat.trust.power = .on → s.lead = some (i, t) → s.chip.fetch t i.pc = .inl x →
      step s = .next (({ s with
        issue := none, chip := i.parts.foldl (fun (c : Chip) id => c.applyStop id 0 x) s.chip } : State).sweep.pass)) ∧
    (∀ (k : Instr) (n : Nat) (rest : List (Instr × Nat)) (v : State), s.plat.trust.power = .on → s.issue = none →
      s.agenda = (k, n) :: rest → exec k { s with agenda := rest, subject := n } = .next v →
      step s = .next (({ v with chip := v.chip.retryFull } : State).sweep.pass)) ∧
    (s.plat.trust.power = .on → s.issue = none → s.agenda = [] → step s = .next s.schedule.pass) ∧
    (s.plat.trust.power ≠ .on → (∀ n rest, s.agenda ≠ (.bootStage0, n) :: rest) →
      step s = .fault (if s.plat.trust.power = .off then .packageOff else .bringUpHalted)) ∧
    (∀ (n : Nat) (rest : List (Instr × Nat)) (v : State), s.plat.trust.power ≠ .on → s.agenda = (.bootStage0, n) :: rest →
      exec .bootStage0 { s with agenda := rest, subject := n } = .next v →
      step s = .next (({ v with chip := v.chip.retryFull } : State).sweep.pass))

/-- No row of the opcode table ends a run: in every state, with all operands, each instruction answers a next state, be it an entry
into a trap, a wait or a negative status (R218, R220). -/
def Obligations.NoInstructionStops : Prop := ∀ (i : Instr) (s : State), ∃ v, exec i s = .next v

/-- What the manual says of the package right after reset: before stage 0, each register of the register blocks, no thread on a compute
core, the CSRs of a thread of a latency core that holds no other and has not written them (R54, R57, R100, R102, R124, R172, R222, R236,
R264, R266), and stthr (R111); the counters satisfy keysInv, and memory has its canonical form. Memory that reads zero, a bring-up that
begins with power on, and an empty list of threads are the model's choices (notes/assumptions/1, 2). -/
def Obligations.ResetState : Prop :=
  let s := State.reset
  s.plat.trust.power = .on ∧ s.plat.trust.stage = 0 ∧ s.plat.trust.stageDone = false ∧ s.plat.trust.code = 0#8 ∧
  s.plat.trust.attsts = 0#2 ∧ s.plat.trust.dbgsts = 0#2 ∧ s.plat.trust.attdst = 0#64 ∧ s.plat.trust.nonce = none ∧
  s.plat.trust.unlocked = false ∧ s.plat.trust.mirrorLost = false ∧ s.plat.trust.keysInv ∧
  s.issue = none ∧ s.agenda = [] ∧ s.chip.tick = 0 ∧ s.chip.disp.grids = [] ∧ s.chip.disp.blocks = [] ∧ s.chip.threads = [] ∧
  (∀ r ∈ resetReads, s.register r.1 = r.2) ∧ s.register 0 ≠ 0 ∧ s.register 0 ≠ 2 ^ 64 - 1 ∧
  (∀ (l k : Nat) (md : Mode), ∀ r ∈ resetCsrs, s.chip.csrRead { place := .hart l k, mode := md } r.1 = r.2) ∧
  (∀ h ∈ s.chip.harts, h.started = false ∧ h.read 0x5C0 = some 0) ∧
  s.chip.mem.bytes = [] ∧ Memory.wf s.chip.mem.bytes = true ∧ (∀ a, s.chip.getByte a = 0#8)

/-- No identity index is used twice: every step keeps the invariant of the signing keys, and the indices used before stay used
(R48, R49). -/
def Obligations.KeysKept : Prop :=
  ∀ s v : State, s.plat.trust.keysInv → step s = .next v →
    v.plat.trust.keysInv ∧ ∃ new, v.plat.trust.usedIdentity = new ++ s.plat.trust.usedIdentity

/-- Every step keeps the canonical form of memory: addresses strictly rising, and no listed byte that reads as an unlisted one. The
form is the model's own (notes/assumptions/2, 53). -/
def Obligations.MemoryKept : Prop :=
  ∀ s v : State, Memory.wf s.chip.mem.bytes = true → step s = .next v → Memory.wf v.chip.mem.bytes = true

/-! ## Operand forms and values -/

/-- The slice helpers, bit by bit (R295): a read of w bits from slice s gives the register's bits from 4s on, zero below slice 16;
a write changes exactly the written bits at and above slice 16; a source is extended to the operation's width. -/
def Obligations.SlicesByBit : Prop :=
  ∀ (r : BitVec 2048) (s w : Nat),
    (∀ j, (readSlices r s w).testBit j = (decide (j < w) && decide (64 ≤ 4 * s + j) && r.getLsbD (4 * s + j))) ∧
    (∀ v j, j < 2048 → (writeSlices r s w v).getLsbD j =
      if 64 ≤ j ∧ 4 * s ≤ j ∧ j < 4 * s + w then v.testBit (j - 4 * s) else r.getLsbD j) ∧
    (∀ (F : BitVec 12) (sg : Bool) (j : Nat), (srcOf r F w sg).testBit j =
      (decide (j < w) && (if j < fWidth F then (readSlices r (fStart F) (fWidth F)).testBit j
        else sg && (readSlices r (fStart F) (fWidth F)).testBit (fWidth F - 1))))

/-- The crossbar (R204): in a collective a member of rank r of n reads the B slices of the member whose rank its pattern and k give,
which is a rank of the group; a non-zero pattern without a group is not well formed. -/
def Obligations.PermutationRanks : Prop :=
  ∀ (f : Long) (ts : List Thread) (r : Nat) (t : Thread), r < ts.length →
    let n := ts.length
    let k := f.x.toNat % 32
    let rank : Nat → Option Nat := fun
      | 0 => some r
      | 1 => some ((r + k) % n)
      | 2 => some (((r : Int) - k) % n).toNat
      | 3 => some (if r + k < n then r + k else r)
      | 4 => some (if k ≤ r then r - k else r)
      | 5 => some (if k < n then k else r)
      | 6 => some (if r ^^^ k < n then r ^^^ k else r)
      | 7 => some (n - 1 - r)
      | _ => none
    ∃ s, rank (f.x.toNat / 32) = some s ∧ s < n ∧ permRank f.x r n = s ∧
      (f.grouped = true → some (bThread f ts r t) = ts[s]?) ∧
      (f.grouped = false → f.x.toNat / 32 ≠ 0 → ∀ q ∈ bitRows f ++ arithRows f, q.instr ≠ .movi f → q.instr.wellFormed = false)

/-- A pattern that is a finite number rounds to itself, in every mode and every format, and raises no flag (R256, R260, R261). -/
def Obligations.RoundExact : Prop :=
  ∀ (F : Fmt) (rm : Nat) (rng : Word) (v : Nat), rm ≤ 5 → v < 2 ^ F.width →
    (match Fmt.value F v with
     | .fin _ _ _ => (roundTo F rm false rng (Fmt.value F v)).val = v ∧ (roundTo F rm false rng (Fmt.value F v)).fl = flNone
     | _ => True)

/-- One update of a phase-barrier word (R251): the counts fall and stop at zero; the first fault of a phase, the operation's own
before code 6, is the one reported; at zero and zero the phase inverts and the expected arrivals are pending again. -/
def Obligations.BarrierWord : Prop :=
  ∀ (w arr units code : Nat), w < 2 ^ 64 → code < 64 →
    let field (hi lo v : Nat) : Nat := v / 2 ^ lo % 2 ^ (hi + 1 - lo)
    let v := pbUpdate w arr units code
    let pending := field 39 24 w
    let bytes := field 22 0 w
    let first := if w.testBit 23 then 0 else if code ≠ 0 then code else if pending < arr || bytes < units then 6 else 0
    let seen := w.testBit 23 || decide (first ≠ 0)
    let flips := decide (pending ≤ arr) && decide (bytes ≤ units)
    v < 2 ^ 64 ∧ field 55 40 v = field 55 40 w ∧ v.testBit 63 = (w.testBit 63 != flips) ∧
    field 39 24 v = (if flips then field 55 40 w else pending - arr) ∧ field 22 0 v = (if flips then 0 else bytes - units) ∧
    v.testBit 23 = (seen && !flips) ∧
    v.testBit 62 = (if first ≠ 0 then true else if flips then w.testBit 62 && w.testBit 23 else w.testBit 62) ∧
    field 61 56 v = (if first ≠ 0 then first else if flips && !w.testBit 23 then 0 else field 61 56 w)

/-! ## Frames and traps -/

/-- What a register instruction leaves as it was, for a thread on its own: every slice but those of its destination, fcsr but for
flags that become set, every other CSR, every other thread and the firmware; and all memory, with its caches and directories, unless
it writes a slice of sp, where the stack window follows (R206, R215, R266). An access of the thread that still waited at a home no
longer does (R76). The state before is that with which the instruction begins: a tile wait that is over has ended as an acquire (R145),
and single-bit errors of the bars read are corrected and logged (R209). -/
def Obligations.RegisterFrame : Prop :=
  ∀ (f : Long), ∀ q ∈ regRows f, q.instr.wellFormed = true → f.grouped = false →
    ∀ (s0 : State) (i : Issue) (s : State) (t : Thread), s0.aloneOf i q.uses s t →
      t.usable (s.chip.bars t) q.uses = true → q.legal [t] t = true →
      ∃ v u, exec q.instr s0 = .next v ∧ v.chip.thread? t.id = some u ∧ t.sameRest u ∧ u.pc = t.pc + 8 ∧
        (∀ a, a < 512 → q.uses.writes.any (inSpan a) = false → readSlices u.regs a 4 = readSlices t.regs a 4) ∧
        (∃ ff : BitVec 5, u.fcsr = t.fcsr ||| ff.setWidth 8) ∧ (∃ tf : BitVec 4, u.tflags = t.tflags ||| tf.setWidth 64) ∧
        u.lane = t.lane ∧ u.lanePoison = t.lanePoison ∧
        (∀ id, id ≠ t.id → v.chip.thread? id = s.chip.thread? id) ∧
        v.plat = s.plat ∧ v.issue = s.issue ∧ v.agenda = s.agenda ∧
        (touchesSp q.uses.writes = false → v.chip.mem = { s.chip.mem with parked := v.chip.mem.parked } ∧ u.win = t.win)

/-- What a relaxed store by one thread of a compute core changes (R65, R216, R331): the byte at each address a is stored where
locate puts a, in the thread's lane store, in its stack window, in its core's copy of the line, or in a scratchpad; every other
byte of those reads as before, and so do all registers. Memory and the lane store have their canonical form before; MemoryKept states that
steps keep it. -/
def Obligations.StoreFrame : Prop :=
  ∀ (f : Long) (q : Instr × (Thread → Nat) × List Span),
    q ∈ [(Instr.st f, offImm f, [spanI f.a, spanI f.d]), (Instr.str f, offIdx f, [spanI f.a, spanI f.d, spanI f.b])] →
    q.1.wellFormed = true → f.grouped = false → f.order = 0 →
    ∀ (s0 : State) (i : Issue) (s : State) (t : Thread), s0.aloneOf i { strict := q.2.2 } s t → t.onCompute = true →
      t.usable (s.chip.bars t) { strict := q.2.2 } = true → Memory.wf s.chip.mem.bytes = true → cellsWf t.lane = true →
      let off := q.2.1 t
      let n := fWidth f.d / 8
      let at_ := accessAddrs f.space off n
      let spot (a : Nat) : Stop ⊕ ByteLoc := s.chip.locate t f.space off a .store
      let main (a l : Nat) : Prop := ∃ p, spot a = .inr (.phys p) ∧ s.chip.target p.pa = .main l
      let onDie (a l : Nat) : Prop := ∃ p, spot a = .inr (.phys p) ∧ s.chip.target p.pa = .onDie l
      s.chip.accessStop t f.space off n .store = none →
      (∀ a ∈ at_, ∀ p, spot a = .inr (.phys p) → p.pbmt = 0) →
      ∃ v u, exec q.1 s0 = .next v ∧ v.chip.thread? t.id = some u ∧ t.sameRest u ∧ u.pc = t.pc + 8 ∧ u.regs = t.regs ∧
        u.fcsr = t.fcsr ∧ u.tflags = t.tflags ∧ u.trng = t.trng ∧ u.barPoison = t.barPoison ∧ u.corrupt = t.corrupt ∧
        (∀ id, id ≠ t.id → v.chip.thread? id = s.chip.thread? id) ∧
        (∀ j, (∀ a ∈ at_, spot a ≠ .inr (.lane j)) → cellGet u.lane j = cellGet t.lane j) ∧
        (∀ b, (∀ a ∈ at_, spot a ≠ .inr (.win b)) → u.winByte b = t.winByte b) ∧
        (∀ l, (∀ a ∈ at_, ¬ onDie a l) → v.chip.getByte l = s.chip.getByte l) ∧
        (∀ core l, (∀ a ∈ at_, ¬ main a l ∧ ¬ onDie a l) → v.chip.seen core l = s.chip.seen core l) ∧
        (∀ k, k < n → ∀ a, at_[k]? = some a → (∀ b ∈ at_, b ≠ a → spot b ≠ spot a) →
          let byte := BitVec.ofNat 8 (readSlices t.regs (fStart f.d) (fWidth f.d) / 256 ^ k)
          (∀ j, spot a = .inr (.lane j) → cellGet u.lane j = byte) ∧ (∀ b, spot a = .inr (.win b) → u.winByte b = some byte) ∧
          (∀ l, main a l → (∀ b ∈ at_, b ≠ a → ¬ main b l) → v.chip.seen t.core l = byte) ∧
          (∀ l, onDie a l → (∀ b ∈ at_, b ≠ a → ¬ onDie b l) → s.chip.lostAt l = false → v.chip.getByte l = byte))

/-- What the slices of a register or memory instruction stop, for a thread on its own, in order: a reserved rounding mode, a slice
beyond the footprint, a corrupted slice, and a poisoned one whose poison traps (R74, R209, R210, R219, R220). That the operands of an
atomic and the base of a prefetch trap on poison, and that the lowest of several corrupted slices is reported, are the model's reading
(notes/assumptions/38, 39, 142). -/
def Obligations.RegisterTraps : Prop :=
  ∀ (f : Long), (∀ q ∈ regRows f, q.traps f) ∧ (∀ q ∈ loadRows f ++ atomicRows f, q.traps f)

/-- The arrival of a thread at a collective (R199, R201, R219): a thread outside the mask takes its own first trap or cause 26 with bit 32 of
tval set, a member that is not the last one waits, and members that have all arrived, but not at one instruction, take each its own first
trap or cause 26: at register instructions, loads, stores, atomics, tile words, copies, matrix instructions, fragment loads, fen and the
long ring forms; and what a complete group takes that reads a value which decodes to nothing (R299, R324). -/
def Obligations.GroupArrivals : Prop :=
  ∀ f : Long,
    (∀ q ∈ regRows f, groupArrival q.instr q.uses (fun t => q.legal [t] t) f) ∧
    (∀ q ∈ loadRows f ++ atomicRows f, groupArrival q.instr q.uses (fun _ => true) f) ∧
    (∀ q ∈ tileRows f ++ copyRows f ++ matrixRows f ++ fragmentRows f ++ [fenGroupRow f], groupArrival q.instr q.uses q.legal f) ∧
    (∀ (rd rs1 rs2 : BitVec 5) (nw : Bool), ∀ q ∈ (ringRows f rd rs1 rs2 nw).take 6, groupArrival q.instr q.uses (fun _ => true) f) ∧
    ∀ q ∈ blockRows f, q.spoilt f

/-- A register instruction without a group runs for the participants of an issue one after the other (R193, R203). -/
def Obligations.ParticipantsInTurn : Prop :=
  ∀ (f : Long), ∀ q ∈ regRows f, f.grouped = false →
    ∀ (s : State) (i : Issue) (xs ys : List Nat), i.parts = xs ++ ys →
      let run (k : List Nat) (s : State) : Host.Outcome State Fault Refusal := exec q.instr { s with issue := some { i with parts := k } }
      ∃ u v, run xs s = .next u ∧ run ys u = .next v ∧ run (xs ++ ys) s = .next { v with issue := some i }

/-- A trap that the hook takes writes tepc, tcause, tval and pc; tret goes back and clears tcause.H; while H is 1 a trap takes its
default route; a write of tcause sets or clears H with bit 63 (R117). -/
def Obligations.HookEntryAndReturn : Prop :=
  (∀ (c : Chip) (t : Thread), c.thread? t.id = some t → t.onCompute = true →
    ∀ (cause tval : Nat) (word : Word), cause < 64 → c.grows t cause tval = false →
      (t.tcause.getLsbD 63 = false → t.delegRead.getLsbD cause = true → t.temu ≠ 0 →
        c.takeTrap t.id cause tval word = c.setThread { t with
          tepc := t.pc, tcause := BitVec.ofNat 64 (2 ^ 63 + cause), tval := BitVec.ofNat 64 tval, pc := t.temu, wait := .ready
          converged := false }) ∧
      (t.tcause.getLsbD 63 = true → c.takeTrap t.id cause tval word = c.defaultRoute t cause tval word)) ∧
  (∀ (s0 : State) (i : Issue) (s : State) (t : Thread), s0.aloneOf i {} s t → t.onCompute = true → t.tcause.getLsbD 63 = true →
    ∃ v u, exec .tret s0 = .next v ∧ v.chip.thread? t.id = some u ∧ u.pc = t.tepc ∧ u.tcause.getLsbD 63 = false ∧
      (∀ k, k < 63 → u.tcause.getLsbD k = t.tcause.getLsbD k)) ∧
  (∀ (t : Thread) (v : Word), (t.writeX8 0x80C v).hook = v.getLsbD 63)

/-- The route of a trap on a compute core (R116, R210, R222): window growth where the lane has the slices, past requests for slices that
already wait (notes/assumptions/50); else the hook for a delegated cause with a hook address and no active hook; else the default route. -/
def Obligations.TrapRoutes : Prop :=
  ∀ (c : Chip) (t : Thread) (cause tval : Nat) (word : Word), c.thread? t.id = some t → t.onCompute = true → cause < 64 →
    (c.grows t cause tval = true →
      c.takeTrap t.id cause tval word = c.onThread t.id fun u =>
        { u.setFoot (max (min 512 ((tval + 16) / 16 * 16)) u.tfoot) with wait := .ready }) ∧
    (c.grows t cause tval = false →
      (t.tcause.getLsbD 63 = true ∨ t.delegRead.getLsbD cause = false ∨ t.temu = 0) →
      c.takeTrap t.id cause tval word = c.defaultRoute t cause tval word) ∧
    (∀ v : Word, (t.writeX8 0x80A v).delegRead.getLsbD cause =
      ([2, 3, 6, 24, 25, 26, 27, 28, 29, 30, 49, 51].contains cause && v.getLsbD cause || decide (cause = 50)))

/-- The forms of tret (R357): custom-1 with funct3 3 and funct7 0, whose register fields must be zero; with H = 1 on a compute core
it performs R117, with H = 0 it raises cause 2, and on a latency core it raises cause 2. -/
def Obligations.TretForms : Prop :=
  (∀ (rs2 rs1 rd : BitVec 5), (decodeWord ((0#7 ++ rs2 ++ rs1 ++ 3#3 ++ rd ++ 0x2B#7 : BitVec 32).setWidth 64)).2 =
    if rs2 = 0#5 ∧ rs1 = 0#5 ∧ rd = 0#5 then .op .tret else .illegal) ∧
  ∀ (s0 : State) (i : Issue) (s : State) (t : Thread), s0.aloneOf i {} s t →
    (t.onCompute = true → t.tcause.getLsbD 63 = true → ∃ v u, exec .tret s0 = .next v ∧ v.chip.thread? t.id = some u ∧
      u.pc = t.tepc ∧ u.tcause = t.tcause &&& 0x7FFF_FFFF_FFFF_FFFF#64 ∧ u.regs = t.regs ∧
      (∀ id, id ≠ t.id → v.chip.thread? id = s.chip.thread? id) ∧
      v.chip.mem = { s.chip.mem with parked := v.chip.mem.parked }) ∧
    (t.onCompute = true → t.tcause.getLsbD 63 = false → exec .tret s0 = .next (s.trapped i t 2 i.word.toNat)) ∧
    (t.onHart = true → exec .tret s0 = .next (s.trapped i t 2 i.word.toNat))

/-- Where the causes beyond an instruction's slices are taken (R218, R219): 49 and 51, 27, 25, 6 and 30, by a thread on its own at a barrier
form, a tile word, a fragment load, a copy, a matrix instruction, a load, a store or an atomic; 27 by a group whose members' words differ;
access faults, misses and page faults of loads, stores and atomics (R58, R60, R70, R97, R98, R242, R341, R350, R353, R372, R375, R376,
R378, R384). A range outside a buffer is reported at its lowest byte there (notes/assumptions/45), late waiters of a miss share the first
one's address (notes/assumptions/82), a new record has a number that is not in use (notes/assumptions/81), and a register of region 4
takes whole aligned dwords only (notes/assumptions/143). -/
def Obligations.AccessTraps : Prop :=
  (∀ (k : BitVec 12) (rs1 : BitVec 5), ∀ q ∈ barrierTraps k rs1, q.alone) ∧
  (∀ f : Long, f.grouped = false → ∀ q ∈ tileTraps f ++ copyTraps f ++ matrixTraps f ++ accessTraps f, q.alone) ∧
  (∀ f : Long, tornWords f) ∧ (∀ f : Long, ∀ q ∈ loadRows f ++ atomicRows f, q.stops f) ∧ accessChecks ∧ faultsTaken

/-- Traps and interrupts of a latency core, where they go and what they leave, the returns from them, and the CSRs that hold them
(R101, R111, R116, R274). Their layout is the privileged architecture's (notes/assumptions/8), whose extension the manual names and does
not restate. -/
def Obligations.HartTraps : Prop := hartEntry ∧ hartTakes ∧ hartReturn ∧ csrWrites

/-! ## Register instructions -/

/-- Moves, logic, bit fields, counts, selects and shifts, and integer sums, saturations, minima, products, differences and compares,
complete and write their value, alone and in a group (R301-R307). -/
def Obligations.MovesAndIntegers : Prop :=
  (∀ (f : Long), ∀ q ∈ bitRows f, q.alone f ∧ q.together f) ∧ ∀ (f : Long), ∀ q ∈ arithRows f, q.alone f ∧ q.together f

/-- Packed instructions complete and compute element by element, alone and in a group (R308). -/
def Obligations.PackedArithmetic : Prop := ∀ (f : Long), ∀ q ∈ packedRows f, q.alone f ∧ q.together f

/-- Floating sums, products, multiply-adds, minima and absolute values complete: they round the exact result once and set the
flags, alone and in a group (R311-R317). -/
def Obligations.FloatArithmetic : Prop := ∀ (f : Long), ∀ q ∈ floatRows f, q.alone f ∧ q.together f

/-- Floating compares, the classification and the approximations complete, alone and in a group (R318-R320). Where the manual
only bounds an approximation its value is a free value (notes/assumptions/6), so this holds for every such value. -/
def Obligations.FloatCompares : Prop := ∀ (f : Long), ∀ q ∈ compareRows f, q.alone f ∧ q.together f

/-- Conversions between formats and integers, and the scaled FP8 conversions, complete, alone and in a group (R321, R325); f8unp of a
scale 0 rounds +0 as the rounding mode says, so it takes its step of trng in mode 5 (R262, R313; notes/assumptions/84). -/
def Obligations.Conversions : Prop := ∀ (f : Long), ∀ q ∈ (convertRows f ++ scaledRows f), q.alone f ∧ q.together f

/-- Packs, compressions and unpacks of blocks, the exact sums and scans of floating values, and votes, ranks, reductions and scans, by a
complete group (R267-R269, R322-R324, R347-R349). The permutation field without a pattern is ignored (notes/assumptions/83). -/
def Obligations.BlocksAndVotes : Prop :=
  (∀ (f : Long), ∀ q ∈ (blockRows f ++ sumRows f), q.together f) ∧ ∀ (f : Long), ∀ q ∈ voteRows f, q.together f

/-! ## Memory and engines -/

/-- Loads, stores, non-faulting loads and prefetches complete in every order and scope, alone and in a group (R329-R333). A load of
I/O of a device or another package gives a free value (notes/assumptions/51, 118). -/
def Obligations.LoadsAndStores : Prop := ∀ (f : Long), ∀ q ∈ loadRows f, q.alone f ∧ q.together f

/-- Atomics return the old value and leave the new one at the home, alone and in a group (R70, R334, R335); through the apertures of
region 3 they follow the memory behind them (notes/assumptions/46). -/
def Obligations.Atomics : Prop := ∀ (f : Long), ∀ q ∈ atomicRows f, q.alone f ∧ q.together f

/-- Tile words, copies, fills and drains complete at issue, alone and in a group (R339-R341, R374, R375). An operation of a collective
counts for every member (notes/assumptions/43), and members that must wait do so one by one past the convergence (notes/assumptions/44). -/
def Obligations.TilesAndCopies : Prop := ∀ (f : Long), ∀ q ∈ (tileRows f ++ copyRows f), q.alone f ∧ q.together f

/-- Multiplies, transfers of weights and accumulators, and the matrix fence enter the matrix queue, alone and in a group, and a multiply
that finds it full reads its tile and waits (R372, R373, R376-R380, R386). An operation of a collective counts for every member, and the
members of a collective transfer wait one by one, each for its own entry (notes/assumptions/43, 44, 110); a descriptor's TTRAP is rank
0's as the operation issues (notes/assumptions/144), and on a follower core another block's operations have that core's own queue
(notes/assumptions/145). -/
def Obligations.MatrixQueue : Prop :=
  ∀ f : Long, (∀ q ∈ matrixRows f, q.alone f ∧ q.together f) ∧ ∀ q ∈ matrixWaitRows f, q.alone

/-- Fragment loads, also transposed, by a thread or a complete group, and the split-phase fence of a complete group (R337,
R383-R385). -/
def Obligations.FragmentsAndGroupFence : Prop := ∀ (f : Long), ∀ q ∈ (fragmentRows f ++ [fenGroupRow f]), q.alone f ∧ q.together f

/-! ## Control, waits and requests -/

/-- Joining, leaving and waiting on a group mask (R199, R200, R345, R346), which have no effect in a handler (notes/assumptions/109); and the
phase barriers of a block: initialising, arriving, waiting, and both (R251, R350-R352). -/
def Obligations.MasksAndBarriers : Prop :=
  (∀ (k : BitVec 5), ∀ q ∈ maskRows k, q.alone) ∧ ∀ (k : BitVec 12) (rs1 : BitVec 5), ∀ q ∈ barrierRows k rs1, q.alone

/-- The wait for a tile, the footprint's give and claim, and sysinfo (R211, R212, R353, R354, R367). A claim waits behind requests of its
lane in the order of their arrival (notes/assumptions/49), and the timebase item of a package that follows none reads 1
(notes/assumptions/27). -/
def Obligations.TilesFootprintSysinfo : Prop := ∀ (k : BitVec 12) (rd rs1 : BitVec 5), ∀ q ∈ (twaitRow k :: sysinfoRow rd rs1 :: footRows k), q.alone

/-- The split-phase fence and its wait (R140, R143, R337, R338). A wait whose slot has been taken again acts for every fence that the slot
has held (notes/assumptions/148). -/
def Obligations.SplitPhaseFences : Prop := ∀ (f : Long) (sl : BitVec 9), ∀ q ∈ fenceRows f sl, q.alone

/-- The safe point, the return from the hook, the end of a thread, and migrate (R106, R117, R224, R228, R355, R356, R361), whose checks are
in the model's order (notes/assumptions/47); a handler that would move ends (notes/assumptions/69). -/
def Obligations.LeavingACore : Prop := ∀ (f : Long) (rd rs1 : BitVec 5), ∀ q ∈ leaveRows f rd rs1, q.alone

/-- Grid spawns, cancellations and status requests, and task submissions, commits and aborts, by a thread (R151-R153, R166, R168, R175-R182,
R358-R360, R362). The tag of a spawner, the die of a submitter on a latency core, the entry that a new grid or task takes, poisoned
descriptors and records, status -3, what other packages answer, the order of checks, and how a request waits at a full queue are the
model's (notes/assumptions/10, 18, 23, 51, 57, 73, 108, 137). -/
def Obligations.GridAndTaskRequests : Prop :=
  (∀ (rd rs1 rs2 : BitVec 5), ∀ q ∈ gridRows rd rs1 rs2, q.alone) ∧ ∀ (rd rs1 : BitVec 5), ∀ q ∈ taskRows rd rs1, q.alone

/-- The ring requests of a thread, in the memory and the long forms (R187, R363-R365). The order of translation and early statuses, poison in
a ring, and how a request waits at a full queue are the model's (notes/assumptions/62, 63, 137). -/
def Obligations.RingRequests : Prop := ∀ (f : Long) (rd rs1 rs2 : BitVec 5) (nw : Bool), ∀ q ∈ ringRows f rd rs1 rs2 nw, q.alone

/-- A system call from a compute core is a release of device scope and waits in the open batch of its issue group and service
number, or in a new one (R118, R119). What becomes of a batch at a full queue is the model's (notes/assumptions/36, 67, 68). -/
def Obligations.EnvironmentCall : Prop := ∀ q ∈ ecallRows, q.alone

/-! ## Standard instructions -/

/-- Standard instructions complete (R101, R274): moves, sums, logic, shifts, compares, products, quotients, jumps and branches; loads and
stores; LR, SC and the A-extension's atomics (R71, R128); and CSR instructions (R105, R368). The manual names the extensions; what each
computes, SC's values and the privileged CSRs are RISC-V's (notes/assumptions/8, 52), and a compute core may serve LR from its own copy
(notes/assumptions/126). -/
def Obligations.StandardInstructions : Prop :=
  (∀ (len rd rs1 rs2 : Nat) (imm : Word), ∀ q ∈ stdCalcRows len rd rs1 rs2 imm, q.alone) ∧
  (∀ (len n rd rs1 rs2 : Nat) (sg aq rl : Bool) (imm : Word), n ∈ [1, 2, 4, 8] → ∀ q ∈ stdMemRows len n rd rs1 rs2 sg aq rl imm, q.alone) ∧
  ∀ (kind rd csr src : Nat) (imm : Bool), kind ∈ [1, 2, 3] → ∀ q ∈ csrRows kind rd csr src imm, q.alone

/-! ## Steps of other agents -/

/-- The stages of bring-up, and what follows each failure (R54). The codes of failures, the stage that counts a bring-up, failed channels, what
images and records hold, and what stage 4 leaves are the model's (notes/assumptions/26, 85, 87, 88, 128, 129, 149). -/
def Obligations.BringUp : Prop := ∀ (agree trained : Bool) (hbmStacks : BitVec 16) (channels : BitVec 32) (ports : BitVec 8), ∀ q ∈ bootRows agree trained hbmStacks channels ports, q.holds

/-- The root firmware after bring-up, the debug unlock, and the SBI calls that name a translation unit's hart (R42-R50, R88). The order of
checks, what an unlock takes and leaves, the bytes read of a record, and the SBI conventions are the model's (notes/assumptions/8, 60, 86,
96-99, 129, 133). -/
def Obligations.TrustAndHarts : Prop := ∀ (addr : Word) (hart : Nat) (start : Bool), ∀ q ∈ (trustRows addr ++ sbiRows hart start), q.holds

/-- Lane repairs, memory errors, scrubs and temperatures (R13, R18-R22, R40, R41). The errors are inputs, and the flash record of a
temperature is shared (notes/assumptions/12, 105, 113). -/
def Obligations.ErrorsAndTemperature : Prop := ∀ (a b stack celsius ldie channel : Nat) (addr : Word) (found : ScrubResult), ∀ q ∈ rasRows a b stack celsius ldie channel addr found, q.holds

/-- Ownership notices, write-backs, evictions and the end of reservations (R65, R69, R71): which bytes the home then holds, and which copy is
gone. One array of bytes stands for the L2s and the homes (notes/assumptions/53), a line carries its own poison (notes/assumptions/116), and
which entry a full cache gives up is free (notes/assumptions/123). -/
def Obligations.CachesAndDirectory : Prop :=
  ∀ (core line : Nat), (∀ q ∈ cacheFacts core line, q.holds) ∧ ∀ (a : Agent), ∀ q ∈ cacheRows core line a, q.holds

/-- A request at the home of its line: reads, writes, atomics, replays and parking (R69, R70, R75, R76). Acknowledgements of applied records,
which requests park, and what hosts behind a port reach are the model's (notes/assumptions/77, 78, 114, 121, 130). -/
def Obligations.HomeRequests : Prop := ∀ (r : Request) (replay : Bool) (index : Nat), ∀ q ∈ requestRows r replay index, q.holds

/-- Pod formation, state by state, and the images that followers load (R55, R56). Which messages count as heard, the round that a follower
adopts, when claims go out, whom a follower knows, and what follows a silence are the model's (notes/assumptions/89-95, 134). -/
def Obligations.PodFormation : Prop := ∀ (f round leader : Nat) (bytes : List Byte) (last : Bool), ∀ q ∈ podRows f round leader bytes last, q.holds

/-- Flits, retries, pauses, timebase flits and retraining of a port, and where a received message goes on (R30-R36). The check function and
the sizes of messages and buffers, how a timebase approaches, and what a hop count of 3 does are the model's (notes/assumptions/20,
100-102, 132). -/
def Obligations.LinkFlits : Prop :=
  (∀ (n : Nat) (f : Flit) (expected : BitVec 16) (leaderTick : Nat) (cause : RetrainCause),
    ∀ q ∈ flitRows n f expected leaderTick ++ portRows n cause, q.holds) ∧
  ∀ (s : State) (n : Nat) (m : LinkMsg), s.forwards n m

/-- Each device register takes its written fields, a read-only one ignores the write, and one that starts an action of the device starts its
step (R4, R45, R50, R57, R87, R99, R100, R114, R124-R126, R225). -/
def Obligations.DeviceRegisters : Prop := (∀ (addr v : Word), ∀ q ∈ registerRows addr v, q.holds) ∧ registerStarts

/-- The completion of service calls, and the departures and arrivals of moving threads (R104-R112, R114, R118, R119). Where a record of a
latency core lies, returns through a fenced die, records' masks and poison, and the identifiers given are the model's
(notes/assumptions/21, 25, 48, 59, 70, 71, 75, 131). -/
def Obligations.ServiceAndMoves : Prop := ∀ (id : Nat) (a0 a1 : Word) (osid : Word), ∀ q ∈ (serviceRows id a0 a1 ++ moveRows osid), q.holds

/-- The places that waiting work takes: work that has a place on a die and goes before all other work that has one starts there, be it
an undealt block, a ready task, a saved block or a moving thread; and the state in which the threads of a block start (R107, R157,
R159, R161, R169, R183, R233). The rank of moves, the slot that one takes, the order of a gang grid's dies, and a start that faults are
the model's (notes/assumptions/19, 24, 25, 74, 76). -/
def Obligations.Placement : Prop := (∀ slot entry : Nat, ∀ q ∈ placeRows slot entry, q.holds) ∧ startStates

/-- The steps of a grid at its head and dies, its reports and completion, and the time a cancelled thread is given (R158, R160, R162,
R165-R168, R171, R410): which indices a steal moves, and the completion word and the status record that the head writes. How the sluice
holds places, what the head knows of others, the order of a saved gang grid, and the outcome of a cancelled grid are the model's
(notes/assumptions/72, 107, 135, 136, 147). -/
def Obligations.GridEvents : Prop :=
  (∀ (slot : Nat) (caps : List (Nat × Nat)) (answers : List Bool), ∀ q ∈ (gridEventRows slot caps answers ++ timeoutRows), q.holds) ∧
  (∀ q ∈ stealFacts, q.holds) ∧ gridRecords

/-- The ageing of ready tasks, and the completion of a task with its release, its completion word and the settlement of its versions (R147,
R180, R182, R185). Which versions stay live and what the edges of an aborted task do are the model's (notes/assumptions/34, 35, 37, 140). -/
def Obligations.TaskEvents : Prop := ∀ q ∈ taskEventRows, q.holds

/-- Replays of a recorded graph (R124-R126). Where its argument blocks lie, an upload during a validation, and the code of an aborted task
are the model's (notes/assumptions/22, 141). -/
def Obligations.GraphReplays : Prop := ∀ (v : Word), ∀ q ∈ graphRows v, q.holds

/-- Pre-emption requests, the forced stop, handlers, saving, restoring and yielding (R163, R171, R212, R225-R236): the layout of a save area,
what a save stores and frees, what a record gives back to its thread, and what a restore gives back to its block. What stands for an away
thread, slices and lane store of ended threads, a handler that would move, and which block a yield waits for are the model's
(notes/assumptions/55, 56, 58, 69, 138, 147). -/
def Obligations.Preemption : Prop :=
  (∀ (h : Word) (core quarter lane : Nat), ∀ q ∈ (preemptRows h core quarter lane ++ yieldRows), q.holds) ∧
  areaLayout ∧ recordReloads ∧ restoreGives

/-- The ring engine serves, holds or refuses the next request of its ring, and spills (R187-R190, R363-R365). The capacities, poison in a
ring, what orders an entry and its pop, a ring that leaves its page, and the line of waiters are the model's (notes/assumptions/16, 63-65,
137, 147). -/
def Obligations.RingEvents : Prop := ∀ (queue die job : Nat), ∀ q ∈ ringEventRows queue die job, q.holds

/-- Copies and matrix operations complete (R238, R239, R246, R250, R251, R255, R340, R342, R373, R381): which bytes move, what a multiply
gives, which units and tile counts fall, and the barrier's update. The whole effect is at the completion event, and the order in which
faults are looked for is the model's (notes/assumptions/40-42, 45). -/
def Obligations.EngineCompletions : Prop := (∀ q ∈ engineRows, q.holds) ∧ copyBytes ∧ transferBytes ∧ multiplyResult

/-- Which issue group a port chooses, at which PC it issues and for which threads, how ages and counters follow, which issue groups swap,
and how waiting footprints are met (R193-R198, R212). Threads of different address spaces at one PC issue together where their instruction
is the same one (notes/assumptions/13), and requests for slices of one lane are met in the order of their arrival (notes/assumptions/49). -/
def Obligations.Issue : Prop :=
  (∀ (core quarter : Nat) (port : IssuePort), ∀ q ∈ issueFacts core quarter port, q.holds) ∧
  ∀ (core quarter active pending lane : Nat), ∀ q ∈ issueRows core quarter active pending lane, q.holds

/-- What a fenced die or die link, a lost package and a returned route leave behind (R15, R34-R36, R42, R77, R170). What runs and lies on a
fenced die, and the work of a lost package, are the model's reading (notes/assumptions/28, 29, 48, 103, 104, 119, 139, 147). -/
def Obligations.FencedDiesAndLosses : Prop := (∀ a b : Nat, ∀ q ∈ fenceDieRows a b, q.holds) ∧ ∀ n : Nat, ∀ q ∈ lossRows n, q.holds

/-- The walkers' misses and records, page pools, remote fences with their acknowledgements, and generations (R87-R99, R217, R410). What a
guest fence drops, when a remote fence counts, numbers of records, merged threads, and a pool frame that faults are the model's
(notes/assumptions/31, 79-82, 127). -/
def Obligations.TranslationUnits : Prop :=
  (∀ u record : Nat, ∀ q ∈ unitRows u record, q.holds) ∧ (∀ v : Word, ∀ q ∈ ackRows v, q.holds) ∧
  ∀ (die : Nat) (range : FenceRange) (vmid : BitVec 14) (asid : BitVec 16), ∀ q ∈ remoteRows die range vmid asid, q.holds
end

