-- ==== Sys2Proof/Laws/Cells.lean ====
section
/-! SUPPORT. Laws of the memory's cells: each operation keeps the canonical form, a byte just written reads back, and every other byte
reads as before. -/

set_option Elab.async false
namespace Sys2Proof.Machine

/-- What it means that a list's keys lie above a bound. -/
theorem cellsAbove_cons (lo k : Nat) (v : Byte) (r : List Host.Cell) :
    cellsAbove lo ((k, v) :: r) = true ↔ lo < k ∧ v ≠ 0 ∧ cellsAbove k r = true := by
  simp only [cellsAbove, Bool.and_eq_true, decide_eq_true_eq, and_assoc]

/-- What the canonical form means of a list that is not empty. -/
theorem cellsWf_cons (k : Nat) (v : Byte) (r : List Host.Cell) : cellsWf ((k, v) :: r) = true ↔ v ≠ 0 ∧ cellsAbove k r = true := by
  simp only [cellsWf, Bool.and_eq_true, decide_eq_true_eq]

/-- A bound below all keys may fall. -/
theorem cellsAbove_mono {lo lo' : Nat} {m : List Host.Cell} (h : lo' ≤ lo) (hm : cellsAbove lo m = true) : cellsAbove lo' m = true := by
  cases m with
  | nil => rfl
  | cons p r =>
    obtain ⟨k, v⟩ := p
    simp only [cellsAbove, Bool.and_eq_true, decide_eq_true_eq] at hm ⊢
    exact ⟨⟨by omega, hm.1.2⟩, hm.2⟩

/-- A list of cells above a bound has the canonical form. -/
theorem cellsWf_of_above {lo : Nat} {m : List Host.Cell} (hm : cellsAbove lo m = true) : cellsWf m = true := by
  cases m with
  | nil => rfl
  | cons p r =>
    obtain ⟨k, v⟩ := p
    simp only [cellsAbove, cellsWf, Bool.and_eq_true, decide_eq_true_eq] at hm ⊢
    exact ⟨hm.1.2, hm.2⟩

/-- A byte below all keys reads zero. -/
theorem cellGet_below {lo : Nat} {m : List Host.Cell} (hm : cellsAbove lo m = true) {a : Nat} (ha : a ≤ lo) : cellGet m a = 0 := by
  induction m generalizing lo with
  | nil => rfl
  | cons p r ih =>
    obtain ⟨k, v⟩ := p
    simp only [cellsAbove, Bool.and_eq_true, decide_eq_true_eq] at hm
    rw [cellGet, if_neg (by omega)]
    exact ih hm.2 (by omega)

/-- A write at an address above a bound keeps the keys above it. -/
theorem cellsAbove_set {lo : Nat} {m : List Host.Cell} (hm : cellsAbove lo m = true) {a : Nat} (ha : lo < a) (b : Byte) :
    cellsAbove lo (cellSet m a b) = true := by
  induction m generalizing lo with
  | nil =>
    rw [cellSet]
    split
    · rfl
    · exact (cellsAbove_cons _ _ _ _).2 ⟨ha, ‹_›, rfl⟩
  | cons p r ih =>
    obtain ⟨k, v⟩ := p
    obtain ⟨hk, hv, hr⟩ := (cellsAbove_cons _ _ _ _).1 hm
    rw [cellSet]
    split
    · subst_vars
      split
      · exact cellsAbove_mono (by omega) hr
      · exact (cellsAbove_cons _ _ _ _).2 ⟨hk, ‹_›, hr⟩
    · split
      · split
        · exact hm
        · exact (cellsAbove_cons _ _ _ _).2 ⟨ha, ‹_›, (cellsAbove_cons _ _ _ _).2 ⟨‹_›, hv, hr⟩⟩
      · exact (cellsAbove_cons _ _ _ _).2 ⟨hk, hv, ih hr (by omega)⟩

/-- A write of one byte keeps the canonical form. -/
theorem cellsWf_set {m : List Host.Cell} (hm : cellsWf m = true) (a : Nat) (b : Byte) : cellsWf (cellSet m a b) = true := by
  cases m with
  | nil =>
    rw [cellSet]
    split
    · rfl
    · exact (cellsWf_cons _ _ _).2 ⟨‹_›, rfl⟩
  | cons p r =>
    obtain ⟨k, v⟩ := p
    obtain ⟨hv, hr⟩ := (cellsWf_cons _ _ _).1 hm
    rw [cellSet]
    split
    · subst_vars
      split
      · exact cellsWf_of_above hr
      · exact (cellsWf_cons _ _ _).2 ⟨‹_›, hr⟩
    · split
      · split
        · exact hm
        · exact (cellsWf_cons _ _ _).2 ⟨‹_›, (cellsAbove_cons _ _ _ _).2 ⟨‹_›, hv, hr⟩⟩
      · exact (cellsWf_cons _ _ _).2 ⟨hv, cellsAbove_set hr (by omega) b⟩

/-- A write of several bytes keeps the canonical form. -/
theorem cellsWf_write {m : List Host.Cell} (hm : cellsWf m = true) (a v n : Nat) : cellsWf (cellWrite m a v n) = true := by
  induction n generalizing m a v with
  | zero => exact hm
  | succ n ih => exact ih (cellsWf_set hm a _) _ _

/-- Dropping cells keeps the keys above a bound. -/
theorem cellsAbove_filter {lo : Nat} {m : List Host.Cell} (hm : cellsAbove lo m = true) (p : Host.Cell → Bool) :
    cellsAbove lo (m.filter p) = true := by
  induction m generalizing lo with
  | nil => rfl
  | cons q r ih =>
    obtain ⟨k, v⟩ := q
    simp only [cellsAbove, Bool.and_eq_true, decide_eq_true_eq] at hm
    rw [List.filter_cons]
    split
    · simp only [cellsAbove, Bool.and_eq_true, decide_eq_true_eq]
      exact ⟨hm.1, ih hm.2⟩
    · exact cellsAbove_mono (by omega) (ih hm.2)

/-- Dropping cells keeps the canonical form: a cleared range (R157), or a fenced memory (R20). -/
theorem cellsWf_filter {m : List Host.Cell} (hm : cellsWf m = true) (p : Host.Cell → Bool) : cellsWf (m.filter p) = true := by
  cases m with
  | nil => rfl
  | cons q r =>
    obtain ⟨k, v⟩ := q
    simp only [cellsWf, Bool.and_eq_true, decide_eq_true_eq] at hm
    rw [List.filter_cons]
    split
    · simp only [cellsWf, Bool.and_eq_true, decide_eq_true_eq]
      exact ⟨hm.1, cellsAbove_filter hm.2 p⟩
    · exact cellsWf_of_above (cellsAbove_filter hm.2 p)

/-- Clearing a range keeps the canonical form. -/
theorem cellsWf_clear {m : List Host.Cell} (hm : cellsWf m = true) (lo hi : Nat) : cellsWf (cellClear m lo hi) = true :=
  cellsWf_filter hm _

/-- Writing a list of cells one after the other gives the canonical form, whatever the list: memory renumbered on joining a pod. -/
theorem cellsWf_foldl_set {m : List Host.Cell} (hm : cellsWf m = true) (l : List Host.Cell) (f : Nat → Nat) :
    cellsWf (l.foldl (fun m k => cellSet m (f k.1) k.2) m) = true := by
  induction l generalizing m with
  | nil => exact hm
  | cons k r ih => exact ih (cellsWf_set hm _ _)

/-- A byte just written reads back, from a list above a bound. -/
theorem cellGet_set_above {lo : Nat} {m : List Host.Cell} (hm : cellsAbove lo m = true) (a : Nat) (b : Byte) (c : Nat) :
    cellGet (cellSet m a b) c = if c = a then b else cellGet m c := by
  induction m generalizing lo with
  | nil =>
    rw [cellSet]
    by_cases hb : b = 0
    · rw [if_pos hb, cellGet]
      split
      · exact hb.symm
      · rfl
    · rw [if_neg hb, cellGet, cellGet]
      by_cases hc : c = a
      · rw [if_pos hc, if_pos hc.symm]
      · rw [if_neg hc, if_neg (Ne.symm hc)]
        rfl
  | cons p r ih =>
    obtain ⟨k, v⟩ := p
    simp only [cellsAbove, Bool.and_eq_true, decide_eq_true_eq] at hm
    obtain ⟨⟨hk, hv⟩, hr⟩ := hm
    simp only [cellSet]
    by_cases hka : k = a
    · subst hka
      rw [if_pos rfl]
      by_cases hb : b = 0
      · rw [if_pos hb]
        by_cases hc : c = k
        · rw [if_pos hc, hc, cellGet_below hr (Nat.le_refl k), hb]
        · rw [if_neg hc, cellGet, if_neg (Ne.symm hc)]
      · rw [if_neg hb]
        by_cases hc : c = k
        · rw [if_pos hc, cellGet, if_pos hc.symm]
        · rw [if_neg hc, cellGet, cellGet, if_neg (Ne.symm hc), if_neg (Ne.symm hc)]
    · rw [if_neg hka]
      by_cases hak : a < k
      · rw [if_pos hak]
        by_cases hb : b = 0
        · rw [if_pos hb]
          by_cases hc : c = a
          · rw [if_pos hc, hc, cellGet, if_neg hka, cellGet_below hr (by omega), hb]
          · rw [if_neg hc]
        · rw [if_neg hb]
          by_cases hc : c = a
          · rw [if_pos hc, hc, cellGet, if_pos rfl]
          · rw [if_neg hc, cellGet, if_neg (Ne.symm hc)]
      · rw [if_neg hak, cellGet, cellGet, ih hr]
        by_cases hck : k = c
        · have : c ≠ a := by omega
          simp [hck, this]
        · simp [hck]

/-- A byte just written reads back, and every other byte reads as before. -/
theorem cellGet_set {m : List Host.Cell} (hm : cellsWf m = true) (a : Nat) (b : Byte) (c : Nat) :
    cellGet (cellSet m a b) c = if c = a then b else cellGet m c := by
  cases m with
  | nil => exact cellGet_set_above (lo := 0) rfl a b c
  | cons p r =>
    obtain ⟨k, v⟩ := p
    simp only [cellsWf, Bool.and_eq_true, decide_eq_true_eq] at hm
    by_cases hk : k = 0
    · subst hk
      simp only [cellSet]
      by_cases ha : 0 = a
      · subst ha
        rw [if_pos rfl]
        by_cases hb : b = 0
        · rw [if_pos hb]
          by_cases hc : c = 0
          · rw [if_pos hc, hc, cellGet_below hm.2 (Nat.le_refl 0), hb]
          · rw [if_neg hc, cellGet, if_neg (Ne.symm hc)]
        · rw [if_neg hb]
          by_cases hc : c = 0
          · simp [cellGet, hc]
          · rw [if_neg hc, cellGet, cellGet, if_neg (Ne.symm hc), if_neg (Ne.symm hc)]
      · rw [if_neg ha, if_neg (by omega), cellGet, cellGet, cellGet_set_above hm.2]
        by_cases hc : 0 = c
        · have : c ≠ a := by omega
          simp [hc, this]
        · simp [hc]
    · exact cellGet_set_above (lo := 0) (by simp only [cellsAbove, Bool.and_eq_true, decide_eq_true_eq]; exact ⟨⟨by omega, hm.1⟩, hm.2⟩) a b c

/-- Memory right after reset has the canonical form. -/
theorem reset_memory_wf : Memory.wf State.reset.chip.mem.bytes = true := rfl

/-- A write at a home keeps the canonical form of memory (R20). -/
theorem putByte_wf {c : Chip} (h : Memory.wf c.mem.bytes = true) (l : Nat) (b : Byte) : Memory.wf (c.putByte l b).mem.bytes = true := by
  unfold Chip.putByte
  split
  · exact h
  · exact cellsWf_set h l b

/-- A write of bytes at their home keeps the canonical form of memory. -/
theorem putBytes_wf {c : Chip} (h : Memory.wf c.mem.bytes = true) (l : Nat) (bs : List Byte) :
    Memory.wf (c.putBytes l bs).mem.bytes = true := by
  induction bs generalizing c l with
  | nil => exact h
  | cons b r ih => exact ih (putByte_wf h l b) _

/-- A masked write of a line keeps the canonical form of memory. -/
theorem putMasked_wf {c : Chip} (h : Memory.wf c.mem.bytes = true) (line : Nat) (d : BitVec 512) (mask : BitVec 64) (n : Nat) :
    Memory.wf (c.putMasked line d mask n).mem.bytes = true := by
  induction n generalizing c with
  | zero => exact h
  | succ n ih =>
    rw [Chip.putMasked]
    refine ih ?_
    split
    · exact putByte_wf h _ _
    · exact h

/-- A byte written to a memory that no failure took reads back, and every other byte reads as before (R20). -/
theorem getByte_putByte {c : Chip} (h : Memory.wf c.mem.bytes = true) {l : Nat} (hl : c.lostAt l = false) (b : Byte) (k : Nat) :
    (c.putByte l b).getByte k = if k = l then b else c.getByte k := by
  unfold Chip.putByte Chip.getByte
  rw [if_neg (by simp [hl])]
  exact cellGet_set h l b k

/-- A write to a fenced memory changes no byte (R20). -/
theorem getByte_putByte_lost {c : Chip} {l : Nat} (hl : c.lostAt l = true) (b : Byte) (k : Nat) : (c.putByte l b).getByte k = c.getByte k := by
  unfold Chip.putByte Chip.getByte
  rw [if_pos hl]
  rfl

end Sys2Proof.Machine
end

