-- ==== Sys2Proof/Laws/State.lean ====
section
/-! SUPPORT. What each update of the state, the chip and a thread leaves as it was, field by field. -/
set_option Elab.async false
namespace Sys2Proof.Machine

/-! ## Updates of the state -/
@[simp] theorem State.onTrust_chip (s : State) (f : Trust → Trust) : (s.onTrust f).chip = s.chip := rfl
@[simp] theorem State.onTrust_issue (s : State) (f : Trust → Trust) : (s.onTrust f).issue = s.issue := rfl
@[simp] theorem State.onTrust_agenda (s : State) (f : Trust → Trust) : (s.onTrust f).agenda = s.agenda := rfl
@[simp] theorem State.onTrust_strikes (s : State) (f : Trust → Trust) : (s.onTrust f).strikes = s.strikes := rfl
@[simp] theorem State.onTrust_identities (s : State) (f : Trust → Trust) : (s.onTrust f).identities = s.identities := rfl
@[simp] theorem State.onTrust_services (s : State) (f : Trust → Trust) : (s.onTrust f).services = s.services := rfl
@[simp] theorem State.onTrust_subject (s : State) (f : Trust → Trust) : (s.onTrust f).subject = s.subject := rfl
@[simp] theorem State.onTrust_turn (s : State) (f : Trust → Trust) : (s.onTrust f).turn = s.turn := rfl
@[simp] theorem State.onTrust_plat_trust (s : State) (f : Trust → Trust) : (s.onTrust f).plat.trust = f s.plat.trust := rfl
@[simp] theorem State.onTrust_plat_pod (s : State) (f : Trust → Trust) : (s.onTrust f).plat.pod = s.plat.pod := rfl
@[simp] theorem State.onTrust_plat_link (s : State) (f : Trust → Trust) : (s.onTrust f).plat.link = s.plat.link := rfl
@[simp] theorem State.onPod_chip (s : State) (f : Pod → Pod) : (s.onPod f).chip = s.chip := rfl
@[simp] theorem State.onPod_issue (s : State) (f : Pod → Pod) : (s.onPod f).issue = s.issue := rfl
@[simp] theorem State.onPod_agenda (s : State) (f : Pod → Pod) : (s.onPod f).agenda = s.agenda := rfl
@[simp] theorem State.onPod_strikes (s : State) (f : Pod → Pod) : (s.onPod f).strikes = s.strikes := rfl
@[simp] theorem State.onPod_identities (s : State) (f : Pod → Pod) : (s.onPod f).identities = s.identities := rfl
@[simp] theorem State.onPod_services (s : State) (f : Pod → Pod) : (s.onPod f).services = s.services := rfl
@[simp] theorem State.onPod_subject (s : State) (f : Pod → Pod) : (s.onPod f).subject = s.subject := rfl
@[simp] theorem State.onPod_turn (s : State) (f : Pod → Pod) : (s.onPod f).turn = s.turn := rfl
@[simp] theorem State.onPod_plat_trust (s : State) (f : Pod → Pod) : (s.onPod f).plat.trust = s.plat.trust := rfl
@[simp] theorem State.onPod_plat_pod (s : State) (f : Pod → Pod) : (s.onPod f).plat.pod = f s.plat.pod := rfl
@[simp] theorem State.onPod_plat_link (s : State) (f : Pod → Pod) : (s.onPod f).plat.link = s.plat.link := rfl
@[simp] theorem State.setTrust_chip (s : State) (x : Trust) : (s.setTrust x).chip = s.chip := rfl
@[simp] theorem State.setTrust_issue (s : State) (x : Trust) : (s.setTrust x).issue = s.issue := rfl
@[simp] theorem State.setTrust_agenda (s : State) (x : Trust) : (s.setTrust x).agenda = s.agenda := rfl
@[simp] theorem State.setTrust_strikes (s : State) (x : Trust) : (s.setTrust x).strikes = s.strikes := rfl
@[simp] theorem State.setTrust_identities (s : State) (x : Trust) : (s.setTrust x).identities = s.identities := rfl
@[simp] theorem State.setTrust_services (s : State) (x : Trust) : (s.setTrust x).services = s.services := rfl
@[simp] theorem State.setTrust_subject (s : State) (x : Trust) : (s.setTrust x).subject = s.subject := rfl
@[simp] theorem State.setTrust_turn (s : State) (x : Trust) : (s.setTrust x).turn = s.turn := rfl
@[simp] theorem State.setTrust_plat_trust (s : State) (x : Trust) : (s.setTrust x).plat.trust = x := rfl
@[simp] theorem State.setTrust_plat_pod (s : State) (x : Trust) : (s.setTrust x).plat.pod = s.plat.pod := rfl
@[simp] theorem State.setTrust_plat_link (s : State) (x : Trust) : (s.setTrust x).plat.link = s.plat.link := rfl
@[simp] theorem State.setPod_chip (s : State) (x : Pod) : (s.setPod x).chip = s.chip := rfl
@[simp] theorem State.setPod_issue (s : State) (x : Pod) : (s.setPod x).issue = s.issue := rfl
@[simp] theorem State.setPod_agenda (s : State) (x : Pod) : (s.setPod x).agenda = s.agenda := rfl
@[simp] theorem State.setPod_strikes (s : State) (x : Pod) : (s.setPod x).strikes = s.strikes := rfl
@[simp] theorem State.setPod_identities (s : State) (x : Pod) : (s.setPod x).identities = s.identities := rfl
@[simp] theorem State.setPod_services (s : State) (x : Pod) : (s.setPod x).services = s.services := rfl
@[simp] theorem State.setPod_subject (s : State) (x : Pod) : (s.setPod x).subject = s.subject := rfl
@[simp] theorem State.setPod_turn (s : State) (x : Pod) : (s.setPod x).turn = s.turn := rfl
@[simp] theorem State.setPod_plat_trust (s : State) (x : Pod) : (s.setPod x).plat.trust = s.plat.trust := rfl
@[simp] theorem State.setPod_plat_pod (s : State) (x : Pod) : (s.setPod x).plat.pod = x := rfl
@[simp] theorem State.setPod_plat_link (s : State) (x : Pod) : (s.setPod x).plat.link = s.plat.link := rfl
@[simp] theorem State.setLink_chip (s : State) (x : Link) : (s.setLink x).chip = s.chip := rfl
@[simp] theorem State.setLink_issue (s : State) (x : Link) : (s.setLink x).issue = s.issue := rfl
@[simp] theorem State.setLink_agenda (s : State) (x : Link) : (s.setLink x).agenda = s.agenda := rfl
@[simp] theorem State.setLink_strikes (s : State) (x : Link) : (s.setLink x).strikes = s.strikes := rfl
@[simp] theorem State.setLink_identities (s : State) (x : Link) : (s.setLink x).identities = s.identities := rfl
@[simp] theorem State.setLink_services (s : State) (x : Link) : (s.setLink x).services = s.services := rfl
@[simp] theorem State.setLink_subject (s : State) (x : Link) : (s.setLink x).subject = s.subject := rfl
@[simp] theorem State.setLink_turn (s : State) (x : Link) : (s.setLink x).turn = s.turn := rfl
@[simp] theorem State.setLink_plat_trust (s : State) (x : Link) : (s.setLink x).plat.trust = s.plat.trust := rfl
@[simp] theorem State.setLink_plat_pod (s : State) (x : Link) : (s.setLink x).plat.pod = s.plat.pod := rfl
@[simp] theorem State.setLink_plat_link (s : State) (x : Link) : (s.setLink x).plat.link = x := rfl
@[simp] theorem State.onChip_plat (s : State) (f : Chip → Chip) : (s.onChip f).plat = s.plat := rfl
@[simp] theorem State.onChip_chip (s : State) (f : Chip → Chip) : (s.onChip f).chip = f s.chip := rfl
@[simp] theorem State.onChip_issue (s : State) (f : Chip → Chip) : (s.onChip f).issue = s.issue := rfl
@[simp] theorem State.onChip_agenda (s : State) (f : Chip → Chip) : (s.onChip f).agenda = s.agenda := rfl
@[simp] theorem State.onChip_strikes (s : State) (f : Chip → Chip) : (s.onChip f).strikes = s.strikes := rfl
@[simp] theorem State.onChip_identities (s : State) (f : Chip → Chip) : (s.onChip f).identities = s.identities := rfl
@[simp] theorem State.onChip_services (s : State) (f : Chip → Chip) : (s.onChip f).services = s.services := rfl
@[simp] theorem State.onChip_subject (s : State) (f : Chip → Chip) : (s.onChip f).subject = s.subject := rfl
@[simp] theorem State.onChip_turn (s : State) (f : Chip → Chip) : (s.onChip f).turn = s.turn := rfl
@[simp] theorem State.onRas_plat (s : State) (f : Ras → Ras) : (s.onRas f).plat = s.plat := rfl
@[simp] theorem State.onRas_issue (s : State) (f : Ras → Ras) : (s.onRas f).issue = s.issue := rfl
@[simp] theorem State.onRas_agenda (s : State) (f : Ras → Ras) : (s.onRas f).agenda = s.agenda := rfl
@[simp] theorem State.onRas_strikes (s : State) (f : Ras → Ras) : (s.onRas f).strikes = s.strikes := rfl
@[simp] theorem State.onRas_identities (s : State) (f : Ras → Ras) : (s.onRas f).identities = s.identities := rfl
@[simp] theorem State.onRas_services (s : State) (f : Ras → Ras) : (s.onRas f).services = s.services := rfl
@[simp] theorem State.onRas_subject (s : State) (f : Ras → Ras) : (s.onRas f).subject = s.subject := rfl
@[simp] theorem State.onRas_turn (s : State) (f : Ras → Ras) : (s.onRas f).turn = s.turn := rfl
@[simp] theorem State.onRas_chip_tick (s : State) (f : Ras → Ras) : (s.onRas f).chip.tick = s.chip.tick := rfl
@[simp] theorem State.onRas_chip_cycle (s : State) (f : Ras → Ras) : (s.onRas f).chip.cycle = s.chip.cycle := rfl
@[simp] theorem State.onRas_chip_free (s : State) (f : Ras → Ras) : (s.onRas f).chip.free = s.chip.free := rfl
@[simp] theorem State.onRas_chip_threads (s : State) (f : Ras → Ras) : (s.onRas f).chip.threads = s.chip.threads := rfl
@[simp] theorem State.onRas_chip_groups (s : State) (f : Ras → Ras) : (s.onRas f).chip.groups = s.chip.groups := rfl
@[simp] theorem State.onRas_chip_mem (s : State) (f : Ras → Ras) : (s.onRas f).chip.mem = s.chip.mem := rfl
@[simp] theorem State.onRas_chip_xl (s : State) (f : Ras → Ras) : (s.onRas f).chip.xl = s.chip.xl := rfl
@[simp] theorem State.onRas_chip_eng (s : State) (f : Ras → Ras) : (s.onRas f).chip.eng = s.chip.eng := rfl
@[simp] theorem State.onRas_chip_disp (s : State) (f : Ras → Ras) : (s.onRas f).chip.disp = s.chip.disp := rfl
@[simp] theorem State.onRas_chip_dev (s : State) (f : Ras → Ras) : (s.onRas f).chip.dev = s.chip.dev := rfl
@[simp] theorem State.onRas_chip_harts (s : State) (f : Ras → Ras) : (s.onRas f).chip.harts = s.chip.harts := rfl
@[simp] theorem State.onRas_chip_ras (s : State) (f : Ras → Ras) : (s.onRas f).chip.ras = f s.chip.ras := rfl
@[simp] theorem State.onRas_chip_ripe (s : State) (f : Ras → Ras) : (s.onRas f).chip.ripe = s.chip.ripe := rfl
@[simp] theorem State.onRas_chip_laneMet (s : State) (f : Ras → Ras) : (s.onRas f).chip.laneMet = s.chip.laneMet := rfl
@[simp] theorem State.onRas_chip_msis (s : State) (f : Ras → Ras) : (s.onRas f).chip.msis = s.chip.msis := rfl
@[simp] theorem State.onRas_chip_regWrites (s : State) (f : Ras → Ras) : (s.onRas f).chip.regWrites = s.chip.regWrites := rfl
@[simp] theorem State.onRas_chip_lpddr (s : State) (f : Ras → Ras) : (s.onRas f).chip.lpddr = s.chip.lpddr := rfl
@[simp] theorem State.onRas_chip_cxl (s : State) (f : Ras → Ras) : (s.onRas f).chip.cxl = s.chip.cxl := rfl
@[simp] theorem State.onRas_chip_ringsLost (s : State) (f : Ras → Ras) : (s.onRas f).chip.ringsLost = s.chip.ringsLost := rfl
@[simp] theorem State.onRas_chip_pcie (s : State) (f : Ras → Ras) : (s.onRas f).chip.pcie = s.chip.pcie := rfl
@[simp] theorem State.onRas_chip_outbox (s : State) (f : Ras → Ras) : (s.onRas f).chip.outbox = s.chip.outbox := rfl
@[simp] theorem State.onRas_chip_firewall (s : State) (f : Ras → Ras) : (s.onRas f).chip.firewall = s.chip.firewall := rfl
@[simp] theorem State.onRas_chip_pkg (s : State) (f : Ras → Ras) : (s.onRas f).chip.pkg = s.chip.pkg := rfl
@[simp] theorem State.onRas_chip_members (s : State) (f : Ras → Ras) : (s.onRas f).chip.members = s.chip.members := rfl
@[simp] theorem State.onDev_plat (s : State) (f : DevRegs → DevRegs) : (s.onDev f).plat = s.plat := rfl
@[simp] theorem State.onDev_issue (s : State) (f : DevRegs → DevRegs) : (s.onDev f).issue = s.issue := rfl
@[simp] theorem State.onDev_agenda (s : State) (f : DevRegs → DevRegs) : (s.onDev f).agenda = s.agenda := rfl
@[simp] theorem State.onDev_strikes (s : State) (f : DevRegs → DevRegs) : (s.onDev f).strikes = s.strikes := rfl
@[simp] theorem State.onDev_identities (s : State) (f : DevRegs → DevRegs) : (s.onDev f).identities = s.identities := rfl
@[simp] theorem State.onDev_services (s : State) (f : DevRegs → DevRegs) : (s.onDev f).services = s.services := rfl
@[simp] theorem State.onDev_subject (s : State) (f : DevRegs → DevRegs) : (s.onDev f).subject = s.subject := rfl
@[simp] theorem State.onDev_turn (s : State) (f : DevRegs → DevRegs) : (s.onDev f).turn = s.turn := rfl
@[simp] theorem State.onDev_chip_tick (s : State) (f : DevRegs → DevRegs) : (s.onDev f).chip.tick = s.chip.tick := rfl
@[simp] theorem State.onDev_chip_cycle (s : State) (f : DevRegs → DevRegs) : (s.onDev f).chip.cycle = s.chip.cycle := rfl
@[simp] theorem State.onDev_chip_free (s : State) (f : DevRegs → DevRegs) : (s.onDev f).chip.free = s.chip.free := rfl
@[simp] theorem State.onDev_chip_threads (s : State) (f : DevRegs → DevRegs) : (s.onDev f).chip.threads = s.chip.threads := rfl
@[simp] theorem State.onDev_chip_groups (s : State) (f : DevRegs → DevRegs) : (s.onDev f).chip.groups = s.chip.groups := rfl
@[simp] theorem State.onDev_chip_mem (s : State) (f : DevRegs → DevRegs) : (s.onDev f).chip.mem = s.chip.mem := rfl
@[simp] theorem State.onDev_chip_xl (s : State) (f : DevRegs → DevRegs) : (s.onDev f).chip.xl = s.chip.xl := rfl
@[simp] theorem State.onDev_chip_eng (s : State) (f : DevRegs → DevRegs) : (s.onDev f).chip.eng = s.chip.eng := rfl
@[simp] theorem State.onDev_chip_disp (s : State) (f : DevRegs → DevRegs) : (s.onDev f).chip.disp = s.chip.disp := rfl
@[simp] theorem State.onDev_chip_dev (s : State) (f : DevRegs → DevRegs) : (s.onDev f).chip.dev = f s.chip.dev := rfl
@[simp] theorem State.onDev_chip_harts (s : State) (f : DevRegs → DevRegs) : (s.onDev f).chip.harts = s.chip.harts := rfl
@[simp] theorem State.onDev_chip_ras (s : State) (f : DevRegs → DevRegs) : (s.onDev f).chip.ras = s.chip.ras := rfl
@[simp] theorem State.onDev_chip_ripe (s : State) (f : DevRegs → DevRegs) : (s.onDev f).chip.ripe = s.chip.ripe := rfl
@[simp] theorem State.onDev_chip_laneMet (s : State) (f : DevRegs → DevRegs) : (s.onDev f).chip.laneMet = s.chip.laneMet := rfl
@[simp] theorem State.onDev_chip_msis (s : State) (f : DevRegs → DevRegs) : (s.onDev f).chip.msis = s.chip.msis := rfl
@[simp] theorem State.onDev_chip_regWrites (s : State) (f : DevRegs → DevRegs) : (s.onDev f).chip.regWrites = s.chip.regWrites := rfl
@[simp] theorem State.onDev_chip_lpddr (s : State) (f : DevRegs → DevRegs) : (s.onDev f).chip.lpddr = s.chip.lpddr := rfl
@[simp] theorem State.onDev_chip_cxl (s : State) (f : DevRegs → DevRegs) : (s.onDev f).chip.cxl = s.chip.cxl := rfl
@[simp] theorem State.onDev_chip_ringsLost (s : State) (f : DevRegs → DevRegs) : (s.onDev f).chip.ringsLost = s.chip.ringsLost := rfl
@[simp] theorem State.onDev_chip_pcie (s : State) (f : DevRegs → DevRegs) : (s.onDev f).chip.pcie = s.chip.pcie := rfl
@[simp] theorem State.onDev_chip_outbox (s : State) (f : DevRegs → DevRegs) : (s.onDev f).chip.outbox = s.chip.outbox := rfl
@[simp] theorem State.onDev_chip_firewall (s : State) (f : DevRegs → DevRegs) : (s.onDev f).chip.firewall = s.chip.firewall := rfl
@[simp] theorem State.onDev_chip_pkg (s : State) (f : DevRegs → DevRegs) : (s.onDev f).chip.pkg = s.chip.pkg := rfl
@[simp] theorem State.onDev_chip_members (s : State) (f : DevRegs → DevRegs) : (s.onDev f).chip.members = s.chip.members := rfl
/-! ## Updates of the chip: each changes one part -/
@[simp] theorem Chip.setThread_tick (c : Chip) (t : Thread) : (c.setThread t).tick = c.tick := rfl
@[simp] theorem Chip.setThread_cycle (c : Chip) (t : Thread) : (c.setThread t).cycle = c.cycle := rfl
@[simp] theorem Chip.setThread_free (c : Chip) (t : Thread) : (c.setThread t).free = c.free := rfl
@[simp] theorem Chip.setThread_groups (c : Chip) (t : Thread) : (c.setThread t).groups = c.groups := rfl
@[simp] theorem Chip.setThread_mem (c : Chip) (t : Thread) : (c.setThread t).mem = c.mem := rfl
@[simp] theorem Chip.setThread_xl (c : Chip) (t : Thread) : (c.setThread t).xl = c.xl := rfl
@[simp] theorem Chip.setThread_eng (c : Chip) (t : Thread) : (c.setThread t).eng = c.eng := rfl
@[simp] theorem Chip.setThread_disp (c : Chip) (t : Thread) : (c.setThread t).disp = c.disp := rfl
@[simp] theorem Chip.setThread_dev (c : Chip) (t : Thread) : (c.setThread t).dev = c.dev := rfl
@[simp] theorem Chip.setThread_harts (c : Chip) (t : Thread) : (c.setThread t).harts = c.harts := rfl
@[simp] theorem Chip.setThread_ras (c : Chip) (t : Thread) : (c.setThread t).ras = c.ras := rfl
@[simp] theorem Chip.setThread_ripe (c : Chip) (t : Thread) : (c.setThread t).ripe = c.ripe := rfl
@[simp] theorem Chip.setThread_laneMet (c : Chip) (t : Thread) : (c.setThread t).laneMet = c.laneMet := rfl
@[simp] theorem Chip.setThread_msis (c : Chip) (t : Thread) : (c.setThread t).msis = c.msis := rfl
@[simp] theorem Chip.setThread_regWrites (c : Chip) (t : Thread) : (c.setThread t).regWrites = c.regWrites := rfl
@[simp] theorem Chip.setThread_lpddr (c : Chip) (t : Thread) : (c.setThread t).lpddr = c.lpddr := rfl
@[simp] theorem Chip.setThread_cxl (c : Chip) (t : Thread) : (c.setThread t).cxl = c.cxl := rfl
@[simp] theorem Chip.setThread_ringsLost (c : Chip) (t : Thread) : (c.setThread t).ringsLost = c.ringsLost := rfl
@[simp] theorem Chip.setThread_pcie (c : Chip) (t : Thread) : (c.setThread t).pcie = c.pcie := rfl
@[simp] theorem Chip.setThread_outbox (c : Chip) (t : Thread) : (c.setThread t).outbox = c.outbox := rfl
@[simp] theorem Chip.setThread_firewall (c : Chip) (t : Thread) : (c.setThread t).firewall = c.firewall := rfl
@[simp] theorem Chip.setThread_pkg (c : Chip) (t : Thread) : (c.setThread t).pkg = c.pkg := rfl
@[simp] theorem Chip.setThread_members (c : Chip) (t : Thread) : (c.setThread t).members = c.members := rfl
@[simp] theorem Chip.onThread_tick (c : Chip) (id : Nat) (f : Thread → Thread) : (c.onThread id f).tick = c.tick := rfl
@[simp] theorem Chip.onThread_cycle (c : Chip) (id : Nat) (f : Thread → Thread) : (c.onThread id f).cycle = c.cycle := rfl
@[simp] theorem Chip.onThread_free (c : Chip) (id : Nat) (f : Thread → Thread) : (c.onThread id f).free = c.free := rfl
@[simp] theorem Chip.onThread_groups (c : Chip) (id : Nat) (f : Thread → Thread) : (c.onThread id f).groups = c.groups := rfl
@[simp] theorem Chip.onThread_mem (c : Chip) (id : Nat) (f : Thread → Thread) : (c.onThread id f).mem = c.mem := rfl
@[simp] theorem Chip.onThread_xl (c : Chip) (id : Nat) (f : Thread → Thread) : (c.onThread id f).xl = c.xl := rfl
@[simp] theorem Chip.onThread_eng (c : Chip) (id : Nat) (f : Thread → Thread) : (c.onThread id f).eng = c.eng := rfl
@[simp] theorem Chip.onThread_disp (c : Chip) (id : Nat) (f : Thread → Thread) : (c.onThread id f).disp = c.disp := rfl
@[simp] theorem Chip.onThread_dev (c : Chip) (id : Nat) (f : Thread → Thread) : (c.onThread id f).dev = c.dev := rfl
@[simp] theorem Chip.onThread_harts (c : Chip) (id : Nat) (f : Thread → Thread) : (c.onThread id f).harts = c.harts := rfl
@[simp] theorem Chip.onThread_ras (c : Chip) (id : Nat) (f : Thread → Thread) : (c.onThread id f).ras = c.ras := rfl
@[simp] theorem Chip.onThread_ripe (c : Chip) (id : Nat) (f : Thread → Thread) : (c.onThread id f).ripe = c.ripe := rfl
@[simp] theorem Chip.onThread_laneMet (c : Chip) (id : Nat) (f : Thread → Thread) : (c.onThread id f).laneMet = c.laneMet := rfl
@[simp] theorem Chip.onThread_msis (c : Chip) (id : Nat) (f : Thread → Thread) : (c.onThread id f).msis = c.msis := rfl
@[simp] theorem Chip.onThread_regWrites (c : Chip) (id : Nat) (f : Thread → Thread) : (c.onThread id f).regWrites = c.regWrites := rfl
@[simp] theorem Chip.onThread_lpddr (c : Chip) (id : Nat) (f : Thread → Thread) : (c.onThread id f).lpddr = c.lpddr := rfl
@[simp] theorem Chip.onThread_cxl (c : Chip) (id : Nat) (f : Thread → Thread) : (c.onThread id f).cxl = c.cxl := rfl
@[simp] theorem Chip.onThread_ringsLost (c : Chip) (id : Nat) (f : Thread → Thread) : (c.onThread id f).ringsLost = c.ringsLost := rfl
@[simp] theorem Chip.onThread_pcie (c : Chip) (id : Nat) (f : Thread → Thread) : (c.onThread id f).pcie = c.pcie := rfl
@[simp] theorem Chip.onThread_outbox (c : Chip) (id : Nat) (f : Thread → Thread) : (c.onThread id f).outbox = c.outbox := rfl
@[simp] theorem Chip.onThread_firewall (c : Chip) (id : Nat) (f : Thread → Thread) : (c.onThread id f).firewall = c.firewall := rfl
@[simp] theorem Chip.onThread_pkg (c : Chip) (id : Nat) (f : Thread → Thread) : (c.onThread id f).pkg = c.pkg := rfl
@[simp] theorem Chip.onThread_members (c : Chip) (id : Nat) (f : Thread → Thread) : (c.onThread id f).members = c.members := rfl
@[simp] theorem Chip.setBlock_tick (c : Chip) (b : Block) : (c.setBlock b).tick = c.tick := rfl
@[simp] theorem Chip.setBlock_cycle (c : Chip) (b : Block) : (c.setBlock b).cycle = c.cycle := rfl
@[simp] theorem Chip.setBlock_free (c : Chip) (b : Block) : (c.setBlock b).free = c.free := rfl
@[simp] theorem Chip.setBlock_threads (c : Chip) (b : Block) : (c.setBlock b).threads = c.threads := rfl
@[simp] theorem Chip.setBlock_groups (c : Chip) (b : Block) : (c.setBlock b).groups = c.groups := rfl
@[simp] theorem Chip.setBlock_mem (c : Chip) (b : Block) : (c.setBlock b).mem = c.mem := rfl
@[simp] theorem Chip.setBlock_xl (c : Chip) (b : Block) : (c.setBlock b).xl = c.xl := rfl
@[simp] theorem Chip.setBlock_eng (c : Chip) (b : Block) : (c.setBlock b).eng = c.eng := rfl
@[simp] theorem Chip.setBlock_dev (c : Chip) (b : Block) : (c.setBlock b).dev = c.dev := rfl
@[simp] theorem Chip.setBlock_harts (c : Chip) (b : Block) : (c.setBlock b).harts = c.harts := rfl
@[simp] theorem Chip.setBlock_ras (c : Chip) (b : Block) : (c.setBlock b).ras = c.ras := rfl
@[simp] theorem Chip.setBlock_ripe (c : Chip) (b : Block) : (c.setBlock b).ripe = c.ripe := rfl
@[simp] theorem Chip.setBlock_laneMet (c : Chip) (b : Block) : (c.setBlock b).laneMet = c.laneMet := rfl
@[simp] theorem Chip.setBlock_msis (c : Chip) (b : Block) : (c.setBlock b).msis = c.msis := rfl
@[simp] theorem Chip.setBlock_regWrites (c : Chip) (b : Block) : (c.setBlock b).regWrites = c.regWrites := rfl
@[simp] theorem Chip.setBlock_lpddr (c : Chip) (b : Block) : (c.setBlock b).lpddr = c.lpddr := rfl
@[simp] theorem Chip.setBlock_cxl (c : Chip) (b : Block) : (c.setBlock b).cxl = c.cxl := rfl
@[simp] theorem Chip.setBlock_ringsLost (c : Chip) (b : Block) : (c.setBlock b).ringsLost = c.ringsLost := rfl
@[simp] theorem Chip.setBlock_pcie (c : Chip) (b : Block) : (c.setBlock b).pcie = c.pcie := rfl
@[simp] theorem Chip.setBlock_outbox (c : Chip) (b : Block) : (c.setBlock b).outbox = c.outbox := rfl
@[simp] theorem Chip.setBlock_firewall (c : Chip) (b : Block) : (c.setBlock b).firewall = c.firewall := rfl
@[simp] theorem Chip.setBlock_pkg (c : Chip) (b : Block) : (c.setBlock b).pkg = c.pkg := rfl
@[simp] theorem Chip.setBlock_members (c : Chip) (b : Block) : (c.setBlock b).members = c.members := rfl
@[simp] theorem Chip.setGrid_tick (c : Chip) (g : Grid) : (c.setGrid g).tick = c.tick := rfl
@[simp] theorem Chip.setGrid_cycle (c : Chip) (g : Grid) : (c.setGrid g).cycle = c.cycle := rfl
@[simp] theorem Chip.setGrid_free (c : Chip) (g : Grid) : (c.setGrid g).free = c.free := rfl
@[simp] theorem Chip.setGrid_threads (c : Chip) (g : Grid) : (c.setGrid g).threads = c.threads := rfl
@[simp] theorem Chip.setGrid_groups (c : Chip) (g : Grid) : (c.setGrid g).groups = c.groups := rfl
@[simp] theorem Chip.setGrid_mem (c : Chip) (g : Grid) : (c.setGrid g).mem = c.mem := rfl
@[simp] theorem Chip.setGrid_xl (c : Chip) (g : Grid) : (c.setGrid g).xl = c.xl := rfl
@[simp] theorem Chip.setGrid_eng (c : Chip) (g : Grid) : (c.setGrid g).eng = c.eng := rfl
@[simp] theorem Chip.setGrid_dev (c : Chip) (g : Grid) : (c.setGrid g).dev = c.dev := rfl
@[simp] theorem Chip.setGrid_harts (c : Chip) (g : Grid) : (c.setGrid g).harts = c.harts := rfl
@[simp] theorem Chip.setGrid_ras (c : Chip) (g : Grid) : (c.setGrid g).ras = c.ras := rfl
@[simp] theorem Chip.setGrid_ripe (c : Chip) (g : Grid) : (c.setGrid g).ripe = c.ripe := rfl
@[simp] theorem Chip.setGrid_laneMet (c : Chip) (g : Grid) : (c.setGrid g).laneMet = c.laneMet := rfl
@[simp] theorem Chip.setGrid_msis (c : Chip) (g : Grid) : (c.setGrid g).msis = c.msis := rfl
@[simp] theorem Chip.setGrid_regWrites (c : Chip) (g : Grid) : (c.setGrid g).regWrites = c.regWrites := rfl
@[simp] theorem Chip.setGrid_lpddr (c : Chip) (g : Grid) : (c.setGrid g).lpddr = c.lpddr := rfl
@[simp] theorem Chip.setGrid_cxl (c : Chip) (g : Grid) : (c.setGrid g).cxl = c.cxl := rfl
@[simp] theorem Chip.setGrid_ringsLost (c : Chip) (g : Grid) : (c.setGrid g).ringsLost = c.ringsLost := rfl
@[simp] theorem Chip.setGrid_pcie (c : Chip) (g : Grid) : (c.setGrid g).pcie = c.pcie := rfl
@[simp] theorem Chip.setGrid_outbox (c : Chip) (g : Grid) : (c.setGrid g).outbox = c.outbox := rfl
@[simp] theorem Chip.setGrid_firewall (c : Chip) (g : Grid) : (c.setGrid g).firewall = c.firewall := rfl
@[simp] theorem Chip.setGrid_pkg (c : Chip) (g : Grid) : (c.setGrid g).pkg = c.pkg := rfl
@[simp] theorem Chip.setGrid_members (c : Chip) (g : Grid) : (c.setGrid g).members = c.members := rfl
@[simp] theorem Chip.setTask_tick (c : Chip) (k : Task) : (c.setTask k).tick = c.tick := rfl
@[simp] theorem Chip.setTask_cycle (c : Chip) (k : Task) : (c.setTask k).cycle = c.cycle := rfl
@[simp] theorem Chip.setTask_free (c : Chip) (k : Task) : (c.setTask k).free = c.free := rfl
@[simp] theorem Chip.setTask_threads (c : Chip) (k : Task) : (c.setTask k).threads = c.threads := rfl
@[simp] theorem Chip.setTask_groups (c : Chip) (k : Task) : (c.setTask k).groups = c.groups := rfl
@[simp] theorem Chip.setTask_mem (c : Chip) (k : Task) : (c.setTask k).mem = c.mem := rfl
@[simp] theorem Chip.setTask_xl (c : Chip) (k : Task) : (c.setTask k).xl = c.xl := rfl
@[simp] theorem Chip.setTask_eng (c : Chip) (k : Task) : (c.setTask k).eng = c.eng := rfl
@[simp] theorem Chip.setTask_dev (c : Chip) (k : Task) : (c.setTask k).dev = c.dev := rfl
@[simp] theorem Chip.setTask_harts (c : Chip) (k : Task) : (c.setTask k).harts = c.harts := rfl
@[simp] theorem Chip.setTask_ras (c : Chip) (k : Task) : (c.setTask k).ras = c.ras := rfl
@[simp] theorem Chip.setTask_ripe (c : Chip) (k : Task) : (c.setTask k).ripe = c.ripe := rfl
@[simp] theorem Chip.setTask_laneMet (c : Chip) (k : Task) : (c.setTask k).laneMet = c.laneMet := rfl
@[simp] theorem Chip.setTask_msis (c : Chip) (k : Task) : (c.setTask k).msis = c.msis := rfl
@[simp] theorem Chip.setTask_regWrites (c : Chip) (k : Task) : (c.setTask k).regWrites = c.regWrites := rfl
@[simp] theorem Chip.setTask_lpddr (c : Chip) (k : Task) : (c.setTask k).lpddr = c.lpddr := rfl
@[simp] theorem Chip.setTask_cxl (c : Chip) (k : Task) : (c.setTask k).cxl = c.cxl := rfl
@[simp] theorem Chip.setTask_ringsLost (c : Chip) (k : Task) : (c.setTask k).ringsLost = c.ringsLost := rfl
@[simp] theorem Chip.setTask_pcie (c : Chip) (k : Task) : (c.setTask k).pcie = c.pcie := rfl
@[simp] theorem Chip.setTask_outbox (c : Chip) (k : Task) : (c.setTask k).outbox = c.outbox := rfl
@[simp] theorem Chip.setTask_firewall (c : Chip) (k : Task) : (c.setTask k).firewall = c.firewall := rfl
@[simp] theorem Chip.setTask_pkg (c : Chip) (k : Task) : (c.setTask k).pkg = c.pkg := rfl
@[simp] theorem Chip.setTask_members (c : Chip) (k : Task) : (c.setTask k).members = c.members := rfl
@[simp] theorem Chip.setRegion_tick (c : Chip) (g : Region) : (c.setRegion g).tick = c.tick := rfl
@[simp] theorem Chip.setRegion_cycle (c : Chip) (g : Region) : (c.setRegion g).cycle = c.cycle := rfl
@[simp] theorem Chip.setRegion_free (c : Chip) (g : Region) : (c.setRegion g).free = c.free := rfl
@[simp] theorem Chip.setRegion_threads (c : Chip) (g : Region) : (c.setRegion g).threads = c.threads := rfl
@[simp] theorem Chip.setRegion_groups (c : Chip) (g : Region) : (c.setRegion g).groups = c.groups := rfl
@[simp] theorem Chip.setRegion_mem (c : Chip) (g : Region) : (c.setRegion g).mem = c.mem := rfl
@[simp] theorem Chip.setRegion_xl (c : Chip) (g : Region) : (c.setRegion g).xl = c.xl := rfl
@[simp] theorem Chip.setRegion_eng (c : Chip) (g : Region) : (c.setRegion g).eng = c.eng := rfl
@[simp] theorem Chip.setRegion_dev (c : Chip) (g : Region) : (c.setRegion g).dev = c.dev := rfl
@[simp] theorem Chip.setRegion_harts (c : Chip) (g : Region) : (c.setRegion g).harts = c.harts := rfl
@[simp] theorem Chip.setRegion_ras (c : Chip) (g : Region) : (c.setRegion g).ras = c.ras := rfl
@[simp] theorem Chip.setRegion_ripe (c : Chip) (g : Region) : (c.setRegion g).ripe = c.ripe := rfl
@[simp] theorem Chip.setRegion_laneMet (c : Chip) (g : Region) : (c.setRegion g).laneMet = c.laneMet := rfl
@[simp] theorem Chip.setRegion_msis (c : Chip) (g : Region) : (c.setRegion g).msis = c.msis := rfl
@[simp] theorem Chip.setRegion_regWrites (c : Chip) (g : Region) : (c.setRegion g).regWrites = c.regWrites := rfl
@[simp] theorem Chip.setRegion_lpddr (c : Chip) (g : Region) : (c.setRegion g).lpddr = c.lpddr := rfl
@[simp] theorem Chip.setRegion_cxl (c : Chip) (g : Region) : (c.setRegion g).cxl = c.cxl := rfl
@[simp] theorem Chip.setRegion_ringsLost (c : Chip) (g : Region) : (c.setRegion g).ringsLost = c.ringsLost := rfl
@[simp] theorem Chip.setRegion_pcie (c : Chip) (g : Region) : (c.setRegion g).pcie = c.pcie := rfl
@[simp] theorem Chip.setRegion_outbox (c : Chip) (g : Region) : (c.setRegion g).outbox = c.outbox := rfl
@[simp] theorem Chip.setRegion_firewall (c : Chip) (g : Region) : (c.setRegion g).firewall = c.firewall := rfl
@[simp] theorem Chip.setRegion_pkg (c : Chip) (g : Region) : (c.setRegion g).pkg = c.pkg := rfl
@[simp] theorem Chip.setRegion_members (c : Chip) (g : Region) : (c.setRegion g).members = c.members := rfl
@[simp] theorem Chip.onIg_tick (c : Chip) (core q ig : Nat) (f : IssueGroup → IssueGroup) : (c.onIg core q ig f).tick = c.tick := rfl
@[simp] theorem Chip.onIg_cycle (c : Chip) (core q ig : Nat) (f : IssueGroup → IssueGroup) : (c.onIg core q ig f).cycle = c.cycle := rfl
@[simp] theorem Chip.onIg_free (c : Chip) (core q ig : Nat) (f : IssueGroup → IssueGroup) : (c.onIg core q ig f).free = c.free := rfl
@[simp] theorem Chip.onIg_threads (c : Chip) (core q ig : Nat) (f : IssueGroup → IssueGroup) : (c.onIg core q ig f).threads = c.threads := rfl
@[simp] theorem Chip.onIg_mem (c : Chip) (core q ig : Nat) (f : IssueGroup → IssueGroup) : (c.onIg core q ig f).mem = c.mem := rfl
@[simp] theorem Chip.onIg_xl (c : Chip) (core q ig : Nat) (f : IssueGroup → IssueGroup) : (c.onIg core q ig f).xl = c.xl := rfl
@[simp] theorem Chip.onIg_eng (c : Chip) (core q ig : Nat) (f : IssueGroup → IssueGroup) : (c.onIg core q ig f).eng = c.eng := rfl
@[simp] theorem Chip.onIg_disp (c : Chip) (core q ig : Nat) (f : IssueGroup → IssueGroup) : (c.onIg core q ig f).disp = c.disp := rfl
@[simp] theorem Chip.onIg_dev (c : Chip) (core q ig : Nat) (f : IssueGroup → IssueGroup) : (c.onIg core q ig f).dev = c.dev := rfl
@[simp] theorem Chip.onIg_harts (c : Chip) (core q ig : Nat) (f : IssueGroup → IssueGroup) : (c.onIg core q ig f).harts = c.harts := rfl
@[simp] theorem Chip.onIg_ras (c : Chip) (core q ig : Nat) (f : IssueGroup → IssueGroup) : (c.onIg core q ig f).ras = c.ras := rfl
@[simp] theorem Chip.onIg_ripe (c : Chip) (core q ig : Nat) (f : IssueGroup → IssueGroup) : (c.onIg core q ig f).ripe = c.ripe := rfl
@[simp] theorem Chip.onIg_laneMet (c : Chip) (core q ig : Nat) (f : IssueGroup → IssueGroup) : (c.onIg core q ig f).laneMet = c.laneMet := rfl
@[simp] theorem Chip.onIg_msis (c : Chip) (core q ig : Nat) (f : IssueGroup → IssueGroup) : (c.onIg core q ig f).msis = c.msis := rfl
@[simp] theorem Chip.onIg_regWrites (c : Chip) (core q ig : Nat) (f : IssueGroup → IssueGroup) : (c.onIg core q ig f).regWrites = c.regWrites := rfl
@[simp] theorem Chip.onIg_lpddr (c : Chip) (core q ig : Nat) (f : IssueGroup → IssueGroup) : (c.onIg core q ig f).lpddr = c.lpddr := rfl
@[simp] theorem Chip.onIg_cxl (c : Chip) (core q ig : Nat) (f : IssueGroup → IssueGroup) : (c.onIg core q ig f).cxl = c.cxl := rfl
@[simp] theorem Chip.onIg_ringsLost (c : Chip) (core q ig : Nat) (f : IssueGroup → IssueGroup) : (c.onIg core q ig f).ringsLost = c.ringsLost := rfl
@[simp] theorem Chip.onIg_pcie (c : Chip) (core q ig : Nat) (f : IssueGroup → IssueGroup) : (c.onIg core q ig f).pcie = c.pcie := rfl
@[simp] theorem Chip.onIg_outbox (c : Chip) (core q ig : Nat) (f : IssueGroup → IssueGroup) : (c.onIg core q ig f).outbox = c.outbox := rfl
@[simp] theorem Chip.onIg_firewall (c : Chip) (core q ig : Nat) (f : IssueGroup → IssueGroup) : (c.onIg core q ig f).firewall = c.firewall := rfl
@[simp] theorem Chip.onIg_pkg (c : Chip) (core q ig : Nat) (f : IssueGroup → IssueGroup) : (c.onIg core q ig f).pkg = c.pkg := rfl
@[simp] theorem Chip.onIg_members (c : Chip) (core q ig : Nat) (f : IssueGroup → IssueGroup) : (c.onIg core q ig f).members = c.members := rfl
@[simp] theorem Chip.setUnit_tick (c : Chip) (u : Nat) (x : Unit_) : (c.setUnit u x).tick = c.tick := rfl
@[simp] theorem Chip.setUnit_cycle (c : Chip) (u : Nat) (x : Unit_) : (c.setUnit u x).cycle = c.cycle := rfl
@[simp] theorem Chip.setUnit_free (c : Chip) (u : Nat) (x : Unit_) : (c.setUnit u x).free = c.free := rfl
@[simp] theorem Chip.setUnit_threads (c : Chip) (u : Nat) (x : Unit_) : (c.setUnit u x).threads = c.threads := rfl
@[simp] theorem Chip.setUnit_groups (c : Chip) (u : Nat) (x : Unit_) : (c.setUnit u x).groups = c.groups := rfl
@[simp] theorem Chip.setUnit_mem (c : Chip) (u : Nat) (x : Unit_) : (c.setUnit u x).mem = c.mem := rfl
@[simp] theorem Chip.setUnit_eng (c : Chip) (u : Nat) (x : Unit_) : (c.setUnit u x).eng = c.eng := rfl
@[simp] theorem Chip.setUnit_disp (c : Chip) (u : Nat) (x : Unit_) : (c.setUnit u x).disp = c.disp := rfl
@[simp] theorem Chip.setUnit_dev (c : Chip) (u : Nat) (x : Unit_) : (c.setUnit u x).dev = c.dev := rfl
@[simp] theorem Chip.setUnit_harts (c : Chip) (u : Nat) (x : Unit_) : (c.setUnit u x).harts = c.harts := rfl
@[simp] theorem Chip.setUnit_ras (c : Chip) (u : Nat) (x : Unit_) : (c.setUnit u x).ras = c.ras := rfl
@[simp] theorem Chip.setUnit_ripe (c : Chip) (u : Nat) (x : Unit_) : (c.setUnit u x).ripe = c.ripe := rfl
@[simp] theorem Chip.setUnit_laneMet (c : Chip) (u : Nat) (x : Unit_) : (c.setUnit u x).laneMet = c.laneMet := rfl
@[simp] theorem Chip.setUnit_msis (c : Chip) (u : Nat) (x : Unit_) : (c.setUnit u x).msis = c.msis := rfl
@[simp] theorem Chip.setUnit_regWrites (c : Chip) (u : Nat) (x : Unit_) : (c.setUnit u x).regWrites = c.regWrites := rfl
@[simp] theorem Chip.setUnit_lpddr (c : Chip) (u : Nat) (x : Unit_) : (c.setUnit u x).lpddr = c.lpddr := rfl
@[simp] theorem Chip.setUnit_cxl (c : Chip) (u : Nat) (x : Unit_) : (c.setUnit u x).cxl = c.cxl := rfl
@[simp] theorem Chip.setUnit_ringsLost (c : Chip) (u : Nat) (x : Unit_) : (c.setUnit u x).ringsLost = c.ringsLost := rfl
@[simp] theorem Chip.setUnit_pcie (c : Chip) (u : Nat) (x : Unit_) : (c.setUnit u x).pcie = c.pcie := rfl
@[simp] theorem Chip.setUnit_outbox (c : Chip) (u : Nat) (x : Unit_) : (c.setUnit u x).outbox = c.outbox := rfl
@[simp] theorem Chip.setUnit_firewall (c : Chip) (u : Nat) (x : Unit_) : (c.setUnit u x).firewall = c.firewall := rfl
@[simp] theorem Chip.setUnit_pkg (c : Chip) (u : Nat) (x : Unit_) : (c.setUnit u x).pkg = c.pkg := rfl
@[simp] theorem Chip.setUnit_members (c : Chip) (u : Nat) (x : Unit_) : (c.setUnit u x).members = c.members := rfl
@[simp] theorem Chip.setRas_tick (c : Chip) (r : Ras) : (c.setRas r).tick = c.tick := rfl
@[simp] theorem Chip.setRas_cycle (c : Chip) (r : Ras) : (c.setRas r).cycle = c.cycle := rfl
@[simp] theorem Chip.setRas_free (c : Chip) (r : Ras) : (c.setRas r).free = c.free := rfl
@[simp] theorem Chip.setRas_threads (c : Chip) (r : Ras) : (c.setRas r).threads = c.threads := rfl
@[simp] theorem Chip.setRas_groups (c : Chip) (r : Ras) : (c.setRas r).groups = c.groups := rfl
@[simp] theorem Chip.setRas_mem (c : Chip) (r : Ras) : (c.setRas r).mem = c.mem := rfl
@[simp] theorem Chip.setRas_xl (c : Chip) (r : Ras) : (c.setRas r).xl = c.xl := rfl
@[simp] theorem Chip.setRas_eng (c : Chip) (r : Ras) : (c.setRas r).eng = c.eng := rfl
@[simp] theorem Chip.setRas_disp (c : Chip) (r : Ras) : (c.setRas r).disp = c.disp := rfl
@[simp] theorem Chip.setRas_dev (c : Chip) (r : Ras) : (c.setRas r).dev = c.dev := rfl
@[simp] theorem Chip.setRas_harts (c : Chip) (r : Ras) : (c.setRas r).harts = c.harts := rfl
@[simp] theorem Chip.setRas_ripe (c : Chip) (r : Ras) : (c.setRas r).ripe = c.ripe := rfl
@[simp] theorem Chip.setRas_laneMet (c : Chip) (r : Ras) : (c.setRas r).laneMet = c.laneMet := rfl
@[simp] theorem Chip.setRas_msis (c : Chip) (r : Ras) : (c.setRas r).msis = c.msis := rfl
@[simp] theorem Chip.setRas_regWrites (c : Chip) (r : Ras) : (c.setRas r).regWrites = c.regWrites := rfl
@[simp] theorem Chip.setRas_lpddr (c : Chip) (r : Ras) : (c.setRas r).lpddr = c.lpddr := rfl
@[simp] theorem Chip.setRas_cxl (c : Chip) (r : Ras) : (c.setRas r).cxl = c.cxl := rfl
@[simp] theorem Chip.setRas_ringsLost (c : Chip) (r : Ras) : (c.setRas r).ringsLost = c.ringsLost := rfl
@[simp] theorem Chip.setRas_pcie (c : Chip) (r : Ras) : (c.setRas r).pcie = c.pcie := rfl
@[simp] theorem Chip.setRas_outbox (c : Chip) (r : Ras) : (c.setRas r).outbox = c.outbox := rfl
@[simp] theorem Chip.setRas_firewall (c : Chip) (r : Ras) : (c.setRas r).firewall = c.firewall := rfl
@[simp] theorem Chip.setRas_pkg (c : Chip) (r : Ras) : (c.setRas r).pkg = c.pkg := rfl
@[simp] theorem Chip.setRas_members (c : Chip) (r : Ras) : (c.setRas r).members = c.members := rfl
@[simp] theorem Chip.setHart_tick (c : Chip) (h : Hart) : (c.setHart h).tick = c.tick := rfl
@[simp] theorem Chip.setHart_cycle (c : Chip) (h : Hart) : (c.setHart h).cycle = c.cycle := rfl
@[simp] theorem Chip.setHart_free (c : Chip) (h : Hart) : (c.setHart h).free = c.free := rfl
@[simp] theorem Chip.setHart_threads (c : Chip) (h : Hart) : (c.setHart h).threads = c.threads := rfl
@[simp] theorem Chip.setHart_groups (c : Chip) (h : Hart) : (c.setHart h).groups = c.groups := rfl
@[simp] theorem Chip.setHart_mem (c : Chip) (h : Hart) : (c.setHart h).mem = c.mem := rfl
@[simp] theorem Chip.setHart_xl (c : Chip) (h : Hart) : (c.setHart h).xl = c.xl := rfl
@[simp] theorem Chip.setHart_eng (c : Chip) (h : Hart) : (c.setHart h).eng = c.eng := rfl
@[simp] theorem Chip.setHart_disp (c : Chip) (h : Hart) : (c.setHart h).disp = c.disp := rfl
@[simp] theorem Chip.setHart_dev (c : Chip) (h : Hart) : (c.setHart h).dev = c.dev := rfl
@[simp] theorem Chip.setHart_ras (c : Chip) (h : Hart) : (c.setHart h).ras = c.ras := rfl
@[simp] theorem Chip.setHart_ripe (c : Chip) (h : Hart) : (c.setHart h).ripe = c.ripe := rfl
@[simp] theorem Chip.setHart_laneMet (c : Chip) (h : Hart) : (c.setHart h).laneMet = c.laneMet := rfl
@[simp] theorem Chip.setHart_msis (c : Chip) (h : Hart) : (c.setHart h).msis = c.msis := rfl
@[simp] theorem Chip.setHart_regWrites (c : Chip) (h : Hart) : (c.setHart h).regWrites = c.regWrites := rfl
@[simp] theorem Chip.setHart_lpddr (c : Chip) (h : Hart) : (c.setHart h).lpddr = c.lpddr := rfl
@[simp] theorem Chip.setHart_cxl (c : Chip) (h : Hart) : (c.setHart h).cxl = c.cxl := rfl
@[simp] theorem Chip.setHart_ringsLost (c : Chip) (h : Hart) : (c.setHart h).ringsLost = c.ringsLost := rfl
@[simp] theorem Chip.setHart_pcie (c : Chip) (h : Hart) : (c.setHart h).pcie = c.pcie := rfl
@[simp] theorem Chip.setHart_outbox (c : Chip) (h : Hart) : (c.setHart h).outbox = c.outbox := rfl
@[simp] theorem Chip.setHart_firewall (c : Chip) (h : Hart) : (c.setHart h).firewall = c.firewall := rfl
@[simp] theorem Chip.setHart_pkg (c : Chip) (h : Hart) : (c.setHart h).pkg = c.pkg := rfl
@[simp] theorem Chip.setHart_members (c : Chip) (h : Hart) : (c.setHart h).members = c.members := rfl
@[simp] theorem Chip.setL1_tick (c : Chip) (l : L1Line) : (c.setL1 l).tick = c.tick := rfl
@[simp] theorem Chip.setL1_cycle (c : Chip) (l : L1Line) : (c.setL1 l).cycle = c.cycle := rfl
@[simp] theorem Chip.setL1_free (c : Chip) (l : L1Line) : (c.setL1 l).free = c.free := rfl
@[simp] theorem Chip.setL1_threads (c : Chip) (l : L1Line) : (c.setL1 l).threads = c.threads := rfl
@[simp] theorem Chip.setL1_groups (c : Chip) (l : L1Line) : (c.setL1 l).groups = c.groups := rfl
@[simp] theorem Chip.setL1_xl (c : Chip) (l : L1Line) : (c.setL1 l).xl = c.xl := rfl
@[simp] theorem Chip.setL1_eng (c : Chip) (l : L1Line) : (c.setL1 l).eng = c.eng := rfl
@[simp] theorem Chip.setL1_disp (c : Chip) (l : L1Line) : (c.setL1 l).disp = c.disp := rfl
@[simp] theorem Chip.setL1_dev (c : Chip) (l : L1Line) : (c.setL1 l).dev = c.dev := rfl
@[simp] theorem Chip.setL1_harts (c : Chip) (l : L1Line) : (c.setL1 l).harts = c.harts := rfl
@[simp] theorem Chip.setL1_ras (c : Chip) (l : L1Line) : (c.setL1 l).ras = c.ras := rfl
@[simp] theorem Chip.setL1_ripe (c : Chip) (l : L1Line) : (c.setL1 l).ripe = c.ripe := rfl
@[simp] theorem Chip.setL1_laneMet (c : Chip) (l : L1Line) : (c.setL1 l).laneMet = c.laneMet := rfl
@[simp] theorem Chip.setL1_msis (c : Chip) (l : L1Line) : (c.setL1 l).msis = c.msis := rfl
@[simp] theorem Chip.setL1_regWrites (c : Chip) (l : L1Line) : (c.setL1 l).regWrites = c.regWrites := rfl
@[simp] theorem Chip.setL1_lpddr (c : Chip) (l : L1Line) : (c.setL1 l).lpddr = c.lpddr := rfl
@[simp] theorem Chip.setL1_cxl (c : Chip) (l : L1Line) : (c.setL1 l).cxl = c.cxl := rfl
@[simp] theorem Chip.setL1_ringsLost (c : Chip) (l : L1Line) : (c.setL1 l).ringsLost = c.ringsLost := rfl
@[simp] theorem Chip.setL1_pcie (c : Chip) (l : L1Line) : (c.setL1 l).pcie = c.pcie := rfl
@[simp] theorem Chip.setL1_outbox (c : Chip) (l : L1Line) : (c.setL1 l).outbox = c.outbox := rfl
@[simp] theorem Chip.setL1_firewall (c : Chip) (l : L1Line) : (c.setL1 l).firewall = c.firewall := rfl
@[simp] theorem Chip.setL1_pkg (c : Chip) (l : L1Line) : (c.setL1 l).pkg = c.pkg := rfl
@[simp] theorem Chip.setL1_members (c : Chip) (l : L1Line) : (c.setL1 l).members = c.members := rfl
@[simp] theorem Chip.setDir_tick (c : Chip) (line : Nat) (e : Option DirEntry) : (c.setDir line e).tick = c.tick := rfl
@[simp] theorem Chip.setDir_cycle (c : Chip) (line : Nat) (e : Option DirEntry) : (c.setDir line e).cycle = c.cycle := rfl
@[simp] theorem Chip.setDir_free (c : Chip) (line : Nat) (e : Option DirEntry) : (c.setDir line e).free = c.free := rfl
@[simp] theorem Chip.setDir_threads (c : Chip) (line : Nat) (e : Option DirEntry) : (c.setDir line e).threads = c.threads := rfl
@[simp] theorem Chip.setDir_groups (c : Chip) (line : Nat) (e : Option DirEntry) : (c.setDir line e).groups = c.groups := rfl
@[simp] theorem Chip.setDir_xl (c : Chip) (line : Nat) (e : Option DirEntry) : (c.setDir line e).xl = c.xl := rfl
@[simp] theorem Chip.setDir_eng (c : Chip) (line : Nat) (e : Option DirEntry) : (c.setDir line e).eng = c.eng := rfl
@[simp] theorem Chip.setDir_disp (c : Chip) (line : Nat) (e : Option DirEntry) : (c.setDir line e).disp = c.disp := rfl
@[simp] theorem Chip.setDir_dev (c : Chip) (line : Nat) (e : Option DirEntry) : (c.setDir line e).dev = c.dev := rfl
@[simp] theorem Chip.setDir_harts (c : Chip) (line : Nat) (e : Option DirEntry) : (c.setDir line e).harts = c.harts := rfl
@[simp] theorem Chip.setDir_ras (c : Chip) (line : Nat) (e : Option DirEntry) : (c.setDir line e).ras = c.ras := rfl
@[simp] theorem Chip.setDir_ripe (c : Chip) (line : Nat) (e : Option DirEntry) : (c.setDir line e).ripe = c.ripe := rfl
@[simp] theorem Chip.setDir_laneMet (c : Chip) (line : Nat) (e : Option DirEntry) : (c.setDir line e).laneMet = c.laneMet := rfl
@[simp] theorem Chip.setDir_msis (c : Chip) (line : Nat) (e : Option DirEntry) : (c.setDir line e).msis = c.msis := rfl
@[simp] theorem Chip.setDir_regWrites (c : Chip) (line : Nat) (e : Option DirEntry) : (c.setDir line e).regWrites = c.regWrites := rfl
@[simp] theorem Chip.setDir_lpddr (c : Chip) (line : Nat) (e : Option DirEntry) : (c.setDir line e).lpddr = c.lpddr := rfl
@[simp] theorem Chip.setDir_cxl (c : Chip) (line : Nat) (e : Option DirEntry) : (c.setDir line e).cxl = c.cxl := rfl
@[simp] theorem Chip.setDir_ringsLost (c : Chip) (line : Nat) (e : Option DirEntry) : (c.setDir line e).ringsLost = c.ringsLost := rfl
@[simp] theorem Chip.setDir_pcie (c : Chip) (line : Nat) (e : Option DirEntry) : (c.setDir line e).pcie = c.pcie := rfl
@[simp] theorem Chip.setDir_outbox (c : Chip) (line : Nat) (e : Option DirEntry) : (c.setDir line e).outbox = c.outbox := rfl
@[simp] theorem Chip.setDir_firewall (c : Chip) (line : Nat) (e : Option DirEntry) : (c.setDir line e).firewall = c.firewall := rfl
@[simp] theorem Chip.setDir_pkg (c : Chip) (line : Nat) (e : Option DirEntry) : (c.setDir line e).pkg = c.pkg := rfl
@[simp] theorem Chip.setDir_members (c : Chip) (line : Nat) (e : Option DirEntry) : (c.setDir line e).members = c.members := rfl
@[simp] theorem Chip.setPoison_tick (c : Chip) (loc : Nat) : (c.setPoison loc).tick = c.tick := rfl
@[simp] theorem Chip.setPoison_cycle (c : Chip) (loc : Nat) : (c.setPoison loc).cycle = c.cycle := rfl
@[simp] theorem Chip.setPoison_free (c : Chip) (loc : Nat) : (c.setPoison loc).free = c.free := rfl
@[simp] theorem Chip.setPoison_threads (c : Chip) (loc : Nat) : (c.setPoison loc).threads = c.threads := rfl
@[simp] theorem Chip.setPoison_groups (c : Chip) (loc : Nat) : (c.setPoison loc).groups = c.groups := rfl
@[simp] theorem Chip.setPoison_xl (c : Chip) (loc : Nat) : (c.setPoison loc).xl = c.xl := rfl
@[simp] theorem Chip.setPoison_eng (c : Chip) (loc : Nat) : (c.setPoison loc).eng = c.eng := rfl
@[simp] theorem Chip.setPoison_disp (c : Chip) (loc : Nat) : (c.setPoison loc).disp = c.disp := rfl
@[simp] theorem Chip.setPoison_dev (c : Chip) (loc : Nat) : (c.setPoison loc).dev = c.dev := rfl
@[simp] theorem Chip.setPoison_harts (c : Chip) (loc : Nat) : (c.setPoison loc).harts = c.harts := rfl
@[simp] theorem Chip.setPoison_ras (c : Chip) (loc : Nat) : (c.setPoison loc).ras = c.ras := rfl
@[simp] theorem Chip.setPoison_ripe (c : Chip) (loc : Nat) : (c.setPoison loc).ripe = c.ripe := rfl
@[simp] theorem Chip.setPoison_laneMet (c : Chip) (loc : Nat) : (c.setPoison loc).laneMet = c.laneMet := rfl
@[simp] theorem Chip.setPoison_msis (c : Chip) (loc : Nat) : (c.setPoison loc).msis = c.msis := rfl
@[simp] theorem Chip.setPoison_regWrites (c : Chip) (loc : Nat) : (c.setPoison loc).regWrites = c.regWrites := rfl
@[simp] theorem Chip.setPoison_lpddr (c : Chip) (loc : Nat) : (c.setPoison loc).lpddr = c.lpddr := rfl
@[simp] theorem Chip.setPoison_cxl (c : Chip) (loc : Nat) : (c.setPoison loc).cxl = c.cxl := rfl
@[simp] theorem Chip.setPoison_ringsLost (c : Chip) (loc : Nat) : (c.setPoison loc).ringsLost = c.ringsLost := rfl
@[simp] theorem Chip.setPoison_pcie (c : Chip) (loc : Nat) : (c.setPoison loc).pcie = c.pcie := rfl
@[simp] theorem Chip.setPoison_outbox (c : Chip) (loc : Nat) : (c.setPoison loc).outbox = c.outbox := rfl
@[simp] theorem Chip.setPoison_firewall (c : Chip) (loc : Nat) : (c.setPoison loc).firewall = c.firewall := rfl
@[simp] theorem Chip.setPoison_pkg (c : Chip) (loc : Nat) : (c.setPoison loc).pkg = c.pkg := rfl
@[simp] theorem Chip.setPoison_members (c : Chip) (loc : Nat) : (c.setPoison loc).members = c.members := rfl
@[simp] theorem Chip.clearPoison_tick (c : Chip) (loc : Nat) : (c.clearPoison loc).tick = c.tick := rfl
@[simp] theorem Chip.clearPoison_cycle (c : Chip) (loc : Nat) : (c.clearPoison loc).cycle = c.cycle := rfl
@[simp] theorem Chip.clearPoison_free (c : Chip) (loc : Nat) : (c.clearPoison loc).free = c.free := rfl
@[simp] theorem Chip.clearPoison_threads (c : Chip) (loc : Nat) : (c.clearPoison loc).threads = c.threads := rfl
@[simp] theorem Chip.clearPoison_groups (c : Chip) (loc : Nat) : (c.clearPoison loc).groups = c.groups := rfl
@[simp] theorem Chip.clearPoison_xl (c : Chip) (loc : Nat) : (c.clearPoison loc).xl = c.xl := rfl
@[simp] theorem Chip.clearPoison_eng (c : Chip) (loc : Nat) : (c.clearPoison loc).eng = c.eng := rfl
@[simp] theorem Chip.clearPoison_disp (c : Chip) (loc : Nat) : (c.clearPoison loc).disp = c.disp := rfl
@[simp] theorem Chip.clearPoison_dev (c : Chip) (loc : Nat) : (c.clearPoison loc).dev = c.dev := rfl
@[simp] theorem Chip.clearPoison_harts (c : Chip) (loc : Nat) : (c.clearPoison loc).harts = c.harts := rfl
@[simp] theorem Chip.clearPoison_ras (c : Chip) (loc : Nat) : (c.clearPoison loc).ras = c.ras := rfl
@[simp] theorem Chip.clearPoison_ripe (c : Chip) (loc : Nat) : (c.clearPoison loc).ripe = c.ripe := rfl
@[simp] theorem Chip.clearPoison_laneMet (c : Chip) (loc : Nat) : (c.clearPoison loc).laneMet = c.laneMet := rfl
@[simp] theorem Chip.clearPoison_msis (c : Chip) (loc : Nat) : (c.clearPoison loc).msis = c.msis := rfl
@[simp] theorem Chip.clearPoison_regWrites (c : Chip) (loc : Nat) : (c.clearPoison loc).regWrites = c.regWrites := rfl
@[simp] theorem Chip.clearPoison_lpddr (c : Chip) (loc : Nat) : (c.clearPoison loc).lpddr = c.lpddr := rfl
@[simp] theorem Chip.clearPoison_cxl (c : Chip) (loc : Nat) : (c.clearPoison loc).cxl = c.cxl := rfl
@[simp] theorem Chip.clearPoison_ringsLost (c : Chip) (loc : Nat) : (c.clearPoison loc).ringsLost = c.ringsLost := rfl
@[simp] theorem Chip.clearPoison_pcie (c : Chip) (loc : Nat) : (c.clearPoison loc).pcie = c.pcie := rfl
@[simp] theorem Chip.clearPoison_outbox (c : Chip) (loc : Nat) : (c.clearPoison loc).outbox = c.outbox := rfl
@[simp] theorem Chip.clearPoison_firewall (c : Chip) (loc : Nat) : (c.clearPoison loc).firewall = c.firewall := rfl
@[simp] theorem Chip.clearPoison_pkg (c : Chip) (loc : Nat) : (c.clearPoison loc).pkg = c.pkg := rfl
@[simp] theorem Chip.clearPoison_members (c : Chip) (loc : Nat) : (c.clearPoison loc).members = c.members := rfl
@[simp] theorem Chip.cleanse_tick (c : Chip) (loc n : Nat) : (c.cleanse loc n).tick = c.tick := rfl
@[simp] theorem Chip.cleanse_cycle (c : Chip) (loc n : Nat) : (c.cleanse loc n).cycle = c.cycle := rfl
@[simp] theorem Chip.cleanse_free (c : Chip) (loc n : Nat) : (c.cleanse loc n).free = c.free := rfl
@[simp] theorem Chip.cleanse_threads (c : Chip) (loc n : Nat) : (c.cleanse loc n).threads = c.threads := rfl
@[simp] theorem Chip.cleanse_groups (c : Chip) (loc n : Nat) : (c.cleanse loc n).groups = c.groups := rfl
@[simp] theorem Chip.cleanse_xl (c : Chip) (loc n : Nat) : (c.cleanse loc n).xl = c.xl := rfl
@[simp] theorem Chip.cleanse_eng (c : Chip) (loc n : Nat) : (c.cleanse loc n).eng = c.eng := rfl
@[simp] theorem Chip.cleanse_disp (c : Chip) (loc n : Nat) : (c.cleanse loc n).disp = c.disp := rfl
@[simp] theorem Chip.cleanse_dev (c : Chip) (loc n : Nat) : (c.cleanse loc n).dev = c.dev := rfl
@[simp] theorem Chip.cleanse_harts (c : Chip) (loc n : Nat) : (c.cleanse loc n).harts = c.harts := rfl
@[simp] theorem Chip.cleanse_ras (c : Chip) (loc n : Nat) : (c.cleanse loc n).ras = c.ras := rfl
@[simp] theorem Chip.cleanse_ripe (c : Chip) (loc n : Nat) : (c.cleanse loc n).ripe = c.ripe := rfl
@[simp] theorem Chip.cleanse_laneMet (c : Chip) (loc n : Nat) : (c.cleanse loc n).laneMet = c.laneMet := rfl
@[simp] theorem Chip.cleanse_msis (c : Chip) (loc n : Nat) : (c.cleanse loc n).msis = c.msis := rfl
@[simp] theorem Chip.cleanse_regWrites (c : Chip) (loc n : Nat) : (c.cleanse loc n).regWrites = c.regWrites := rfl
@[simp] theorem Chip.cleanse_lpddr (c : Chip) (loc n : Nat) : (c.cleanse loc n).lpddr = c.lpddr := rfl
@[simp] theorem Chip.cleanse_cxl (c : Chip) (loc n : Nat) : (c.cleanse loc n).cxl = c.cxl := rfl
@[simp] theorem Chip.cleanse_ringsLost (c : Chip) (loc n : Nat) : (c.cleanse loc n).ringsLost = c.ringsLost := rfl
@[simp] theorem Chip.cleanse_pcie (c : Chip) (loc n : Nat) : (c.cleanse loc n).pcie = c.pcie := rfl
@[simp] theorem Chip.cleanse_outbox (c : Chip) (loc n : Nat) : (c.cleanse loc n).outbox = c.outbox := rfl
@[simp] theorem Chip.cleanse_firewall (c : Chip) (loc n : Nat) : (c.cleanse loc n).firewall = c.firewall := rfl
@[simp] theorem Chip.cleanse_pkg (c : Chip) (loc n : Nat) : (c.cleanse loc n).pkg = c.pkg := rfl
@[simp] theorem Chip.cleanse_members (c : Chip) (loc n : Nat) : (c.cleanse loc n).members = c.members := rfl
@[simp] theorem Chip.recordApplied_tick (c : Chip) (a : Answer) : (c.recordApplied a).tick = c.tick := rfl
@[simp] theorem Chip.recordApplied_cycle (c : Chip) (a : Answer) : (c.recordApplied a).cycle = c.cycle := rfl
@[simp] theorem Chip.recordApplied_free (c : Chip) (a : Answer) : (c.recordApplied a).free = c.free := rfl
@[simp] theorem Chip.recordApplied_threads (c : Chip) (a : Answer) : (c.recordApplied a).threads = c.threads := rfl
@[simp] theorem Chip.recordApplied_groups (c : Chip) (a : Answer) : (c.recordApplied a).groups = c.groups := rfl
@[simp] theorem Chip.recordApplied_xl (c : Chip) (a : Answer) : (c.recordApplied a).xl = c.xl := rfl
@[simp] theorem Chip.recordApplied_eng (c : Chip) (a : Answer) : (c.recordApplied a).eng = c.eng := rfl
@[simp] theorem Chip.recordApplied_disp (c : Chip) (a : Answer) : (c.recordApplied a).disp = c.disp := rfl
@[simp] theorem Chip.recordApplied_dev (c : Chip) (a : Answer) : (c.recordApplied a).dev = c.dev := rfl
@[simp] theorem Chip.recordApplied_harts (c : Chip) (a : Answer) : (c.recordApplied a).harts = c.harts := rfl
@[simp] theorem Chip.recordApplied_ras (c : Chip) (a : Answer) : (c.recordApplied a).ras = c.ras := rfl
@[simp] theorem Chip.recordApplied_ripe (c : Chip) (a : Answer) : (c.recordApplied a).ripe = c.ripe := rfl
@[simp] theorem Chip.recordApplied_laneMet (c : Chip) (a : Answer) : (c.recordApplied a).laneMet = c.laneMet := rfl
@[simp] theorem Chip.recordApplied_msis (c : Chip) (a : Answer) : (c.recordApplied a).msis = c.msis := rfl
@[simp] theorem Chip.recordApplied_regWrites (c : Chip) (a : Answer) : (c.recordApplied a).regWrites = c.regWrites := rfl
@[simp] theorem Chip.recordApplied_lpddr (c : Chip) (a : Answer) : (c.recordApplied a).lpddr = c.lpddr := rfl
@[simp] theorem Chip.recordApplied_cxl (c : Chip) (a : Answer) : (c.recordApplied a).cxl = c.cxl := rfl
@[simp] theorem Chip.recordApplied_ringsLost (c : Chip) (a : Answer) : (c.recordApplied a).ringsLost = c.ringsLost := rfl
@[simp] theorem Chip.recordApplied_pcie (c : Chip) (a : Answer) : (c.recordApplied a).pcie = c.pcie := rfl
@[simp] theorem Chip.recordApplied_outbox (c : Chip) (a : Answer) : (c.recordApplied a).outbox = c.outbox := rfl
@[simp] theorem Chip.recordApplied_firewall (c : Chip) (a : Answer) : (c.recordApplied a).firewall = c.firewall := rfl
@[simp] theorem Chip.recordApplied_pkg (c : Chip) (a : Answer) : (c.recordApplied a).pkg = c.pkg := rfl
@[simp] theorem Chip.recordApplied_members (c : Chip) (a : Answer) : (c.recordApplied a).members = c.members := rfl
@[simp] theorem Chip.breakResv_tick (c : Chip) (loc : Nat) (but : Option Nat) : (c.breakResv loc but).tick = c.tick := rfl
@[simp] theorem Chip.breakResv_cycle (c : Chip) (loc : Nat) (but : Option Nat) : (c.breakResv loc but).cycle = c.cycle := rfl
@[simp] theorem Chip.breakResv_free (c : Chip) (loc : Nat) (but : Option Nat) : (c.breakResv loc but).free = c.free := rfl
@[simp] theorem Chip.breakResv_threads (c : Chip) (loc : Nat) (but : Option Nat) : (c.breakResv loc but).threads = c.threads := rfl
@[simp] theorem Chip.breakResv_groups (c : Chip) (loc : Nat) (but : Option Nat) : (c.breakResv loc but).groups = c.groups := rfl
@[simp] theorem Chip.breakResv_xl (c : Chip) (loc : Nat) (but : Option Nat) : (c.breakResv loc but).xl = c.xl := rfl
@[simp] theorem Chip.breakResv_eng (c : Chip) (loc : Nat) (but : Option Nat) : (c.breakResv loc but).eng = c.eng := rfl
@[simp] theorem Chip.breakResv_disp (c : Chip) (loc : Nat) (but : Option Nat) : (c.breakResv loc but).disp = c.disp := rfl
@[simp] theorem Chip.breakResv_dev (c : Chip) (loc : Nat) (but : Option Nat) : (c.breakResv loc but).dev = c.dev := rfl
@[simp] theorem Chip.breakResv_harts (c : Chip) (loc : Nat) (but : Option Nat) : (c.breakResv loc but).harts = c.harts := rfl
@[simp] theorem Chip.breakResv_ras (c : Chip) (loc : Nat) (but : Option Nat) : (c.breakResv loc but).ras = c.ras := rfl
@[simp] theorem Chip.breakResv_ripe (c : Chip) (loc : Nat) (but : Option Nat) : (c.breakResv loc but).ripe = c.ripe := rfl
@[simp] theorem Chip.breakResv_laneMet (c : Chip) (loc : Nat) (but : Option Nat) : (c.breakResv loc but).laneMet = c.laneMet := rfl
@[simp] theorem Chip.breakResv_msis (c : Chip) (loc : Nat) (but : Option Nat) : (c.breakResv loc but).msis = c.msis := rfl
@[simp] theorem Chip.breakResv_regWrites (c : Chip) (loc : Nat) (but : Option Nat) : (c.breakResv loc but).regWrites = c.regWrites := rfl
@[simp] theorem Chip.breakResv_lpddr (c : Chip) (loc : Nat) (but : Option Nat) : (c.breakResv loc but).lpddr = c.lpddr := rfl
@[simp] theorem Chip.breakResv_cxl (c : Chip) (loc : Nat) (but : Option Nat) : (c.breakResv loc but).cxl = c.cxl := rfl
@[simp] theorem Chip.breakResv_ringsLost (c : Chip) (loc : Nat) (but : Option Nat) : (c.breakResv loc but).ringsLost = c.ringsLost := rfl
@[simp] theorem Chip.breakResv_pcie (c : Chip) (loc : Nat) (but : Option Nat) : (c.breakResv loc but).pcie = c.pcie := rfl
@[simp] theorem Chip.breakResv_outbox (c : Chip) (loc : Nat) (but : Option Nat) : (c.breakResv loc but).outbox = c.outbox := rfl
@[simp] theorem Chip.breakResv_firewall (c : Chip) (loc : Nat) (but : Option Nat) : (c.breakResv loc but).firewall = c.firewall := rfl
@[simp] theorem Chip.breakResv_pkg (c : Chip) (loc : Nat) (but : Option Nat) : (c.breakResv loc but).pkg = c.pkg := rfl
@[simp] theorem Chip.breakResv_members (c : Chip) (loc : Nat) (but : Option Nat) : (c.breakResv loc but).members = c.members := rfl
@[simp] theorem Chip.dropResv_tick (c : Chip) (t : Nat) : (c.dropResv t).tick = c.tick := rfl
@[simp] theorem Chip.dropResv_cycle (c : Chip) (t : Nat) : (c.dropResv t).cycle = c.cycle := rfl
@[simp] theorem Chip.dropResv_free (c : Chip) (t : Nat) : (c.dropResv t).free = c.free := rfl
@[simp] theorem Chip.dropResv_threads (c : Chip) (t : Nat) : (c.dropResv t).threads = c.threads := rfl
@[simp] theorem Chip.dropResv_groups (c : Chip) (t : Nat) : (c.dropResv t).groups = c.groups := rfl
@[simp] theorem Chip.dropResv_xl (c : Chip) (t : Nat) : (c.dropResv t).xl = c.xl := rfl
@[simp] theorem Chip.dropResv_eng (c : Chip) (t : Nat) : (c.dropResv t).eng = c.eng := rfl
@[simp] theorem Chip.dropResv_disp (c : Chip) (t : Nat) : (c.dropResv t).disp = c.disp := rfl
@[simp] theorem Chip.dropResv_dev (c : Chip) (t : Nat) : (c.dropResv t).dev = c.dev := rfl
@[simp] theorem Chip.dropResv_harts (c : Chip) (t : Nat) : (c.dropResv t).harts = c.harts := rfl
@[simp] theorem Chip.dropResv_ras (c : Chip) (t : Nat) : (c.dropResv t).ras = c.ras := rfl
@[simp] theorem Chip.dropResv_ripe (c : Chip) (t : Nat) : (c.dropResv t).ripe = c.ripe := rfl
@[simp] theorem Chip.dropResv_laneMet (c : Chip) (t : Nat) : (c.dropResv t).laneMet = c.laneMet := rfl
@[simp] theorem Chip.dropResv_msis (c : Chip) (t : Nat) : (c.dropResv t).msis = c.msis := rfl
@[simp] theorem Chip.dropResv_regWrites (c : Chip) (t : Nat) : (c.dropResv t).regWrites = c.regWrites := rfl
@[simp] theorem Chip.dropResv_lpddr (c : Chip) (t : Nat) : (c.dropResv t).lpddr = c.lpddr := rfl
@[simp] theorem Chip.dropResv_cxl (c : Chip) (t : Nat) : (c.dropResv t).cxl = c.cxl := rfl
@[simp] theorem Chip.dropResv_ringsLost (c : Chip) (t : Nat) : (c.dropResv t).ringsLost = c.ringsLost := rfl
@[simp] theorem Chip.dropResv_pcie (c : Chip) (t : Nat) : (c.dropResv t).pcie = c.pcie := rfl
@[simp] theorem Chip.dropResv_outbox (c : Chip) (t : Nat) : (c.dropResv t).outbox = c.outbox := rfl
@[simp] theorem Chip.dropResv_firewall (c : Chip) (t : Nat) : (c.dropResv t).firewall = c.firewall := rfl
@[simp] theorem Chip.dropResv_pkg (c : Chip) (t : Nat) : (c.dropResv t).pkg = c.pkg := rfl
@[simp] theorem Chip.dropResv_members (c : Chip) (t : Nat) : (c.dropResv t).members = c.members := rfl
@[simp] theorem Chip.logEvent_tick (c : Chip) (kind : Nat) : (c.logEvent kind).tick = c.tick := rfl
@[simp] theorem Chip.logEvent_cycle (c : Chip) (kind : Nat) : (c.logEvent kind).cycle = c.cycle := rfl
@[simp] theorem Chip.logEvent_free (c : Chip) (kind : Nat) : (c.logEvent kind).free = c.free := rfl
@[simp] theorem Chip.logEvent_threads (c : Chip) (kind : Nat) : (c.logEvent kind).threads = c.threads := rfl
@[simp] theorem Chip.logEvent_groups (c : Chip) (kind : Nat) : (c.logEvent kind).groups = c.groups := rfl
@[simp] theorem Chip.logEvent_mem (c : Chip) (kind : Nat) : (c.logEvent kind).mem = c.mem := rfl
@[simp] theorem Chip.logEvent_xl (c : Chip) (kind : Nat) : (c.logEvent kind).xl = c.xl := rfl
@[simp] theorem Chip.logEvent_eng (c : Chip) (kind : Nat) : (c.logEvent kind).eng = c.eng := rfl
@[simp] theorem Chip.logEvent_disp (c : Chip) (kind : Nat) : (c.logEvent kind).disp = c.disp := rfl
@[simp] theorem Chip.logEvent_dev (c : Chip) (kind : Nat) : (c.logEvent kind).dev = c.dev := rfl
@[simp] theorem Chip.logEvent_harts (c : Chip) (kind : Nat) : (c.logEvent kind).harts = c.harts := rfl
@[simp] theorem Chip.logEvent_ripe (c : Chip) (kind : Nat) : (c.logEvent kind).ripe = c.ripe := rfl
@[simp] theorem Chip.logEvent_laneMet (c : Chip) (kind : Nat) : (c.logEvent kind).laneMet = c.laneMet := rfl
@[simp] theorem Chip.logEvent_msis (c : Chip) (kind : Nat) : (c.logEvent kind).msis = c.msis := rfl
@[simp] theorem Chip.logEvent_regWrites (c : Chip) (kind : Nat) : (c.logEvent kind).regWrites = c.regWrites := rfl
@[simp] theorem Chip.logEvent_lpddr (c : Chip) (kind : Nat) : (c.logEvent kind).lpddr = c.lpddr := rfl
@[simp] theorem Chip.logEvent_cxl (c : Chip) (kind : Nat) : (c.logEvent kind).cxl = c.cxl := rfl
@[simp] theorem Chip.logEvent_ringsLost (c : Chip) (kind : Nat) : (c.logEvent kind).ringsLost = c.ringsLost := rfl
@[simp] theorem Chip.logEvent_pcie (c : Chip) (kind : Nat) : (c.logEvent kind).pcie = c.pcie := rfl
@[simp] theorem Chip.logEvent_outbox (c : Chip) (kind : Nat) : (c.logEvent kind).outbox = c.outbox := rfl
@[simp] theorem Chip.logEvent_firewall (c : Chip) (kind : Nat) : (c.logEvent kind).firewall = c.firewall := rfl
@[simp] theorem Chip.logEvent_pkg (c : Chip) (kind : Nat) : (c.logEvent kind).pkg = c.pkg := rfl
@[simp] theorem Chip.logEvent_members (c : Chip) (kind : Nat) : (c.logEvent kind).members = c.members := rfl
@[simp] theorem Chip.setBlock_disp_grids (c : Chip) (b : Block) : (c.setBlock b).disp.grids = c.disp.grids := rfl
@[simp] theorem Chip.setBlock_disp_gridGens (c : Chip) (b : Block) : (c.setBlock b).disp.gridGens = c.disp.gridGens := rfl
@[simp] theorem Chip.setBlock_disp_tasks (c : Chip) (b : Block) : (c.setBlock b).disp.tasks = c.disp.tasks := rfl
@[simp] theorem Chip.setBlock_disp_taskGens (c : Chip) (b : Block) : (c.setBlock b).disp.taskGens = c.disp.taskGens := rfl
@[simp] theorem Chip.setBlock_disp_regions (c : Chip) (b : Block) : (c.setBlock b).disp.regions = c.disp.regions := rfl
@[simp] theorem Chip.setBlock_disp_lingering (c : Chip) (b : Block) : (c.setBlock b).disp.lingering = c.disp.lingering := rfl
@[simp] theorem Chip.setBlock_disp_ringReqs (c : Chip) (b : Block) : (c.setBlock b).disp.ringReqs = c.disp.ringReqs := rfl
@[simp] theorem Chip.setBlock_disp_pushers (c : Chip) (b : Block) : (c.setBlock b).disp.pushers = c.disp.pushers := rfl
@[simp] theorem Chip.setBlock_disp_spilled (c : Chip) (b : Block) : (c.setBlock b).disp.spilled = c.disp.spilled := rfl
@[simp] theorem Chip.setBlock_disp_line (c : Chip) (b : Block) : (c.setBlock b).disp.line = c.disp.line := rfl
@[simp] theorem Chip.setBlock_disp_order (c : Chip) (b : Block) : (c.setBlock b).disp.order = c.disp.order := rfl
@[simp] theorem Chip.setGrid_disp_gridGens (c : Chip) (g : Grid) : (c.setGrid g).disp.gridGens = c.disp.gridGens := rfl
@[simp] theorem Chip.setGrid_disp_blocks (c : Chip) (g : Grid) : (c.setGrid g).disp.blocks = c.disp.blocks := rfl
@[simp] theorem Chip.setGrid_disp_tasks (c : Chip) (g : Grid) : (c.setGrid g).disp.tasks = c.disp.tasks := rfl
@[simp] theorem Chip.setGrid_disp_taskGens (c : Chip) (g : Grid) : (c.setGrid g).disp.taskGens = c.disp.taskGens := rfl
@[simp] theorem Chip.setGrid_disp_regions (c : Chip) (g : Grid) : (c.setGrid g).disp.regions = c.disp.regions := rfl
@[simp] theorem Chip.setGrid_disp_lingering (c : Chip) (g : Grid) : (c.setGrid g).disp.lingering = c.disp.lingering := rfl
@[simp] theorem Chip.setGrid_disp_ringReqs (c : Chip) (g : Grid) : (c.setGrid g).disp.ringReqs = c.disp.ringReqs := rfl
@[simp] theorem Chip.setGrid_disp_pushers (c : Chip) (g : Grid) : (c.setGrid g).disp.pushers = c.disp.pushers := rfl
@[simp] theorem Chip.setGrid_disp_spilled (c : Chip) (g : Grid) : (c.setGrid g).disp.spilled = c.disp.spilled := rfl
@[simp] theorem Chip.setGrid_disp_line (c : Chip) (g : Grid) : (c.setGrid g).disp.line = c.disp.line := rfl
@[simp] theorem Chip.setGrid_disp_order (c : Chip) (g : Grid) : (c.setGrid g).disp.order = c.disp.order := rfl
@[simp] theorem Chip.setTask_disp_grids (c : Chip) (k : Task) : (c.setTask k).disp.grids = c.disp.grids := rfl
@[simp] theorem Chip.setTask_disp_gridGens (c : Chip) (k : Task) : (c.setTask k).disp.gridGens = c.disp.gridGens := rfl
@[simp] theorem Chip.setTask_disp_blocks (c : Chip) (k : Task) : (c.setTask k).disp.blocks = c.disp.blocks := rfl
@[simp] theorem Chip.setTask_disp_taskGens (c : Chip) (k : Task) : (c.setTask k).disp.taskGens = c.disp.taskGens := rfl
@[simp] theorem Chip.setTask_disp_regions (c : Chip) (k : Task) : (c.setTask k).disp.regions = c.disp.regions := rfl
@[simp] theorem Chip.setTask_disp_lingering (c : Chip) (k : Task) : (c.setTask k).disp.lingering = c.disp.lingering := rfl
@[simp] theorem Chip.setTask_disp_ringReqs (c : Chip) (k : Task) : (c.setTask k).disp.ringReqs = c.disp.ringReqs := rfl
@[simp] theorem Chip.setTask_disp_pushers (c : Chip) (k : Task) : (c.setTask k).disp.pushers = c.disp.pushers := rfl
@[simp] theorem Chip.setTask_disp_spilled (c : Chip) (k : Task) : (c.setTask k).disp.spilled = c.disp.spilled := rfl
@[simp] theorem Chip.setTask_disp_line (c : Chip) (k : Task) : (c.setTask k).disp.line = c.disp.line := rfl
@[simp] theorem Chip.setTask_disp_order (c : Chip) (k : Task) : (c.setTask k).disp.order = c.disp.order := rfl
@[simp] theorem Chip.setRegion_disp_grids (c : Chip) (g : Region) : (c.setRegion g).disp.grids = c.disp.grids := rfl
@[simp] theorem Chip.setRegion_disp_gridGens (c : Chip) (g : Region) : (c.setRegion g).disp.gridGens = c.disp.gridGens := rfl
@[simp] theorem Chip.setRegion_disp_blocks (c : Chip) (g : Region) : (c.setRegion g).disp.blocks = c.disp.blocks := rfl
@[simp] theorem Chip.setRegion_disp_tasks (c : Chip) (g : Region) : (c.setRegion g).disp.tasks = c.disp.tasks := rfl
@[simp] theorem Chip.setRegion_disp_taskGens (c : Chip) (g : Region) : (c.setRegion g).disp.taskGens = c.disp.taskGens := rfl
@[simp] theorem Chip.setRegion_disp_lingering (c : Chip) (g : Region) : (c.setRegion g).disp.lingering = c.disp.lingering := rfl
@[simp] theorem Chip.setRegion_disp_ringReqs (c : Chip) (g : Region) : (c.setRegion g).disp.ringReqs = c.disp.ringReqs := rfl
@[simp] theorem Chip.setRegion_disp_pushers (c : Chip) (g : Region) : (c.setRegion g).disp.pushers = c.disp.pushers := rfl
@[simp] theorem Chip.setRegion_disp_spilled (c : Chip) (g : Region) : (c.setRegion g).disp.spilled = c.disp.spilled := rfl
@[simp] theorem Chip.setRegion_disp_line (c : Chip) (g : Region) : (c.setRegion g).disp.line = c.disp.line := rfl
@[simp] theorem Chip.setRegion_disp_order (c : Chip) (g : Region) : (c.setRegion g).disp.order = c.disp.order := rfl
@[simp] theorem Chip.setL1_mem_bytes (c : Chip) (l : L1Line) : (c.setL1 l).mem.bytes = c.mem.bytes := rfl
@[simp] theorem Chip.setL1_mem_poison (c : Chip) (l : L1Line) : (c.setL1 l).mem.poison = c.mem.poison := rfl
@[simp] theorem Chip.setL1_mem_icache (c : Chip) (l : L1Line) : (c.setL1 l).mem.icache = c.mem.icache := rfl
@[simp] theorem Chip.setL1_mem_owned (c : Chip) (l : L1Line) : (c.setL1 l).mem.owned = c.mem.owned := rfl
@[simp] theorem Chip.setL1_mem_notices (c : Chip) (l : L1Line) : (c.setL1 l).mem.notices = c.mem.notices := rfl
@[simp] theorem Chip.setL1_mem_epochs (c : Chip) (l : L1Line) : (c.setL1 l).mem.epochs = c.mem.epochs := rfl
@[simp] theorem Chip.setL1_mem_dir (c : Chip) (l : L1Line) : (c.setL1 l).mem.dir = c.mem.dir := rfl
@[simp] theorem Chip.setL1_mem_homeLines (c : Chip) (l : L1Line) : (c.setL1 l).mem.homeLines = c.mem.homeLines := rfl
@[simp] theorem Chip.setL1_mem_resv (c : Chip) (l : L1Line) : (c.setL1 l).mem.resv = c.mem.resv := rfl
@[simp] theorem Chip.setL1_mem_applied (c : Chip) (l : L1Line) : (c.setL1 l).mem.applied = c.mem.applied := rfl
@[simp] theorem Chip.setL1_mem_retries (c : Chip) (l : L1Line) : (c.setL1 l).mem.retries = c.mem.retries := rfl
@[simp] theorem Chip.setL1_mem_nextSeq (c : Chip) (l : L1Line) : (c.setL1 l).mem.nextSeq = c.mem.nextSeq := rfl
@[simp] theorem Chip.setL1_mem_ownSeq (c : Chip) (l : L1Line) : (c.setL1 l).mem.ownSeq = c.mem.ownSeq := rfl
@[simp] theorem Chip.setL1_mem_parked (c : Chip) (l : L1Line) : (c.setL1 l).mem.parked = c.mem.parked := rfl
@[simp] theorem Chip.setL1_mem_latent (c : Chip) (l : L1Line) : (c.setL1 l).mem.latent = c.mem.latent := rfl
@[simp] theorem Chip.setL1_mem_dirBad (c : Chip) (l : L1Line) : (c.setL1 l).mem.dirBad = c.mem.dirBad := rfl
@[simp] theorem Chip.setL1_mem_answers (c : Chip) (l : L1Line) : (c.setL1 l).mem.answers = c.mem.answers := rfl
@[simp] theorem Chip.setL1_mem_acc (c : Chip) (l : L1Line) : (c.setL1 l).mem.acc = c.mem.acc := rfl
@[simp] theorem Chip.setL1_mem_wb (c : Chip) (l : L1Line) : (c.setL1 l).mem.wb = c.mem.wb := rfl
@[simp] theorem Chip.setL1_mem_accPoison (c : Chip) (l : L1Line) : (c.setL1 l).mem.accPoison = c.mem.accPoison := rfl
@[simp] theorem Chip.setL1_mem_wbPoison (c : Chip) (l : L1Line) : (c.setL1 l).mem.wbPoison = c.mem.wbPoison := rfl
@[simp] theorem Chip.setDir_mem_bytes (c : Chip) (line : Nat) (e : Option DirEntry) : (c.setDir line e).mem.bytes = c.mem.bytes := rfl
@[simp] theorem Chip.setDir_mem_poison (c : Chip) (line : Nat) (e : Option DirEntry) : (c.setDir line e).mem.poison = c.mem.poison := rfl
@[simp] theorem Chip.setDir_mem_l1 (c : Chip) (line : Nat) (e : Option DirEntry) : (c.setDir line e).mem.l1 = c.mem.l1 := rfl
@[simp] theorem Chip.setDir_mem_icache (c : Chip) (line : Nat) (e : Option DirEntry) : (c.setDir line e).mem.icache = c.mem.icache := rfl
@[simp] theorem Chip.setDir_mem_owned (c : Chip) (line : Nat) (e : Option DirEntry) : (c.setDir line e).mem.owned = c.mem.owned := rfl
@[simp] theorem Chip.setDir_mem_notices (c : Chip) (line : Nat) (e : Option DirEntry) : (c.setDir line e).mem.notices = c.mem.notices := rfl
@[simp] theorem Chip.setDir_mem_epochs (c : Chip) (line : Nat) (e : Option DirEntry) : (c.setDir line e).mem.epochs = c.mem.epochs := rfl
@[simp] theorem Chip.setDir_mem_homeLines (c : Chip) (line : Nat) (e : Option DirEntry) : (c.setDir line e).mem.homeLines = c.mem.homeLines := rfl
@[simp] theorem Chip.setDir_mem_resv (c : Chip) (line : Nat) (e : Option DirEntry) : (c.setDir line e).mem.resv = c.mem.resv := rfl
@[simp] theorem Chip.setDir_mem_applied (c : Chip) (line : Nat) (e : Option DirEntry) : (c.setDir line e).mem.applied = c.mem.applied := rfl
@[simp] theorem Chip.setDir_mem_retries (c : Chip) (line : Nat) (e : Option DirEntry) : (c.setDir line e).mem.retries = c.mem.retries := rfl
@[simp] theorem Chip.setDir_mem_nextSeq (c : Chip) (line : Nat) (e : Option DirEntry) : (c.setDir line e).mem.nextSeq = c.mem.nextSeq := rfl
@[simp] theorem Chip.setDir_mem_ownSeq (c : Chip) (line : Nat) (e : Option DirEntry) : (c.setDir line e).mem.ownSeq = c.mem.ownSeq := rfl
@[simp] theorem Chip.setDir_mem_parked (c : Chip) (line : Nat) (e : Option DirEntry) : (c.setDir line e).mem.parked = c.mem.parked := rfl
@[simp] theorem Chip.setDir_mem_latent (c : Chip) (line : Nat) (e : Option DirEntry) : (c.setDir line e).mem.latent = c.mem.latent := rfl
@[simp] theorem Chip.setDir_mem_dirBad (c : Chip) (line : Nat) (e : Option DirEntry) : (c.setDir line e).mem.dirBad = c.mem.dirBad := rfl
@[simp] theorem Chip.setDir_mem_answers (c : Chip) (line : Nat) (e : Option DirEntry) : (c.setDir line e).mem.answers = c.mem.answers := rfl
@[simp] theorem Chip.setDir_mem_acc (c : Chip) (line : Nat) (e : Option DirEntry) : (c.setDir line e).mem.acc = c.mem.acc := rfl
@[simp] theorem Chip.setDir_mem_wb (c : Chip) (line : Nat) (e : Option DirEntry) : (c.setDir line e).mem.wb = c.mem.wb := rfl
@[simp] theorem Chip.setDir_mem_accPoison (c : Chip) (line : Nat) (e : Option DirEntry) : (c.setDir line e).mem.accPoison = c.mem.accPoison := rfl
@[simp] theorem Chip.setDir_mem_wbPoison (c : Chip) (line : Nat) (e : Option DirEntry) : (c.setDir line e).mem.wbPoison = c.mem.wbPoison := rfl
@[simp] theorem Chip.setPoison_mem_bytes (c : Chip) (loc : Nat) : (c.setPoison loc).mem.bytes = c.mem.bytes := rfl
@[simp] theorem Chip.setPoison_mem_l1 (c : Chip) (loc : Nat) : (c.setPoison loc).mem.l1 = c.mem.l1 := rfl
@[simp] theorem Chip.setPoison_mem_icache (c : Chip) (loc : Nat) : (c.setPoison loc).mem.icache = c.mem.icache := rfl
@[simp] theorem Chip.setPoison_mem_owned (c : Chip) (loc : Nat) : (c.setPoison loc).mem.owned = c.mem.owned := rfl
@[simp] theorem Chip.setPoison_mem_notices (c : Chip) (loc : Nat) : (c.setPoison loc).mem.notices = c.mem.notices := rfl
@[simp] theorem Chip.setPoison_mem_epochs (c : Chip) (loc : Nat) : (c.setPoison loc).mem.epochs = c.mem.epochs := rfl
@[simp] theorem Chip.setPoison_mem_dir (c : Chip) (loc : Nat) : (c.setPoison loc).mem.dir = c.mem.dir := rfl
@[simp] theorem Chip.setPoison_mem_homeLines (c : Chip) (loc : Nat) : (c.setPoison loc).mem.homeLines = c.mem.homeLines := rfl
@[simp] theorem Chip.setPoison_mem_resv (c : Chip) (loc : Nat) : (c.setPoison loc).mem.resv = c.mem.resv := rfl
@[simp] theorem Chip.setPoison_mem_applied (c : Chip) (loc : Nat) : (c.setPoison loc).mem.applied = c.mem.applied := rfl
@[simp] theorem Chip.setPoison_mem_retries (c : Chip) (loc : Nat) : (c.setPoison loc).mem.retries = c.mem.retries := rfl
@[simp] theorem Chip.setPoison_mem_nextSeq (c : Chip) (loc : Nat) : (c.setPoison loc).mem.nextSeq = c.mem.nextSeq := rfl
@[simp] theorem Chip.setPoison_mem_ownSeq (c : Chip) (loc : Nat) : (c.setPoison loc).mem.ownSeq = c.mem.ownSeq := rfl
@[simp] theorem Chip.setPoison_mem_parked (c : Chip) (loc : Nat) : (c.setPoison loc).mem.parked = c.mem.parked := rfl
@[simp] theorem Chip.setPoison_mem_latent (c : Chip) (loc : Nat) : (c.setPoison loc).mem.latent = c.mem.latent := rfl
@[simp] theorem Chip.setPoison_mem_dirBad (c : Chip) (loc : Nat) : (c.setPoison loc).mem.dirBad = c.mem.dirBad := rfl
@[simp] theorem Chip.setPoison_mem_answers (c : Chip) (loc : Nat) : (c.setPoison loc).mem.answers = c.mem.answers := rfl
@[simp] theorem Chip.setPoison_mem_acc (c : Chip) (loc : Nat) : (c.setPoison loc).mem.acc = c.mem.acc := rfl
@[simp] theorem Chip.setPoison_mem_wb (c : Chip) (loc : Nat) : (c.setPoison loc).mem.wb = c.mem.wb := rfl
@[simp] theorem Chip.setPoison_mem_accPoison (c : Chip) (loc : Nat) : (c.setPoison loc).mem.accPoison = c.mem.accPoison := rfl
@[simp] theorem Chip.setPoison_mem_wbPoison (c : Chip) (loc : Nat) : (c.setPoison loc).mem.wbPoison = c.mem.wbPoison := rfl
@[simp] theorem Chip.clearPoison_mem_bytes (c : Chip) (loc : Nat) : (c.clearPoison loc).mem.bytes = c.mem.bytes := rfl
@[simp] theorem Chip.clearPoison_mem_l1 (c : Chip) (loc : Nat) : (c.clearPoison loc).mem.l1 = c.mem.l1 := rfl
@[simp] theorem Chip.clearPoison_mem_icache (c : Chip) (loc : Nat) : (c.clearPoison loc).mem.icache = c.mem.icache := rfl
@[simp] theorem Chip.clearPoison_mem_owned (c : Chip) (loc : Nat) : (c.clearPoison loc).mem.owned = c.mem.owned := rfl
@[simp] theorem Chip.clearPoison_mem_notices (c : Chip) (loc : Nat) : (c.clearPoison loc).mem.notices = c.mem.notices := rfl
@[simp] theorem Chip.clearPoison_mem_epochs (c : Chip) (loc : Nat) : (c.clearPoison loc).mem.epochs = c.mem.epochs := rfl
@[simp] theorem Chip.clearPoison_mem_dir (c : Chip) (loc : Nat) : (c.clearPoison loc).mem.dir = c.mem.dir := rfl
@[simp] theorem Chip.clearPoison_mem_homeLines (c : Chip) (loc : Nat) : (c.clearPoison loc).mem.homeLines = c.mem.homeLines := rfl
@[simp] theorem Chip.clearPoison_mem_resv (c : Chip) (loc : Nat) : (c.clearPoison loc).mem.resv = c.mem.resv := rfl
@[simp] theorem Chip.clearPoison_mem_applied (c : Chip) (loc : Nat) : (c.clearPoison loc).mem.applied = c.mem.applied := rfl
@[simp] theorem Chip.clearPoison_mem_retries (c : Chip) (loc : Nat) : (c.clearPoison loc).mem.retries = c.mem.retries := rfl
@[simp] theorem Chip.clearPoison_mem_nextSeq (c : Chip) (loc : Nat) : (c.clearPoison loc).mem.nextSeq = c.mem.nextSeq := rfl
@[simp] theorem Chip.clearPoison_mem_ownSeq (c : Chip) (loc : Nat) : (c.clearPoison loc).mem.ownSeq = c.mem.ownSeq := rfl
@[simp] theorem Chip.clearPoison_mem_parked (c : Chip) (loc : Nat) : (c.clearPoison loc).mem.parked = c.mem.parked := rfl
@[simp] theorem Chip.clearPoison_mem_latent (c : Chip) (loc : Nat) : (c.clearPoison loc).mem.latent = c.mem.latent := rfl
@[simp] theorem Chip.clearPoison_mem_dirBad (c : Chip) (loc : Nat) : (c.clearPoison loc).mem.dirBad = c.mem.dirBad := rfl
@[simp] theorem Chip.clearPoison_mem_answers (c : Chip) (loc : Nat) : (c.clearPoison loc).mem.answers = c.mem.answers := rfl
@[simp] theorem Chip.clearPoison_mem_acc (c : Chip) (loc : Nat) : (c.clearPoison loc).mem.acc = c.mem.acc := rfl
@[simp] theorem Chip.clearPoison_mem_wb (c : Chip) (loc : Nat) : (c.clearPoison loc).mem.wb = c.mem.wb := rfl
@[simp] theorem Chip.clearPoison_mem_accPoison (c : Chip) (loc : Nat) : (c.clearPoison loc).mem.accPoison = c.mem.accPoison := rfl
@[simp] theorem Chip.clearPoison_mem_wbPoison (c : Chip) (loc : Nat) : (c.clearPoison loc).mem.wbPoison = c.mem.wbPoison := rfl
@[simp] theorem Chip.cleanse_mem_bytes (c : Chip) (loc n : Nat) : (c.cleanse loc n).mem.bytes = c.mem.bytes := rfl
@[simp] theorem Chip.cleanse_mem_l1 (c : Chip) (loc n : Nat) : (c.cleanse loc n).mem.l1 = c.mem.l1 := rfl
@[simp] theorem Chip.cleanse_mem_icache (c : Chip) (loc n : Nat) : (c.cleanse loc n).mem.icache = c.mem.icache := rfl
@[simp] theorem Chip.cleanse_mem_owned (c : Chip) (loc n : Nat) : (c.cleanse loc n).mem.owned = c.mem.owned := rfl
@[simp] theorem Chip.cleanse_mem_notices (c : Chip) (loc n : Nat) : (c.cleanse loc n).mem.notices = c.mem.notices := rfl
@[simp] theorem Chip.cleanse_mem_epochs (c : Chip) (loc n : Nat) : (c.cleanse loc n).mem.epochs = c.mem.epochs := rfl
@[simp] theorem Chip.cleanse_mem_dir (c : Chip) (loc n : Nat) : (c.cleanse loc n).mem.dir = c.mem.dir := rfl
@[simp] theorem Chip.cleanse_mem_homeLines (c : Chip) (loc n : Nat) : (c.cleanse loc n).mem.homeLines = c.mem.homeLines := rfl
@[simp] theorem Chip.cleanse_mem_resv (c : Chip) (loc n : Nat) : (c.cleanse loc n).mem.resv = c.mem.resv := rfl
@[simp] theorem Chip.cleanse_mem_applied (c : Chip) (loc n : Nat) : (c.cleanse loc n).mem.applied = c.mem.applied := rfl
@[simp] theorem Chip.cleanse_mem_retries (c : Chip) (loc n : Nat) : (c.cleanse loc n).mem.retries = c.mem.retries := rfl
@[simp] theorem Chip.cleanse_mem_nextSeq (c : Chip) (loc n : Nat) : (c.cleanse loc n).mem.nextSeq = c.mem.nextSeq := rfl
@[simp] theorem Chip.cleanse_mem_ownSeq (c : Chip) (loc n : Nat) : (c.cleanse loc n).mem.ownSeq = c.mem.ownSeq := rfl
@[simp] theorem Chip.cleanse_mem_parked (c : Chip) (loc n : Nat) : (c.cleanse loc n).mem.parked = c.mem.parked := rfl
@[simp] theorem Chip.cleanse_mem_dirBad (c : Chip) (loc n : Nat) : (c.cleanse loc n).mem.dirBad = c.mem.dirBad := rfl
@[simp] theorem Chip.cleanse_mem_answers (c : Chip) (loc n : Nat) : (c.cleanse loc n).mem.answers = c.mem.answers := rfl
@[simp] theorem Chip.cleanse_mem_acc (c : Chip) (loc n : Nat) : (c.cleanse loc n).mem.acc = c.mem.acc := rfl
@[simp] theorem Chip.cleanse_mem_wb (c : Chip) (loc n : Nat) : (c.cleanse loc n).mem.wb = c.mem.wb := rfl
@[simp] theorem Chip.cleanse_mem_accPoison (c : Chip) (loc n : Nat) : (c.cleanse loc n).mem.accPoison = c.mem.accPoison := rfl
@[simp] theorem Chip.cleanse_mem_wbPoison (c : Chip) (loc n : Nat) : (c.cleanse loc n).mem.wbPoison = c.mem.wbPoison := rfl
@[simp] theorem Chip.recordApplied_mem_bytes (c : Chip) (a : Answer) : (c.recordApplied a).mem.bytes = c.mem.bytes := rfl
@[simp] theorem Chip.recordApplied_mem_poison (c : Chip) (a : Answer) : (c.recordApplied a).mem.poison = c.mem.poison := rfl
@[simp] theorem Chip.recordApplied_mem_l1 (c : Chip) (a : Answer) : (c.recordApplied a).mem.l1 = c.mem.l1 := rfl
@[simp] theorem Chip.recordApplied_mem_icache (c : Chip) (a : Answer) : (c.recordApplied a).mem.icache = c.mem.icache := rfl
@[simp] theorem Chip.recordApplied_mem_owned (c : Chip) (a : Answer) : (c.recordApplied a).mem.owned = c.mem.owned := rfl
@[simp] theorem Chip.recordApplied_mem_notices (c : Chip) (a : Answer) : (c.recordApplied a).mem.notices = c.mem.notices := rfl
@[simp] theorem Chip.recordApplied_mem_epochs (c : Chip) (a : Answer) : (c.recordApplied a).mem.epochs = c.mem.epochs := rfl
@[simp] theorem Chip.recordApplied_mem_dir (c : Chip) (a : Answer) : (c.recordApplied a).mem.dir = c.mem.dir := rfl
@[simp] theorem Chip.recordApplied_mem_homeLines (c : Chip) (a : Answer) : (c.recordApplied a).mem.homeLines = c.mem.homeLines := rfl
@[simp] theorem Chip.recordApplied_mem_resv (c : Chip) (a : Answer) : (c.recordApplied a).mem.resv = c.mem.resv := rfl
@[simp] theorem Chip.recordApplied_mem_retries (c : Chip) (a : Answer) : (c.recordApplied a).mem.retries = c.mem.retries := rfl
@[simp] theorem Chip.recordApplied_mem_nextSeq (c : Chip) (a : Answer) : (c.recordApplied a).mem.nextSeq = c.mem.nextSeq := rfl
@[simp] theorem Chip.recordApplied_mem_ownSeq (c : Chip) (a : Answer) : (c.recordApplied a).mem.ownSeq = c.mem.ownSeq := rfl
@[simp] theorem Chip.recordApplied_mem_parked (c : Chip) (a : Answer) : (c.recordApplied a).mem.parked = c.mem.parked := rfl
@[simp] theorem Chip.recordApplied_mem_latent (c : Chip) (a : Answer) : (c.recordApplied a).mem.latent = c.mem.latent := rfl
@[simp] theorem Chip.recordApplied_mem_dirBad (c : Chip) (a : Answer) : (c.recordApplied a).mem.dirBad = c.mem.dirBad := rfl
@[simp] theorem Chip.recordApplied_mem_acc (c : Chip) (a : Answer) : (c.recordApplied a).mem.acc = c.mem.acc := rfl
@[simp] theorem Chip.recordApplied_mem_wb (c : Chip) (a : Answer) : (c.recordApplied a).mem.wb = c.mem.wb := rfl
@[simp] theorem Chip.recordApplied_mem_accPoison (c : Chip) (a : Answer) : (c.recordApplied a).mem.accPoison = c.mem.accPoison := rfl
@[simp] theorem Chip.recordApplied_mem_wbPoison (c : Chip) (a : Answer) : (c.recordApplied a).mem.wbPoison = c.mem.wbPoison := rfl
@[simp] theorem Chip.breakResv_mem_bytes (c : Chip) (loc : Nat) (but : Option Nat) : (c.breakResv loc but).mem.bytes = c.mem.bytes := rfl
@[simp] theorem Chip.breakResv_mem_poison (c : Chip) (loc : Nat) (but : Option Nat) : (c.breakResv loc but).mem.poison = c.mem.poison := rfl
@[simp] theorem Chip.breakResv_mem_l1 (c : Chip) (loc : Nat) (but : Option Nat) : (c.breakResv loc but).mem.l1 = c.mem.l1 := rfl
@[simp] theorem Chip.breakResv_mem_icache (c : Chip) (loc : Nat) (but : Option Nat) : (c.breakResv loc but).mem.icache = c.mem.icache := rfl
@[simp] theorem Chip.breakResv_mem_owned (c : Chip) (loc : Nat) (but : Option Nat) : (c.breakResv loc but).mem.owned = c.mem.owned := rfl
@[simp] theorem Chip.breakResv_mem_notices (c : Chip) (loc : Nat) (but : Option Nat) : (c.breakResv loc but).mem.notices = c.mem.notices := rfl
@[simp] theorem Chip.breakResv_mem_epochs (c : Chip) (loc : Nat) (but : Option Nat) : (c.breakResv loc but).mem.epochs = c.mem.epochs := rfl
@[simp] theorem Chip.breakResv_mem_dir (c : Chip) (loc : Nat) (but : Option Nat) : (c.breakResv loc but).mem.dir = c.mem.dir := rfl
@[simp] theorem Chip.breakResv_mem_homeLines (c : Chip) (loc : Nat) (but : Option Nat) : (c.breakResv loc but).mem.homeLines = c.mem.homeLines := rfl
@[simp] theorem Chip.breakResv_mem_applied (c : Chip) (loc : Nat) (but : Option Nat) : (c.breakResv loc but).mem.applied = c.mem.applied := rfl
@[simp] theorem Chip.breakResv_mem_retries (c : Chip) (loc : Nat) (but : Option Nat) : (c.breakResv loc but).mem.retries = c.mem.retries := rfl
@[simp] theorem Chip.breakResv_mem_nextSeq (c : Chip) (loc : Nat) (but : Option Nat) : (c.breakResv loc but).mem.nextSeq = c.mem.nextSeq := rfl
@[simp] theorem Chip.breakResv_mem_ownSeq (c : Chip) (loc : Nat) (but : Option Nat) : (c.breakResv loc but).mem.ownSeq = c.mem.ownSeq := rfl
@[simp] theorem Chip.breakResv_mem_parked (c : Chip) (loc : Nat) (but : Option Nat) : (c.breakResv loc but).mem.parked = c.mem.parked := rfl
@[simp] theorem Chip.breakResv_mem_latent (c : Chip) (loc : Nat) (but : Option Nat) : (c.breakResv loc but).mem.latent = c.mem.latent := rfl
@[simp] theorem Chip.breakResv_mem_dirBad (c : Chip) (loc : Nat) (but : Option Nat) : (c.breakResv loc but).mem.dirBad = c.mem.dirBad := rfl
@[simp] theorem Chip.breakResv_mem_answers (c : Chip) (loc : Nat) (but : Option Nat) : (c.breakResv loc but).mem.answers = c.mem.answers := rfl
@[simp] theorem Chip.breakResv_mem_acc (c : Chip) (loc : Nat) (but : Option Nat) : (c.breakResv loc but).mem.acc = c.mem.acc := rfl
@[simp] theorem Chip.breakResv_mem_wb (c : Chip) (loc : Nat) (but : Option Nat) : (c.breakResv loc but).mem.wb = c.mem.wb := rfl
@[simp] theorem Chip.breakResv_mem_accPoison (c : Chip) (loc : Nat) (but : Option Nat) : (c.breakResv loc but).mem.accPoison = c.mem.accPoison := rfl
@[simp] theorem Chip.breakResv_mem_wbPoison (c : Chip) (loc : Nat) (but : Option Nat) : (c.breakResv loc but).mem.wbPoison = c.mem.wbPoison := rfl
@[simp] theorem Chip.dropResv_mem_bytes (c : Chip) (t : Nat) : (c.dropResv t).mem.bytes = c.mem.bytes := rfl
@[simp] theorem Chip.dropResv_mem_poison (c : Chip) (t : Nat) : (c.dropResv t).mem.poison = c.mem.poison := rfl
@[simp] theorem Chip.dropResv_mem_l1 (c : Chip) (t : Nat) : (c.dropResv t).mem.l1 = c.mem.l1 := rfl
@[simp] theorem Chip.dropResv_mem_icache (c : Chip) (t : Nat) : (c.dropResv t).mem.icache = c.mem.icache := rfl
@[simp] theorem Chip.dropResv_mem_owned (c : Chip) (t : Nat) : (c.dropResv t).mem.owned = c.mem.owned := rfl
@[simp] theorem Chip.dropResv_mem_notices (c : Chip) (t : Nat) : (c.dropResv t).mem.notices = c.mem.notices := rfl
@[simp] theorem Chip.dropResv_mem_epochs (c : Chip) (t : Nat) : (c.dropResv t).mem.epochs = c.mem.epochs := rfl
@[simp] theorem Chip.dropResv_mem_dir (c : Chip) (t : Nat) : (c.dropResv t).mem.dir = c.mem.dir := rfl
@[simp] theorem Chip.dropResv_mem_homeLines (c : Chip) (t : Nat) : (c.dropResv t).mem.homeLines = c.mem.homeLines := rfl
@[simp] theorem Chip.dropResv_mem_applied (c : Chip) (t : Nat) : (c.dropResv t).mem.applied = c.mem.applied := rfl
@[simp] theorem Chip.dropResv_mem_retries (c : Chip) (t : Nat) : (c.dropResv t).mem.retries = c.mem.retries := rfl
@[simp] theorem Chip.dropResv_mem_nextSeq (c : Chip) (t : Nat) : (c.dropResv t).mem.nextSeq = c.mem.nextSeq := rfl
@[simp] theorem Chip.dropResv_mem_ownSeq (c : Chip) (t : Nat) : (c.dropResv t).mem.ownSeq = c.mem.ownSeq := rfl
@[simp] theorem Chip.dropResv_mem_parked (c : Chip) (t : Nat) : (c.dropResv t).mem.parked = c.mem.parked := rfl
@[simp] theorem Chip.dropResv_mem_latent (c : Chip) (t : Nat) : (c.dropResv t).mem.latent = c.mem.latent := rfl
@[simp] theorem Chip.dropResv_mem_dirBad (c : Chip) (t : Nat) : (c.dropResv t).mem.dirBad = c.mem.dirBad := rfl
@[simp] theorem Chip.dropResv_mem_answers (c : Chip) (t : Nat) : (c.dropResv t).mem.answers = c.mem.answers := rfl
@[simp] theorem Chip.dropResv_mem_acc (c : Chip) (t : Nat) : (c.dropResv t).mem.acc = c.mem.acc := rfl
@[simp] theorem Chip.dropResv_mem_wb (c : Chip) (t : Nat) : (c.dropResv t).mem.wb = c.mem.wb := rfl
@[simp] theorem Chip.dropResv_mem_accPoison (c : Chip) (t : Nat) : (c.dropResv t).mem.accPoison = c.mem.accPoison := rfl
@[simp] theorem Chip.dropResv_mem_wbPoison (c : Chip) (t : Nat) : (c.dropResv t).mem.wbPoison = c.mem.wbPoison := rfl
/-! ## Updates of a thread -/
@[simp] theorem Thread.retired_id (t : Thread) (n : Nat) : (t.retired n).id = t.id := rfl
@[simp] theorem Thread.retired_place (t : Thread) (n : Nat) : (t.retired n).place = t.place := rfl
@[simp] theorem Thread.retired_held (t : Thread) (n : Nat) : (t.retired n).held = t.held := rfl
@[simp] theorem Thread.retired_mode (t : Thread) (n : Nat) : (t.retired n).mode = t.mode := rfl
@[simp] theorem Thread.retired_pc (t : Thread) (n : Nat) : (t.retired n).pc = t.pc + BitVec.ofNat 64 n := rfl
@[simp] theorem Thread.retired_regs (t : Thread) (n : Nat) : (t.retired n).regs = t.regs := rfl
@[simp] theorem Thread.retired_fcsr (t : Thread) (n : Nat) : (t.retired n).fcsr = t.fcsr := rfl
@[simp] theorem Thread.retired_tflags (t : Thread) (n : Nat) : (t.retired n).tflags = t.tflags := rfl
@[simp] theorem Thread.retired_tmode (t : Thread) (n : Nat) : (t.retired n).tmode = t.tmode := rfl
@[simp] theorem Thread.retired_trng (t : Thread) (n : Nat) : (t.retired n).trng = t.trng := rfl
@[simp] theorem Thread.retired_temu (t : Thread) (n : Nat) : (t.retired n).temu = t.temu := rfl
@[simp] theorem Thread.retired_tdeleg (t : Thread) (n : Nat) : (t.retired n).tdeleg = t.tdeleg := rfl
@[simp] theorem Thread.retired_tepc (t : Thread) (n : Nat) : (t.retired n).tepc = t.tepc := rfl
@[simp] theorem Thread.retired_tcause (t : Thread) (n : Nat) : (t.retired n).tcause = t.tcause := rfl
@[simp] theorem Thread.retired_tval (t : Thread) (n : Nat) : (t.retired n).tval = t.tval := rfl
@[simp] theorem Thread.retired_tfoot (t : Thread) (n : Nat) : (t.retired n).tfoot = t.tfoot := rfl
@[simp] theorem Thread.retired_tgrid (t : Thread) (n : Nat) : (t.retired n).tgrid = t.tgrid := rfl
@[simp] theorem Thread.retired_tblk (t : Thread) (n : Nat) : (t.retired n).tblk = t.tblk := rfl
@[simp] theorem Thread.retired_ttid (t : Thread) (n : Nat) : (t.retired n).ttid = t.ttid := rfl
@[simp] theorem Thread.retired_trole (t : Thread) (n : Nat) : (t.retired n).trole = t.trole := rfl
@[simp] theorem Thread.retired_tprio (t : Thread) (n : Nat) : (t.retired n).tprio = t.tprio := rfl
@[simp] theorem Thread.retired_p0 (t : Thread) (n : Nat) : (t.retired n).p0 = t.p0 := rfl
@[simp] theorem Thread.retired_barPoison (t : Thread) (n : Nat) : (t.retired n).barPoison = t.barPoison := rfl
@[simp] theorem Thread.retired_fresh (t : Thread) (n : Nat) : (t.retired n).fresh = t.fresh := rfl
@[simp] theorem Thread.retired_corrupt (t : Thread) (n : Nat) : (t.retired n).corrupt = t.corrupt := rfl
@[simp] theorem Thread.retired_flipped (t : Thread) (n : Nat) : (t.retired n).flipped = t.flipped := rfl
@[simp] theorem Thread.retired_block (t : Thread) (n : Nat) : (t.retired n).block = t.block := rfl
@[simp] theorem Thread.retired_ctx (t : Thread) (n : Nat) : (t.retired n).ctx = t.ctx := rfl
@[simp] theorem Thread.retired_osid (t : Thread) (n : Nat) : (t.retired n).osid = t.osid := rfl
@[simp] theorem Thread.retired_spawner (t : Thread) (n : Nat) : (t.retired n).spawner = t.spawner := rfl
@[simp] theorem Thread.retired_spawnSeq (t : Thread) (n : Nat) : (t.retired n).spawnSeq = t.spawnSeq := rfl
@[simp] theorem Thread.retired_win (t : Thread) (n : Nat) : (t.retired n).win = t.win := rfl
@[simp] theorem Thread.retired_lsbytes (t : Thread) (n : Nat) : (t.retired n).lsbytes = t.lsbytes := rfl
@[simp] theorem Thread.retired_lane (t : Thread) (n : Nat) : (t.retired n).lane = t.lane := rfl
@[simp] theorem Thread.retired_lanePoison (t : Thread) (n : Nat) : (t.retired n).lanePoison = t.lanePoison := rfl
@[simp] theorem Thread.retired_tokens (t : Thread) (n : Nat) : (t.retired n).tokens = t.tokens := rfl
@[simp] theorem Thread.retired_wait (t : Thread) (n : Nat) : (t.retired n).wait = .ready := rfl
@[simp] theorem Thread.retired_early (t : Thread) (n : Nat) : (t.retired n).early = none := rfl
@[simp] theorem Thread.retired_converged (t : Thread) (n : Nat) : (t.retired n).converged = false := rfl
@[simp] theorem Thread.retired_waitSince (t : Thread) (n : Nat) : (t.retired n).waitSince = t.waitSince := rfl
@[simp] theorem Thread.retired_age (t : Thread) (n : Nat) : (t.retired n).age = t.age := rfl
@[simp] theorem Thread.retired_arrived (t : Thread) (n : Nat) : (t.retired n).arrived = none := rfl
@[simp] theorem Thread.retired_live (t : Thread) (n : Nat) : (t.retired n).live = t.live := rfl
@[simp] theorem Thread.retired_parkFlags (t : Thread) (n : Nat) : (t.retired n).parkFlags = t.parkFlags := rfl
@[simp] theorem Thread.retired_parkCause (t : Thread) (n : Nat) : (t.retired n).parkCause = t.parkCause := rfl
@[simp] theorem Thread.retired_parkTval (t : Thread) (n : Nat) : (t.retired n).parkTval = t.parkTval := rfl
@[simp] theorem Thread.retired_handler (t : Thread) (n : Nat) : (t.retired n).handler = t.handler := rfl
@[simp] theorem Thread.retired_reqPending (t : Thread) (n : Nat) : (t.retired n).reqPending = t.reqPending := rfl
@[simp] theorem Thread.retired_cancelled (t : Thread) (n : Nat) : (t.retired n).cancelled = t.cancelled := rfl
@[simp] theorem Thread.retired_cancelSince (t : Thread) (n : Nat) : (t.retired n).cancelSince = t.cancelSince := rfl
@[simp] theorem Thread.retired_recalled (t : Thread) (n : Nat) : (t.retired n).recalled = t.recalled := rfl
@[simp] theorem Thread.retired_instret (t : Thread) (n : Nat) : (t.retired n).instret = t.instret + 1 := rfl
@[simp] theorem Thread.retired_hint (t : Thread) (n : Nat) : (t.retired n).hint = t.hint := rfl
@[simp] theorem Thread.retired_hintRd (t : Thread) (n : Nat) : (t.retired n).hintRd = t.hintRd := rfl
@[simp] theorem Thread.retired_fromLdie (t : Thread) (n : Nat) : (t.retired n).fromLdie = t.fromLdie := rfl
@[simp] theorem Thread.retired_arriving (t : Thread) (n : Nat) : (t.retired n).arriving = t.arriving := rfl
@[simp] theorem Thread.retired_called (t : Thread) (n : Nat) : (t.retired n).called = t.called := rfl
@[simp] theorem Thread.retired_record (t : Thread) (n : Nat) : (t.retired n).record = t.record := rfl
@[simp] theorem Thread.retired_claimed (t : Thread) (n : Nat) : (t.retired n).claimed = t.claimed := rfl
@[simp] theorem Thread.retired_reading (t : Thread) (n : Nat) : (t.retired n).reading = t.reading := rfl
@[simp] theorem Thread.atGroup_id (t : Thread) (k tick : Nat) : (t.atGroup k tick).id = t.id := rfl
@[simp] theorem Thread.atGroup_place (t : Thread) (k tick : Nat) : (t.atGroup k tick).place = t.place := rfl
@[simp] theorem Thread.atGroup_held (t : Thread) (k tick : Nat) : (t.atGroup k tick).held = t.held := rfl
@[simp] theorem Thread.atGroup_mode (t : Thread) (k tick : Nat) : (t.atGroup k tick).mode = t.mode := rfl
@[simp] theorem Thread.atGroup_pc (t : Thread) (k tick : Nat) : (t.atGroup k tick).pc = t.pc := rfl
@[simp] theorem Thread.atGroup_regs (t : Thread) (k tick : Nat) : (t.atGroup k tick).regs = t.regs := rfl
@[simp] theorem Thread.atGroup_fcsr (t : Thread) (k tick : Nat) : (t.atGroup k tick).fcsr = t.fcsr := rfl
@[simp] theorem Thread.atGroup_tflags (t : Thread) (k tick : Nat) : (t.atGroup k tick).tflags = t.tflags := rfl
@[simp] theorem Thread.atGroup_tmode (t : Thread) (k tick : Nat) : (t.atGroup k tick).tmode = t.tmode := rfl
@[simp] theorem Thread.atGroup_trng (t : Thread) (k tick : Nat) : (t.atGroup k tick).trng = t.trng := rfl
@[simp] theorem Thread.atGroup_temu (t : Thread) (k tick : Nat) : (t.atGroup k tick).temu = t.temu := rfl
@[simp] theorem Thread.atGroup_tdeleg (t : Thread) (k tick : Nat) : (t.atGroup k tick).tdeleg = t.tdeleg := rfl
@[simp] theorem Thread.atGroup_tepc (t : Thread) (k tick : Nat) : (t.atGroup k tick).tepc = t.tepc := rfl
@[simp] theorem Thread.atGroup_tcause (t : Thread) (k tick : Nat) : (t.atGroup k tick).tcause = t.tcause := rfl
@[simp] theorem Thread.atGroup_tval (t : Thread) (k tick : Nat) : (t.atGroup k tick).tval = t.tval := rfl
@[simp] theorem Thread.atGroup_tfoot (t : Thread) (k tick : Nat) : (t.atGroup k tick).tfoot = t.tfoot := rfl
@[simp] theorem Thread.atGroup_tgrid (t : Thread) (k tick : Nat) : (t.atGroup k tick).tgrid = t.tgrid := rfl
@[simp] theorem Thread.atGroup_tblk (t : Thread) (k tick : Nat) : (t.atGroup k tick).tblk = t.tblk := rfl
@[simp] theorem Thread.atGroup_ttid (t : Thread) (k tick : Nat) : (t.atGroup k tick).ttid = t.ttid := rfl
@[simp] theorem Thread.atGroup_trole (t : Thread) (k tick : Nat) : (t.atGroup k tick).trole = t.trole := rfl
@[simp] theorem Thread.atGroup_tprio (t : Thread) (k tick : Nat) : (t.atGroup k tick).tprio = t.tprio := rfl
@[simp] theorem Thread.atGroup_p0 (t : Thread) (k tick : Nat) : (t.atGroup k tick).p0 = t.p0 := rfl
@[simp] theorem Thread.atGroup_barPoison (t : Thread) (k tick : Nat) : (t.atGroup k tick).barPoison = t.barPoison := rfl
@[simp] theorem Thread.atGroup_fresh (t : Thread) (k tick : Nat) : (t.atGroup k tick).fresh = t.fresh := rfl
@[simp] theorem Thread.atGroup_corrupt (t : Thread) (k tick : Nat) : (t.atGroup k tick).corrupt = t.corrupt := rfl
@[simp] theorem Thread.atGroup_flipped (t : Thread) (k tick : Nat) : (t.atGroup k tick).flipped = t.flipped := rfl
@[simp] theorem Thread.atGroup_block (t : Thread) (k tick : Nat) : (t.atGroup k tick).block = t.block := rfl
@[simp] theorem Thread.atGroup_ctx (t : Thread) (k tick : Nat) : (t.atGroup k tick).ctx = t.ctx := rfl
@[simp] theorem Thread.atGroup_osid (t : Thread) (k tick : Nat) : (t.atGroup k tick).osid = t.osid := rfl
@[simp] theorem Thread.atGroup_spawner (t : Thread) (k tick : Nat) : (t.atGroup k tick).spawner = t.spawner := rfl
@[simp] theorem Thread.atGroup_spawnSeq (t : Thread) (k tick : Nat) : (t.atGroup k tick).spawnSeq = t.spawnSeq := rfl
@[simp] theorem Thread.atGroup_win (t : Thread) (k tick : Nat) : (t.atGroup k tick).win = t.win := rfl
@[simp] theorem Thread.atGroup_lsbytes (t : Thread) (k tick : Nat) : (t.atGroup k tick).lsbytes = t.lsbytes := rfl
@[simp] theorem Thread.atGroup_lane (t : Thread) (k tick : Nat) : (t.atGroup k tick).lane = t.lane := rfl
@[simp] theorem Thread.atGroup_lanePoison (t : Thread) (k tick : Nat) : (t.atGroup k tick).lanePoison = t.lanePoison := rfl
@[simp] theorem Thread.atGroup_tokens (t : Thread) (k tick : Nat) : (t.atGroup k tick).tokens = t.tokens := rfl
@[simp] theorem Thread.atGroup_wait (t : Thread) (k tick : Nat) : (t.atGroup k tick).wait = .group k true := rfl
@[simp] theorem Thread.atGroup_early (t : Thread) (k tick : Nat) : (t.atGroup k tick).early = none := rfl
@[simp] theorem Thread.atGroup_converged (t : Thread) (k tick : Nat) : (t.atGroup k tick).converged = t.converged := rfl
@[simp] theorem Thread.atGroup_waitSince (t : Thread) (k tick : Nat) : (t.atGroup k tick).waitSince = tick := rfl
@[simp] theorem Thread.atGroup_age (t : Thread) (k tick : Nat) : (t.atGroup k tick).age = t.age := rfl
@[simp] theorem Thread.atGroup_arrived (t : Thread) (k tick : Nat) : (t.atGroup k tick).arrived = t.arrived := rfl
@[simp] theorem Thread.atGroup_live (t : Thread) (k tick : Nat) : (t.atGroup k tick).live = t.live := rfl
@[simp] theorem Thread.atGroup_parkFlags (t : Thread) (k tick : Nat) : (t.atGroup k tick).parkFlags = t.parkFlags := rfl
@[simp] theorem Thread.atGroup_parkCause (t : Thread) (k tick : Nat) : (t.atGroup k tick).parkCause = t.parkCause := rfl
@[simp] theorem Thread.atGroup_parkTval (t : Thread) (k tick : Nat) : (t.atGroup k tick).parkTval = t.parkTval := rfl
@[simp] theorem Thread.atGroup_handler (t : Thread) (k tick : Nat) : (t.atGroup k tick).handler = t.handler := rfl
@[simp] theorem Thread.atGroup_reqPending (t : Thread) (k tick : Nat) : (t.atGroup k tick).reqPending = t.reqPending := rfl
@[simp] theorem Thread.atGroup_cancelled (t : Thread) (k tick : Nat) : (t.atGroup k tick).cancelled = t.cancelled := rfl
@[simp] theorem Thread.atGroup_cancelSince (t : Thread) (k tick : Nat) : (t.atGroup k tick).cancelSince = t.cancelSince := rfl
@[simp] theorem Thread.atGroup_recalled (t : Thread) (k tick : Nat) : (t.atGroup k tick).recalled = t.recalled := rfl
@[simp] theorem Thread.atGroup_instret (t : Thread) (k tick : Nat) : (t.atGroup k tick).instret = t.instret := rfl
@[simp] theorem Thread.atGroup_hint (t : Thread) (k tick : Nat) : (t.atGroup k tick).hint = t.hint := rfl
@[simp] theorem Thread.atGroup_hintRd (t : Thread) (k tick : Nat) : (t.atGroup k tick).hintRd = t.hintRd := rfl
@[simp] theorem Thread.atGroup_fromLdie (t : Thread) (k tick : Nat) : (t.atGroup k tick).fromLdie = t.fromLdie := rfl
@[simp] theorem Thread.atGroup_arriving (t : Thread) (k tick : Nat) : (t.atGroup k tick).arriving = t.arriving := rfl
@[simp] theorem Thread.atGroup_called (t : Thread) (k tick : Nat) : (t.atGroup k tick).called = t.called := rfl
@[simp] theorem Thread.atGroup_record (t : Thread) (k tick : Nat) : (t.atGroup k tick).record = t.record := rfl
@[simp] theorem Thread.atGroup_claimed (t : Thread) (k tick : Nat) : (t.atGroup k tick).claimed = t.claimed := rfl
@[simp] theorem Thread.atGroup_reading (t : Thread) (k tick : Nat) : (t.atGroup k tick).reading = t.reading := rfl
@[simp] theorem Thread.setFoot_id (t : Thread) (v : Nat) : (t.setFoot v).id = t.id := rfl
@[simp] theorem Thread.setFoot_place (t : Thread) (v : Nat) : (t.setFoot v).place = t.place := rfl
@[simp] theorem Thread.setFoot_held (t : Thread) (v : Nat) : (t.setFoot v).held = t.held := rfl
@[simp] theorem Thread.setFoot_mode (t : Thread) (v : Nat) : (t.setFoot v).mode = t.mode := rfl
@[simp] theorem Thread.setFoot_pc (t : Thread) (v : Nat) : (t.setFoot v).pc = t.pc := rfl
@[simp] theorem Thread.setFoot_fcsr (t : Thread) (v : Nat) : (t.setFoot v).fcsr = t.fcsr := rfl
@[simp] theorem Thread.setFoot_tflags (t : Thread) (v : Nat) : (t.setFoot v).tflags = t.tflags := rfl
@[simp] theorem Thread.setFoot_tmode (t : Thread) (v : Nat) : (t.setFoot v).tmode = t.tmode := rfl
@[simp] theorem Thread.setFoot_trng (t : Thread) (v : Nat) : (t.setFoot v).trng = t.trng := rfl
@[simp] theorem Thread.setFoot_temu (t : Thread) (v : Nat) : (t.setFoot v).temu = t.temu := rfl
@[simp] theorem Thread.setFoot_tdeleg (t : Thread) (v : Nat) : (t.setFoot v).tdeleg = t.tdeleg := rfl
@[simp] theorem Thread.setFoot_tepc (t : Thread) (v : Nat) : (t.setFoot v).tepc = t.tepc := rfl
@[simp] theorem Thread.setFoot_tcause (t : Thread) (v : Nat) : (t.setFoot v).tcause = t.tcause := rfl
@[simp] theorem Thread.setFoot_tval (t : Thread) (v : Nat) : (t.setFoot v).tval = t.tval := rfl
@[simp] theorem Thread.setFoot_tfoot (t : Thread) (v : Nat) : (t.setFoot v).tfoot = v := rfl
@[simp] theorem Thread.setFoot_tgrid (t : Thread) (v : Nat) : (t.setFoot v).tgrid = t.tgrid := rfl
@[simp] theorem Thread.setFoot_tblk (t : Thread) (v : Nat) : (t.setFoot v).tblk = t.tblk := rfl
@[simp] theorem Thread.setFoot_ttid (t : Thread) (v : Nat) : (t.setFoot v).ttid = t.ttid := rfl
@[simp] theorem Thread.setFoot_trole (t : Thread) (v : Nat) : (t.setFoot v).trole = t.trole := rfl
@[simp] theorem Thread.setFoot_tprio (t : Thread) (v : Nat) : (t.setFoot v).tprio = t.tprio := rfl
@[simp] theorem Thread.setFoot_p0 (t : Thread) (v : Nat) : (t.setFoot v).p0 = t.p0 := rfl
@[simp] theorem Thread.setFoot_barPoison (t : Thread) (v : Nat) : (t.setFoot v).barPoison = t.barPoison := rfl
@[simp] theorem Thread.setFoot_block (t : Thread) (v : Nat) : (t.setFoot v).block = t.block := rfl
@[simp] theorem Thread.setFoot_ctx (t : Thread) (v : Nat) : (t.setFoot v).ctx = t.ctx := rfl
@[simp] theorem Thread.setFoot_osid (t : Thread) (v : Nat) : (t.setFoot v).osid = t.osid := rfl
@[simp] theorem Thread.setFoot_spawner (t : Thread) (v : Nat) : (t.setFoot v).spawner = t.spawner := rfl
@[simp] theorem Thread.setFoot_spawnSeq (t : Thread) (v : Nat) : (t.setFoot v).spawnSeq = t.spawnSeq := rfl
@[simp] theorem Thread.setFoot_win (t : Thread) (v : Nat) : (t.setFoot v).win = t.win := rfl
@[simp] theorem Thread.setFoot_lsbytes (t : Thread) (v : Nat) : (t.setFoot v).lsbytes = t.lsbytes := rfl
@[simp] theorem Thread.setFoot_lane (t : Thread) (v : Nat) : (t.setFoot v).lane = t.lane := rfl
@[simp] theorem Thread.setFoot_lanePoison (t : Thread) (v : Nat) : (t.setFoot v).lanePoison = t.lanePoison := rfl
@[simp] theorem Thread.setFoot_tokens (t : Thread) (v : Nat) : (t.setFoot v).tokens = t.tokens := rfl
@[simp] theorem Thread.setFoot_wait (t : Thread) (v : Nat) : (t.setFoot v).wait = t.wait := rfl
@[simp] theorem Thread.setFoot_early (t : Thread) (v : Nat) : (t.setFoot v).early = t.early := rfl
@[simp] theorem Thread.setFoot_converged (t : Thread) (v : Nat) : (t.setFoot v).converged = t.converged := rfl
@[simp] theorem Thread.setFoot_waitSince (t : Thread) (v : Nat) : (t.setFoot v).waitSince = t.waitSince := rfl
@[simp] theorem Thread.setFoot_age (t : Thread) (v : Nat) : (t.setFoot v).age = t.age := rfl
@[simp] theorem Thread.setFoot_arrived (t : Thread) (v : Nat) : (t.setFoot v).arrived = t.arrived := rfl
@[simp] theorem Thread.setFoot_live (t : Thread) (v : Nat) : (t.setFoot v).live = t.live := rfl
@[simp] theorem Thread.setFoot_parkFlags (t : Thread) (v : Nat) : (t.setFoot v).parkFlags = t.parkFlags := rfl
@[simp] theorem Thread.setFoot_parkCause (t : Thread) (v : Nat) : (t.setFoot v).parkCause = t.parkCause := rfl
@[simp] theorem Thread.setFoot_parkTval (t : Thread) (v : Nat) : (t.setFoot v).parkTval = t.parkTval := rfl
@[simp] theorem Thread.setFoot_handler (t : Thread) (v : Nat) : (t.setFoot v).handler = t.handler := rfl
@[simp] theorem Thread.setFoot_reqPending (t : Thread) (v : Nat) : (t.setFoot v).reqPending = t.reqPending := rfl
@[simp] theorem Thread.setFoot_cancelled (t : Thread) (v : Nat) : (t.setFoot v).cancelled = t.cancelled := rfl
@[simp] theorem Thread.setFoot_cancelSince (t : Thread) (v : Nat) : (t.setFoot v).cancelSince = t.cancelSince := rfl
@[simp] theorem Thread.setFoot_recalled (t : Thread) (v : Nat) : (t.setFoot v).recalled = t.recalled := rfl
@[simp] theorem Thread.setFoot_instret (t : Thread) (v : Nat) : (t.setFoot v).instret = t.instret := rfl
@[simp] theorem Thread.setFoot_hint (t : Thread) (v : Nat) : (t.setFoot v).hint = t.hint := rfl
@[simp] theorem Thread.setFoot_hintRd (t : Thread) (v : Nat) : (t.setFoot v).hintRd = t.hintRd := rfl
@[simp] theorem Thread.setFoot_fromLdie (t : Thread) (v : Nat) : (t.setFoot v).fromLdie = t.fromLdie := rfl
@[simp] theorem Thread.setFoot_arriving (t : Thread) (v : Nat) : (t.setFoot v).arriving = t.arriving := rfl
@[simp] theorem Thread.setFoot_called (t : Thread) (v : Nat) : (t.setFoot v).called = t.called := rfl
@[simp] theorem Thread.setFoot_record (t : Thread) (v : Nat) : (t.setFoot v).record = t.record := rfl
@[simp] theorem Thread.setFoot_claimed (t : Thread) (v : Nat) : (t.setFoot v).claimed = t.claimed := rfl
@[simp] theorem Thread.setFoot_reading (t : Thread) (v : Nat) : (t.setFoot v).reading = t.reading := rfl

end Sys2Proof.Machine
end

