-- ==== Sys2Proof/Laws/Ops.lean ====
section
/-! SUPPORT. Laws of the shared operations: reading a thread after a change, what stops a thread's slices, and what an issue does for
one thread. -/

set_option Elab.async false
namespace Sys2Proof.Machine

/-! ## Threads -/

/-- A thread of the chip has the number it is found by. -/
theorem thread?_id {c : Chip} {id : Nat} {t : Thread} (h : c.thread? id = some t) : t.id = id := by
  simpa using List.find?_some h

/-- Finding by number after every element is changed by a function that keeps numbers. -/
theorem find?_map_id {l : List Thread} {f : Thread → Thread} (hf : ∀ t, (f t).id = t.id) (k : Nat) :
    (l.map f).find? (·.id = k) = (l.find? (·.id = k)).map f := by
  induction l with
  | nil => rfl
  | cons a r ih =>
    simp only [List.map_cons, List.find?_cons, hf]
    split
    · rfl
    · exact ih

/-- A changed thread is found with the change, every other as before. -/
theorem thread?_onThread {c : Chip} {id : Nat} {f : Thread → Thread} (hf : ∀ t, (f t).id = t.id) (k : Nat) :
    (c.onThread id f).thread? k = (c.thread? k).map fun t => if t.id = id then f t else t := by
  unfold Chip.onThread Chip.thread?
  exact find?_map_id (fun t => by split <;> simp [hf]) k

/-- The changed thread itself. -/
theorem thread?_onThread_self {c : Chip} {t : Thread} {f : Thread → Thread} (hf : ∀ t, (f t).id = t.id)
    (h : c.thread? t.id = some t) : (c.onThread t.id f).thread? t.id = some (f t) := by
  rw [thread?_onThread hf, h]
  simp

/-- Every other thread is as before. -/
theorem thread?_onThread_of_ne {c : Chip} {id k : Nat} {f : Thread → Thread} (hf : ∀ t, (f t).id = t.id) (hk : k ≠ id) :
    (c.onThread id f).thread? k = c.thread? k := by
  rw [thread?_onThread hf]
  cases h : c.thread? k with
  | none => rfl
  | some t => simp [thread?_id h, hk]

/-- A thread put back is the one found, every other is as before. -/
theorem thread?_setThread {c : Chip} {t u : Thread} (h : c.thread? t.id = some u) (k : Nat) :
    (c.setThread t).thread? k = if k = t.id then some t else c.thread? k := by
  have key : (c.setThread t).thread? k = (c.thread? k).map fun u => if u.id = t.id then t else u := by
    unfold Chip.setThread Chip.thread?
    exact find?_map_id (fun u => by split <;> simp [*]) k
  rw [key]
  by_cases hk : k = t.id
  · subst hk
    simp [h, thread?_id h]
  · rw [if_neg hk]
    cases h' : c.thread? k with
    | none => rfl
    | some v => simp [thread?_id h', hk]

/-! ## What stops a thread's slices -/

/-- The highest slice touched is below a bound if each span is. -/
theorem foldl_top_le {l : List Span} {m n : Nat} (hm : m ≤ n) (h : ∀ p ∈ l, p.2 = 0 ∨ p.1 + p.2 ≤ n) :
    l.foldl (fun m p => if p.2 = 0 then m else max m (p.1 + p.2)) m ≤ n := by
  induction l generalizing m with
  | nil => exact hm
  | cons p r ih =>
    rw [List.foldl_cons]
    refine ih ?_ fun q hq => h q (List.mem_cons_of_mem _ hq)
    rcases h p List.mem_cons_self with h0 | h1
    · simp [h0, hm]
    · split
      · exact hm
      · exact Nat.max_le.2 ⟨hm, h1⟩

/-- No slice has a property that none has. -/
theorem lowestSlice_none {ps : List Span} {f : Nat → Bool} (h : ∀ p ∈ ps, ∀ a ∈ spanList p, f a = false) : lowestSlice ps f = none := by
  unfold lowestSlice
  have key : ∀ l : List Nat, (∀ a ∈ l, f a = false) →
      l.foldl (fun (m : Option Nat) a => if f a then (match m with | none => some a | some b => some (min a b)) else m) none = none := by
    intro l
    induction l with
    | nil => intro _; rfl
    | cons a r ih =>
      intro hl
      rw [List.foldl_cons, hl a List.mem_cons_self]
      exact ih fun b hb => hl b (List.mem_cons_of_mem _ hb)
  refine key _ fun a ha => ?_
  obtain ⟨p, hp, hap⟩ := List.mem_flatMap.1 ha
  exact h p hp a hap

/-- What usable slices are (R74, R209, R210): below the footprint top, and, where they are read, neither corrupted nor, where the
instruction may not carry poison, poisoned. -/
theorem usable_iff {t : Thread} {n : Nat} {u : Uses} (hc : t.onCompute = true) : t.usable n u = true ↔
    (∀ p ∈ u.reads ++ u.strict ++ u.writes, p.2 = 0 ∨ p.1 + p.2 ≤ t.tfoot) ∧
    (∀ p ∈ u.reads ++ u.strict, ∀ a ∈ spanList p, a < 16 ∨ t.corrupt.getLsbD a = false) ∧
    ∀ p ∈ u.strict, ∀ a ∈ spanList p, t.slicePoison n a = false := by
  unfold Thread.usable
  simp only [hc, Bool.not_true, Bool.false_or, Bool.and_eq_true, List.all_eq_true, Bool.or_eq_true, decide_eq_true_eq,
    Bool.not_eq_true', and_assoc]

/-- A thread that may use some slices reaches no slice at or above its footprint top (R210). -/
theorem footStop_of_usable {t : Thread} {n : Nat} {u : Uses} (h : t.usable n u = true) : t.footStop u = none := by
  unfold Thread.footStop
  by_cases hc : t.onCompute = true
  · have htop : u.top ≤ t.tfoot := foldl_top_le (Nat.zero_le _) ((usable_iff hc).1 h).1
    simp [hc, htop]
  · simp [hc]

/-- Of the slices that a thread may use, none that it reads is corrupted (R209). -/
theorem corruptAt_of_usable {t : Thread} {n : Nat} {u : Uses} {ps : List Span} (h : t.usable n u = true)
    (hs : ∀ p ∈ ps, p ∈ u.reads ++ u.strict) : t.corruptAt ps = none := by
  unfold Thread.corruptAt
  by_cases hc : t.onCompute = true
  · split
    · rfl
    · refine lowestSlice_none fun p hp a ha => ?_
      rcases ((usable_iff hc).1 h).2.1 p (hs p hp) a ha with h | h
      · simp [Nat.not_le.2 h]
      · simp [h]
  · simp [hc]

/-- Of the slices that a thread may use, none that must not be poisoned is (R74). -/
theorem poisonStop_of_usable {c : Chip} {t : Thread} {u : Uses} (h : t.usable (c.bars t) u = true) : c.poisonStop t u.strict = none := by
  unfold Chip.poisonStop
  by_cases hc : t.onCompute = true
  · split
    · rfl
    · rw [lowestSlice_none ((usable_iff hc).1 h).2.2]
      rfl
  · simp [hc]

/-- A thread that may use some slices is not stopped by them (R74, R209, R210, R219). -/
theorem sliceStop_of_usable {c : Chip} {t : Thread} {u : Uses} (h : t.usable (c.bars t) u = true) : c.sliceStop t u = none := by
  unfold Chip.sliceStop
  rw [footStop_of_usable h, corruptAt_of_usable h fun _ hp => hp, poisonStop_of_usable h]
  rfl

/-! ## What an issue does for one thread -/

/-- An instruction that nothing stops runs, the thread goes on, and no request of it waits any longer (R76, R203). -/
theorem issueOne_run {c : Chip} {t : Thread} {o : Op} {word : Word} (h : c.thread? t.id = some t) (hn : (t.onHart && !o.native) = false)
    (hs : o.stop c [t] 0 t word = none) : c.issueOne word o t.id = ((o.run c [t]).finish t.id o).unqueue t.id := by
  unfold Chip.issueOne
  simp [h, hn, hs]

/-- An instruction that something stops leaves what the stop leaves (R220). -/
theorem issueOne_stop {c : Chip} {t : Thread} {o : Op} {word : Word} {x : Stop} (h : c.thread? t.id = some t)
    (hn : (t.onHart && !o.native) = false) (hs : o.stop c [t] 0 t word = some x) : c.issueOne word o t.id = c.applyStop t.id word x := by
  unfold Chip.issueOne
  simp [h, hn, hs]

/-- What is left of a chip when a thread waits nowhere any longer: only the lines of waiting requests change (R76, R189). -/
theorem unqueue_frame (c : Chip) (id : Nat) :
    (c.unqueue id).threads = c.threads ∧ (c.unqueue id).mem.bytes = c.mem.bytes ∧ (c.unqueue id).mem.l1 = c.mem.l1 ∧
      (c.unqueue id).dev = c.dev ∧ (c.unqueue id).tick = c.tick := by
  simp only [Chip.unqueue]
  split <;> split <;> exact ⟨rfl, rfl, rfl, rfl, rfl⟩

/-- The order of the stops of R219, where the thread may use its slices: the instruction's own checks alone are left. Its sources
are its own where it executes alone (R204). -/
theorem stop_of_usable {c : Chip} {t : Thread} {o : Op} {word : Word} (hl : o.legal [t] 0 t = true)
    (hu : t.usable (c.bars t) o.uses = true) (ho : o.source [t] 0 t = t)
    (hx : ∀ p ∈ o.cross, p ∈ o.uses.reads ++ o.uses.strict) : o.stop c [t] 0 t word = o.check c [t] 0 t := by
  have hb : o.corruptAt [t] 0 t = none := by
    unfold Op.corruptAt
    rw [ho, corruptAt_of_usable hu hx, corruptAt_of_usable hu fun _ hp => List.diff_subset _ _ hp]
  unfold Op.stop Op.first
  rw [hb, footStop_of_usable hu, poisonStop_of_usable hu]
  simp [hl]

/-- What an issue of one thread does: the chip after that thread's execution, once it has begun (R145, R209). -/
theorem issueOp_one {s : State} {i : Issue} {t : Thread} (h : s.alone i t) (o : Op) :
    s.issueOp o none = { s with chip := (s.chip.begins t.id o.uses).issueOne i.word o t.id } := by
  unfold State.issueOp
  simp [h.1, h.2.1, Chip.begins]

/-- The package with which a single thread's issue begins (R145, R209). -/
theorem begun_one {s : State} {i : Issue} {t : Thread} (h : s.alone i t) (u : Uses) :
    s.begun i u = { s with chip := s.chip.begins t.id u } := by
  unfold State.begun
  simp [h.2.1]

/-- A thread on its own that nothing stops completes (R203). -/
theorem issueOp_completes {s0 s : State} {i : Issue} {t : Thread} {o : Op} (h : s0.aloneOf i o.uses s t)
    (hn : (t.onHart && !o.native) = false) (hl : o.legal [t] 0 t = true) (hu : t.usable (s.chip.bars t) o.uses = true)
    (ho : o.source [t] 0 t = t) (hx : ∀ p ∈ o.cross, p ∈ o.uses.reads ++ o.uses.strict) (hc : o.check s.chip [t] 0 t = none) :
    s0.issueOp o none = { s with chip := ((o.run s.chip [t]).finish t.id o).unqueue t.id } := by
  obtain ⟨⟨t0, h0⟩, rfl, h⟩ := h
  have hid : t0.id = t.id := by simpa using h0.2.1.symm.trans h.2.1
  rw [begun_one h0, hid] at h hu hc ⊢
  rw [issueOp_one h0, hid, issueOne_run h.2.2.1 hn ((stop_of_usable hl hu ho hx).trans hc)]

/-- Completing an instruction of n bytes is what the statements call it (R286, R366). -/
theorem finish_goOn {c : Chip} {id : Nat} {o : Op} (ha : o.advance = true) : c.finish id o = c.goOn id o.len o.uses.writes := by
  unfold Chip.finish Chip.goOn
  rw [if_pos ha]
  rfl

end Sys2Proof.Machine
end

