-- ==== Sys2Proof/Tests/WitnessPackage.lean ====
section
/-! SUPPORT. Witnesses: for each row of the package's own steps, operands and a small state in which its condition holds, so that
no statement of these families is empty. -/

set_option Elab.async false
namespace Sys2Proof.Machine

/-- Every row of a family meets its condition for some operands and state of a list. -/
def Tests.covered (l : List (List EventRow × State)) : Bool :=
  !l.isEmpty && (List.range (l.headD ([], {})).1.length).all fun k => l.any fun p => match p.1[k]? with | some r => r.ok p.2 | none => false

/-- The same of the rows with a wide effect. -/
def Tests.coveredFact (l : List (List FactRow × State)) : Bool :=
  !l.isEmpty && (List.range (l.headD ([], {})).1.length).all fun k => l.any fun p => match p.1[k]? with | some r => r.ok p.2 | none => false

/-- Every choice of operands with every state. -/
def Tests.pairs {α : Type} (ps : List (List α)) (ss : List State) : List (List α × State) := ps.flatMap fun p => ss.map fun s => (p, s)

/-- Reset with a changed firmware. -/
def Tests.trust (f : Trust → Trust) : State := State.onTrust {} f

theorem Tests.witness_bringUp : Tests.covered (Tests.pairs
    [bootRows true true 0xFFFF#16 0xFFFF_FFFF#32 0#8, bootRows false false 0#16 0#32 0#8]
    ({} :: (List.range 8).flatMap fun n => [false, true].map fun b =>
      Tests.trust fun t => { t with stage := n, stageDone := true, mirrorLost := b })) = true := by decide +kernel

/-- A certified firmware with a request whose addresses are in HBM. -/
def Tests.asked : State := Tests.trust fun t => { t with attreq := some 0x10000, attdst := 0x20000, certified := true, stage := 7, stageDone := true }

theorem Tests.witness_trustAndHarts : Tests.covered (Tests.pairs [trustRows 0x1000 ++ sbiRows 1024 true, trustRows (2 ^ 55) ++ sbiRows 1024 true]
    [{ subject := 1279 }, Tests.asked, Tests.trust fun t => { t with mirrorLost := true }, Tests.asked.onTrust fun t => { t with certified := false },
     Tests.asked.onTrust fun t => { t with attdst := 0xFFFF_FFFF_FFFF_0000 },
     Tests.asked.onTrust fun t => { t with sessionIndex := 65535 }, Tests.asked.onTrust fun t => { t with sessionIndex := 65536 }]) =
    true := by decide +kernel

theorem Tests.witness_errorsAndTemperature : Tests.covered (Tests.pairs
    [rasRows 0 9 15 92 1 15 0x40 .clean, rasRows 0 1 0 93 0 0 0 .clean, rasRows 0 1 0 96 0 0 0 .clean, rasRows 0 1 0 106 0 0 (2 ^ 55) .clean]
    [{ subject := 15 }]) = true := by decide +kernel

theorem Tests.witness_fencedDies : Tests.coveredFact (Tests.pairs [fenceDieRows 0 1, fenceDieRows 0 7]
    [{ subject := 7 }, ({ subject := 3 } : State).onRas fun r => { r with dies := 8, ldie1 := true }]) = true := by decide +kernel

/-- Reset with a changed memory system. -/
def Tests.mem (f : MemSys → MemSys) : State := State.refit {} f id

theorem Tests.witness_cachesAndDirectory : Tests.covered (Tests.pairs [cacheRows 79 0x40 (.ldie 0), cacheRows 79 0x40 (.cdie 0)]
    [Tests.mem fun m => { m with notices := [(79, 0x40)], dir := [⟨0x40, .o, some (.ldie 0), [.cdie 1]⟩, ⟨0, .e, some (.cdie 0), []⟩] },
     Tests.mem fun m => { m with dir := [⟨0x40, .s, none, [.cdie 1, .ldie 0]⟩] },
     Tests.mem fun m => { m with
       l1 := [{ core := 79, line := 0x40, dirty := 1 }], dir := [⟨0x40, .s, none, [.cdie 0]⟩], dirBad := [0x40] }]) = true ∧
    Tests.coveredFact (Tests.pairs [cacheFacts 79 0x40]
      [Tests.mem fun m => { m with notices := [(79, 0x40)] },
       (Tests.mem fun m => { m with l1 := [{ core := 79, line := 0x40, dirty := 1 }] }).onChip fun c => { c with tick := 256 }]) = true := by
  decide +kernel

/-- Requests of another agent. -/
def Tests.read (addr : Word) : Request := ⟨.cdie 1, 7, addr, .read⟩
def Tests.write (addr : Word) : Request := ⟨.cdie 1, 7, addr, .write [1, 2]⟩
def Tests.host (op : ReqOp) : Request := ⟨.cxl 0, 7, 8, op⟩
def Tests.atomic (w : Nat) (addr : Word) : Request := ⟨.cdie 1, 7, addr, .atomic .add w 5 0⟩

theorem Tests.witness_homeRequests : Tests.covered (Tests.pairs
    ([0x1000, 0x0080_0000_0000_0000].flatMap fun a => [requestRows (Tests.read a) true 0, requestRows (Tests.write a) true 0,
      requestRows (Tests.atomic 32 a) false 0, requestRows (Tests.atomic 16 a) false 0, requestRows (Tests.host .read) false 0,
      requestRows (Tests.host (.write [1, 2, 3, 4, 5, 6, 7, 8])) false 0])
    [{}, ({} : State).onChip fun c => { c with pcie := [{ up := true, endpoint := true }] },
     Tests.mem fun m => { m with parked := [{ req := Tests.read 0x1000, line := 0x40, unit_ := true }] }, Tests.mem fun m => { m with applied := [{ agent := .cdie 1, seq := 7, home := .cdie 0, value := 3, poison := false }] },
     Tests.mem fun m => { m with parked := [{ req := Tests.read 0x1000, line := 0x40 }], retries := [(Tests.read 0x1000, 0)] },
     (Tests.mem fun m => { m with parked := [{ req := Tests.read 0x1000, line := 0x40, thread := some 5 }], retries := [(Tests.read 0x1000, 0)] }).onChip fun c =>
       { c with tick := 1000 },
     Tests.mem fun m => { m with parked := List.replicate 2048 { req := Tests.read 0x1000, line := 0x40 } }]) = true := by decide +kernel

/-- Bring-up at stage 6, with a state of formation in package 2. -/
def Tests.pod (f : Pod → Pod) : State :=
  ((Tests.trust fun t => { t with stage := 6 }).onPod fun p => f { p with self := 2, round := 3, leader := 1, reachable := 0x12 }).onChip
    fun c => { c with tick := 2000000000 }

/-- The package with a route to package 0 through port 1. -/
def Tests.linked (s : State) : State :=
  { s with plat := { s.plat with link := { s.plat.link with primary := [(0, [1])], ports := List.replicate 8 { state := .up } } } }

theorem Tests.witness_podFormation : Tests.covered (Tests.pairs
    [podRows 1 3 0 [] true, podRows 0 3 0 [] false, podRows 1 2 0 [] true, podRows 4 3 0 [] true, podRows 4 4 0 [] true]
    [Tests.pod id, Tests.pod fun p => { p with state := .claiming }, Tests.pod fun p => { p with state := .claiming, acked := 0x10 },
     Tests.pod fun p => { p with state := .leading }, Tests.pod fun p => { p with state := .leading, dones := 0x10 },
     Tests.pod fun p => { p with state := .following }, Tests.pod fun p => { p with state := .loading },
     Tests.pod fun p => { p with state := .member }, Tests.pod fun p => { p with state := .member, leader := 2 },
     Tests.pod fun p => { p with state := .leading, dones := 0x12 },
     Tests.pod fun p => { p with state := .following, reachable := 2 },
     Tests.linked (Tests.pod fun p => { p with state := .solo })]) = true := by decide +kernel

/-- A flit that no port accepts: its payload is missing. -/
def Tests.flit (k : BitVec 4) : Flit := ⟨flitHeader 0 0 k false, [], 0, []⟩

/-- A state with port 7 changed. -/
def Tests.port (f : Port → Port) : State := ({ subject := 7 } : State).onPort 7 f

/-- The rows of the flits that a port does not accept, and of the ports. -/
theorem Tests.witness_linkFlits :
    Tests.covered (Tests.pairs ([0, 1, 2, 3, 4, 15].map fun k => ((flitRows 7 (Tests.flit k) 0 5).take 6))
      [Tests.port fun p => { p with state := .up }]) = true ∧
    Tests.covered (Tests.pairs [portRows 7 .sixteenRetries, portRows 7 .firmware]
      [Tests.port fun p => { p with state := .up }, Tests.port fun p => { p with state := .training },
       (Tests.port fun p => { p with state := .training }).onChip fun c => { c with tick := 5000001 },
       (Tests.port fun p => { p with state := .up, pausedTo := 1 }).onChip fun c => { c with tick := 1 }]) = true := by
  decide +kernel

/-- A flit of a type, in sequence at a port of reset, with the CRC of its header and payload. -/
def Tests.soundFlit (k : BitVec 4) : Flit :=
  let header := flitHeader 0 0 k false
  ⟨header, List.replicate 240 0, Config.crc 0 (bytesOf header.toNat 8 ++ List.replicate 240 0), []⟩

/-- A member of some pod with port 7 up. -/
def Tests.follower (members : BitVec 32) (slewing : Bool) : State :=
  let s := (Tests.port fun p => { p with state := .up }).onChip fun c => { c with members := members }
  { s with plat := { s.plat with link := { s.plat.link with slewing := slewing }, pod := { s.plat.pod with leader := 1 } } }

theorem Tests.crcOk_soundFlit (k : BitVec 4) (m : BitVec 32) (b : Bool) :
    (Tests.follower m b).plat.link.crcOk (Tests.soundFlit k) = true := by
  simp only [Link.crcOk, Link.crcOf, Tests.soundFlit, List.length_replicate, decide_true, Bool.true_and]
  exact decide_eq_true rfl

/-- Whether a row of the flits meets its condition. -/
def Tests.flitOk (k : BitVec 4) (row : Nat) (s : State) : Bool :=
  match (flitRows 7 (Tests.soundFlit k) 0 5)[row]? with
  | some r => r.ok s
  | none => false

/-- The rows of the flits that a port accepts. -/
theorem Tests.witness_soundFlits :
    Tests.flitOk 0 6 (Tests.follower 0 false) = true ∧ Tests.flitOk 1 7 (Tests.follower 0 false) = true ∧
    Tests.flitOk 2 8 (Tests.follower 0 false) = true ∧ Tests.flitOk 3 9 (Tests.follower 0 false) = true ∧
    Tests.flitOk 4 10 (Tests.follower 0 false) = true ∧ Tests.flitOk 4 11 (Tests.follower 3 false) = true ∧
    Tests.flitOk 4 12 (Tests.follower 3 true) = true := by
  simp only [Tests.flitOk, flitRows, List.getElem?_cons_succ, List.getElem?_cons_zero, Tests.crcOk_soundFlit]
  refine ⟨by decide +kernel, by decide +kernel, by decide +kernel, by decide +kernel, by decide +kernel, by decide +kernel, by decide +kernel⟩

/-- A message to a package after some hops. -/
def Tests.msg (dest hop : Nat) : LinkMsg := ⟨3, dest, hop, 9, 0, 0, [], .none⟩

/-- The cases of a received message: for this package, new or not; too many hops; another package that has a route. -/
theorem Tests.witness_forwards :
    let s := Tests.linked {}
    s.chip.pkg = (Tests.msg 0 1).dest ∧ (3, 9) ∉ s.plat.link.taken ∧
    (3, 9) ∈ ({ s with plat := { s.plat with link := { s.plat.link with taken := [(3, 9)] } } } : State).plat.link.taken ∧
    (Tests.msg 1 2).dest ≠ s.chip.pkg ∧ 2 ≤ (Tests.msg 1 2).hop ∧ (Tests.msg 1 1).hop < 2 ∧
    (({ s.plat.link with primary := [(1, [1])] } : Link).routed { Tests.msg 1 1 with hop := 2 }).isSome = true := by decide +kernel

theorem Tests.witness_losses : Tests.coveredFact (Tests.pairs [lossRows 7]
    [({ subject := 7 } : State).onPort 7 fun p => { p with state := .training },
     (({ subject := 7 } : State).onPort 7 fun p => { p with state := .training }).onChip fun c => { c with tick := 5000001 },
     (({ subject := 31 } : State).onChip fun c => { c with tick := 100000000 }).onRas fun r => { r with cut := [(31, 0)] },
     ({ subject := 31 } : State).onRas fun r => { r with cut := [(31, 0)] }]) = true := by
  decide +kernel

end Sys2Proof.Machine
end

