-- ==== Sys2Proof/Tests/WitnessActs.lean ====
section
/-! SUPPORT. Witnesses for the rows of control, waits and requests of a thread: for each row operands and a small state in which the
thread executes alone, may use its slices, and meets the row's condition. -/

set_option Elab.async false
namespace Sys2Proof.Machine

/-- A thread placed on core 0 with the first 8 MiB of HBM mapped, about to issue alone; it and the package changed. -/
def Tests.one (f : Thread → Thread) (g : Chip → Chip) : State :=
  let s := ({} : State).withFetchWord 64 0
  let c := g { s.chip with threads := s.chip.threads.map f }
  { s with chip := c, issue := some { parts := c.threads.map (·.id), pc := 0x4000 } }

/-- A block of a grid with barriers, a tile, and scratchpad and lane store. -/
def Tests.inBlock (f : Block → Block) (c : Chip) : Chip := { c with
  threads := c.threads.map fun t => { t with block := some 3, lsbytes := 64 }
  disp := { c.disp with blocks := f { id := 3, owner := 1, core := 0, igs := [(0, 0, 0)], nthr := 1, nbar := 2, spbytes := 4096, tiles := [{ state := .ready, rows := 8, rowBytes := 64 }] } :: c.disp.blocks } }

/-- The issue of one thread, and the thread. -/
def State.sole (s : State) : Option (Issue × Thread) :=
  match s.issue with
  | some i => match i.parts with
    | [id] => (s.chip.thread? id).bind fun t => if t.id = id && (t.onCompute || t.onHart) then some (i, t) else none
    | _ => none
  | none => none

/-- A state in which someone executes alone, as the statements say it. -/
theorem State.sole_alone (s : State) (i : Issue) (t : Thread) (h : s.sole = some (i, t)) : s.alone i t := by
  unfold State.sole at h
  cases hj : s.issue with
  | none => simp [hj] at h
  | some j =>
    simp only [hj] at h
    split at h
    · rename_i id hp
      cases ht : s.chip.thread? id with
      | none => simp [ht] at h
      | some u =>
        simp only [ht, Option.bind_some] at h
        split at h
        · rename_i hu
          simp only [Bool.and_eq_true, decide_eq_true_eq] at hu
          cases h
          exact ⟨hj, by rw [hp, hu.1], by rw [hu.1, ht], hu.2⟩
        · simp at h
    · simp at h

/-- The issue of one thread of an instruction that uses some slices, with the state and the thread as it begins. -/
def State.soleOf (s0 : State) (u : Uses) : Option (Issue × State × Thread) :=
  match s0.sole with
  | some (i, _) => match (s0.begun i u).sole with
    | some (j, t) => if decide (j = i) then some (i, s0.begun i u, t) else none
    | none => none
  | none => none

/-- A state in which someone executes alone an instruction that uses some slices, as the statements say it. -/
theorem State.soleOf_aloneOf (s0 : State) (u : Uses) (i : Issue) (s : State) (t : Thread) (h : s0.soleOf u = some (i, s, t)) :
    s0.aloneOf i u s t := by
  unfold State.soleOf at h
  split at h
  · rename_i k t0 h0
    split at h
    · rename_i j v hv
      split at h
      · rename_i hj
        cases h
        obtain rfl := of_decide_eq_true hj
        exact ⟨⟨t0, s0.sole_alone j t0 h0⟩, rfl, State.sole_alone _ j t hv⟩
      · simp at h
    · simp at h
  · simp at h

/-- Every row meets its condition for some operands and state of a list. -/
def Tests.coveredAct (l : List (List ActRow × State)) : Bool :=
  !l.isEmpty && (List.range (l.headD ([], {})).1.length).all fun k => l.any fun p => match p.1[k]? with
    | some r => (match p.2.soleOf r.uses with
      | some (i, s, t) => r.instr.wellFormed && (r.hart || t.onCompute) && t.usable (s.chip.bars t) r.uses && r.ok s i t
      | none => false)
    | none => false

/-- The masks of issue group 0 with some bits in GM11. -/
def Tests.masks (m : BitVec 32) (c : Chip) : Chip := c.onIg 0 0 0 fun g => { g with gm := List.replicate 11 0 ++ [m] }

/-- A second thread beside the first. -/
def Tests.beside (c : Chip) : Chip := { c with threads := c.threads ++ [{ id := 77, place := .slot 0 0 0 1 }] }

theorem Tests.witness_groupMasks : Tests.coveredAct (Tests.pairs [maskRows 11]
    [Tests.one id id, Tests.one id (Tests.masks 1), Tests.one (fun t => { t with handler := true }) id,
     { Tests.one id (fun c => Tests.masks 3 { c with threads := c.threads ++ [{ id := 77, place := .slot 0 0 0 1, wait := .group 11 true }] })
       with issue := (Tests.one id id).issue },
     { Tests.one id (Tests.beside ∘ Tests.masks 3) with issue := (Tests.one id id).issue }]) = true := by decide +kernel

/-- x5 of the thread. -/
def Tests.x5 (v : Nat) (t : Thread) : Thread := { t with regs := writeX t.regs 5 (BitVec.ofNat 64 v) }

theorem Tests.witness_phaseBarriers : Tests.coveredAct (Tests.pairs [barrierRows 1 5]
    [Tests.one id (Tests.inBlock id), Tests.one (Tests.x5 1) (Tests.inBlock id),
     Tests.one id (fun c => let d := Tests.inBlock id c; d.setPoison (d.pbLoc (d.disp.blocks.headD {}) 1)),
     Tests.one (fun t => { t with arrived := some false }) (Tests.inBlock id)]) = true := by decide +kernel

theorem Tests.witness_tilesFootprintSysinfo : Tests.coveredAct (Tests.pairs
    [twaitRow 0 :: sysinfoRow 31 5 :: footRows 512, twaitRow 0 :: sysinfoRow 31 5 :: footRows 256]
    [Tests.one id (Tests.inBlock id), Tests.one (fun t => { t with tfoot := 496 }) (Tests.inBlock id)]) = true := by decide +kernel

theorem Tests.witness_splitPhaseFences : Tests.coveredAct (Tests.pairs
    [fenceRows ⟨480#12, 0#12, 0x004#12, 0x11#8, 12#4, false⟩ 480]
    [Tests.one id id,
     Tests.one (fun t => { t with place := .hart 0 0, mode := .m }) fun c => { c with harts := [{ started := true }] }]) = true := by
  decide +kernel

theorem Tests.witness_leavingACore : Tests.coveredAct (Tests.pairs
    [leaveRows ⟨0#12, 0x220#12, 0x080#12, 0x00#8, 12#4, false⟩ 31 5]
    [Tests.one (fun t => { t with tcause := 1#64 <<< 63 }) id, Tests.one (fun t => { t with reqPending := true }) id,
     Tests.one id (Tests.inBlock id), Tests.one id fun c => Tests.inBlock id { c with threads := c.threads.map fun t => { t with handler := true } },
     Tests.one (Tests.x5 (2 ^ 62 + 8)) id, Tests.one (Tests.x5 (3 * 2 ^ 62)) id]) = true := by decide +kernel


/-- Bytes of memory. -/
def Tests.bytes (l : List (Nat × Byte)) (c : Chip) : Chip := { c with mem := { c.mem with bytes := l } }

/-- Job 0's record is valid, and at 0x1000 stands a descriptor of one block of one thread (R151). -/
def Tests.descriptor : List Host.Cell :=
  [(10, 1), (0x1010, 0x40), (0x103C, 1), (0x1048, 1), (0x104A, 16), (0x1063, 4)]

/-- A live grid of the thread's root in slot 1. -/
def Tests.ownGrid (c : Chip) : Chip := { c with disp := { c.disp with
  grids := [{ slot := 1, gen := 1, ctx := c.ctxOf (c.threads.headD {}) }] } }

/-- x5 and x6 of the thread. -/
def Tests.x56 (v w : Nat) (t : Thread) : Thread := Tests.x5 v { t with regs := writeX t.regs 6 (BitVec.ofNat 64 w) }

/-- The package in a pod of packages 0 and 1. -/
def Tests.podOfTwo (c : Chip) : Chip := { c with members := 3 }

theorem Tests.witness_gridRequests : Tests.coveredAct (Tests.pairs [gridRows 31 5 6]
    [Tests.one id id, Tests.one (Tests.x5 63) id, Tests.one (Tests.x5 0x1000) id, Tests.one (Tests.x5 0x1000) (Tests.bytes Tests.descriptor),
     Tests.one (Tests.x56 0x1_0001 2) Tests.ownGrid, Tests.one (Tests.x56 0x1_0001 1) Tests.ownGrid,
     Tests.one (Tests.x56 0x1_0001_0001 0) Tests.podOfTwo]) = true := by decide +kernel

/-- Job 0's record is valid, and at 0x1000 stands a task record (R175). -/
def Tests.taskRecord : List Host.Cell := [(10, 1), (0x1028, 8), (0x102A, 16), (0x102E, 1), (0x1030, 1)]

/-- A task of the thread's root in flight in entry 1. -/
def Tests.ownTask (spec : Bool) (c : Chip) : Chip := { c with disp := { c.disp with
  tasks := [{ entry := 1, gen := 1, spec := spec, ctx := c.ctxOf (c.threads.headD {}) }] } }

theorem Tests.witness_taskRequests : Tests.coveredAct (Tests.pairs [taskRows 31 5]
    [Tests.one (Tests.x5 63) id, Tests.one (Tests.x5 0x1000) id, Tests.one (Tests.x5 0x1000) (Tests.bytes Tests.taskRecord),
     Tests.one (Tests.x5 (2 ^ 37 + 0x1_0001)) (Tests.ownTask false), Tests.one (Tests.x5 (2 ^ 37 + 0x1_0001)) (Tests.ownTask true),
     Tests.one (Tests.x5 (2 ^ 37 + 0x1_0001_0001)) Tests.podOfTwo]) =
    true := by decide +kernel

/-- Fields of a ring instruction: the header in x5, d of a width. -/
def Tests.ringWord (d b : BitVec 12) : Long := ⟨d, 0xE50#12, b, 0#8, 12#4, false⟩

theorem Tests.witness_ringRequests : Tests.coveredAct (Tests.pairs
    ([0#12, 0xEC0#12].map fun b => ringRows (Tests.ringWord 0xE80#12 b) 31 5 6 false)
    [Tests.one (Tests.x56 0x1000 0x2000) id, Tests.one (Tests.x56 0x1000 63) id, Tests.one (Tests.x56 0x1001 0x2000) id]) = true := by
  decide +kernel

theorem Tests.witness_environmentCall : Tests.coveredAct (Tests.pairs [ecallRows]
    [Tests.one id id, Tests.one id fun c => { c with eng := { c.eng with
      batches := [{ id := 9, core := 0, qtr := 0, ig := 0, key := 0, members := [1], since := 0, closed := false }], next := 10 } },
     Tests.one id fun c => { c with eng := { c.eng with
      batches := [{ id := 9, core := 0, qtr := 0, ig := 0, key := 0, members := List.replicate 31 1, since := 0, closed := false }], next := 10 } }]) =
    true := by decide +kernel

end Sys2Proof.Machine
end

