-- ==== Sys2Proof/Tests/Slice0.lean ====
section
/-! SUPPORT. Tests: words built bit by bit from the manual's encoding tables, the limits of well-formed instructions, reset, and
single steps whose results the manual's examples state. -/

set_option Elab.async false
namespace Sys2Proof.Machine

/-! ## Decoding: each word is (X, B, A, D, G, OP, U, length) as R275 places them, with OP from R283; the short words follow R281 and
R282 -/

/-- Each word decodes to its long instruction. -/
def Tests.decodes (l : List (BitVec 64 × Instr)) : Bool := l.all fun p => decide (decodeWord p.1 = (8, .op p.2))
/-- Each word decodes to its short instruction. -/
def Tests.decodesShort (l : List (BitVec 32 × Instr)) : Bool := l.all fun p => decide (decodeWord (p.1.setWidth 64) = (4, .op p.2))

theorem Tests.test_decode_bits : Tests.decodes [
    (0x6B4F_3000_A9C5_00BF, .movS ⟨0xA9C, 0x000, 0x4F3, 0x6B, 5, true⟩),
    (0x6B4F_3000_A9C5_01BF, .movZ ⟨0xA9C, 0x000, 0x4F3, 0x6B, 5, true⟩),
    (0xFFFF_D000_A9C5_02BF, .movi ⟨0xA9C, 0x000, 0xFFD, 0xFF, 5, true⟩),
    (0x6B4F_37A1_A9C5_03BF, .and ⟨0xA9C, 0x7A1, 0x4F3, 0x6B, 5, true⟩),
    (0x6B4F_37A1_A9C5_04BF, .or ⟨0xA9C, 0x7A1, 0x4F3, 0x6B, 5, true⟩),
    (0x6B4F_37A1_A9C5_05BF, .xor ⟨0xA9C, 0x7A1, 0x4F3, 0x6B, 5, true⟩),
    (0x6B4F_37A1_A9C5_06BF, .andn ⟨0xA9C, 0x7A1, 0x4F3, 0x6B, 5, true⟩),
    (0x6B4F_37A1_A9C5_07BF, .bfi ⟨0xA9C, 0x7A1, 0x4F3, 0x6B, 5, true⟩),
    (0x6B4F_3000_A9C5_08BF, .clz ⟨0xA9C, 0x000, 0x4F3, 0x6B, 5, true⟩),
    (0x6B4F_3000_A9C5_09BF, .ctz ⟨0xA9C, 0x000, 0x4F3, 0x6B, 5, true⟩),
    (0x6B4F_3000_A9C5_0ABF, .popc ⟨0xA9C, 0x000, 0x4F3, 0x6B, 5, true⟩),
    (0x6B4F_3000_A9C5_0BBF, .brev ⟨0xA9C, 0x000, 0x4F3, 0x6B, 5, true⟩),
    (0x6B4F_37A1_A9C5_0CBF, .bfxS ⟨0xA9C, 0x7A1, 0x4F3, 0x6B, 5, true⟩),
    (0x6B4F_37A1_A9C5_0DBF, .bfxZ ⟨0xA9C, 0x7A1, 0x4F3, 0x6B, 5, true⟩),
    (0x6B4F_37A1_A9C5_0EBF, .sel ⟨0xA9C, 0x7A1, 0x4F3, 0x6B, 5, true⟩),
    (0x000C_57A1_A9C5_0FBF, .shi ⟨0xA9C, 0x7A1, 0x0C5, 0x00, 5, true⟩)] = true := by decide +kernel

theorem Tests.test_decode_sums : Tests.decodes [
    (0x6B4F_37A1_A9C5_10BF, .addS ⟨0xA9C, 0x7A1, 0x4F3, 0x6B, 5, true⟩),
    (0x6B4F_37A1_A9C5_11BF, .addZ ⟨0xA9C, 0x7A1, 0x4F3, 0x6B, 5, true⟩),
    (0x6B4F_37A1_A9C5_12BF, .addsS ⟨0xA9C, 0x7A1, 0x4F3, 0x6B, 5, true⟩),
    (0x6B4F_37A1_A9C5_13BF, .addsZ ⟨0xA9C, 0x7A1, 0x4F3, 0x6B, 5, true⟩),
    (0x6B4F_37A1_A9C5_14BF, .subS ⟨0xA9C, 0x7A1, 0x4F3, 0x6B, 5, true⟩),
    (0x6B4F_37A1_A9C5_15BF, .subZ ⟨0xA9C, 0x7A1, 0x4F3, 0x6B, 5, true⟩),
    (0x6B4F_37A1_A9C5_16BF, .subsS ⟨0xA9C, 0x7A1, 0x4F3, 0x6B, 5, true⟩),
    (0x6B4F_37A1_A9C5_17BF, .subsZ ⟨0xA9C, 0x7A1, 0x4F3, 0x6B, 5, true⟩),
    (0x6B4F_37A1_A9C5_18BF, .minS ⟨0xA9C, 0x7A1, 0x4F3, 0x6B, 5, true⟩),
    (0x6B4F_37A1_A9C5_19BF, .minZ ⟨0xA9C, 0x7A1, 0x4F3, 0x6B, 5, true⟩),
    (0x6B4F_37A1_A9C5_1ABF, .maxS ⟨0xA9C, 0x7A1, 0x4F3, 0x6B, 5, true⟩),
    (0x6B4F_37A1_A9C5_1BBF, .maxZ ⟨0xA9C, 0x7A1, 0x4F3, 0x6B, 5, true⟩),
    (0x6B4F_37A1_A9C5_1CBF, .addminS ⟨0xA9C, 0x7A1, 0x4F3, 0x6B, 5, true⟩),
    (0x6B4F_37A1_A9C5_1DBF, .addminZ ⟨0xA9C, 0x7A1, 0x4F3, 0x6B, 5, true⟩),
    (0x6B4F_37A1_A9C5_1EBF, .addmaxS ⟨0xA9C, 0x7A1, 0x4F3, 0x6B, 5, true⟩),
    (0x6B4F_37A1_A9C5_1FBF, .addmaxZ ⟨0xA9C, 0x7A1, 0x4F3, 0x6B, 5, true⟩)] = true := by decide +kernel

theorem Tests.test_decode_products : Tests.decodes [
    (0x6B4F_37A1_A9C5_20BF, .mulS ⟨0xA9C, 0x7A1, 0x4F3, 0x6B, 5, true⟩),
    (0x6B4F_37A1_A9C5_21BF, .mulZ ⟨0xA9C, 0x7A1, 0x4F3, 0x6B, 5, true⟩),
    (0x6B4F_37A1_A9C5_22BF, .mulhS ⟨0xA9C, 0x7A1, 0x4F3, 0x6B, 5, true⟩),
    (0x6B4F_37A1_A9C5_23BF, .mulhZ ⟨0xA9C, 0x7A1, 0x4F3, 0x6B, 5, true⟩),
    (0x6B4F_37A1_A9C5_24BF, .madS ⟨0xA9C, 0x7A1, 0x4F3, 0x6B, 5, true⟩),
    (0x6B4F_37A1_A9C5_25BF, .madZ ⟨0xA9C, 0x7A1, 0x4F3, 0x6B, 5, true⟩),
    (0x6B4F_37A1_A9C5_26BF, .absdS ⟨0xA9C, 0x7A1, 0x4F3, 0x6B, 5, true⟩),
    (0x6B4F_37A1_A9C5_27BF, .absdZ ⟨0xA9C, 0x7A1, 0x4F3, 0x6B, 5, true⟩),
    (0x6B4F_37A1_A9C5_28BF, .cltS ⟨0xA9C, 0x7A1, 0x4F3, 0x6B, 5, true⟩),
    (0x6B4F_37A1_A9C5_29BF, .cltZ ⟨0xA9C, 0x7A1, 0x4F3, 0x6B, 5, true⟩),
    (0x6B4F_37A1_A9C5_2ABF, .cleS ⟨0xA9C, 0x7A1, 0x4F3, 0x6B, 5, true⟩),
    (0x6B4F_37A1_A9C5_2BBF, .cleZ ⟨0xA9C, 0x7A1, 0x4F3, 0x6B, 5, true⟩),
    (0x6B4F_37A1_A9C5_2CBF, .ceq ⟨0xA9C, 0x7A1, 0x4F3, 0x6B, 5, true⟩),
    (0x6B4F_37A1_A9C5_2DBF, .sll ⟨0xA9C, 0x7A1, 0x4F3, 0x6B, 5, true⟩),
    (0x6B4F_37A1_A9C5_2EBF, .srl ⟨0xA9C, 0x7A1, 0x4F3, 0x6B, 5, true⟩),
    (0x6B4F_37A1_A9C5_2FBF, .sra ⟨0xA9C, 0x7A1, 0x4F3, 0x6B, 5, true⟩)] = true := by decide +kernel

theorem Tests.test_decode_packed : Tests.decodes [
    (0x052F_3FA1_E9C5_30BF, .padd ⟨0xE9C, 0xFA1, 0x2F3, 0x05, 5, true⟩),
    (0x052F_3FA1_E9C5_31BF, .psub ⟨0xE9C, 0xFA1, 0x2F3, 0x05, 5, true⟩),
    (0x052F_3FA1_E9C5_32BF, .padds ⟨0xE9C, 0xFA1, 0x2F3, 0x05, 5, true⟩),
    (0x052F_3FA1_E9C5_33BF, .psubs ⟨0xE9C, 0xFA1, 0x2F3, 0x05, 5, true⟩),
    (0x052F_3FA1_E9C5_34BF, .pmin ⟨0xE9C, 0xFA1, 0x2F3, 0x05, 5, true⟩),
    (0x052F_3FA1_E9C5_35BF, .pmax ⟨0xE9C, 0xFA1, 0x2F3, 0x05, 5, true⟩),
    (0x052F_3FA1_E9C5_36BF, .paddmin ⟨0xE9C, 0xFA1, 0x2F3, 0x05, 5, true⟩),
    (0x052F_3FA1_E9C5_37BF, .paddmax ⟨0xE9C, 0xFA1, 0x2F3, 0x05, 5, true⟩),
    (0x052F_3FA1_E9C5_38BF, .pabsd ⟨0xE9C, 0xFA1, 0x2F3, 0x05, 5, true⟩),
    (0x052F_3FA1_E9C5_39BF, .pmul ⟨0xE9C, 0xFA1, 0x2F3, 0x05, 5, true⟩),
    (0x052F_3FA1_E9C5_3ABF, .pmad ⟨0xE9C, 0xFA1, 0x2F3, 0x05, 5, true⟩),
    (0x052F_3FA1_E9C5_3BBF, .pceq ⟨0xE9C, 0xFA1, 0x2F3, 0x05, 5, true⟩),
    (0x052F_3FA1_E9C5_3CBF, .pclt ⟨0xE9C, 0xFA1, 0x2F3, 0x05, 5, true⟩),
    (0x052F_3FA1_E9C5_3DBF, .psll ⟨0xE9C, 0xFA1, 0x2F3, 0x05, 5, true⟩),
    (0x052F_3FA1_E9C5_3EBF, .psrl ⟨0xE9C, 0xFA1, 0x2F3, 0x05, 5, true⟩),
    (0x052F_3FA1_E9C5_3FBF, .psra ⟨0xE9C, 0xFA1, 0x2F3, 0x05, 5, true⟩)] = true := by decide +kernel

theorem Tests.test_decode_float : Tests.decodes [
    (0x6BEF_35A1_A9C5_40BF, .fadd ⟨0xA9C, 0x5A1, 0xEF3, 0x6B, 5, true⟩),
    (0x6BEF_35A1_A9C5_41BF, .fsub ⟨0xA9C, 0x5A1, 0xEF3, 0x6B, 5, true⟩),
    (0x6BEF_35A1_A9C5_42BF, .fmul ⟨0xA9C, 0x5A1, 0xEF3, 0x6B, 5, true⟩),
    (0x6BEF_35A1_A9C5_43BF, .fmad ⟨0xA9C, 0x5A1, 0xEF3, 0x6B, 5, true⟩),
    (0x6BEF_35A1_A9C5_44BF, .fmsb ⟨0xA9C, 0x5A1, 0xEF3, 0x6B, 5, true⟩),
    (0x6BEF_35A1_A9C5_45BF, .fmin ⟨0xA9C, 0x5A1, 0xEF3, 0x6B, 5, true⟩),
    (0x6BEF_35A1_A9C5_46BF, .fmax ⟨0xA9C, 0x5A1, 0xEF3, 0x6B, 5, true⟩),
    (0x6BEF_3000_A9C5_47BF, .fabs ⟨0xA9C, 0x000, 0xEF3, 0x6B, 5, true⟩),
    (0x6BEF_35A1_29C5_48BF, .fceq ⟨0x29C, 0x5A1, 0xEF3, 0x6B, 5, true⟩),
    (0x6BEF_35A1_29C5_49BF, .fclt ⟨0x29C, 0x5A1, 0xEF3, 0x6B, 5, true⟩),
    (0x6BEF_35A1_29C5_4ABF, .fcle ⟨0x29C, 0x5A1, 0xEF3, 0x6B, 5, true⟩),
    (0x6BEF_3000_89C5_4BBF, .fclass ⟨0x89C, 0x000, 0xEF3, 0x6B, 5, true⟩),
    (0x6BEF_3000_A9C5_4CBF, .frcp ⟨0xA9C, 0x000, 0xEF3, 0x6B, 5, true⟩),
    (0x6BEF_3000_A9C5_4DBF, .frsq ⟨0xA9C, 0x000, 0xEF3, 0x6B, 5, true⟩),
    (0x6BEF_3000_A9C5_4EBF, .fexp2 ⟨0xA9C, 0x000, 0xEF3, 0x6B, 5, true⟩),
    (0x6BEF_3000_A9C5_4FBF, .flog2 ⟨0xA9C, 0x000, 0xEF3, 0x6B, 5, true⟩)] = true := by decide +kernel

theorem Tests.test_decode_convert : Tests.decodes [
    (0x04EF_3000_A9C5_50BF, .cvt ⟨0xA9C, 0x000, 0xEF3, 0x04, 5, true⟩),
    (0x04EF_3000_49C5_51BF, .cvtfs ⟨0x49C, 0x000, 0xEF3, 0x04, 5, true⟩),
    (0x04EF_3000_49C5_52BF, .cvtfz ⟨0x49C, 0x000, 0xEF3, 0x04, 5, true⟩),
    (0x04CF_3000_49C5_53BF, .cvtsf ⟨0x49C, 0x000, 0xCF3, 0x04, 5, true⟩),
    (0x04CF_3000_49C5_54BF, .cvtzf ⟨0x49C, 0x000, 0xCF3, 0x04, 5, true⟩),
    (0x64AF_3000_69C5_553F, .bxpk ⟨0x69C, 0x000, 0xAF3, 0x64, 5, false⟩),
    (0x646F_3000_A9C5_563F, .bxunp ⟨0xA9C, 0x000, 0x6F3, 0x64, 5, false⟩),
    (0x04AF_3000_69C5_573F, .trpk ⟨0x69C, 0x000, 0xAF3, 0x04, 5, false⟩),
    (0x046F_3000_A9C5_583F, .trunp ⟨0xA9C, 0x000, 0x6F3, 0x04, 5, false⟩),
    (0x64AF_3000_69C5_593F, .bxcmp ⟨0x69C, 0x000, 0xAF3, 0x64, 5, false⟩),
    (0x04EF_33A1_29C5_5ABF, .f8pk ⟨0x29C, 0x3A1, 0xEF3, 0x04, 5, true⟩),
    (0x040F_33A1_E9C5_5BBF, .f8unp ⟨0xE9C, 0x3A1, 0x0F3, 0x04, 5, true⟩)] = true := by decide +kernel

theorem Tests.test_decode_loads : Tests.decodes [
    (0x6883_FFA1_A9C5_60BF, .ld ⟨0xA9C, 0xFA1, 0x83F, 0x68, 5, true⟩),
    (0x5983_FFA1_A9C5_61BF, .st ⟨0xA9C, 0xFA1, 0x83F, 0x59, 5, true⟩),
    (0x6883_FFA1_A9C5_62BF, .ldnf ⟨0xA9C, 0xFA1, 0x83F, 0x68, 5, true⟩),
    (0x0483_FFA1_0005_63BF, .pf ⟨0x000, 0xFA1, 0x83F, 0x04, 5, true⟩),
    (0x684F_3FA1_A9C5_64BF, .ldr ⟨0xA9C, 0xFA1, 0x4F3, 0x68, 5, true⟩),
    (0x594F_3FA1_A9C5_65BF, .str ⟨0xA9C, 0xFA1, 0x4F3, 0x59, 5, true⟩)] = true := by decide +kernel

theorem Tests.test_decode_atomics : Tests.decodes [
    (0x986F_3BA1_E9C5_70BF, .aadd ⟨0xE9C, 0xBA1, 0x6F3, 0x98, 5, true⟩),
    (0x986F_3BA1_E9C5_71BF, .aand ⟨0xE9C, 0xBA1, 0x6F3, 0x98, 5, true⟩),
    (0x986F_3BA1_E9C5_72BF, .aor ⟨0xE9C, 0xBA1, 0x6F3, 0x98, 5, true⟩),
    (0x986F_3BA1_E9C5_73BF, .axor ⟨0xE9C, 0xBA1, 0x6F3, 0x98, 5, true⟩),
    (0x986F_3BA1_E9C5_74BF, .amin ⟨0xE9C, 0xBA1, 0x6F3, 0x98, 5, true⟩),
    (0x986F_3BA1_E9C5_75BF, .amax ⟨0xE9C, 0xBA1, 0x6F3, 0x98, 5, true⟩),
    (0x986F_3BA1_E9C5_76BF, .aminu ⟨0xE9C, 0xBA1, 0x6F3, 0x98, 5, true⟩),
    (0x986F_3BA1_E9C5_77BF, .amaxu ⟨0xE9C, 0xBA1, 0x6F3, 0x98, 5, true⟩),
    (0x986F_3BA1_E9C5_78BF, .axchg ⟨0xE9C, 0xBA1, 0x6F3, 0x98, 5, true⟩),
    (0x986F_3BA1_E9C5_79BF, .acas ⟨0xE9C, 0xBA1, 0x6F3, 0x98, 5, true⟩),
    (0x984F_3BA1_49C5_7ABF, .afadd ⟨0x49C, 0xBA1, 0x4F3, 0x98, 5, true⟩),
    (0x98AF_3BA1_A9C5_7BBF, .afmin ⟨0xA9C, 0xBA1, 0xAF3, 0x98, 5, true⟩),
    (0x98AF_3BA1_A9C5_7CBF, .afmax ⟨0xA9C, 0xBA1, 0xAF3, 0x98, 5, true⟩)] = true := by decide +kernel

theorem Tests.test_decode_copies : Tests.decodes [
    (0x0000_07A1_0005_80BF, .tdef ⟨0x000, 0x7A1, 0x000, 0x00, 5, true⟩),
    (0x0000_07A1_0005_81BF, .trel ⟨0x000, 0x7A1, 0x000, 0x00, 5, true⟩),
    (0x1A8F_3BA1_E9C5_82BF, .cpy ⟨0xE9C, 0xBA1, 0x8F3, 0x1A, 5, true⟩),
    (0x198F_3BA1_E9C5_83BF, .tfill ⟨0xE9C, 0xBA1, 0x8F3, 0x19, 5, true⟩),
    (0x0A8F_3BA1_E9C5_84BF, .tdrn ⟨0xE9C, 0xBA1, 0x8F3, 0x0A, 5, true⟩),
    (0x1AEF_3BA1_E9C5_85BF, .cpys ⟨0xE9C, 0xBA1, 0xEF3, 0x1A, 5, true⟩)] = true := by decide +kernel

theorem Tests.test_decode_matrix : Tests.decodes [
    (0x0000_0FA1_0005_90BF, .mma ⟨0x000, 0xFA1, 0x000, 0x00, 5, true⟩),
    (0x00EF_3FA1_0005_91BF, .mmas ⟨0x000, 0xFA1, 0xEF3, 0x00, 5, true⟩),
    (0x43EF_3FA1_E9C5_92BF, .wbld ⟨0xE9C, 0xFA1, 0xEF3, 0x43, 5, true⟩),
    (0x51EF_3FA1_E9C5_93BF, .accld ⟨0xE9C, 0xFA1, 0xEF3, 0x51, 5, true⟩),
    (0x40EF_3000_E9C5_94BF, .acczr ⟨0xE9C, 0x000, 0xEF3, 0x40, 5, true⟩),
    (0x62EF_3FA1_E9C5_95BF, .accdr ⟨0xE9C, 0xFA1, 0xEF3, 0x62, 5, true⟩),
    (0x0000_0FA1_E9C5_963F, .mld ⟨0xE9C, 0xFA1, 0x000, 0x00, 5, false⟩),
    (0x0200_0FA1_E9C5_973F, .mldt ⟨0xE9C, 0xFA1, 0x000, 0x02, 5, false⟩),
    (0x0000_0000_0005_98BF, .mxfence ⟨0x000, 0x000, 0x000, 0x00, 5, true⟩)] = true := by decide +kernel

theorem Tests.test_decode_votes : Tests.decodes [
    (0x6B4F_3000_A9C5_A03F, .vall ⟨0xA9C, 0x000, 0x4F3, 0x6B, 5, false⟩),
    (0x6B4F_3000_A9C5_A13F, .vany ⟨0xA9C, 0x000, 0x4F3, 0x6B, 5, false⟩),
    (0x6B4F_3000_A9C5_A23F, .vbal ⟨0xA9C, 0x000, 0x4F3, 0x6B, 5, false⟩),
    (0x0000_0000_A9C5_A33F, .grank ⟨0xA9C, 0x000, 0x000, 0x00, 5, false⟩),
    (0x6B4F_3000_A9C5_A43F, .redadd ⟨0xA9C, 0x000, 0x4F3, 0x6B, 5, false⟩),
    (0x6B4F_3000_A9C5_A53F, .redand ⟨0xA9C, 0x000, 0x4F3, 0x6B, 5, false⟩),
    (0x6B4F_3000_A9C5_A63F, .redor ⟨0xA9C, 0x000, 0x4F3, 0x6B, 5, false⟩),
    (0x6B4F_3000_A9C5_A73F, .redxor ⟨0xA9C, 0x000, 0x4F3, 0x6B, 5, false⟩),
    (0x6B4F_3000_A9C5_A83F, .redminS ⟨0xA9C, 0x000, 0x4F3, 0x6B, 5, false⟩),
    (0x6B4F_3000_A9C5_A93F, .redminZ ⟨0xA9C, 0x000, 0x4F3, 0x6B, 5, false⟩),
    (0x6B4F_3000_A9C5_AA3F, .redmaxS ⟨0xA9C, 0x000, 0x4F3, 0x6B, 5, false⟩),
    (0x6B4F_3000_A9C5_AB3F, .redmaxZ ⟨0xA9C, 0x000, 0x4F3, 0x6B, 5, false⟩),
    (0x6B4F_3000_A9C5_AC3F, .scanadd ⟨0xA9C, 0x000, 0x4F3, 0x6B, 5, false⟩),
    (0x6B4F_3000_A9C5_AD3F, .scanaddx ⟨0xA9C, 0x000, 0x4F3, 0x6B, 5, false⟩),
    (0x6B6F_3000_A9C5_AE3F, .fredadd ⟨0xA9C, 0x000, 0x6F3, 0x6B, 5, false⟩),
    (0x6B6F_3000_A9C5_AF3F, .fscanadd ⟨0xA9C, 0x000, 0x6F3, 0x6B, 5, false⟩)] = true := by decide +kernel

theorem Tests.test_decode_fences : Tests.decodes [
    (0x2100_4000_1CC5_B03F, .fen ⟨0x1CC, 0x000, 0x004, 0x21, 5, false⟩),
    (0x81A0_1C06_000C_B13F, .safept ⟨0x000, 0xC06, 0xA01, 0x81, 12, false⟩)] = true := by decide +kernel

theorem Tests.test_decode_rings : Tests.decodes [
    (0x0100_0BA1_E9C5_C0BF, .rtkt ⟨0xE9C, 0xBA1, 0x000, 0x01, 5, true⟩),
    (0x018F_3BA1_E9C5_C1BF, .rfill ⟨0xE9C, 0xBA1, 0x8F3, 0x01, 5, true⟩),
    (0x018F_3BA1_E9C5_C2BF, .rpush ⟨0xE9C, 0xBA1, 0x8F3, 0x01, 5, true⟩),
    (0x0100_0BA1_E9C5_C3BF, .rpop ⟨0xE9C, 0xBA1, 0x000, 0x01, 5, true⟩),
    (0x018F_3BA1_E9C5_C4BF, .kpush ⟨0xE9C, 0xBA1, 0x8F3, 0x01, 5, true⟩),
    (0x0100_0BA1_E9C5_C5BF, .kpop ⟨0xE9C, 0xBA1, 0x000, 0x01, 5, true⟩)] = true := by decide +kernel

theorem Tests.test_decode_short : Tests.decodesShort [
    (0x0030_000B, .join 3),
    (0x02B0_000B, .leave 11),
    (0x0410_000B, .gwait 1),
    (0x0FE5_900B, .pbinit 0xFE 11),
    (0x0FE5_908B, .pbarr 0xFE 11),
    (0x0FE5_910B, .pbwait 0xFE 11),
    (0x0FE5_918B, .pbarw 0xFE 11),
    (0x03F0_200B, .twait 63),
    (0x1CC0_300B, .fenw 0x1CC),
    (0x0900_400B, .give 144),
    (0x1E00_408B, .claim 480),
    (0x0005_D50B, .migrate 10 11),
    (0x0005_852B, .spawn 10 11),
    (0x02C5_852B, .gcancel 10 11 12),
    (0x04C5_852B, .gstat 10 11 12),
    (0x0600_002B, .gend),
    (0x0005_952B, .tsub 10 11),
    (0x0205_952B, .tcomm 10 11),
    (0x0405_952B, .tabort 10 11),
    (0x02C5_A52B, .rfillm 10 11 12 false),
    (0x84C5_A52B, .rpushm 10 11 12 true),
    (0x06C5_A52B, .rpopm 10 11 12 false),
    (0x88C5_A52B, .kpushm 10 11 12 true),
    (0x0AC5_A52B, .kpopm 10 11 12 false),
    (0x0000_0073, .ecall),
    (0x0000_302B, .tret),
    (0x0005_C52B, .sysinfo 10 11)] = true := by decide +kernel

/-! ## Limits: each term breaks one limit of R275-R280, R283 or its own row, and its word is refused as R284 says -/

/-- Each instruction is ill-formed, and its word raises cause 2. -/
def Tests.refused (l : List Instr) : Bool := l.all fun i => !i.wellFormed && match i.longParts with
  | some (op, f) => decide ((decodeWord (f.toWord op)).2 = .illegal)
  | none => match i.shortWord with
    | some w => decide ((decodeWord (w.setWidth 64)).2 = .illegal)
    | none => false

theorem Tests.test_illFormed_integers : Tests.refused [
    .and ⟨0xA9C, 0x7A1, 0x4F3, 0x00, 13, false⟩,
    .addZ ⟨0xA9C, 0x7A1, 0x4F3, 0x21, 12, false⟩,
    .clz ⟨0xA9C, 0x7A1, 0x4F3, 0x00, 12, false⟩,
    .addS ⟨0xFF8, 0x7A1, 0x4F3, 0x00, 12, false⟩,
    .addS ⟨0xA9C, 0xFF8, 0x4F3, 0x00, 12, false⟩,
    .addS ⟨0xA9C, 0x7A1, 0xBFF, 0x00, 12, false⟩,
    .movi ⟨0xA9C, 0x7A1, 0x4F3, 0x00, 12, false⟩,
    .movi ⟨0xFF8, 0x000, 0x4F3, 0x00, 12, false⟩,
    .shi ⟨0xA9C, 0x7A1, 0x044, 0x01, 12, false⟩,
    .shi ⟨0xA9C, 0x7A1, 0x144, 0x00, 12, false⟩,
    .padd ⟨0xA40, 0xA40, 0xA40, 0x09, 12, false⟩,
    .padd ⟨0x440, 0x440, 0x440, 0x01, 12, false⟩,
    .padd ⟨0xA40, 0x640, 0xA40, 0x01, 12, false⟩,
    .padd ⟨0xA40, 0xA40, 0x640, 0x01, 12, false⟩] = true := by decide +kernel

theorem Tests.test_illFormed_floats : Tests.refused [
    .fadd ⟨0x800, 0xA40, 0xA40, 0x00, 12, false⟩,
    .fadd ⟨0xA40, 0xC00, 0xA40, 0x00, 12, false⟩,
    .fadd ⟨0xBF9, 0xA40, 0xA40, 0x00, 12, false⟩,
    .fabs ⟨0xA40, 0xA40, 0xA40, 0x00, 12, false⟩,
    .fclass ⟨0xA40, 0xA40, 0xA40, 0x00, 12, false⟩,
    .fceq ⟨0xFF8, 0xA40, 0xA40, 0x00, 12, false⟩,
    .cvt ⟨0xA40, 0x000, 0xA40, 0x06, 12, false⟩,
    .cvt ⟨0xA40, 0x000, 0xA40, 0x08, 12, false⟩,
    .cvtfs ⟨0xA40, 0x001, 0xA40, 0x00, 12, false⟩,
    .cvtsf ⟨0x800, 0x000, 0xA40, 0x00, 12, false⟩,
    .bxpk ⟨0x640, 0x000, 0xA40, 0x40, 12, false⟩,
    .bxpk ⟨0x640, 0x000, 0xA40, 0x40, 1, true⟩,
    .bxpk ⟨0x640, 0x000, 0xA40, 0x10, 1, false⟩,
    .bxpk ⟨0x640, 0x000, 0xA40, 0x90, 1, false⟩,
    .bxpk ⟨0x640, 0x000, 0xA40, 0x48, 1, false⟩,
    .bxcmp ⟨0xA40, 0x000, 0xA40, 0x40, 1, false⟩,
    .bxunp ⟨0xA40, 0x000, 0xA40, 0x40, 1, false⟩,
    .trpk ⟨0x640, 0x000, 0xA40, 0x10, 1, false⟩,
    .trunp ⟨0xA40, 0x000, 0xA40, 0x00, 1, false⟩,
    .f8pk ⟨0xA40, 0x240, 0xA40, 0x00, 12, false⟩,
    .f8pk ⟨0x240, 0x640, 0xA40, 0x00, 12, false⟩,
    .f8unp ⟨0xA40, 0x240, 0xA40, 0x00, 12, false⟩] = true := by decide +kernel

theorem Tests.test_illFormed_memory : Tests.refused [
    .ld ⟨0x040, 0xE50, 0x4F3, 0x00, 12, false⟩,
    .ld ⟨0x440, 0xE50, 0x4F3, 0x00, 12, false⟩,
    .ld ⟨0xA40, 0xE50, 0x4F3, 0x18, 12, false⟩,
    .ld ⟨0xA40, 0xE50, 0x4F3, 0xC8, 12, false⟩,
    .ld ⟨0xA40, 0xE50, 0x4F3, 0x05, 12, false⟩,
    .ld ⟨0xA40, 0xE50, 0x4F3, 0x20, 12, false⟩,
    .st ⟨0xA40, 0xE50, 0x4F3, 0x08, 12, false⟩,
    .ldnf ⟨0xFF0, 0xE50, 0x4F3, 0x00, 12, false⟩,
    .pf ⟨0xE40, 0xE50, 0x4F3, 0x00, 12, false⟩,
    .pf ⟨0x000, 0xE50, 0x4F3, 0x08, 12, false⟩,
    .aadd ⟨0x800, 0xE50, 0xE60, 0x00, 12, false⟩,
    .afadd ⟨0xA40, 0xE50, 0x660, 0x00, 12, false⟩,
    .afadd ⟨0x240, 0xE50, 0x260, 0x00, 12, false⟩,
    .afmin ⟨0xE40, 0xE50, 0xE60, 0x00, 12, false⟩,
    .cpy ⟨0xE40, 0xE50, 0xE60, 0x40, 12, false⟩,
    .cpy ⟨0xE40, 0xE50, 0xE60, 0x04, 12, false⟩,
    .cpys ⟨0xE40, 0xE50, 0xA60, 0x00, 12, false⟩,
    .cpys ⟨0xE40, 0xE50, 0xFE8, 0x00, 12, false⟩,
    .tfill ⟨0xE40, 0xE50, 0xE60, 0x00, 12, false⟩,
    .tdrn ⟨0xE40, 0xE50, 0xE60, 0x00, 12, false⟩] = true := by decide +kernel

theorem Tests.test_illFormed_matrix : Tests.refused [
    .tdef ⟨0x001, 0xE50, 0x000, 0x00, 12, false⟩,
    .mma ⟨0x000, 0xA50, 0x000, 0x00, 12, false⟩,
    .mmas ⟨0x000, 0xE50, 0xFE8, 0x00, 12, false⟩,
    .wbld ⟨0xE40, 0xE50, 0xE60, 0x80, 12, false⟩,
    .wbld ⟨0xE40, 0xE50, 0xE60, 0x08, 12, false⟩,
    .wbld ⟨0xE40, 0xE50, 0xE60, 0x04, 12, false⟩,
    .accld ⟨0xE40, 0xE50, 0xE60, 0x18, 12, false⟩,
    .accdr ⟨0xE40, 0xE50, 0xE60, 0x28, 12, false⟩,
    .acczr ⟨0xE40, 0xE50, 0xE60, 0x00, 12, false⟩,
    .mld ⟨0xE40, 0xE50, 0x000, 0x00, 1, true⟩,
    .mldt ⟨0x240, 0xE50, 0x000, 0x01, 12, false⟩,
    .mldt ⟨0xE40, 0xE50, 0x000, 0x04, 12, false⟩,
    .mxfence ⟨0x000, 0x000, 0x000, 0x01, 12, false⟩] = true := by decide +kernel

theorem Tests.test_illFormed_control : Tests.refused [
    .vall ⟨0xA40, 0x000, 0xA40, 0x00, 12, false⟩,
    .vall ⟨0xA40, 0x000, 0xA40, 0x00, 1, true⟩,
    .vall ⟨0xA40, 0x001, 0xA40, 0x00, 1, false⟩,
    .grank ⟨0xA40, 0x000, 0x001, 0x00, 1, false⟩,
    .fredadd ⟨0x800, 0x000, 0xA40, 0x00, 1, false⟩,
    .fen ⟨0x1CC, 0x000, 0x004, 0x00, 12, true⟩,
    .fen ⟨0x3CC, 0x000, 0x004, 0x00, 12, false⟩,
    .fen ⟨0x1CC, 0x000, 0x006, 0x00, 12, false⟩,
    .fen ⟨0x1CC, 0x001, 0x004, 0x00, 12, false⟩,
    .fen ⟨0x1CC, 0x000, 0x00C, 0x00, 12, false⟩,
    .safept ⟨0x000, 0x000, 0x000, 0x00, 12, true⟩,
    .safept ⟨0x000, 0x000, 0x000, 0x00, 1, false⟩,
    .safept ⟨0x001, 0x000, 0x000, 0x00, 12, false⟩,
    .safept ⟨0x000, 0x001, 0x000, 0x00, 12, false⟩,
    .rtkt ⟨0xE40, 0xE50, 0x000, 0x02, 12, false⟩,
    .rtkt ⟨0xE40, 0xE50, 0x001, 0x00, 12, false⟩,
    .rtkt ⟨0xA40, 0xE50, 0x000, 0x00, 12, false⟩,
    .rpop ⟨0xFF0, 0xE50, 0x000, 0x00, 12, false⟩,
    .kpop ⟨0xFE0, 0xE50, 0x000, 0x00, 12, false⟩, .join 12, .leave 31, .gwait 12, .pbinit 255 5, .pbarr 0xFFF 5, .pbwait 255 5, .pbarw 255 5, .twait 64, .give 15, .claim 513] = true := by decide +kernel

/-- Unassigned opcodes and selectors raise cause 50: OP 0x5C, 0x66 and 0xD0, a join with funct7 3, and custom-1 funct3 5 (R284). -/
theorem Tests.test_unassigned :
    ([0xC_5C3F, 0xC_663F, 0xC_D03F, 0x0600_000B, 0x0000_502B].all fun w => decide ((decodeWord (BitVec.ofNat 64 w)).2 = .unassigned)) = true := by
  decide +kernel

/-! ## Reset -/

/-- Reset: before stage 0, nothing listed in memory, the keys' invariant (R54). -/
theorem Tests.test_reset : State.reset.plat.trust.keysInv ∧ State.reset.plat.trust.stage = 0 ∧ Memory.wf State.reset.chip.mem.bytes = true := by
  unfold Trust.keysInv; decide +kernel

/-- The very next step runs a word that is placed for it: addi x10, x0, 5 (RISC-V) writes x10 and moves the PC by 4. -/
theorem Tests.test_step_addi : (match step (State.reset.withFetchWord 32 0x0050_0513) with
    | .next s => s.chip.threads.any fun t => readX t.regs 10 = 5 && s.issue.isNone
    | _ => false) = true := by decide +kernel

/-! ## Single steps: words, operands and results stand in the manual's examples -/

/-- A thread at some bits of issue group 0, each time changed. -/
def Tests.spread (l : List (Nat × (Thread → Thread))) (t : Thread) : List Thread :=
  l.map fun (p : Nat × (Thread → Thread)) => p.2 { t with id := 100 + p.1, place := .slot 0 0 0 p.1 }

/-- Threads at some bits of an issue group whose masks they form, each with registers of its own. -/
def Tests.atBits (l : List (Nat × (Thread → Thread))) (g : Chip → Chip) : State :=
  Tests.one id fun c =>
    let m : Nat := (l.map fun (p : Nat × (Thread → Thread)) => 2 ^ p.1).sum
    g (({ c with threads := c.threads.flatMap (Tests.spread l) }).onIg 0 0 0 fun k => { k with gm := List.replicate 12 (BitVec.ofNat 32 m) })

/-- The threads after the instruction that a word decodes to. -/
def Tests.after (w : BitVec 64) (s : State) : List Thread := match (decodeWord w).2 with
  | .op i => match exec i s with
    | .next v => v.chip.threads
    | _ => []
  | _ => []

/-- A value in slices of one thread. -/
def Tests.set (s w v : Nat) (t : Thread) : Thread := { t with regs := writeSlices t.regs s w v }
/-- The slices of each thread. -/
def Tests.get (s w : Nat) (l : List Thread) : List Nat := l.map fun t => readSlices t.regs s w

/-- padds.s8 (example of R308): x10.lo and tflags.SAT. -/
theorem Tests.test_padds :
    let l := Tests.after 0x01AC_0AB0_AA0C_323F (Tests.one (fun t => Tests.set 176 64 0x7F80_F064 (Tests.set 192 64 0x01FF_E040
      (Tests.set 160 64 0x1111_2222_3333_4444 t))) id)
    Tests.get 160 64 l = [0x1111_2222_7F80_D07F] ∧ l.map (·.tflags) = [1] := by decide +kernel

/-- movi x7.h1, -3 (example of R301); bfx.s n40.8, x7.h1, n44.16 with control 0x0506 (example of R302). -/
theorem Tests.test_movi_bfx :
    Tests.get 116 16 (Tests.after 0xFFFF_D000_674C_023F (Tests.one id id)) = [0xFFFD] ∧
    Tests.get 40 8 (Tests.after 0x0062_C674_228C_0C3F (Tests.one (fun t => Tests.set 116 16 0xFFFD (Tests.set 44 16 0x0506 t)) id)) = [0xFF] := by
  decide +kernel

/-- fmad.f16 x3.h0, x4.h0, x5.h0 (example of R317): one rounding, and with FTZ a flushed result with UF, NX and FLUSH. -/
theorem Tests.test_fmad :
    let s := fun m => Tests.one (fun t => { Tests.set 64 16 0x3C01 (Tests.set 80 16 0x3BFE (Tests.set 48 16 0xBC00 t)) with tmode := m }) id
    let l := Tests.after 0x0065_0640_630C_433F (s 0)
    let z := Tests.after 0x0065_0640_630C_433F (s 1)
    Tests.get 48 16 l = [0x8010] ∧ l.map (·.fcsr) = [0] ∧ Tests.get 48 16 z = [0x8000] ∧ z.map (·.fcsr) = [3] ∧ z.map (·.tflags) ≠ [0] := by
  decide +kernel

/-- The examples of R321 and R325: word, source in slice 64, result in slice 80, and the five flags of fcsr (NV DZ OF UF NX). -/
theorem Tests.test_conversions : ([
    (0x00A4_0000_250C_513F#64, 0x4348_8000, 8, 0x7F, 16#8), (0x00A4_0000_250C_513F, 0xC020_0000, 8, 0xFE, 1),
    (0x01A4_0000_650C_523F, 0xBF40_0000, 16, 0, 1), (0x01A4_0000_650C_523F, 0xBF80_0000, 16, 0, 16),
    (0x00A4_0000_250C_513F, 0x7FC0_0000, 8, 0x7F, 16), (0x00A4_0000_650C_533F, 65519, 16, 0x7BFF, 1),
    (0x00A4_0000_250C_533F, 500, 8, 0x7E, 5)].all fun p =>
      let l := Tests.after p.1 (Tests.one (Tests.set 64 32 p.2.1) id)
      Tests.get 80 p.2.2.1 l == [p.2.2.2.1] && l.map (·.fcsr) == [p.2.2.2.2]) = true ∧
    Tests.get 80 8 (Tests.after 0x00A4_0260_250C_5A3F (Tests.one (fun t => Tests.set 64 32 0x3F80_0000 (Tests.set 96 8 120 t)) id)) = [0x70] := by
  decide +kernel

/-- bxpk.bx4.rne.g1 x9.h0, x8.lo by eight members (example of R322): each member's word and flags. -/
theorem Tests.test_bxpk :
    let l := Tests.after 0x40A8_0000_6901_553F (Tests.atBits ([0x4040_0000, 0xBF33_3333, 0x3DCC_CCCD, 0xC0B0_0000, 0x40F8_0000, 0, 0, 0].zipIdx.map
      fun (p : Nat × Nat) => (p.2, Tests.set 128 32 p.1)) id)
    Tests.get 144 16 l = [0x82F3, 0x82A0, 0x8207, 0x8200, 0x8200, 0x8200, 0x8200, 0x8200] ∧
    l.map (·.fcsr) = [0, 1, 1, 1, 1, 0, 0, 0] ∧ l.map (·.tflags) = [0, 0, 0, 0, 1, 0, 0, 0] := by decide +kernel

/-- Scans, reductions and votes of four members at bits 0, 2, 16 and 18 (example of R348). -/
theorem Tests.test_votes :
    let s := Tests.atBits [(0, Tests.set 128 16 5), (2, Tests.set 128 16 0xFFFF), (16, Tests.set 128 16 7), (18, Tests.set 128 16 2)] id
    Tests.get 144 16 (Tests.after 0x0068_0000_6901_AC3F s) = [5, 4, 11, 13] ∧
    Tests.get 144 16 (Tests.after 0x0068_0000_6901_AD3F s) = [0, 5, 4, 11] ∧
    Tests.get 144 16 (Tests.after 0x0068_0000_6901_AA3F s) = [7, 7, 7, 7] ∧
    Tests.get 144 16 (Tests.after 0x0068_0000_6901_AB3F s) = [0xFFFF, 0xFFFF, 0xFFFF, 0xFFFF] ∧
    Tests.get 144 32 (Tests.after 0x0068_0000_A901_A23F s) = [0x0005_0005, 0x0005_0005, 0x0005_0005, 0x0005_0005] ∧
    Tests.get 148 16 (Tests.after 0x0000_0000_6941_A33F s) = [0x0400, 0x0401, 0x0402, 0x0403] := by decide +kernel

/-- acas.s64.ar.po by participants at bits 0 and 5 of one issue on a dword that holds 7 (example of R335). -/
theorem Tests.test_acas :
    let s := Tests.atBits [(0, fun t => Tests.set 176 64 0x1000 (Tests.set 208 64 7 (Tests.set 224 64 8 t))),
      (5, fun t => Tests.set 176 64 0x1000 (Tests.set 208 64 7 (Tests.set 224 64 9 t)))]
      fun c => { c with mem := { c.mem with bytes := [(0x1000, 7)] } }
    Tests.get 208 64 (Tests.after 0xB8EE_0EB0_ED0C_793F s) = [7, 8] ∧
    (match exec (.acas ⟨0xED0, 0xEB0, 0xEE0, 0xB8, 12, false⟩) s with
     | .next v => v.chip.getByte 0x1000 = 8
     | _ => false) = true := by decide +kernel

/-- The block of the tile example (R341, 16_isa_memory_atomics_fences.md): T3, and PB2 at the end of its scratchpad. -/
def Tests.tileBlock (b : Block) : Block := { b with
  nbar := 4, spbytes := 65536, tiles := List.replicate 3 {} ++ [{ base := 0x4000, rows := 16, rowBytes := 128, swz := 1 }] }

/-- Step 1 of that example: both fills issue; T3 pends and has issued 2,048 bytes, and PB2 holds 0x80. -/
theorem Tests.test_tfill :
    let s := Tests.atBits [(0, fun t => Tests.set 176 64 0 (Tests.set 208 64 0x001C_0003 (Tests.set 224 64 0x0302_0000_0200 t))),
      (1, fun t => Tests.set 176 64 0x1000 (Tests.set 208 64 0x001C_0203 (Tests.set 224 64 0x0302_0000_0200 t)))]
      (Tests.inBlock Tests.tileBlock)
    (match exec (.tfill ⟨0xED0, 0xEB0, 0xEE0, 0x01, 12, false⟩) s with
     | .next v => match v.chip.block? 3 with
       | some b => decide (((b.tiles.getD 3 {}).pending, (b.tiles.getD 3 {}).issued, (b.tiles.getD 3 {}).state) = (2048, 2048, .filling)) &&
           decide (v.chip.pbRead b 2 = 0x80)
       | none => false
     | _ => false) = true := by decide +kernel

/-- give 144 by a thread with 400 slices, and claim 480 where its lane has room (example of R212). -/
theorem Tests.test_footprint :
    (Tests.after 0x0900_400B#64 (Tests.one (fun t => { t with tfoot := 400 }) id)).map (·.tfoot) = [144] ∧
    (Tests.after 0x1E00_408B#64 (Tests.one (fun t => { t with tfoot := 400 }) id)).map (·.tfoot) = [480] := by decide +kernel

end Sys2Proof.Machine
end

