-- ==== Sys2Proof/Tests/WitnessInstr.lean ====
section
/-! SUPPORT. Witnesses for the rows of register, memory and group instructions: for each row operands and a small state in which a
thread on its own, or a complete group, meets the row's conditions. -/

set_option Elab.async false
namespace Sys2Proof.Machine

/-- The condition of a register row for one thread. -/
def RegRow.mayAlone (r : RegRow) (f : Long) (s0 : State) : Bool := match s0.soleOf r.uses with
  | some (_, s, t) => r.instr.wellFormed && !f.grouped && t.usable (s.chip.bars t) r.uses && r.legal [t] t
  | none => false

/-- The condition of a memory row for one thread. -/
def MemRow.mayAlone (r : MemRow) (f : Long) (s0 : State) : Bool := match s0.soleOf r.uses with
  | some (_, s, t) => r.instr.wellFormed && !f.grouped && t.usable (s.chip.bars t) r.uses && (r.stop s.chip [t] t).isNone
  | none => false

/-- The condition of a group row for one thread. -/
def GroupRow.mayAlone (r : GroupRow) (f : Long) (s0 : State) : Bool := match s0.soleOf r.uses with
  | some (_, s, t) => r.instr.wellFormed && !f.grouped && (r.hart || t.onCompute) && t.usable (s.chip.bars t) r.uses && r.legal t &&
      (r.check s.chip [t] t).isNone
  | none => false

/-- Whether some threads are the members of GMk and arrive together with an issue. -/
def Chip.arriveWith (c : Chip) (i : Issue) (k : Nat) (t0 : Thread) (ts : List Thread) : Bool :=
  decide (t0 ∈ ts) && decide (i.parts = ts.map (·.id)) && decide (ts = c.membersOf t0 k) &&
    ts.all fun t => decide (c.thread? t.id = some t) && t.onCompute && !t.handler && !t.converged && decide (t.pc = t0.pc)

/-- The threads that arrive together with the selected issue as the members of GMk, where they are the first thread's mask. -/
def State.team (s : State) (k : Nat) : List Thread :=
  let t0 := s.chip.threads.headD {}
  let ts := s.chip.membersOf t0 k
  match s.issue with
  | some i => if s.chip.arriveWith i k t0 ts then ts else []
  | none => []

/-- The members of a team execute together, as the statements say it. -/
theorem State.team_together (s : State) (i : Issue) (k : Nat) (hi : s.issue = some i) (h : s.team k ≠ []) :
    s.together i k (s.chip.threads.headD {}) (s.team k) := by
  unfold State.team at *
  simp only [hi] at h ⊢
  split at h
  · rename_i hc
    rw [if_pos hc]
    unfold Chip.arriveWith at hc
    simp only [Bool.and_eq_true, decide_eq_true_eq, List.all_eq_true, Bool.not_eq_true'] at hc
    obtain ⟨⟨⟨hm, hp⟩, -⟩, ha⟩ := hc
    exact ⟨hi, hp, hm, rfl, fun t ht => by obtain ⟨⟨⟨⟨h1, h2⟩, h3⟩, h4⟩, h5⟩ := ha t ht; exact ⟨h1, h2, h3, h4, h5⟩⟩
  · exact absurd rfl h

/-- The team of an issue of an instruction that uses some slices, with the state as it begins. -/
def State.teamOf (s0 : State) (k : Nat) (u : Uses) : State × List Thread :=
  match s0.issue with
  | some i => if s0.team k = [] then (s0, []) else (s0.begun i u, (s0.begun i u).team k)
  | none => (s0, [])

/-- Such a team executes together, as the statements say it. -/
theorem State.teamOf_togetherOf (s0 : State) (k : Nat) (u : Uses) (i : Issue) (hi : s0.issue = some i) (h : (s0.teamOf k u).2 ≠ []) :
    s0.togetherOf i k u (s0.teamOf k u).1 ((s0.teamOf k u).1.chip.threads.headD {}) (s0.teamOf k u).2 := by
  unfold State.teamOf at *
  simp only [hi] at h ⊢
  split at h
  · exact absurd rfl h
  · rename_i h0
    rw [if_neg h0]
    exact ⟨⟨_, _, s0.team_together i k hi h0⟩, rfl, State.team_together _ i k hi h⟩

/-- The condition of a register row for a complete group. -/
def RegRow.mayTogether (r : RegRow) (f : Long) (s0 : State) : Bool :=
  let (s, ts) := s0.teamOf f.g.toNat r.uses
  !ts.isEmpty && r.instr.wellFormed && f.grouped && (ts.all fun t => t.usable (s.chip.bars t) r.uses) &&
    (ts.all fun t => r.legal ts (if f.u then ts.headD t else t)) && r.readable ts

/-- The condition of a register row for a complete group that reads what decodes to nothing. -/
def RegRow.maySpoil (r : RegRow) (f : Long) (s0 : State) : Bool :=
  let (s, ts) := s0.teamOf f.g.toNat r.uses
  !ts.isEmpty && r.instr.wellFormed && f.grouped && !f.u && (ts.all fun t => t.usable (s.chip.bars t) r.uses) &&
    (ts.all fun t => r.legal ts t) && !r.readable ts

/-- The condition of a memory row for a complete group. -/
def MemRow.mayTogether (r : MemRow) (f : Long) (s0 : State) : Bool :=
  let (s, ts) := s0.teamOf f.g.toNat r.uses
  let c := s.chip.gathered f.g.toNat ts
  let ms := ts.map fun t => t.atGroup f.g.toNat s.chip.tick
  !ts.isEmpty && r.instr.wellFormed && f.grouped && (ts.all fun t => t.usable (s.chip.bars t) r.uses) &&
    ms.all fun t => (r.stop c ms (if f.u then ms.headD t else t)).isNone

/-- The condition of a group row for a complete group. -/
def GroupRow.mayTogether (r : GroupRow) (f : Long) (s0 : State) : Bool :=
  let (s, ts) := s0.teamOf f.g.toNat r.uses
  let c := s.chip.gathered f.g.toNat ts
  let ms := ts.map fun t => t.atGroup f.g.toNat s.chip.tick
  let uni := f.u && !r.ignoresU
  !ts.isEmpty && r.instr.wellFormed && f.grouped && (ts.all fun t => t.usable (s.chip.bars t) r.uses) &&
    (ms.all fun t => r.legal (if uni then ms.headD t else t)) && ms.all fun t => (r.check c ms (if uni then ms.headD t else t)).isNone

/-- Every row of a family meets a condition for some fields and state of a list. -/
def Tests.every {α : Type} (rows : Long → List α) (may : α → Long → State → Bool) (l : List (Long × State)) : Bool :=
  !l.isEmpty && (List.range (rows (l.headD (⟨0, 0, 0, 0, 12, false⟩, {})).1).length).all fun k => l.any fun p => match (rows p.1)[k]? with
    | some r => may r p.1 p.2
    | none => false

/-- x5, x6 and x7 of a thread. -/
def Tests.x567 (u v w : Nat) (t : Thread) : Thread := Tests.x56 u v { t with regs := writeX t.regs 7 (BitVec.ofNat 64 w) }

/-- A block with a ready and an empty tile, and ranges of the matrix engine. -/
def Tests.engines (b : Block) : Block := { b with
  tiles := [{ state := .ready, rows := 16, rowBytes := 64 }, { rows := 8, rowBytes := 64, base := 1024 }], accbytes := 4096, wbbytes := 4096 }

/-- A thread alone in a block. -/
def Tests.solo (f : Thread → Thread) : State := Tests.one f (Tests.inBlock Tests.engines)

/-- Two threads of a block that form each group of issue group 0. -/
def Tests.two (f : Thread → Thread) : State :=
  Tests.one f fun c =>
    let c := { c with threads := c.threads.flatMap fun t => [t, { t with id := 77, place := .slot 0 0 0 31 }] }
    Tests.inBlock Tests.engines (c.onIg 0 0 0 fun g => { g with gm := List.replicate 12 0x8000_0001#32 })

/-- Some fields for a thread alone and for a group, all registers zero. -/
def Tests.alone (l : List Long) : List (Long × State) := l.map fun f => ({ f with g := 12 }, Tests.solo id)
def Tests.group (l : List Long) : List (Long × State) := l.map fun f => ({ f with g := 11 }, Tests.two id)

theorem Tests.witness_movesAndBits : Tests.every bitRows RegRow.mayAlone (Tests.alone [⟨97, 0, 0, 0, 12, false⟩]) = true ∧
    Tests.every bitRows RegRow.mayTogether (Tests.group [⟨97, 0, 0, 0, 11, true⟩]) = true := by decide +kernel

theorem Tests.witness_integerArithmetic :
    Tests.every arithRows RegRow.mayAlone (Tests.alone [⟨97, 2548, 3021, 19, 12, false⟩]) = true ∧
    Tests.every arithRows RegRow.mayTogether (Tests.group [⟨97, 2548, 3021, 147, 11, false⟩]) = true := by decide +kernel

theorem Tests.witness_packedArithmetic : Tests.every packedRows RegRow.mayAlone (Tests.alone [⟨97, 0, 0, 0, 12, false⟩]) = true ∧
    Tests.every packedRows RegRow.mayTogether (Tests.group [⟨97, 0, 0, 0, 11, true⟩]) = true := by decide +kernel

theorem Tests.witness_floatArithmetic : Tests.every floatRows RegRow.mayAlone (Tests.alone [⟨97, 0, 3021, 19, 12, false⟩]) = true ∧
    Tests.every floatRows RegRow.mayTogether (Tests.group [⟨97, 0, 3021, 147, 11, false⟩]) = true := by decide +kernel

theorem Tests.witness_floatCompares : Tests.every compareRows RegRow.mayAlone (Tests.alone [⟨97, 0, 3021, 19, 12, false⟩]) = true ∧
    Tests.every compareRows RegRow.mayTogether (Tests.group [⟨97, 0, 3021, 147, 11, false⟩]) = true := by decide +kernel

theorem Tests.witness_conversions :
    Tests.every convertRows RegRow.mayAlone (Tests.alone [⟨97, 0, 3021, 3, 12, false⟩]) = true ∧
    Tests.every convertRows RegRow.mayTogether (Tests.group [⟨97, 0, 3021, 3, 11, false⟩]) = true ∧
    Tests.every scaledRows RegRow.mayAlone (Tests.alone [⟨97, 1012, 973, 3, 12, false⟩]) = true ∧
    Tests.every scaledRows RegRow.mayTogether (Tests.group [⟨97, 1012, 973, 3, 11, false⟩]) = true := by decide +kernel

theorem Tests.witness_blockFormats :
    Tests.every blockRows RegRow.mayTogether (Tests.group [⟨1890, 0, 1629, 67, 11, false⟩, ⟨1890, 0, 1629, 3, 11, false⟩]) = true ∧
    Tests.every sumRows RegRow.mayTogether (Tests.group [⟨97, 0, 3021, 147, 11, false⟩]) = true := by decide +kernel

theorem Tests.witness_votesAndReductions : Tests.every voteRows RegRow.mayTogether (Tests.group [⟨97, 0, 0, 0, 11, false⟩]) = true := by
  decide +kernel

theorem Tests.witness_loadsAndStores :
    Tests.every loadRows MemRow.mayAlone (Tests.alone [⟨513, 1115, 1630, 0, 12, false⟩, ⟨0, 1115, 1630, 0, 12, false⟩]) = true ∧
    Tests.every loadRows MemRow.mayTogether (Tests.group [⟨513, 1115, 1630, 0, 11, true⟩, ⟨0, 1115, 1630, 0, 11, true⟩]) = true := by
  decide +kernel

theorem Tests.witness_atomics : Tests.every atomicRows MemRow.mayAlone (Tests.alone [⟨2593, 2142, 2609, 25, 12, false⟩]) = true ∧
    Tests.every atomicRows MemRow.mayTogether (Tests.group [⟨2593, 2142, 2609, 1, 11, false⟩]) = true := by decide +kernel

/-- Fields that name x6, x5 and x7, with and without the D and B fields. -/
def Tests.words (x : BitVec 8) (g : BitVec 4) : List Long :=
  [⟨0xE60, 0xE50, 0xE70, x, g, false⟩, ⟨0, 0xE50, 0, x, g, false⟩, ⟨0, 0xE50, 0xE70, x, g, false⟩, ⟨0, 0, 0, x, g, false⟩,
   ⟨0xE60, 0, 0xE70, x, g, false⟩]

/-- Operand words of tdef and trel, the copies, the multiplies and the transfers. -/
def Tests.operands : List (Nat × Nat × Nat) :=
  [(1, 0, 0), (0, 0, 255 * 2 ^ 32 + 16), (0, 0, 255 * 2 ^ 28 + 16), (0, 1 + 7 * 2 ^ 18, 255 * 2 ^ 32 + 64),
   (0x2200_0000_1FE0_0000, 0, 0), (0x2208_0000_1FE0_0000, 0, 0)]

/-- Those with both widths of x. -/
def Tests.engineCases (g : BitVec 4) (state : (Thread → Thread) → State) : List (Long × State) :=
  [0, 1, 8].flatMap fun x => (Tests.words x g).flatMap fun f => Tests.operands.map fun o => (f, state (Tests.x567 o.1 o.2.1 o.2.2))

theorem Tests.witness_tilesAndCopies :
    Tests.every (fun f => tileRows f ++ copyRows f) GroupRow.mayAlone (Tests.engineCases 12 Tests.solo) = true ∧
    Tests.every (fun f => tileRows f ++ copyRows f) GroupRow.mayTogether (Tests.engineCases 11 Tests.two) = true := by decide +kernel

theorem Tests.witness_matrixQueue :
    Tests.every matrixRows GroupRow.mayAlone (Tests.engineCases 12 Tests.solo) = true ∧
    Tests.every matrixRows GroupRow.mayTogether (Tests.engineCases 11 Tests.two) = true := by decide +kernel

theorem Tests.witness_fragmentsAndGroupFence :
    Tests.every (fun f => fragmentRows f ++ [fenGroupRow f]) GroupRow.mayAlone
      (Tests.alone [⟨513, 0, 0, 0, 12, false⟩, ⟨97, 0, 0, 0, 12, false⟩]) = true ∧
    Tests.every (fun f => fragmentRows f ++ [fenGroupRow f]) GroupRow.mayTogether
      (Tests.group [⟨513, 0, 0, 0, 11, false⟩, ⟨97, 0, 0, 0, 11, false⟩]) = true := by decide +kernel

end Sys2Proof.Machine
end

