-- ==== Sys2Proof/Tests/WitnessMachine.lean ====
section
/-! SUPPORT. Witnesses for the statements about the machine: concrete states and operands that meet their premises, clause by
clause. -/

set_option Elab.async false
namespace Sys2Proof.Machine

/-- How the bytes at the selected PC are fetched and decode: 1 a row of the table, 2 a standard instruction, 3 illegal,
4 unassigned, 5 stopped, 0 no issue. -/
def Tests.kind (s : State) : Nat := match s.lead with
  | some (i, t) => match s.chip.fetch t i.pc with
    | .inr (w, _, _) => match (decodeWord w).2 with | .op _ => 1 | .std _ => 2 | .illegal => 3 | .unassigned => 4
    | .inl _ => 5
  | none => 0

/-- Reset with a word placed for a new thread. -/
def Tests.word (w : Nat) : State := State.reset.withFetchWord 64 w

theorem Tests.witness_stepRunsDecoded :
    [Tests.word 0x0030_000B, Tests.word 0x0000_0013, Tests.word 0x7F, Tests.word 0x702B].all (fun s => s.plat.trust.power = .on) = true ∧
    [Tests.word 0x0030_000B, Tests.word 0x0000_0013, Tests.word 0x7F, Tests.word 0x702B].map Tests.kind = [1, 2, 3, 4] := by
  decide +kernel

/-- A selected issue at an address that nothing maps. -/
def Tests.unmapped : State :=
  let s := Tests.word 0
  { s with issue := s.issue.map fun i => { i with pc := 0x4000_0000_0000 } }

theorem Tests.witness_stepElsewhere :
    Tests.kind Tests.unmapped = 5 ∧ Tests.unmapped.plat.trust.power = .on ∧
    (let s : State := { agenda := [(.claimResend, 0)] }; s.plat.trust.power = .on ∧ s.issue = none ∧
      (match exec .claimResend s with | .next _ => true | _ => false) = true) ∧
    (State.reset.plat.trust.power = .on ∧ State.reset.issue = none ∧ State.reset.agenda = []) ∧
    ((Tests.trust fun t => { t with power := .off }).plat.trust.power = .off) ∧
    ((Tests.trust fun t => { t with power := .stopped }).plat.trust.power = .stopped) ∧
    (let s : State := { Tests.trust (fun t => { t with power := .off }) with agenda := [(.bootStage0, 0)] }
     s.plat.trust.power ≠ .on ∧ (match exec .bootStage0 s with | .next _ => true | _ => false) = true) := by decide +kernel

/-- A firmware that has signed: two identity indices used. -/
def Tests.signed : State := Tests.trust fun t => { t with identity := 2, usedIdentity := [1, 0] }

theorem Tests.witness_keysKept :
    Tests.signed.plat.trust.keysInv ∧ (match step Tests.signed with | .next _ => true | _ => false) = true := by
  refine ⟨by unfold Trust.keysInv; decide +kernel, by decide +kernel⟩

theorem Tests.witness_encodeDecodeRoundTrip :
    (Instr.join 3).wellFormed = true ∧ (encode (.join 3)).isSome = true ∧ (Instr.gwait 11).wellFormed = true ∧
    (encode (.gwait 11)).isSome = true := by decide +kernel

theorem Tests.witness_roundExact : Fmt.value .bf16 0x3F80 = .fin false 0x80 (-7) ∨ (∃ a b c, Fmt.value .bf16 0x3F80 = .fin a b c) := by
  right; exact ⟨_, _, _, rfl⟩

/-- The group of two threads has ranks 0 and 1, and each named pattern is in a form's byte. -/
theorem Tests.witness_permutationRanks : ((Tests.two id).team 11).length = 2 ∧
    ((List.range 8).all fun p => ({ d := 97, a := 0, b := 0, x := BitVec.ofNat 8 (32 * p + 5), g := 11, u := false } : Long).x.toNat / 32 = p) = true ∧
    (Instr.addZ ⟨97, 2548, 3021, 33, 12, false⟩).wellFormed = false := by decide +kernel

theorem Tests.witness_registerFrame :
    Tests.every bitRows RegRow.mayAlone (Tests.alone [⟨97, 0, 0, 0, 12, false⟩]) = true ∧
    (bitRows ⟨97, 0, 0, 0, 12, false⟩).all (fun r => !touchesSp r.uses.writes) = true ∧
    (bitRows ⟨40, 0, 0, 0, 12, false⟩).any (fun r => touchesSp r.uses.writes) = true := by decide +kernel

/-- The premises of the store's frame, in one space. -/
def Tests.mayStore (n : Instr) (f : Long) (off : Thread → Nat) (uses : List Span) (s0 : State) : Bool := match s0.soleOf { strict := uses } with
  | some (_, s, t) => n.wellFormed && !f.grouped && f.order = 0 && t.onCompute && t.usable (s.chip.bars t) { strict := uses } &&
      Memory.wf s.chip.mem.bytes && cellsWf t.lane &&
      (s.chip.accessStop t f.space (off t) (fWidth f.d / 8) .store).isNone &&
      (accessAddrs f.space (off t) (fWidth f.d / 8)).all fun a => match s.chip.locate t f.space (off t) a .store with
        | .inr (.phys p) => p.pbmt = 0
        | _ => true
  | none => false

/-- A thread whose stack window holds the bytes from 0x40 to 0x80. -/
def Tests.windowed : State := Tests.solo fun t =>
  { Tests.x567 0x40 7 0 t with win := { lo := 0x40, hi := 0x80, cap := 64, top := 0x80, fixed := true } }

theorem Tests.witness_storeFrame :
    ([0, 1, 2, 4].all fun x =>
      let f : Long := ⟨0xE60, 0xE50, 0, x, 12, false⟩
      let r : Long := ⟨0xE60, 0xE50, 0xE70, x, 12, false⟩
      Tests.mayStore (.st f) f (offImm f) [spanI f.a, spanI f.d] (Tests.solo (Tests.x567 16 7 0)) &&
      Tests.mayStore (.str r) r (offIdx r) [spanI r.a, spanI r.d, spanI r.b] (Tests.solo (Tests.x567 16 7 8))) = true ∧
    (let f : Long := ⟨0xE60, 0xE50, 0, 0, 12, false⟩
     Tests.mayStore (.st f) f (offImm f) [spanI f.a, spanI f.d] Tests.windowed &&
       match Tests.windowed.sole with
       | some (_, t) => decide (Tests.windowed.chip.locate t 0 0x40 0x47 .store = .inr (.win 0x47))
       | none => false) = true := by
  decide +kernel

/-- Fields of an add of three registers, of a floating add with mode 7, and of an atomic add. -/
def Tests.add3 : Long := ⟨0xE60, 0xE50, 0xE70, 0, 12, false⟩

/-- A register add beyond a footprint of 64 slices; with corrupted slice 80; a floating add whose dynamic mode is reserved; an atomic
add whose address is poisoned. -/
theorem Tests.witness_registerTraps :
    (let s := Tests.solo fun t => { t with tfoot := 64 }
     match s.soleOf { reads := [spanI Tests.add3.a, spanI Tests.add3.b] } with
     | some (_, _, t) => t.onCompute && decide (t.tfoot ≤ 127) && inSpan 127 (spanI Tests.add3.b) && (Instr.addZ Tests.add3).wellFormed
     | none => false) = true ∧
    (let s := Tests.solo fun t => { t with corrupt := 1 <<< 80 }
     match s.soleOf { reads := [spanI Tests.add3.a, spanI Tests.add3.b] } with
     | some (_, _, t) => t.onCompute && t.corrupt.getLsbD 80 && inSpan 80 (spanI Tests.add3.a) && decide (127 < t.tfoot)
     | none => false) = true ∧
    (let s := Tests.solo fun t => { t with fcsr := 0xE0 }
     let f : Long := ⟨0xE60, 0xE50, 0xE70, 7, 12, false⟩
     match s.soleOf { reads := [spanI Tests.add3.a, spanI Tests.add3.b] } with
     | some (_, _, t) => t.onCompute && (floatRows f).any fun r => r.instr.wellFormed && !r.legal [t] t
     | none => false) = true ∧
    (let s := Tests.solo fun t => { t with barPoison := BitVec.allOnes 64 }
     match s.soleOf { reads := [spanI Tests.add3.a, spanI Tests.add3.b] } with
     | some (_, _, t) => t.onCompute && t.slicePoison (s.chip.bars t) 80 && (Instr.aadd Tests.add3).wellFormed &&
         (atomicRows Tests.add3).any fun r => r.instr = .aadd Tests.add3 && r.uses.strict.any (inSpan 80)
     | none => false) = true := by decide +kernel

/-- The first of two members of each group before the other arrives; and a thread that is outside every group. -/
theorem Tests.witness_groupArrivals :
    (let s := { Tests.two id with issue := (Tests.one id id).issue }
     match s.sole with
     | some (_, t) => t.onCompute && !t.converged && (s.chip.gmOf t 11).getLsbD t.bit &&
         ((s.chip.membersOf t 11).any fun u => u.id ≠ t.id && !u.arrivedAt 11)
     | none => false) = true ∧
    (let s := Tests.solo id
     match s.sole with
     | some (_, t) => t.onCompute && !t.converged && !(s.chip.gmOf t 11).getLsbD t.bit &&
         (bitRows ⟨97, 0, 0, 0, 11, false⟩).all fun r => r.instr.wellFormed && t.usable (s.chip.bars t) r.uses && r.legal [t] t
     | none => false) = true := by decide +kernel

/-- Two participants, one in each part. -/
theorem Tests.witness_participantsInTurn : ({ parts := [1, 77], pc := 0x4000 } : Issue).parts = [1] ++ [77] := rfl

/-- A thread with a hook that takes cause 26. -/
def Tests.hooked (h : Bool) (u : Thread) : Thread := { u with
  tdeleg := 1#64 <<< 26, temu := 0x5000, tcause := if h then 1#64 <<< 63 else 0 }

theorem Tests.witness_hookEntryAndReturn :
    (match (Tests.solo (Tests.hooked false)).sole with
     | some (_, t) => t.onCompute && !t.tcause.getLsbD 63 && t.delegRead.getLsbD 26 && decide (t.temu ≠ 0) &&
         !(Tests.solo (Tests.hooked false)).chip.grows t 26 0
     | none => false) = true ∧
    (match (Tests.solo (Tests.hooked true)).soleOf {} with
     | some (_, _, t) => t.onCompute && t.tcause.getLsbD 63 && !(Tests.solo (Tests.hooked true)).chip.grows t 26 0
     | none => false) = true := by decide +kernel

theorem Tests.witness_trapRoutes :
    (let s := Tests.solo fun t => { t with tfoot := 64 }
     match s.sole with
     | some (_, t) => s.chip.grows t 24 127 && !s.chip.grows t 25 127 && decide (t.temu = 0)
     | none => false) = true := by decide +kernel

/-- A latency core's thread. -/
theorem Tests.witness_tretForms :
    (match (Tests.one (fun t => { t with place := .hart 0 0, mode := .m }) fun c => { c with harts := [{ started := true }] }).soleOf {} with
     | some (_, _, t) => t.onHart
     | none => false) = true ∧
    (match (Tests.solo (Tests.hooked true)).soleOf {} with | some (_, _, t) => t.onCompute && t.tcause.getLsbD 63 | none => false) = true ∧
    (match (Tests.solo id).soleOf {} with | some (_, _, t) => t.onCompute && !t.tcause.getLsbD 63 | none => false) = true := by decide +kernel

end Sys2Proof.Machine
end

