-- ==== Sys2Proof/Tests/WitnessThreads.lean ====
section
/-! SUPPORT. Witnesses for the rows of device registers, translation units, service calls, moves and places: for each row operands
and a small state in which its condition holds. -/

set_option Elab.async false
namespace Sys2Proof.Machine

/-- The physical address of a device register, by its offset in region 4 (R23). -/
def Tests.reg (o : Nat) : Word := BitVec.ofNat 64 (4 * 2 ^ 48 + o)

/-- The offsets of the registers, in the order of their rows; 0x500 names none. -/
def Tests.offsets : List Nat := [0x020, 0x028, 0x1010, 0x500] ++
  ((List.range 10).flatMap fun u => (unitFields u 0).map fun (k : Nat × (Unit_ → Unit_)) => 0x1100 + 0x80 * u + k.1) ++
  ((devFields 0).map fun (k : Nat × (DevRegs → DevRegs)) => k.1) ++ readOnly

theorem Tests.witness_deviceRegisters :
    Tests.offsets.length = (registerRows 0 0).length ∧
    (((List.range Tests.offsets.length).all fun k => match (registerRows (Tests.reg (Tests.offsets.getD k 0)) 0)[k]? with
      | some r => r.ok {}
      | none => false) = true) := by decide +kernel

/-- A thread of a compute core. -/
def Tests.thread : Thread := { id := 5, place := .slot 79 3 0 31, pc := 0x1000, tfoot := 512 }
/-- The package with some threads. -/
def Tests.with_ (ts : List Thread) (subject : Nat) : State := { subject := subject, chip := { threads := ts } }

/-- A fault record of unit 7 that its ring does not hold yet. -/
def Tests.record : FaultRec :=
  { number := 9, ctx := {}, va := 0x3000, gpa := 0, cause := 13, acc := .load, flags := 0, waiters := [5], locator := 0, written := false }
def Tests.miss : Miss := { id := 3, ctx := {}, vpage := 3, va := 0x3000, acc := .load, mode := .u, waiters := [5], cores := [79], done := none }
/-- Unit 7 of a state with subject 7. -/
def Tests.unit (f : Unit_ → Unit_) : State := (Tests.with_ [Tests.thread] 7).onUnit 7 f

theorem Tests.witness_translationUnits :
    Tests.covered (Tests.pairs [unitRows 7 9]
      [Tests.unit id, Tests.unit fun x => { x with records := [Tests.record], frbase := 0x4000 },
       Tests.unit fun x => { x with records := [Tests.record], frbase := 0x4000, frprod := 63 },
       Tests.unit fun x => { x with records := [Tests.record], frbase := 0x4000, frprod := 64 },
       Tests.unit fun x => { x with records := [Tests.record], frbase := 0x0080_0000_0000_0000 },
       Tests.unit fun x => { x with zpbase := 0x0080_0000_0000_0000, zpprod := 1 },
       Tests.unit fun x => { x with misses := [Tests.miss], zpbase := 0x8000, zpprod := 1 },
       Tests.unit fun x => { x with misses := [{ Tests.miss with done := some (.inr (13, 0, 0)) }] },
       (Tests.unit fun x => { x with zpbase := 0x8000, zpprod := 1 }).refit (fun m => { m with bytes := [(0x8007, 1)] }) id]) = true ∧
    Tests.covered (Tests.pairs [ackRows 5]
      [{}, ({} : State).onChip fun c => { c with xl := { c.xl with fences := [⟨0, [], false, none, none, none, false, []⟩], busy := some 5 } },
       ({} : State).onChip fun c => { c with
         xl := { c.xl with busy := some 5 }
         threads := [{ Tests.thread with place := .slot 0 0 0 0, ctx := { satp := 0x5000_0000_0000 } }]
         disp := { c.disp with ringReqs := [{ (default : RingReq) with thread := 5, dest := .memory 0 0 0x3000 }] } }]) = true ∧
    Tests.coveredFact (Tests.pairs [remoteRows 7 ⟨0, 0⟩ 0x3FFF 0xFFFF] [{}]) = true := by decide +kernel

/-- A thread that waits in a closed batch. -/
def Tests.batch (n since : Nat) (closed : Bool) : State :=
  (Tests.with_ [{ Tests.thread with wait := .batch 8 }] n).onChip fun c => { c with
    tick := 46, eng := { c.eng with batches := [⟨8, 79, 3, 0, 64, [5], since, closed⟩] } }

/-- A latency core whose thread stands, in M mode, at a join. -/
def Tests.hart : State :=
  (Tests.with_ [{ id := 5, place := .hart 0 0, mode := .m, pc := 0x1000, tfoot := 512 }] 5).onChip fun c => { c with
    harts := [{ ldie := 0, core := 0, started := true }], mem := { c.mem with bytes := [(0x1000, 0x0B), (0x1002, 0x30)] } }

theorem Tests.witness_serviceAndMoves : Tests.covered (Tests.pairs
    [serviceRows 5 1 2 ++ moveRows 0, serviceRows 5 1 2 ++ moveRows 0xFFFF_FFFF_FFFF_FFFF]
    [Tests.batch 5 0 true, Tests.batch 6 0 true, Tests.batch 8 0 false, Tests.batch 8 1 false, Tests.hart, Tests.with_ [Tests.thread] 5,
     Tests.with_ [{ Tests.thread with wait := .moving .migrate 0 0 1 }] 5,
     (Tests.batch 5 0 true).onChip fun c => { c with threads := c.threads.map fun t => { t with reqPending := true } },
     (Tests.with_ [{ Tests.thread with place := .outbound 1, wait := .moving .migrate 0 0 1 }] 1).onDev fun d => { d with
       arbase := [0, 0x4000] }]) = true := by decide +kernel

end Sys2Proof.Machine
end

