-- ==== Sys2Proof/Tests/WitnessWork.lean ====
section
/-! SUPPORT. Witnesses for the rows of grids, tasks, graphs, pre-emption, rings, engines and issue: for each row operands and a small
state in which its condition holds. -/

set_option Elab.async false
namespace Sys2Proof.Machine

/-- The package with a grid in slot 1, at a tick. -/
def Tests.grid (f : Grid → Grid) : State :=
  (Tests.with_ [] 1).onChip fun c => { c with tick := 10000, disp := { c.disp with grids := [f { slot := 1, gen := 1, cut := true }] } }

/-- The package of a first thread, whose root maps the start of HBM, without it; with the thread's context. -/
def Tests.mapped (f : Ctx → Chip → Chip) : State := { (({} : State).withFetchWord 64 0).onChip fun c =>
  f (c.ctxOf (c.threads.headD {})) { c with threads := [], groups := [], disp := { c.disp with blocks := [], grids := [] } } with
    subject := 1, issue := none }

/-- A complete grid that writes its record and word at two addresses. -/
def Tests.over (record word : Word) : State := Tests.mapped fun x c => { c with disp := { c.disp with
  grids := [{ slot := 1, gen := 1, cut := true, ctx := x, desc := { ({} : Descriptor) with srec := record, cword := word } }] } }

/-- The package with a grid that package 1 heads, cut or not, with some packages lost and some blocks. -/
def Tests.remoteGrid (cut : Bool) (lost : BitVec 32) (bs : List Block) : State :=
  ((Tests.with_ [] 131073).onChip fun c => { c with
    disp := { c.disp with grids := [{ slot := 131073, gen := 1, cut := cut }], blocks := bs } }).onRas fun r => { r with lost := lost }

theorem Tests.witness_gridEvents : Tests.covered (Tests.pairs
    [gridEventRows 1 [] [] ++ timeoutRows, gridEventRows 1 [] [false] ++ timeoutRows, gridEventRows 131073 [] [] ++ timeoutRows]
    [Tests.grid id, Tests.grid fun g => { g with cut := false }, Tests.grid fun g => { g with gated := true },
     Tests.grid fun g => { g with gated := true, desc := { g.desc with pkgmask := 3 } },
     Tests.grid fun g => { g with gated := true, retryAt := 10000 }, Tests.grid fun g => { g with gated := true, begun := true, retryAt := 10000 }, Tests.grid fun g => { g with gated := true, retryAt := 10001 },
     Tests.over 0 0x4000, Tests.over 0x5000 0x4000, Tests.over 0x5000 0, Tests.over 0xFFFF_0000_0000 0x4000, Tests.over 0 0xFFFF_0000_0000,
     Tests.grid fun g => { g with desc := { g.desc with nblk := 1 } }, Tests.remoteGrid true 0 [], Tests.remoteGrid false 0 [],
     Tests.remoteGrid true 2 [], Tests.remoteGrid true 2 [{ id := 3, owner := 131073 }]]) = true := by decide +kernel

/-- A grid of eight blocks of one thread with some undealt ranges, here and elsewhere, about a taker. -/
def Tests.undealt (here away : List Range) (taker : Nat) : State :=
  { (Tests.grid fun g => { g with
      dieRanges := here, elsewhere := away, desc := { g.desc with nblk := 8, nthr := 1, foot := 16, pkgmask := 7 } }).onDev
    fun d => { d with svsize := 35 } with subject := taker }

theorem Tests.witness_steal : Tests.coveredFact (Tests.pairs [stealFacts]
    [Tests.undealt [⟨1, 0, 8⟩] [] 0, Tests.undealt [⟨1, 0, 1⟩] [] 0, Tests.undealt [] [] 8, Tests.undealt [] [⟨1, 0, 4⟩, ⟨2, 4, 8⟩] 8,
     Tests.undealt [⟨1, 0, 8⟩] [] 17, Tests.undealt [] [⟨2, 0, 8⟩] 17, Tests.undealt [] [⟨1, 0, 8⟩] 17,
     { (Tests.remoteGrid true 0 []).onChip fun c => { c with disp := { c.disp with grids := c.disp.grids.map fun g =>
       { g with desc := { g.desc with pkgmask := 3 } } } } with subject := 8 }]) = true := by decide +kernel

/-- The package with a task that waits, or runs in block 3. -/
def Tests.task (f : Task → Task) (bs : List Block) : State :=
  (Tests.with_ [] 1).onChip fun c => { c with disp := { c.disp with
    tasks := [f { entry := 1, gen := 1, nthr := 1, foot := 16, argBytes := 8, cscope := 1 }], blocks := bs } }

/-- A block of the task, on core 639. -/
def Tests.taskBlock : Block := { id := 3, owner := 1, isTask := true, core := 639, igs := [(639, 0, 0)], nthr := 1 }

/-- A running task that writes a version of a region and its word, with a successor, and a completed reader of its version. -/
def Tests.tasks (scope : Nat) : State := Tests.mapped fun x c => { c with disp := { c.disp with
  regions := [{ base := 0x9000, length := 64, versions := 3, lw := 1, committed := 0 }]
  tasks := [{ entry := 1, gen := 1, order := 4, ctx := x, cscope := scope, cword := 0x6000, state := .running, core := 639
              regions := [{ base := 0x9000, length := 64, patch := 0, versions := 3, isWrite := true, renamable := true, bound := some 1 }] },
            { entry := 2, gen := 1, order := 5, edges := [1] },
            { entry := 3, gen := 1, order := 6, state := .completed
              regions := [{ base := 0x9000, length := 64, patch := 0, versions := 3, isWrite := false, renamable := true, bound := some 1 }] }]
  blocks := [Tests.taskBlock] } }

theorem Tests.witness_taskEvents : Tests.covered (Tests.pairs [taskEventRows]
    [Tests.task id [], Tests.task (fun k => { k with ready := true }) [],
     (Tests.task (fun k => { k with ready := true, level := 48 }) []).onRas fun r => { r with dies := 0xFF },
     Tests.task (fun k => { k with state := .running }) [Tests.taskBlock],
     Tests.task (fun k => { k with state := .running, spec := true }) [Tests.taskBlock], Tests.tasks 1, Tests.tasks 3,
     Tests.task (fun k => { k with state := .aborted }) [Tests.taskBlock],
     (Tests.task (fun k => { k with state := .running }) [Tests.taskBlock]).onChip fun c => { c with
       threads := [{ Tests.thread with place := .slot 639 0 0 0, block := some 3 }] }]) = true := by decide +kernel

/-- Staging at the start of L-die 0's memory: a graph image of one task, a patch table at 0x1000, and job 0's record. -/
def Tests.staging (f : DevRegs → DevRegs) : State :=
  let at_ (p : Nat × Byte) : Host.Cell := (2 * 2 ^ 48 + p.1, p.2)
  let bytes := (10, 1) :: [(0, 0x50), (1, 0x41), (2, 0x52), (3, 0x47), (4, 1), (8, 8), (12, 128), (104, 8), (106, 16), (110, 1), (112, 1),
    (0x1000, 0x42), (0x1001, 0x41), (0x1002, 0x54), (0x1003, 0x50)].map at_
  (Tests.mem fun m => { m with bytes := bytes }).onDev fun d => f { d with grstage := 0x0002_0000_0000_0000 }

theorem Tests.witness_graphReplays : Tests.covered (Tests.pairs [graphRows 0x0000_1000_0000_1000]
    [Tests.staging fun d => { d with grupsts := 1 }, Tests.staging fun d => { d with grupsts := 1, grupload := 8 },
     Tests.staging id, Tests.staging fun d => { d with graphs := [(0, [])] }, Tests.staging fun d => { d with grcode := 1 }]) = true := by
  decide +kernel

/-- A block of a grid with its thread, at a tick. -/
def Tests.block (f : Block → Block) (g : Thread → Thread) : State :=
  (Tests.with_ [g { Tests.thread with place := .slot 1 0 0 0, block := some 3, waitSince := 1 }] 3).onChip fun c => { c with
    tick := 100000
    disp := { c.disp with
      grids := [{ slot := 1, gen := 1, cut := true, dieRanges := [⟨0, 1, 2⟩] }]
      blocks := [f { id := 3, owner := 1, core := 1, igs := [(1, 0, 0)], nthr := 1 }] } }

/-- A block that idles, of a grid with undealt ranges here and elsewhere. -/
def Tests.yielding (here away : List Range) : State :=
  (Tests.block id fun t => { t with wait := .group 0 false }).onChip fun c => { c with disp := { c.disp with
    grids := c.disp.grids.map fun g => { g with dieRanges := here, elsewhere := away } } }

theorem Tests.witness_preemption : Tests.covered (Tests.pairs [preemptRows 5 1 0 0 ++ yieldRows]
    [Tests.block id id, Tests.block (fun b => { b with preempt := .requested 0 }) id,
     Tests.block (fun b => { b with preempt := .requested 0 }) fun t => { t with wait := .safePark },
     Tests.block (fun b => { b with preempt := .requested 0, preh := 0x8000 }) fun t => { t with wait := .safePark },
     Tests.block (fun b => { b with preempt := .saving, preh := 0x8000 }) fun t => { t with wait := .safePark },
     Tests.block (fun b => { b with preempt := .requested 0, yieldFor := true }) fun t => { t with wait := .safePark },
     Tests.block (fun b => { b with preempt := .saved, yieldFor := true }) fun t => { t with place := .saved },
     Tests.yielding [] [⟨1, 0, 2⟩], Tests.yielding [] [],
     Tests.block (fun b => { b with yieldFor := true }) id, Tests.block (fun b => { b with preempt := .handler 0 }) fun t => { t with handler := true },
     Tests.block (fun b => { b with preempt := .restoring 0 }) fun t => { t with handler := true },
     Tests.block id fun t => { t with wait := .slices 512 }, Tests.block id fun t => { t with wait := .group 0 false }]) = true := by
  decide +kernel

/-- The package with a ring request of a thread; header in HBM. -/
def Tests.ring (f : RingReq → RingReq) (bytes : List Host.Cell) : State :=
  (Tests.with_ [{ Tests.thread with wait := .ring 9 }] 9).onChip fun c => { c with
    mem := { c.mem with bytes := bytes }
    disp := { c.disp with ringReqs := [f { (default : RingReq) with id := 9, thread := 5, header := 0x2000 }] } }

/-- Headers of a full ring and a full heap of job 0, whose record is valid, and of an empty heap (R186). -/
def Tests.headers : List (List Host.Cell) := [
  [(10, 1), (0x2000, 1), (0x2001, 4), (0x2002, 4), (0x2008, 16)], [(10, 1), (0x2000, 2), (0x2001, 4), (0x2010, 16)],
  [(10, 1), (0x2000, 2), (0x2001, 4)]]

theorem Tests.witness_ringEvents : Tests.covered (Tests.pairs [ringEventRows 4 7 3]
    ([RingOp.ticket, .fill, .push, .pop, .kpush, .kpop].flatMap (fun o =>
        Tests.ring (fun q => { q with op := o }) [] :: Tests.headers.flatMap fun h =>
          [Tests.ring (fun q => { q with op := o }) h, Tests.ring (fun q => { q with op := o, noWait := true }) h]) ++
      [Tests.ring (fun q => { q with withdrawn := true, held := true }) [],
       ({} : State).onChip fun c => { c with disp := { c.disp with spilled := [⟨.walk, 7, 3, 0, 1⟩] } }])) = true := by decide +kernel

/-- The package with an operation of block 3 in the matrix queue of core 79, after some others. -/
def Tests.mat (k : MatKind) (started cancelled : Bool) (before : List MatOp) : State :=
  (Tests.with_ [] 9).onChip fun c => { c with
    disp := { c.disp with blocks := [{ id := 3, owner := 1, core := 79, igs := [(79, 0, 0)], nthr := 1, cancelled := cancelled }] }
    eng := { c.eng with mats := before ++ [⟨9, 79, 79, some 3, k, 255, 2, {}, .u, false, [], started, [], false⟩] } }

theorem Tests.witness_engineCompletions : Tests.covered (Tests.pairs [engineRows]
    [Tests.mat (.multiply 0 0 0) false false [], Tests.mat (.multiply 0 0 0) true false [], Tests.mat (.multiply 0 0 0) true true [],
     Tests.mat (.acczr 0 64) false false [], Tests.mat (.acczr 0 64) false true [],
     Tests.mat (.acczr 0 64) false false [⟨8, 79, 79, some 3, .fence, 255, 2, {}, .u, false, [], false, [], false⟩],
     (Tests.with_ [] 9).onChip fun c => { c with eng := { c.eng with
       copies := [⟨9, 79, [5], none, .plain, ⟨0, 0⟩, ⟨0, 64⟩, 1, 16, 0, 0, 255, 2, {}, .u⟩] } }]) = true := by decide +kernel

/-- Issue groups 0, active, and 1, pending and starved for some cycles, of a quarter, with threads of both. -/
def Tests.quarter (active starved : Nat) (ws : List Wait) : State := (({} : State).withFetchWord 64 0).onChip fun c =>
  let t := c.threads.headD {}
  { c with
    groups := (List.replicate active { core := 0, qtr := 0, ig := 0, gm := [] }) ++
      [{ core := 0, qtr := 0, ig := 1, gm := [], active := false, starved := starved }]
    threads := ({ t with place := .slot 0 0 1 0 } : Thread) :: ws.map fun w => { t with id := 60, place := .slot 0 0 0 0, wait := w } }

theorem Tests.witness_issue : Tests.covered (Tests.pairs [issueRows 0 0 0 1 15]
    [{}, Tests.with_ [{ Tests.thread with place := .slot 0 0 0 31, wait := .slices 512, tfoot := 16 }] 0, Tests.quarter 0 0 [], Tests.quarter 1 0 [],
     Tests.quarter 1 0 [.group 0 false], Tests.quarter 1 512 [.ready]]) = true ∧
    Tests.coveredFact (Tests.pairs [issueFacts 0 0 .perLane, issueFacts 0 0 .uniform] [Tests.quarter 1 0 [.ready]]) = true := by decide +kernel

/-- A thread that waits to be placed. -/
def Tests.inbound : Thread := { Tests.thread with place := .inbound, tfoot := 16 }

/-- A state whose save areas have room, about a die. -/
def Tests.saves (s : State) (die : Nat) : State := { s.onDev fun d => { d with svsize := 35 } with subject := die }

theorem Tests.witness_placement : Tests.coveredFact (Tests.pairs [placeRows 1 1]
    [{}, ({ subject := 7 } : State).onRas fun r => { r with dies := 0x80 },
     Tests.saves (Tests.grid fun g => { g with dieRanges := [⟨1, 0, 1⟩], desc := { g.desc with nblk := 1, nthr := 1, foot := 16 } }) 1,
     Tests.saves (Tests.task (fun k => { k with ready := true }) []) 0, Tests.saves (Tests.task (fun k => { k with ready := true }) []) 7,
     Tests.block (fun b => { b with preempt := .saved }) fun t => { t with place := .saved },
     Tests.with_ [{ Tests.inbound with cancelled := true }] 5, Tests.with_ [Tests.inbound] 5,
     (Tests.block id fun t => { t with id := 3, place := .inbound, held := some (1, 0, 0, 0) }),
     (Tests.block id fun t => { t with id := 3, place := .inbound }),
     (Tests.with_ [{ Tests.inbound with hint := 0x4000_0000_0000_0002 }] 5).onRas fun r => { r with dies := 0xFF },
     (Tests.with_ [Tests.inbound] 5).onRas fun r => { r with dies := 0xFF }]) = true := by decide +kernel

/-- A block that starts, with one thread. -/
theorem Tests.witness_startStates :
    let s := Tests.saves (Tests.grid fun g => { g with desc := { g.desc with nthr := 1, foot := 16 } }) 1
    ((s.chip.startBlock ((s.chip.grid? 1).getD default) 0 0 [80] ⟨[(80, 0, 0)], 0, 0, 0, 0, 0⟩).map fun d => d.threads.length)
      = some 1 := by decide +kernel

end Sys2Proof.Machine
end

