-- ==== Sys2Proof/Tests/WitnessTraps.lean ====
section
/-! SUPPORT. Witnesses for what stops an instruction: arrivals at a group, the traps beyond an instruction's slices, the faults of
accesses, and the traps and standard instructions of a latency core. -/

set_option Elab.async false
namespace Sys2Proof.Machine

/-! ## Arrivals -/

/-- The premises of an arrival that meets nothing before cause 26. -/
def Tests.comes (n : Instr) (u : Uses) (legal : Thread → Bool) (f : Long) (s0 : State) : Option (State × Thread) :=
  match s0.soleOf u with
  | some (_, s, t) => if n.wellFormed && f.grouped && t.onCompute && !t.converged && t.usable (s.chip.bars t) u && legal t then some (s, t) else none
  | none => none

/-- Which clause of an arrival applies: 0 outside the mask, 1 before the last member, 2 as the last one, apart from another. -/
def Tests.arrivalOf (k : Nat) (p : State × Thread) : Option Nat :=
  let others := (p.1.chip.membersOf p.2 k).filter fun v => v.id ≠ p.2.id
  if !(p.1.chip.gmOf p.2 k).getLsbD p.2.bit then some 0
  else if others.any fun v => !v.arrivedAt k then some 1
  else if others.any fun v => v.arrivedGwait k || decide (v.pc ≠ p.2.pc) then some 2
  else none

/-- A thread outside every mask; the first of two members; and the last one, where the other waits at another instruction. -/
def Tests.arrivals (f : Thread → Thread) : List State :=
  let half : State := { Tests.two f with issue := (Tests.one f id).issue }
  [Tests.solo f, half, half.onChip fun c => { c with threads := c.threads.map fun t =>
    if t.id = 77 then { t with wait := .group 11 true, pc := 0x5000 } else t }]

/-- Every row of a family meets each clause of an arrival. -/
def Tests.everyArrival {α : Type} (rows : Long → List α) (form : α → Instr × Uses × (Thread → Bool)) (l : List (Long × (Thread → Thread))) : Bool :=
  [0, 1, 2].all fun clause => Tests.every rows
    (fun r f s => let q := form r; (Tests.comes q.1 q.2.1 q.2.2 f s).bind (Tests.arrivalOf f.g.toNat) = some clause)
    (l.flatMap fun p => (Tests.arrivals p.2).map fun s => (p.1, s))

theorem Tests.witness_registerArrivals :
    Tests.everyArrival (fun f => bitRows f ++ packedRows f ++ voteRows f) (fun r => (r.instr, r.uses, fun t => r.legal [t] t))
      [(⟨97, 0, 0, 0, 11, false⟩, id)] = true ∧
    Tests.everyArrival arithRows (fun r => (r.instr, r.uses, fun t => r.legal [t] t))
      [(⟨97, 2548, 3021, 147, 11, false⟩, id)] = true ∧
    Tests.everyArrival (fun f => floatRows f ++ compareRows f ++ sumRows f) (fun r => (r.instr, r.uses, fun t => r.legal [t] t))
      [(⟨97, 0, 3021, 147, 11, false⟩, id)] = true ∧
    Tests.everyArrival convertRows (fun r => (r.instr, r.uses, fun t => r.legal [t] t)) [(⟨97, 0, 3021, 3, 11, false⟩, id)] = true ∧
    Tests.everyArrival scaledRows (fun r => (r.instr, r.uses, fun t => r.legal [t] t)) [(⟨97, 1012, 973, 3, 11, false⟩, id)] = true ∧
    Tests.everyArrival blockRows (fun r => (r.instr, r.uses, fun t => r.legal [t] t))
      [(⟨1890, 0, 1629, 67, 11, false⟩, id), (⟨1890, 0, 1629, 3, 11, false⟩, id)] = true := by decide +kernel

theorem Tests.witness_memoryArrivals :
    Tests.everyArrival loadRows (fun r => (r.instr, r.uses, fun _ => true)) [(⟨513, 1115, 1630, 0, 11, true⟩, id), (⟨0, 1115, 1630, 0, 11, true⟩, id)] = true ∧
    Tests.everyArrival atomicRows (fun r => (r.instr, r.uses, fun _ => true)) [(⟨2593, 2142, 2609, 1, 11, false⟩, id)] = true ∧
    Tests.everyArrival (fun f => ringRows f 5 6 7 false |>.take 6) (fun r => (r.instr, r.uses, fun _ => true))
      [(Tests.ringWord 0xE80#12 0#12 |> fun f => { f with g := 11 }, id), (Tests.ringWord 0xE80#12 0xEC0#12 |> fun f => { f with g := 11 }, id)] = true := by
  decide +kernel

theorem Tests.witness_engineArrivals :
    Tests.everyArrival (fun f => tileRows f ++ copyRows f ++ matrixRows f) (fun r => (r.instr, r.uses, r.legal))
      (Tests.operands.flatMap fun o => [0, 1, 8].flatMap fun x => (Tests.words x 11).map fun f => (f, Tests.x567 o.1 o.2.1 o.2.2)) = true ∧
    Tests.everyArrival (fun f => fragmentRows f ++ [fenGroupRow f]) (fun r => (r.instr, r.uses, r.legal))
      [(⟨513, 0, 0, 0, 11, false⟩, id), (⟨97, 0, 0, 0, 11, false⟩, id)] = true := by decide +kernel

/-- Two threads whose trunp reads a reserved byte while TTRAP is set. -/
theorem Tests.witness_spoilt : [0, 3, 67].any (fun x =>
    let f : Long := ⟨1890, 0, 1629, BitVec.ofNat 8 x, 11, false⟩
    (blockRows f).any fun r => RegRow.maySpoil r f ((Tests.two id).onChip fun c => { c with threads := c.threads.map fun t =>
      { t with tmode := 4, regs := writeSlices 0 (fStart 1629) 16 0x80F5 } })) = true := by decide +kernel

/-- A multiply whose core's queue holds 16 operations of the block. -/
theorem Tests.witness_matrixWait :
    Tests.coveredAct ((Tests.operands.flatMap fun o => (Tests.words 0 12).map fun f => (f, Tests.x567 o.1 o.2.1 o.2.2)).map fun p =>
      (matrixWaitRows p.1, (Tests.solo p.2).onChip fun c => { c with eng := { c.eng with
        mats := List.replicate 16 ⟨9, 0, 0, some 3, .acczr 0 64, 255, 2, {}, .u, false, [], false, [], false⟩ } })) = true := by decide +kernel

end Sys2Proof.Machine
end

