-- ==== Sys2Proof/Tests/WitnessFaults.lean ====
section
/-! SUPPORT. Witnesses for the traps beyond an instruction's slices and for the faults of accesses: for each row a state in which a
thread alone meets its first check, and for later checks some of each kind. -/

set_option Elab.async false
namespace Sys2Proof.Machine

/-- A thread alone meets the conditions of a row's traps, and takes one. -/
def TrapRow.may (r : TrapRow) (s0 : State) : Prop :=
  r.instr.wellFormed = true ∧ ∃ i s t, s0.aloneOf i r.uses s t ∧ t.onCompute = true ∧ t.usable (s.chip.bars t) r.uses = true ∧
    r.legal t = true ∧ ∃ cause v, r.trap s.chip t cause v

/-- The state and the thread of a row's conditions. -/
def TrapRow.sees (r : TrapRow) (s0 : State) : Option (Chip × Thread) := match s0.soleOf r.uses with
  | some (_, s, t) => if r.instr.wellFormed && t.onCompute && t.usable (s.chip.bars t) r.uses && r.legal t then some (s.chip, t) else none
  | none => none

/-- A row whose conditions are met, with a property under which it traps. -/
theorem TrapRow.may_of {r : TrapRow} {s0 : State} (p : Chip → Thread → Bool) (h : (r.sees s0).any (fun q => p q.1 q.2) = true)
    (ht : ∀ c t, p c t = true → ∃ cause v, r.trap c t cause v) : r.may s0 := by
  unfold TrapRow.sees at h
  cases hs : s0.soleOf r.uses with
  | none => simp [hs] at h
  | some q =>
    obtain ⟨i, s, t⟩ := q
    simp only [hs] at h
    split at h
    · rename_i hc
      simp only [Bool.and_eq_true] at hc
      obtain ⟨⟨⟨h1, h2⟩, h3⟩, h4⟩ := hc
      exact ⟨h1, i, s, t, s0.soleOf_aloneOf _ i s t hs, h2, h3, h4, ht _ _ (by simpa using h)⟩
    · simp at h

/-- The first check fails. -/
theorem firstOf_head {p : Nat × (Nat → Prop)} {rest : List (Nat × (Nat → Prop))} {v : Nat} (h : p.2 v) : ∃ c v, firstOf (p :: rest) c v :=
  ⟨p.1, v, [], p, rest, rfl, rfl, h, by simp⟩

/-- The second check fails, and the first one does not. -/
theorem firstOf_second {p q : Nat × (Nat → Prop)} {rest : List (Nat × (Nat → Prop))} {v : Nat} (hp : ∀ w, ¬ p.2 w) (h : q.2 v) :
    ∃ c v, firstOf (p :: q :: rest) c v := ⟨q.1, v, [p], q, rest, rfl, rfl, h, by simpa using hp⟩

/-- A thread without a block, with some registers. -/
def Tests.bare (a b d : Nat) : State := Tests.one (Tests.x567 a b d) id

/-- A thread without a block. -/
def Tests.noBlock (c : Chip) (t : Thread) : Bool := (c.blockOf t).isNone

/-- Such a thread has no block, no tile and no phase barrier. -/
theorem Tests.noBlock_of {c : Chip} {t : Thread} (h : Tests.noBlock c t = true) : c.blockOf t = none ∧ c.tilesOf t = [] ∧ c.nbarOf t = 0 := by
  have hb : c.blockOf t = none := by simpa [Tests.noBlock] using h
  simp [Chip.tilesOf, Chip.nbarOf, hb]

/-- Every row of a list is met at its first check without a block. -/
theorem Tests.noBlock_may {r : TrapRow} {s0 : State} (h : (r.sees s0).any (fun q => Tests.noBlock q.1 q.2) = true)
    (ht : ∀ c t, Tests.noBlock c t = true → ∃ cause v, r.trap c t cause v) : r.may s0 := TrapRow.may_of Tests.noBlock h ht

theorem Tests.witness_barrierTraps : ∀ q ∈ barrierTraps 3 5, q.may (Tests.bare 0 0 0) := by
  simp only [barrierTraps, List.forall_mem_cons, List.not_mem_nil, false_implies, implies_true, and_true]
  refine ⟨?_, ?_, ?_, ?_, ?_⟩ <;>
    exact Tests.noBlock_may (by decide +kernel) fun c t h => firstOf_head ⟨rfl, by simp [Tests.noBlock_of h]⟩

/-- Fields with x5 as the first source. -/
def Tests.from5 (d b : BitVec 12) (x : BitVec 8) : Long := ⟨d, 0xE50, b, x, 12, false⟩

theorem Tests.witness_tileTraps : (∀ q ∈ (tileTraps (Tests.from5 0 0 0)).take 2, q.may (Tests.bare 0 0 0)) ∧
    ∀ q ∈ (tileTraps (Tests.from5 513 0 0)).drop 2, q.may (Tests.bare 0 0 0) := by
  simp only [tileTraps, List.take_succ_cons, List.take_zero, List.drop_succ_cons, List.drop_zero, List.forall_mem_cons, List.not_mem_nil,
    false_implies, implies_true, and_true]
  refine ⟨⟨?_, ?_⟩, ?_, ?_⟩ <;>
    exact Tests.noBlock_may (by decide +kernel) fun c t h => firstOf_head ⟨rfl, by simp [Tests.noBlock_of h]⟩

/-- Fields with x6, x5 and x7. -/
def Tests.fields3 (x : BitVec 8) : Long := ⟨0xE60, 0xE50, 0xE70, x, 12, false⟩

theorem Tests.witness_copyTraps :
    (∀ q ∈ (copyTraps (Tests.fields3 0)).take 2, q.may (Tests.bare 0 0 16)) ∧
    (∀ q ∈ ((copyTraps (Tests.fields3 1)).drop 2).take 1, q.may (Tests.bare 0 0 16)) ∧
    ∀ q ∈ (copyTraps (Tests.fields3 8)).drop 3, q.may (Tests.bare 0 0 16) := by
  have key : ∀ (f : Long) (k : CopyForm) (c : Chip) (t : Thread), (Tests.noBlock c t && decide (copyPb k (copyWords f t).b ≠ 255)) = true →
      (copyOf f k t (c.tilesOf t) 0).pb ≠ 255 ∧ c.nbarOf t ≤ (copyOf f k t (c.tilesOf t) 0).pb := by
    intro f k c t h
    simp only [Bool.and_eq_true, decide_eq_true_eq] at h
    rw [(Tests.noBlock_of h.1).2.2]
    refine ⟨?_, Nat.zero_le _⟩
    cases k <;> exact h.2
  simp only [copyTraps, List.take_succ_cons, List.take_zero, List.drop_succ_cons, List.drop_zero, List.forall_mem_cons, List.not_mem_nil,
    false_implies, implies_true, and_true]
  refine ⟨⟨?_, ?_⟩, ?_, ?_⟩ <;>
    exact TrapRow.may_of _ (by decide +kernel) fun c t h => firstOf_head ⟨rfl, key _ _ c t h⟩

/-- A thread without a block whose descriptor has a reserved bit (R241); a transfer that names phase barrier 0 (R378). -/
theorem Tests.witness_matrixTraps :
    (∀ q ∈ (matrixTraps (Tests.from5 0 0 0)).take 1, q.may (Tests.bare 1 0 0)) ∧
    (∀ q ∈ ((matrixTraps (Tests.from5 0 0xE70 0)).drop 1).take 1, q.may (Tests.bare 1 0 0)) ∧
    (∀ q ∈ (((matrixTraps (Tests.fields3 0)).drop 2).take 2 ++ (matrixTraps (Tests.fields3 0)).drop 5), q.may (Tests.bare 0 0 16)) ∧
    ∀ q ∈ ((matrixTraps ⟨0xE60, 0, 0xE70, 0, 12, false⟩).drop 4).take 1, q.may (Tests.bare 0 0 16) := by
  have key : ∀ (f : Long) (c : Chip) (t : Thread), (Tests.noBlock c t && decide ((copyWords f t).b / 2 ^ 32 % 256 ≠ 255)) = true →
      (copyWords f t).b / 2 ^ 32 % 256 ≠ 255 ∧ c.nbarOf t ≤ (copyWords f t).b / 2 ^ 32 % 256 := by
    intro f c t h
    simp only [Bool.and_eq_true, decide_eq_true_eq] at h
    rw [(Tests.noBlock_of h.1).2.2]
    exact ⟨h.2, Nat.zero_le _⟩
  have bad : ∀ (f : Long) (t : Thread), decide ((matDesc (srcOf t.regs f.a 64 false)).reserved ≠ 0) = true →
      (matDesc (srcOf t.regs f.a 64 false)).reserved ≠ 0 := fun f t h => of_decide_eq_true h
  simp only [matrixTraps, List.take_succ_cons, List.take_zero, List.drop_succ_cons, List.drop_zero, List.cons_append, List.nil_append,
    List.forall_mem_cons, List.not_mem_nil, false_implies, implies_true, and_true]
  refine ⟨?_, ?_, ⟨?_, ?_, ?_⟩, ?_⟩
  · exact TrapRow.may_of (fun _ t => _) (by decide +kernel) fun c t h => firstOf_head ⟨rfl, .inl (bad _ t h)⟩
  · exact TrapRow.may_of (fun _ t => _) (by decide +kernel) fun c t h => firstOf_head ⟨rfl, .inl (bad _ t h)⟩
  all_goals exact TrapRow.may_of _ (by decide +kernel) fun c t h => firstOf_head ⟨rfl, key _ c t h⟩

/-- An access of space 1 by a thread without a block. -/
theorem Tests.witness_accessTraps :
    (∀ q ∈ (accessTraps ⟨513, 1115, 1630, 1, 12, false⟩).take 4, q.may (Tests.bare 0 0 0)) ∧
    ∀ q ∈ (accessTraps ⟨2593, 2142, 2609, 1, 12, false⟩).drop 4, q.may (Tests.bare 0 0 0) := by
  have key : ∀ (c : Chip) (t : Thread) (off n : Nat), 0 < n → Tests.noBlock c t = true → ∃ j, j < n ∧ c.offSpace t 1 (off + j) :=
    fun c t off n hn h => ⟨0, hn, by simp [Chip.offSpace, (Tests.noBlock_of h).1]⟩
  simp only [accessTraps, List.take_succ_cons, List.take_zero, List.drop_succ_cons, List.drop_zero, List.forall_mem_cons, List.not_mem_nil,
    false_implies, implies_true, and_true]
  refine ⟨⟨?_, ?_, ?_, ?_⟩, ?_, ?_, ?_, ?_, ?_, ?_, ?_, ?_, ?_, ?_, ?_, ?_, ?_⟩ <;>
    exact Tests.noBlock_may (by decide +kernel) fun c t h => firstOf_head ⟨rfl, key c t _ _ (by decide) h⟩

/-- An add of 16 bits at home, in memory of the package that takes requests. -/
def Tests.narrowAdd : Long := ⟨0x641, 0xE50, 0x651, 0, 12, false⟩

/-- The target of that add is reached and takes requests. -/
def Tests.reached (c : Chip) (t : Thread) : Bool :=
  let a := srcOf t.regs 0xE50 64 false
  decide (a % 2 = 0) && decide (c.accessStop t Tests.narrowAdd.space a (fWidth Tests.narrowAdd.d / 8) .store = none) &&
    match c.locate t Tests.narrowAdd.space a a .store with
    | .inr (.phys p) => (match c.targetOf t p.pa with
      | .main l => !c.refuses (c.homeOf l) && !c.lineHeldFor t.id (l / 64) true && !c.recallWaits (l / 64)
      | _ => false)
    | _ => false

/-- An atomic at address 1, and one of 16 bits in main memory. -/
theorem Tests.witness_atomicTraps :
    (∀ q ∈ ((accessTraps ⟨2593, 0xE50, 2609, 0, 12, false⟩).drop 4).take 1, q.may (Tests.bare 1 0 0)) ∧
    ∀ q ∈ ((accessTraps Tests.narrowAdd).drop 4).take 1, q.may (Tests.bare 0x100 0 0) := by
  simp only [accessTraps, List.take_succ_cons, List.take_zero, List.drop_succ_cons, List.drop_zero, List.forall_mem_cons, List.not_mem_nil,
    false_implies, implies_true, and_true]
  refine ⟨?_, ?_⟩
  · exact TrapRow.may_of (fun _ t => decide (srcOf t.regs 0xE50 64 false % (fWidth 2593 / 8) ≠ 0)) (by decide +kernel) fun c t h =>
      firstOf_second (fun w => by rintro ⟨-, j, -, hj⟩; exact hj) ⟨rfl, of_decide_eq_true h⟩
  · refine TrapRow.may_of Tests.reached (by decide +kernel) fun c t h => ?_
    unfold Tests.reached at h
    simp only [Bool.and_eq_true, decide_eq_true_eq] at h
    obtain ⟨⟨h0, h1⟩, h2⟩ := h
    refine ⟨30, _, [_, _], _, [], rfl, rfl, ⟨rfl, h1, ?_⟩, ?_⟩
    · split at h2
      · rename_i p hp
        split at h2
        · rename_i l hl
          simp only [Bool.and_eq_true, Bool.not_eq_true'] at h2
          refine ⟨p, hp, ?_⟩
          rw [hl]
          exact ⟨h2.1.1, h2.1.2, h2.2, .inl (by decide)⟩
        · simp at h2
      · simp at h2
    · intro q hq w
      rcases List.mem_pair.1 hq with rfl | rfl
      · rintro ⟨-, j, -, hj⟩
        exact hj
      · rintro ⟨-, h⟩
        exact h h0

/-- The lowest offset of a range that lies beyond some bytes. -/
theorem lowest_beyond {lo hi own : Nat} (h : max lo own < hi) : lowest (fun o => lo ≤ o ∧ o < hi ∧ own ≤ o) (max lo own) :=
  ⟨⟨Nat.le_max_left _ _, h, Nat.le_max_right _ _⟩, fun _ hw => Nat.max_le.2 ⟨hw.1, hw.2.2⟩⟩

/-- A thread of a grid's block that has phase barrier 1, which is poisoned. -/
def Tests.badBarrier (c : Chip) (t : Thread) : Bool := match c.blockOf t with
  | some b => !b.isTask && decide (1 < b.nbar) && c.pbPoisoned b 1
  | none => false

/-- The bytes of a thread's block that tiles may take. -/
def Tests.tileBytes (c : Chip) (t : Thread) : Nat := match c.blockOf t with | some b => (b.spbytes + 63) / 64 * 64 | none => 0

/-- The word of a tile instruction. -/
def Tests.tileWord (t : Thread) : Nat := srcOf t.regs 0xE50 64 false
/-- Where it lays the tile, and in how many bytes. -/
def Tests.tileSpan (t : Thread) : Nat × Nat :=
  (64 * (Tests.tileWord t / 64 % 2 ^ 14), (Tests.tileWord t / 2 ^ 20 % 4096 + 1) * (16 * (Tests.tileWord t / 2 ^ 32 % 512 + 1)))

/-- A poisoned phase barrier; a tile word that names 4096 rows of a block of 4096 bytes, and one with rows of 16 bytes for a swizzle of
64. -/
theorem Tests.witness_blockTraps :
    (∀ q ∈ ((barrierTraps 1 5).drop 1).take 3,
      q.may ((Tests.solo id).onChip fun c => c.setPoison (c.pbLoc (c.disp.blocks.headD {}) 1))) ∧
    (∀ q ∈ (tileTraps (Tests.from5 0 0 0)).take 1, q.may (Tests.solo (Tests.x5 (4095 * 2 ^ 20)))) ∧
    ∀ q ∈ (tileTraps (Tests.from5 0 0 0)).take 1, q.may (Tests.solo (Tests.x5 (2 * 2 ^ 41))) := by
  have bad : ∀ c t, Tests.badBarrier c t = true → ∃ b, c.blockOf t = some b ∧ b.isTask = false ∧ 1 < b.nbar ∧ c.pbPoisoned b 1 = true := by
    intro c t h
    unfold Tests.badBarrier at h
    split at h
    · rename_i b hb
      simp only [Bool.and_eq_true, Bool.not_eq_true', decide_eq_true_eq] at h
      exact ⟨b, hb, h.1.1, h.1.2, h.2⟩
    · simp at h
  refine ⟨?_, ?_, ?_⟩
  · simp only [barrierTraps, List.take_succ_cons, List.take_zero, List.drop_succ_cons, List.drop_zero, List.forall_mem_cons, List.not_mem_nil,
      false_implies, implies_true, and_true]
    refine ⟨?_, ?_, ?_⟩
    all_goals
      refine TrapRow.may_of Tests.badBarrier (by decide +kernel) fun c t h => ?_
      obtain ⟨b, hb, h1, h2, h3⟩ := bad c t h
      exact firstOf_second (fun w => by rw [hb]; rintro ⟨-, h | h⟩; exact absurd h (by simp [h1]); exact absurd h2 (Nat.not_lt.2 h)) ⟨b, hb, h3, rfl⟩
  · simp only [tileTraps, List.take_succ_cons, List.take_zero, List.forall_mem_cons, List.not_mem_nil, false_implies, implies_true, and_true]
    refine TrapRow.may_of (fun c t => decide (Tests.tileWord t % 64 < (c.tilesOf t).length) &&
      decide (max (Tests.tileSpan t).1 (Tests.tileBytes c t) < (Tests.tileSpan t).1 + (Tests.tileSpan t).2)) (by decide +kernel) fun c t h => ?_
    simp only [Bool.and_eq_true, decide_eq_true_eq] at h
    exact firstOf_second (fun w hw => absurd h.1 (Nat.not_lt.2 hw.2)) (lowest_beyond h.2)
  · simp only [tileTraps, List.take_succ_cons, List.take_zero, List.forall_mem_cons, List.not_mem_nil, false_implies, implies_true, and_true]
    refine TrapRow.may_of (fun c t => decide (Tests.tileWord t % 64 < (c.tilesOf t).length) &&
      decide ((Tests.tileSpan t).1 + (Tests.tileSpan t).2 ≤ Tests.tileBytes c t) && decide (Tests.tileWord t / 2 ^ 41 % 4 = 2) &&
      decide ((16 * (Tests.tileWord t / 2 ^ 32 % 512 + 1)) % 64 ≠ 0)) (by decide +kernel) fun c t h => ?_
    simp only [Bool.and_eq_true, decide_eq_true_eq] at h
    obtain ⟨⟨⟨h1, h2⟩, h3⟩, h4⟩ := h
    refine ⟨27, _, [_, _], _, [], rfl, rfl, ⟨rfl, ?_⟩, ?_⟩
    · show _ % (match Tests.tileWord t / 2 ^ 41 % 4 with | 0 => 16 | 2 => 64 | _ => 128) ≠ 0
      rw [h3]
      exact h4
    · intro q hq w
      rcases List.mem_pair.1 hq with rfl | rfl
      · exact fun hw => absurd h1 (Nat.not_lt.2 hw.2)
      · exact fun hw => absurd (Nat.lt_of_lt_of_le hw.1.2.1 h2) (Nat.not_lt.2 hw.1.2.2)

/-! ## Groups, accesses and faults -/

/-- The premises of a group whose members give different words. -/
def Tests.mayTear (n : Instr) (f : Long) (u : Uses) (legal : Thread → Bool) (differ : Thread → Thread → Bool) (s0 : State) : Bool :=
  let (s, ts) := s0.teamOf f.g.toNat u
  n.wellFormed && f.grouped && (ts.all fun t => t.usable (s.chip.bars t) u && legal t) && ts.any fun t => ts.any fun v => differ t v

theorem Tests.witness_tornWords :
    let s := (Tests.two id).onChip fun c => { c with threads := c.threads.map fun t => Tests.x5 (if t.id = 77 then 5 else 6) t }
    let w (t : Thread) : Nat := srcOf t.regs 0xE50 64 false
    let a : List Span := [spanI 0xE50]
    let f : Long := ⟨0, 0xE50, 0, 0, 11, false⟩
    let d : Long := ⟨513, 0xE50, 0, 0, 11, false⟩
    let b : Long := ⟨0, 0xE50, 0xE70, 0, 11, false⟩
    Tests.mayTear (.tdef f) f { strict := a } (fun t => decide (w t < 2 ^ 43)) (fun t v => decide (w t ≠ w v)) s = true ∧
    Tests.mayTear (.trel f) f { strict := a } (fun t => decide (w t < 64)) (fun t v => decide (w t ≠ w v)) s = true ∧
    Tests.mayTear (.mld d) d { strict := a, writes := [spanI 513] } (fun t => decide (w t < 2 ^ 31)) (fun t v => decide (w t ≠ w v)) s = true ∧
    Tests.mayTear (.mldt d) d { strict := a, writes := [spanI 513] } (fun t => decide (w t < 2 ^ 31)) (fun t v => decide (w t ≠ w v)) s = true ∧
    Tests.mayTear (.mma f) f { strict := a } (fun _ => true) (fun t v => decide (w t ≠ w v)) s = true ∧
    Tests.mayTear (.mmas b) b { strict := a ++ [spanI 0xE70, (fStart 0xE70 + 16, 16)] }
      (fun t => decide (readSlices t.regs (fStart 0xE70 + 16) 64 < 2 ^ 32)) (fun t v => decide (w t ≠ w v)) s = true := by decide +kernel

/-- The condition of a memory row that something stops. -/
def MemRow.mayStop (r : MemRow) (f : Long) (s0 : State) : Bool := match s0.soleOf r.uses with
  | some (_, s, t) => r.instr.wellFormed && !f.grouped && t.usable (s.chip.bars t) r.uses && (r.stop s.chip [t] t).isSome
  | none => false

theorem Tests.witness_memoryStops :
    Tests.every (fun f => (loadRows f).take 4) MemRow.mayStop [(⟨513, 0xE50, 1630, 0, 12, false⟩, Tests.solo (Tests.x5 (2 ^ 40)))] = true ∧
    Tests.every atomicRows MemRow.mayStop [(⟨2593, 0xE50, 2609, 0, 12, false⟩, Tests.solo (Tests.x5 1))] = true := by decide +kernel

/-- Bytes that are reached, that miss, that lie in the on-die memory of a thread in U mode, and I/O that takes whole aligned dwords only. -/
theorem Tests.witness_accessChecks :
    (let s := Tests.solo id
     match s.sole with
     | some (_, t) => (s.chip.accessStop t 0 0x100 8 .load).isNone && (s.chip.accessStop t 0 (2 ^ 40) 8 .load).isSome &&
         !t.inWindow (2 ^ 40) && (s.chip.xlate t (2 ^ 40) .load).isNone && (s.chip.xlate t 0x100 .load).isSome
     | none => false) = true ∧
    (let s := Tests.hart
     match s.chip.threads with
     | t :: _ => !t.inWindow (4 * 2 ^ 48 + 9) && (match s.chip.xlate t (4 * 2 ^ 48 + 9) .load with
         | some p => decide (s.chip.targetOf t p.pa = .io) && !ioFits (4 * 2 ^ 48 + 9) 8 p.pa
         | none => false) && (s.chip.accessStop t 0 (4 * 2 ^ 48 + 9) 8 .load).isSome
     | [] => false) = true := by decide +kernel

/-- A fault of a page that no record names, of one that a record names, and one that finds 4,096 records. -/
theorem Tests.witness_parksOn :
    (let t := Tests.thread
     let c (n : Nat) : Chip := { threads := [t], xl := { ({} : State).chip.xl with
       units := ({} : State).chip.xl.units.map fun u => { u with records := List.replicate n Tests.record } } }
     decide ((c 0).thread? t.id = some t ∧ t.place = .slot 79 3 0 31 ∧ t.handler = false ∧ ((c 0).unit (79 / 80)).records = []) &&
       ((c 1).unit (79 / 80)).records.any (fun r => r.ctx.same t.ctx && decide (r.va.toNat / 4096 = 0x3008 / 4096) && decide (r.acc = .load)) &&
       decide (4096 ≤ ((c 4096).unit (79 / 80)).records.length) &&
       ((c 4096).unit (79 / 80)).records.all fun r => decide (r.va.toNat / 4096 ≠ 0x9008 / 4096)) = true := by decide +kernel

/-- A miss that finds its core's file full, one that joins another, and a new one. -/
theorem Tests.witness_missesOn :
    (let t : Thread := { Tests.thread with wait := .miss }
     let c (ms : List Miss) : Chip := { threads := [t], xl := { ({} : State).chip.xl with
       units := ({} : State).chip.xl.units.map fun u => { u with misses := ms } } }
     let mine (va : Nat) (m : Miss) : Bool := m.ctx.same t.ctx && decide (m.vpage = va / 4096)
     let un (ms : List Miss) : Unit_ := (c ms).unit (79 / 80)
     decide ((c []).disp.line = [] ∧ (c []).disp.spilled = [] ∧ (c []).walkLength (79 / 80) < 4096 ∧ (un []).misses = []) &&
       (un [Tests.miss]).misses.any (mine 0x3008) &&
       decide (64 ≤ ((un (List.replicate 64 Tests.miss)).misses.filter fun m => m.cores.contains 79).length) &&
       (un (List.replicate 64 Tests.miss)).misses.all (fun m => !mine 0x9008 m) &&
       (let m := { Tests.miss with done := some (.inr (13, 0, 0)) }
        decide ((c [m]).missWaiters m = [t] ∧ m.late = []))) = true := by decide +kernel

end Sys2Proof.Machine
end

