-- ==== Sys2Proof/Tests/WitnessHarts.lean ====
section
/-! SUPPORT. Witnesses for the traps and returns of latency cores and for the standard instructions of any core. -/

set_option Elab.async false
namespace Sys2Proof.Machine

/-- A thread of latency core 3 of L-die 0 in a mode, alone, with the hart and the thread changed. -/
def Tests.onHart (md : Mode) (h : Hart → Hart) (f : Thread → Thread) : State :=
  (Tests.one (fun t => f { t with place := .hart 0 3, mode := md }) id).onChip fun c =>
    { c with harts := [h { ldie := 0, core := 3, started := true }] }

/-- A hart that delegates every trap to HS mode, and one that HS mode delegates on. -/
def Tests.delegates (h : Hart) : Hart := { h with medeleg := BitVec.allOnes 64, mideleg := BitVec.allOnes 64 }
def Tests.delegatesOn (h : Hart) : Hart := { Tests.delegates h with hedeleg := BitVec.allOnes 64, hideleg := BitVec.allOnes 64, virt := true }

/-- Whether a state has such a thread and hart that meet a condition. -/
def Tests.hartOk (s : State) (p : Hart → Thread → Bool) : Bool := match s.chip.threads, s.chip.harts with
  | t :: _, h :: _ => decide (s.chip.thread? t.id = some t ∧ t.place = .hart 0 3 ∧ s.chip.hart? 0 3 = some h) && p h t
  | _, _ => false

/-- A trap with cause 2 that M mode takes, HS mode takes, and VS mode takes. -/
theorem Tests.witness_hartEntry :
    Tests.hartOk (Tests.onHart .m id id) (fun _ t => decide (t.mode = .m)) = true ∧
    Tests.hartOk (Tests.onHart .u Tests.delegates id) (fun h t => decide (t.mode ≠ .m) && h.medeleg.getLsbD 2 && !h.virt) = true ∧
    Tests.hartOk (Tests.onHart .u Tests.delegatesOn id) (fun h t =>
      decide (t.mode ≠ .m) && h.medeleg.getLsbD 2 && h.virt && h.hedeleg.getLsbD 2) = true := by decide +kernel

/-- Interrupts that M mode, HS mode and VS mode take. -/
theorem Tests.witness_hartTakes :
    Tests.hartOk (Tests.onHart .s (fun h => { h with mip := 0x80, mie := 0x80, mideleg := 0 }) id) (fun h t => h.nextIrq t.mode = some 7) = true ∧
    Tests.hartOk (Tests.onHart .u (fun h => { Tests.delegates h with sip := 0x20, sie := 0x20 }) id) (fun h t => h.nextIrq t.mode = some 5) = true ∧
    Tests.hartOk (Tests.onHart .u (fun h => { Tests.delegatesOn h with hvip := 0x40, hie := 0x40 }) id) (fun h t => h.nextIrq t.mode = some 6) = true := by
  decide +kernel

/-- Returns from S mode, from VS mode, one that TSR stops, and from M mode. -/
theorem Tests.witness_hartReturn :
    (let may (s0 : State) (p : Hart → Mode → Bool) : Bool := match s0.soleOf {} with
      | some (_, s, t) => Tests.hartOk s (fun h u => decide (u = t) && p h t.mode)
      | none => false
     may (Tests.onHart .s id id) (fun h md => decide (md = .s) && !h.virt && !h.mstatus.getLsbD 22) &&
     may (Tests.onHart .s Tests.delegatesOn id) (fun h md => decide (md = .s) && h.virt && !h.hstatus.getLsbD 22) &&
     may (Tests.onHart .s (fun h => { h with mstatus := 1#64 <<< 22 }) id) (fun h md => decide (md = .s) && !h.virt && h.mstatus.getLsbD 22) &&
     may (Tests.onHart .u id id) (fun _ md => decide (md = .u)) && may (Tests.onHart .m id id) (fun _ md => decide (md = .m))) = true := by
  decide +kernel

/-! ## Standard instructions -/

/-- The condition of a row of a standard instruction. -/
def StdRow.may (r : StdRow) (s0 : State) : Bool := match s0.soleOf r.uses with
  | some (_, s, t) => t.usable (s.chip.bars t) r.uses && r.ok s.chip t
  | none => false

/-- Every row of a family meets its condition for some operands and state of a list. -/
def Tests.coveredStd (l : List (List StdRow × State)) : Bool :=
  !l.isEmpty && (List.range (l.headD ([], {})).1.length).all fun k => l.any fun p => match p.1[k]? with | some r => r.may p.2 | none => false

theorem Tests.witness_standardSums : Tests.coveredStd [(stdCalcRows 4 5 6 7 8, Tests.solo id)] = true ∧
    Tests.coveredStd [(stdCalcRows 2 5 6 7 8, Tests.onHart .u id id)] = true := by decide +kernel

/-- The thread holds a reservation of the granule of address 0x100. -/
def Tests.reserved (s : State) : State := s.onChip fun c => { c with mem := { c.mem with
  resv := c.threads.map fun t => ⟨t.id, (match c.xlate t 0x100 .load with
    | some p => (match c.targetOf t p.pa with | .main l => l / 64 | _ => 0)
    | none => 0), c.tick⟩ } }

theorem Tests.witness_standardAccesses : ([(4, true), (8, false)] : List (Nat × Bool)).all (fun p =>
    let rows := stdMemRows 4 p.1 5 6 7 true p.2 p.2 0
    let s := Tests.solo (Tests.x567 0 0x100 1)
    let h := Tests.onHart .s id (Tests.x567 0 0x100 1)
    Tests.coveredStd [(rows, s), (rows, Tests.reserved s)] && Tests.coveredStd [(rows, h), (rows, Tests.reserved h)]) = true := by decide +kernel

/-- A CSR of every core, and one of a latency core's S mode. -/
theorem Tests.witness_standardCsrs : ([1, 2, 3] : List Nat).all (fun kind =>
    Tests.coveredStd [(csrRows kind 5 0x806 6 false, Tests.solo id), (csrRows kind 5 0x140 6 false, Tests.onHart .s id id)] &&
    (csrRows kind 5 3 0 true).any fun r => r.may (Tests.onHart .u id id)) = true := by
  decide +kernel

end Sys2Proof.Machine
end

