-- ==== Sys2Proof/Tests/WitnessRecords.lean ====
section
/-! SUPPORT. Witnesses for what records hold and which bytes move: completion words and status records, save areas, copies, transfers,
multiplies, and the registers whose write starts a step. -/

set_option Elab.async false
namespace Sys2Proof.Machine

/-- A list of completed blocks with three runs, and a grid with a report. -/
theorem Tests.witness_gridRecords :
    ([1, 2, 5, 7, 8, 9] : List Nat).Pairwise (· < ·) ∧
    ({ reports := [{ tval := 1, pc := 2, block := 3, thread := 4, cause := 25, pkg := 0, tick := 5 }] } : Grid).reports[0]?.isSome = true := by
  decide +kernel

/-- An issue group with 12 masks and a resident thread; a thread that has ended; and one that is away. -/
theorem Tests.witness_areaLayout :
    (let s := Tests.two id
     match s.chip.ig? 0 0 0, s.chip.threads with
     | some g, t :: _ => decide (g.gm.length = 12) && t.onCompute && t.ofBlock 3 && decide (t.place ≠ .ended)
     | _, _ => false) = true ∧
    ({ place := .ended } : Thread).place = .ended ∧ ({ place := .os } : Thread).away = true := by decide +kernel

/-- A restore without a resume handler, and one whose resume handler a thread then runs. -/
theorem Tests.witness_restoreGives :
    (let c := (Tests.block (fun b => { b with preempt := .saved }) fun t => { t with place := .saved }).chip
     let d (resh : Word) : Chip := c.restoreBlock { id := 3, owner := 1, core := 1, igs := [(1, 0, 0)], nthr := 1, preempt := .saved, resh := resh } [1]
       ⟨[(1, 0, 0)], 0, 0, 0, 0, 0⟩
     !((d 0).threads.any (·.handler)) && (d 0x8000).threads.any (·.handler)) = true := by decide +kernel

/-- The premises of a copy between scratchpads. -/
def Tests.mayCopy (c : Chip) (o : CopyOp) (tiles : List Tile) : Bool :=
  let at_ (x : End) : Option Nat := c.endAt (o.block.bind c.block?) x
  let ends := o.ends tiles
  Memory.wf c.mem.bytes && c.mem.latent.isEmpty && !ends.isEmpty && (ends.all fun p => (at_ p.1).isSome && (at_ p.2).isSome) &&
    (ends.all fun p => ends.all fun q => decide (at_ p.1 ≠ at_ q.2)) && decide (ends.map fun p => at_ p.2).Nodup

/-- A plain copy, a strided one, a fill and a drain, of 4 bytes or 16 in space 1. -/
theorem Tests.witness_copyBytes :
    (let s := Tests.solo id
     let o (k : CopyKind) : CopyOp := ⟨9, 0, [1], some 3, k, ⟨1, 0⟩, ⟨1, 0x800⟩, 2, 4, 64, 64, 255, 2, {}, .u⟩
     let tiles : List Tile := [{ state := .filling, rows := 8, rowBytes := 64, base := 1024 }]
     [CopyKind.plain, .strided, .fill 0 0, .drain 0].all fun k => Tests.mayCopy s.chip (o k) tiles) = true := by decide +kernel

/-- The premises of a transfer, and that its bytes lie in the block's scratchpad. -/
def Tests.mayMove (c : Chip) (m : MatOp) (b : Block) (x : End) (n : Nat) : Bool :=
  let place (j : Nat) : Option Nat := c.endAt (some b) { x with addr := x.addr + BitVec.ofNat 64 j }
  decide (m.block = some b.id) && decide (c.block? b.id = some b) && c.mem.latent.isEmpty && Memory.wf c.mem.bytes && cellsWf c.mem.wb &&
    cellsWf c.mem.acc && ((List.range n).all fun j => (place j).isSome) && decide ((List.range n).map place).Nodup

theorem Tests.witness_transferBytes :
    (let s := Tests.solo id
     let b := s.chip.disp.blocks.headD {}
     let m (k : MatKind) : MatOp := ⟨9, 0, 0, some 3, k, 255, 2, {}, .u, false, [], true, [], false⟩
     [MatKind.wbld 0 ⟨1, 0⟩ 16, .accld 0 ⟨1, 0⟩ 16 0, .accld 0 ⟨1, 0⟩ 16 1, .acczr 0 16, .accdr ⟨1, 0⟩ 0 16 0 false, .accdr ⟨1, 0⟩ 0 16 3 true].all
       fun k => Tests.mayMove s.chip (m k) b ⟨1, 0⟩ 16) = true := by decide +kernel

/-- A multiply of 16 rows and 32 columns, K 32, of tile 0 and the weight buffer, with clean and whole records. -/
theorem Tests.witness_multiplyResult :
    (let s := Tests.solo id
     let c := s.chip
     let b := c.disp.blocks.headD {}
     let d := matDesc 0xAA00_0000_1FE0_0000
     let tl := b.tiles.getD d.at_ {}
     let len := recordLen d.af false
     let cell (i x : Nat) : Nat := spAddr c b (tl.at i x)
     let bAt (j : Nat) : Nat := wbAddr 0 (b.wbOn 0 + 256 * d.woff + j * recordLen d.bf d.sp)
     let bRec (j : Nat) : List Nat := (List.range (recordLen d.bf d.sp)).map fun x => (cellGet c.mem.wb (bAt j + x)).toNat
     !d.as_ && !d.ta && !d.tw && decide (d.m = 16) && decide (d.n = 32) && decide (d.k = 32) && decide (len = d.needBytes) &&
       ((List.range 16).all fun i => (List.range len).all fun x => !c.poisonedAt (cell i x)) &&
       ((List.range 32).all fun j => !c.wbBad (bAt j) (recordLen d.bf d.sp) && !(recVals d.bf d.sp (bRec j)).bad)) = true := by decide +kernel

/-- A register of each kind that starts a step, and one that does not. -/
theorem Tests.witness_registerStarts :
    (startRows 0).all (fun p => decide (p.1 = (Tests.reg p.1).toNat % 2 ^ 40)) = true ∧
    (Tests.reg 0x1170).toNat % 2 ^ 40 = 0x1170 + 0x80 * 0 ∧
    (Tests.reg 0x2008).toNat % 2 ^ 40 ∉ (startRows 0).map Prod.fst ∧ (∀ u, u < 8 → (Tests.reg 0x2008).toNat % 2 ^ 40 ≠ 0x1170 + 0x80 * u) := by
  decide +kernel

/-- Reset's memory is in canonical form, and the package steps. -/
theorem Tests.witness_memoryKept :
    Memory.wf State.reset.chip.mem.bytes = true ∧ (match step State.reset with | .next _ => true | _ => false) = true := by decide +kernel

end Sys2Proof.Machine
end

section
/-! PROOFS. Writes of the device registers: what the plain write of each register does, which step a write starts, and the
obligation O49 from these. -/
namespace Sys2Proof.Machine

/-! ## The plain write -/

/-- The plain write completes: it stores at a register of this package, and does nothing elsewhere (R4). -/
theorem exec_registerWrite (addr v : Word) (s : State) :
    exec (.registerWrite addr v) s = .next (if s.chip.isReg addr.toNat then s.regWrite (regOff addr.toNat) v else s) := rfl

/-- A row of registerRows holds if a write at its offset is what the row says. -/
theorem registerRow_holds {addr v : Word} {o : Nat} {next : State → State} (h : ∀ s : State, s.regWrite o v = next s) :
    EventRow.holds { instr := .registerWrite addr v, ok := fun s => s.chip.isReg addr.toNat && regOff addr.toNat = o, next := next } := by
  intro s hok
  obtain ⟨hreg, hoff⟩ : s.chip.isReg addr.toNat = true ∧ regOff addr.toNat = o := by simpa using hok
  rw [exec_registerWrite, if_pos hreg, hoff, h]

/-- Away from the registers a plain write changes nothing. -/
theorem registerRow_elsewhere (addr v : Word) :
    EventRow.holds { instr := .registerWrite addr v, ok := fun s => !s.chip.isReg addr.toNat, next := id } := by
  intro s hok
  have hreg : ¬ s.chip.isReg addr.toNat = true := by simpa using hok
  rw [exec_registerWrite, if_neg hreg]
  rfl

/-! ## What a write stores, block by block -/

/-- A translation unit's block is that of its offsets. -/
theorem unitReg_at (u : Nat) {r : Nat} (hr : r < 0x80) : unitReg (0x1100 + 0x80 * u + r) = (u, r) := by
  simp only [unitReg, Prod.mk.injEq]
  omega

/-- A write in a unit's block is a write of that unit's register. -/
theorem regWrite_unit (s : State) {u r : Nat} (hu : u < 10) (hr : r < 0x80) (v : Word) :
    s.regWrite (0x1100 + 0x80 * u + r) v = s.onChip fun c => c.unitWrite u r v := by
  have hlo : ¬ 0x1100 + 0x80 * u + r < 0x1000 := by omega
  have hhi : 0x1100 + 0x80 * u + r < 0x2000 := by omega
  have hblock : 0x1100 ≤ 0x1100 + 0x80 * u + r := by omega
  rw [State.regWrite, if_neg hlo, if_pos hhi, if_pos hblock, unitReg_at u hr]
  rfl

/-- A write from 0x2000 on is one to the thread and graph blocks. -/
theorem regWrite_dev (s : State) {off : Nat} (h : 0x2000 ≤ off) (v : Word) : s.regWrite off v = s.onDev fun d => d.write off v := by
  rw [State.regWrite, if_neg (by omega), if_neg (by omega)]
  rfl

/-- The offsets of a unit's written fields lie in its block. -/
theorem unitFields_offset_lt {u : Nat} {v : Word} {k : Nat × (Unit_ → Unit_)} (hk : k ∈ unitFields u v) : k.1 < 0x80 := by
  rcases List.mem_append.1 hk with hk | hk
  · fin_cases hk <;> simp
  · split at hk
    next => fin_cases hk <;> simp
    next => cases hk

/-- Each register of a unit takes its written fields; units 8 and 9 have no fault ring (R100). -/
theorem unitWrite_of_mem_unitFields (c : Chip) {u : Nat} {v : Word} {k : Nat × (Unit_ → Unit_)} (hk : k ∈ unitFields u v) :
    c.unitWrite u k.1 v = c.setUnit u (k.2 (c.unit u)) := by
  rcases List.mem_append.1 hk with hk | hk
  · fin_cases hk <;> rfl
  · split at hk
    next hu =>
      have hu : ¬ 8 ≤ u := by omega
      fin_cases hk <;> exact if_neg hu
    next => cases hk

/-- The offsets of the thread and graph blocks' written fields lie there. -/
theorem devFields_offset_ge {v : Word} {k : Nat × (DevRegs → DevRegs)} (hk : k ∈ devFields v) : 0x2000 ≤ k.1 := by
  fin_cases hk <;> simp

/-- Each register of the thread and graph blocks takes its written fields (R124, R172, R236). -/
theorem devWrite_of_mem_devFields (d : DevRegs) {v : Word} {k : Nat × (DevRegs → DevRegs)} (hk : k ∈ devFields v) :
    d.write k.1 v = k.2 d := by
  fin_cases hk <;> simp [DevRegs.write]

/-- A unit's counters and its status ignore a write (R100). -/
theorem unitWrite_readOnly (c : Chip) (u : Nat) {r : Nat} (hr : r ∈ [0x18, 0x30, 0x60, 0x78]) (v : Word) : c.unitWrite u r v = c := by
  fin_cases hr <;> rfl

/-- A read-only register ignores a write (R4, R57, R100, R124, R172, R236). -/
theorem regWrite_of_mem_readOnly (s : State) {o : Nat} (ho : o ∈ readOnly) (v : Word) : s.regWrite o v = s := by
  rcases List.mem_append.1 ho with ho | ho
  · fin_cases ho <;> rfl
  · obtain ⟨u, hu, ho⟩ := List.mem_flatMap.1 ho
    obtain ⟨r, hr, rfl⟩ := List.mem_map.1 ho
    have hlt : r < 0x80 := by
      fin_cases hr <;> decide
    rw [regWrite_unit s (List.mem_range.1 hu) hlt, State.onChip, unitWrite_readOnly _ _ hr]

/-- Each register takes its written fields, and a read-only one none. -/
theorem registerRows_hold (addr v : Word) : ∀ q ∈ registerRows addr v, q.holds := by
  intro q hq
  simp only [registerRows, List.mem_append, or_assoc] at hq
  rcases hq with hplain | hunit | hdev | hreadOnly
  · simp only [List.mem_cons, List.not_mem_nil, or_false] at hplain
    rcases hplain with rfl | rfl | rfl | rfl
    · exact registerRow_holds fun _ => rfl
    · exact registerRow_holds fun _ => rfl
    · exact registerRow_holds fun _ => rfl
    · exact registerRow_elsewhere addr v
  · obtain ⟨u, hu, hq⟩ := List.mem_flatMap.1 hunit
    obtain ⟨k, hk, rfl⟩ := List.mem_map.1 hq
    refine registerRow_holds fun s => ?_
    rw [regWrite_unit s (List.mem_range.1 hu) (unitFields_offset_lt hk)]
    simp only [unitWrite_of_mem_unitFields _ hk]
    rfl
  · obtain ⟨k, hk, rfl⟩ := List.mem_map.1 hdev
    refine registerRow_holds fun s => ?_
    rw [regWrite_dev s (devFields_offset_ge hk)]
    simp only [devWrite_of_mem_devFields _ hk]
  · obtain ⟨o, ho, rfl⟩ := List.mem_map.1 hreadOnly
    exact registerRow_holds fun s => regWrite_of_mem_readOnly s ho v

/-! ## The step that a write starts -/

/-- The offset in region 4 is the address below bit 40. -/
theorem regOff_eq_mod (pa : Nat) : regOff pa = pa % 2 ^ 40 := rfl

/-- A write of a register that starts an action is its step (R45, R50, R87, R114, R125, R126, R225). -/
theorem regStep_of_mem_startRows (addr : Word) {v : Word} {p : Nat × Instr} (hp : p ∈ startRows v) : regStep p.1 addr v = some p.2 := by
  fin_cases hp <;> rfl

/-- A write of FRRESUME goes by the action in its low two bits: retry, migrate, or nothing (R99). -/
theorem regStep_frresume {u : Nat} (hu : u < 8) (addr v : Word) :
    regStep (0x1170 + 0x80 * u) addr v = match v.toNat % 4 with
      | 0 => some (.frresumeRetry u (v.toNat / 2 ^ 32 % 2 ^ 16))
      | 1 => some (.frresumeMigrate u (v.toNat / 2 ^ 32 % 2 ^ 16))
      | _ => none := by
  have hrec : bits 47 32 v.toNat = v.toNat / 2 ^ 32 % 2 ^ 16 := by rw [bits, Nat.shiftRight_eq_div_pow]
  rw [← hrec]
  interval_cases u <;> rfl

/-- A write of any other register is a plain write. -/
theorem regStep_plain {off : Nat} {addr v : Word} (hstart : off ∉ (startRows v).map Prod.fst)
    (hresume : ∀ u, u < 8 → off ≠ 0x1170 + 0x80 * u) : regStep off addr v = some (.registerWrite addr v) := by
  have hunit : ¬ ((decide (0x1100 ≤ off) && decide (off < 0x1500) && decide ((unitReg off).2 = 0x70)) = true) := by
    rw [Bool.and_eq_true, Bool.and_eq_true, decide_eq_true_eq, decide_eq_true_eq, decide_eq_true_eq]
    rintro ⟨⟨hlo, hhi⟩, (hreg : (off - 0x1100) % 0x80 = 0x70)⟩
    exact hresume ((off - 0x1100) / 0x80) (by omega) (by omega)
  unfold regStep
  split
  case h_9 => exact if_neg hunit
  all_goals exact absurd (by simp [startRows]) hstart

/-- One pending write of a register comes next, as the step that it starts. -/
theorem deliverMsis_of_regWrites_eq {s : State} {addr v : Word} (h : s.chip.regWrites = [(addr, v)]) :
    s.deliverMsis = { s with
      agenda := (regStep (addr.toNat % 2 ^ 40) addr v).toList.map (fun k => (k, s.subject)) ++ s.agenda
      chip := { s.chip with regWrites := [] } } := by
  rw [← regOff_eq_mod]
  cases hstep : regStep (regOff addr.toNat) addr v <;> simp [State.deliverMsis, h, hstep]

/-- A write of a register of the device comes next, as the step of its table, as FRRESUME's, or as a plain write. -/
theorem registerStarts_holds : registerStarts := by
  intro s addr v h off starts resume
  have key {o : Option Instr} (ho : regStep off addr v = o) : starts o.toList := by
    subst ho
    exact deliverMsis_of_regWrites_eq h
  refine ⟨?start, ?resume, ?plain⟩
  case start =>
    intro p hp hoff
    exact key (hoff ▸ regStep_of_mem_startRows addr hp)
  case resume =>
    intro u hu hoff
    have hstep := key (hoff ▸ regStep_frresume hu addr v)
    split
    all_goals
      next hact =>
        simp only [hact] at hstep
        exact hstep
  case plain =>
    intro hstart hresume
    exact key (regStep_plain hstart hresume)

/-- Settles O49: the rows of the plain writes hold, and a write of a register starts its step. -/
theorem deviceRegisters : Obligations.DeviceRegisters :=
  ⟨registerRows_hold, registerStarts_holds⟩

end Sys2Proof.Machine
end


section
/-! PROOFS. Which step runs where no instruction is fetched: `step`, branch by branch, and the obligation O4 from these. -/
namespace Sys2Proof.Machine

/-- A selected issue has a lead only where an issue is selected (R193). -/
theorem issue_isSome_of_lead {s : State} {x : Issue × Thread} (h : s.lead = some x) : ∃ i, s.issue = some i := by
  cases hi : s.issue with
  | none => simp [State.lead, hi] at h
  | some i => exact ⟨i, rfl⟩

/-- An issue of which nothing is fetched is over, and what is due happens (R286). -/
theorem step_of_fetched_none {s u : State} {i : Issue} (hon : s.plat.trust.power = .on) (hi : s.issue = some i)
    (hf : s.fetched = (none, u)) : step s = settled (.next u) := by
  simp only [step, hon, hi, hf]

/-- A fetch that is stopped stops every participant of the issue (R286). -/
theorem fetched_of_stop {s : State} {i : Issue} {t : Thread} {x : Stop} (hl : s.lead = some (i, t)) (hf : s.chip.fetch t i.pc = .inl x) :
    s.fetched = (none, { s with issue := none, chip := i.parts.foldl (fun c id => c.applyStop id 0 x) s.chip }) := by
  simp only [State.fetched, hl, hf]

/-- Without an issue the agenda gives the step. -/
theorem step_of_agenda {s : State} {k : Instr} {n : Nat} {rest : List (Instr × Nat)} (hon : s.plat.trust.power = .on)
    (hi : s.issue = none) (ha : s.agenda = (k, n) :: rest) : step s = runAgenda k n rest s := by
  simp only [step, hon, hi, ha]

/-- Without an issue and an agenda the default schedule chooses. -/
theorem step_of_schedule {s : State} (hon : s.plat.trust.power = .on) (hi : s.issue = none) (ha : s.agenda = []) :
    step s = .next s.schedule.pass := by
  simp only [step, hon, hi, ha]

/-- A package that is not on is halted, and its fault says why (R41, R54). -/
theorem step_of_power_ne_on {s : State} (h : s.plat.trust.power ≠ .on) :
    step s = halted (if s.plat.trust.power = .off then .packageOff else .bringUpHalted) s := by
  cases hp : s.plat.trust.power with
  | on => exact absurd hp h
  | off => simp [step, hp]
  | stopped => simp [step, hp]

/-- A halted package begins a new bring-up. -/
theorem halted_of_bootStage0 {s : State} {n : Nat} {rest : List (Instr × Nat)} (ha : s.agenda = (.bootStage0, n) :: rest) (r : Fault) :
    halted r s = runAgenda .bootStage0 n rest s := by
  simp only [halted, ha]

/-- Without a new bring-up a halted package does nothing more. -/
theorem halted_of_no_bootStage0 {s : State} (h : ∀ n rest, s.agenda ≠ (.bootStage0, n) :: rest) (r : Fault) : halted r s = .fault r := by
  unfold halted
  split
  next n rest ha => exact absurd ha (h n rest)
  next => rfl

/-- After the step of another agent, threads that wait for room try again, and what is due happens. -/
theorem runAgenda_of_exec {s v : State} {k : Instr} {n : Nat} {rest : List (Instr × Nat)}
    (h : exec k { s with agenda := rest, subject := n } = .next v) :
    runAgenda k n rest s = .next (({ v with chip := v.chip.retryFull } : State).sweep.pass) := by
  simp only [runAgenda, h]

/-- Settles O4: one branch of `step` for each clause. -/
theorem stepElsewhere : Obligations.StepElsewhere := by
  intro s
  refine ⟨?stopped, ?agenda, ?schedule, ?halted, ?restarted⟩
  case stopped =>
    intro i t x hon hlead hfetch
    obtain ⟨j, hissue⟩ := issue_isSome_of_lead hlead
    rw [step_of_fetched_none hon hissue (fetched_of_stop hlead hfetch)]
    rfl
  case agenda =>
    intro k n rest v hon hissue hagenda hexec
    rw [step_of_agenda hon hissue hagenda, runAgenda_of_exec hexec]
  case schedule => exact fun hon hissue hagenda => step_of_schedule hon hissue hagenda
  case halted =>
    intro hoff hagenda
    rw [step_of_power_ne_on hoff, halted_of_no_bootStage0 hagenda]
  case restarted =>
    intro n rest v hoff hagenda hexec
    rw [step_of_power_ne_on hoff, halted_of_bootStage0 hagenda, runAgenda_of_exec hexec]

end Sys2Proof.Machine
end

section
/-! PROOFS. Errors and temperatures: what each of these steps does, case by case, and the obligation O44 from these. -/
namespace Sys2Proof.Machine

/-! ## Steps with one case -/

/-- A lane repair between two dies is logged and counted (R13). -/
theorem exec_ucieLaneRepair {a b : Nat} (ha : a < 10) (hb : b < 10) (hab : a ≠ b) (s : State) :
    exec (.ucieLaneRepair a b) s = .next ((s.logged 13).onRas fun r => { r with repairs := r.repairs + 1 }) :=
  if_pos (by simp [ha, hb, hab])

/-- A fenced stack is marked so (R20). -/
theorem fenceStack_of_lt {c : Chip} {stack : Nat} (h : stack < 16) :
    c.fenceStack stack = c.setRas { c.ras with hbmStacks := c.ras.hbmStacks ||| (1#16 <<< stack) } :=
  if_pos h

/-- A failed channel is marked so (R22). -/
theorem exec_lpddrChannelFailed {ldie channel : Nat} (hl : ldie < 2) (hc : channel < 16) (s : State) :
    exec (.lpddrChannelFailed ldie channel) s =
      .next (s.onRas fun r => { r with channels := r.channels ||| (1#32 <<< (16 * ldie + channel)) }) :=
  if_pos (by simp [hl, hc])

/-! ## Temperatures of a stack (R18) -/

/-- The stacks with halved issue after a stack reports a temperature: above 95 it joins them, below 93 it leaves them. -/
def Ras.halvedAt (r : Ras) (stack celsius : Nat) : BitVec 16 :=
  if 95 < celsius then r.halved ||| (1#16 <<< stack) else if celsius < 93 then r.halved &&& ~~~(1#16 <<< stack) else r.halved

/-- The state with a stack's temperature and the halved stacks. -/
def State.heated (s : State) (stack celsius : Nat) (h : BitVec 16) : State :=
  s.onRas fun r => { r with temps := listSet r.temps stack celsius, halved := h }

/-- A stack reports its temperature, and above 105 °C it is fenced. -/
theorem exec_stackTemperatureChange {stack : Nat} (hs : stack < 16) (celsius : Nat) (s : State) :
    exec (.stackTemperatureChange stack celsius) s =
      .next ((s.heated stack celsius (s.chip.ras.halvedAt stack celsius)).onChip fun c =>
        if 105 < celsius then c.fenceStack stack else c) :=
  if_neg (by simpa using hs)

/-- Up to 105 °C it is not. -/
theorem exec_stackTemperatureChange_of_le {stack celsius : Nat} (hs : stack < 16) (hc : celsius ≤ 105) (s : State) :
    exec (.stackTemperatureChange stack celsius) s = .next (s.heated stack celsius (s.chip.ras.halvedAt stack celsius)) := by
  simp only [exec_stackTemperatureChange hs, if_neg (Nat.not_lt.2 hc)]
  rfl

/-- Above, its stack joins the fenced ones. -/
theorem exec_stackTemperatureChange_of_gt {stack celsius : Nat} (hs : stack < 16) (hc : 105 < celsius) (s : State) :
    exec (.stackTemperatureChange stack celsius) s =
      .next ((s.heated stack celsius (s.chip.ras.halvedAt stack celsius)).onRas fun r =>
        { r with hbmStacks := r.hbmStacks ||| (1#16 <<< stack) }) := by
  simp only [exec_stackTemperatureChange hs, if_pos hc, fenceStack_of_lt hs]
  rfl

/-- Below 93 °C issue to a stack is not halved. -/
theorem halvedAt_of_lt (r : Ras) (stack : Nat) {celsius : Nat} (h : celsius < 93) :
    r.halvedAt stack celsius = r.halved &&& ~~~(1#16 <<< stack) := by
  rw [Ras.halvedAt, if_neg (by omega), if_pos h]

/-- From 93 to 95 °C it stays as it was. -/
theorem halvedAt_of_between (r : Ras) (stack : Nat) {celsius : Nat} (hlo : 93 ≤ celsius) (hhi : celsius ≤ 95) :
    r.halvedAt stack celsius = r.halved := by
  rw [Ras.halvedAt, if_neg (by omega), if_neg (by omega)]

/-- Above 95 °C it is halved. -/
theorem halvedAt_of_gt (r : Ras) (stack : Nat) {celsius : Nat} (h : 95 < celsius) :
    r.halvedAt stack celsius = r.halved ||| (1#16 <<< stack) :=
  if_pos h

/-! ## The patrol scrub (R19, R22, R73) -/

/-- The location of this package's HBM or LPDDR that a scrub of an address reaches. -/
def Chip.scrubbed (c : Chip) (addr : Nat) : Option Nat :=
  match c.mapped addr with
  | .main l => if l / 2 ^ 51 % 32 = c.pkg && l / 2 ^ 48 % 8 ≠ 5 then some l else none
  | _ => none

/-- The state without the soft errors of a location's granule. -/
def State.scrubs (s : State) (l : Nat) : State :=
  { s with chip := { s.chip with mem := { s.chip.mem with latent := s.chip.mem.latent.filter fun k => k.1 ≠ granuleOf l } } }

/-- The state after a scrub of a location, by what it found: an error is met and logged, one that cannot be corrected poisons. -/
def State.afterScrub (s : State) (l : Nat) : ScrubResult → State
  | .clean => s
  | .corrected => (s.scrubs l).logged 19
  | .uncorrectable => ((s.scrubs l).logged 19).onChip fun c => c.setPoison l

/-- The package and the region of a location, which a scrub compares. -/
theorem bits_package (l : Nat) : bits 55 51 l = l / 2 ^ 51 % 32 := congrArg (· % 32) (Nat.shiftRight_eq_div_pow l 51)
theorem bits_region (l : Nat) : bits 50 48 l = l / 2 ^ 48 % 8 := congrArg (· % 8) (Nat.shiftRight_eq_div_pow l 48)

/-- A scrub of an address of main memory acts where the location is this package's own and not in the device window. -/
theorem exec_patrolScrub_of_main {addr : Word} {s : State} {l : Nat} (h : s.chip.mapped addr.toNat = .main l) (found : ScrubResult) :
    exec (.patrolScrub addr found) s = .next
      (if (l / 2 ^ 51 % 32 = s.chip.pkg && l / 2 ^ 48 % 8 ≠ 5) = true then s.afterScrub l found else s) := by
  have passed (p q : Prop) [Decidable p] [Decidable q] : (decide (¬ p) || decide q) = !(decide p && decide (¬ q)) := by
    rw [Bool.not_and, decide_not, decide_not, Bool.not_not]
  change execPatrolScrub addr found s = _
  simp only [execPatrolScrub, h, bits_package, bits_region, ne_eq, passed]
  cases decide (l / 2 ^ 51 % 32 = s.chip.pkg) && decide (¬ l / 2 ^ 48 % 8 = 5) with
  | true => cases found <;> rfl
  | false => rfl

/-- A scrub of a location acts by what it finds. -/
theorem exec_patrolScrub_of_some {addr : Word} {s : State} {l : Nat} (h : s.chip.scrubbed addr.toNat = some l) (found : ScrubResult) :
    exec (.patrolScrub addr found) s = .next (s.afterScrub l found) := by
  unfold Chip.scrubbed at h
  split at h
  next k hk =>
    rw [exec_patrolScrub_of_main hk]
    split at h
    next hmine =>
      obtain rfl : k = l := Option.some.inj h
      rw [if_pos hmine]
    next => cases h
  next => cases h

/-- A scrub of any other address does nothing. -/
theorem exec_patrolScrub_of_none {addr : Word} {s : State} (h : s.chip.scrubbed addr.toNat = none) (found : ScrubResult) :
    exec (.patrolScrub addr found) s = .next s := by
  cases hk : s.chip.mapped addr.toNat with
  | main l =>
    rw [exec_patrolScrub_of_main hk, if_neg]
    intro hmine
    simp only [Chip.scrubbed, hk, if_pos hmine] at h
    cases h
  | _ =>
    change execPatrolScrub addr found s = _
    simp only [execPatrolScrub, hk, done]

/-! ## The rows -/

/-- Settles O44: each row is the step's own case. -/
theorem errorsAndTemperature : Obligations.ErrorsAndTemperature := by
  intro a b stack celsius ldie channel addr found q hq
  simp only [rasRows, List.mem_cons, List.not_mem_nil, or_false] at hq
  rcases hq with rfl | rfl | rfl | rfl | rfl | rfl | rfl | rfl | rfl | rfl | rfl | rfl | rfl | rfl
  all_goals intro s hok
  -- the lane repair and the fenced stack
  · obtain ⟨⟨ha, hb⟩, hab⟩ : (a < 10 ∧ b < 10) ∧ a ≠ b := by simpa using hok
    exact exec_ucieLaneRepair ha hb hab s
  · have hs : s.subject < 16 := by simpa using hok
    exact congrArg (fun c => Host.Outcome.next { s with chip := c }) (fenceStack_of_lt hs)
  -- a stack's temperature: below 93, up to 95, up to 105, above
  · obtain ⟨hs, hc⟩ : stack < 16 ∧ celsius < 93 := by simpa using hok
    rw [exec_stackTemperatureChange_of_le hs (by omega), halvedAt_of_lt _ _ hc]
    rfl
  · obtain ⟨⟨hs, hlo⟩, hhi⟩ : (stack < 16 ∧ 93 ≤ celsius) ∧ celsius ≤ 95 := by simpa using hok
    rw [exec_stackTemperatureChange_of_le hs (by omega), halvedAt_of_between _ _ hlo hhi]
    rfl
  · obtain ⟨⟨hs, hlo⟩, hhi⟩ : (stack < 16 ∧ 95 < celsius) ∧ celsius ≤ 105 := by simpa using hok
    rw [exec_stackTemperatureChange_of_le hs hhi, halvedAt_of_gt _ _ hlo]
    rfl
  · obtain ⟨hs, hc⟩ : stack < 16 ∧ 105 < celsius := by simpa using hok
    rw [exec_stackTemperatureChange_of_gt hs hc, halvedAt_of_gt _ _ (by omega)]
    rfl
  -- a scrub of a location here, and elsewhere
  · have hmine : (s.chip.scrubbed addr.toNat).isSome = true := hok
    obtain ⟨l, hl⟩ := Option.isSome_iff_exists.1 hmine
    rw [exec_patrolScrub_of_some hl]
    obtain rfl : (s.chip.scrubbed addr.toNat).getD 0 = l := by rw [hl]; rfl
    cases found <;> rfl
  · have hmine : (s.chip.scrubbed addr.toNat).isNone = true := hok
    exact exec_patrolScrub_of_none (Option.isNone_iff_eq_none.1 hmine) found
  -- a failed channel; the junction temperatures, the power cap and the failure of L-die 0 have one case each
  · obtain ⟨hl, hc⟩ : ldie < 2 ∧ channel < 16 := by simpa using hok
    exact exec_lpddrChannelFailed hl hc s
  all_goals rfl

end Sys2Proof.Machine
end

section
/-! PROOFS. Flits and ports of the link: what each received flit, retraining and pause does, where a received message goes on, and
the obligation O48 from these. -/
namespace Sys2Proof.Machine

/-! ## What a received flit does -/

/-- The messages of a data flit find no room in the inbound buffer of a port (R31, R32). -/
def Port.crowded (p : Port) (f : Flit) : Bool :=
  f.ftype = 1 && f.msgs.any fun m => decide (inboundRoom ≤ classIn p.inbox (hopClass m))

/-- A flit is the next one, whole, and its messages find room (R30-R32). -/
def Link.sound (l : Link) (n : Nat) (f : Flit) : Bool :=
  l.crcOk f && f.seq = (l.port n).recvSeq && !(l.port n).crowded f

/-- A port that receives drops a flit of one of the types with a retry request, or takes it and lets it act. -/
theorem receive_of_receives {s : State} {n : Nat} {f : Flit} {types : BitVec 4 → Bool} (hup : s.plat.link.receives n = true)
    (ht : types f.ftype = true) (act : State → State) :
    s.receive n f types act = .next
      (if (!s.plat.link.sound n f || decide (5 ≤ f.ftype.toNat)) = true then s.onPort n s.plat.link.complains
      else act (s.flowsAt n fun p => p.advanced f s.chip.tick)) := by
  have dropped : (!s.plat.link.crcOk f || decide (f.seq ≠ (s.plat.link.port n).recvSeq) || decide (5 ≤ f.ftype.toNat) ||
      (s.plat.link.port n).crowded f) = (!s.plat.link.sound n f || decide (5 ≤ f.ftype.toNat)) := by
    simp only [Link.sound, Bool.not_and, Bool.not_not, ne_eq, decide_not, Bool.or_assoc, Bool.or_comm (decide (5 ≤ f.ftype.toNat))]
  have pass : (!s.plat.link.receives n || !types f.ftype) = false := by rw [hup, ht]; rfl
  refine (if_neg (by rw [pass]; exact Bool.false_ne_true)).trans ?_
  by_cases hbad : (!s.plat.link.sound n f || decide (5 ≤ f.ftype.toNat)) = true
  · rw [if_pos hbad]
    exact (if_pos (dropped.trans hbad)).trans rfl
  · rw [if_neg hbad]
    exact (if_neg fun h => hbad (dropped.symm.trans h)).trans rfl

/-- A flit that is not sound, or of a reserved type, is dropped with a retry request (R31). -/
theorem receive_dropped {s : State} {n : Nat} {f : Flit} {types : BitVec 4 → Bool} (hup : s.plat.link.receives n = true)
    (ht : types f.ftype = true) (hbad : s.plat.link.sound n f = false ∨ 5 ≤ f.ftype.toNat) (act : State → State) :
    s.receive n f types act = .next (s.onPort n s.plat.link.complains) := by
  rw [receive_of_receives hup ht, if_pos (by simpa using hbad)]

/-- A sound flit is taken, and then acts by its type. -/
theorem receive_taken {s : State} {n : Nat} {f : Flit} {types : BitVec 4 → Bool} (hup : s.plat.link.receives n = true)
    (ht : types f.ftype = true) (hgood : s.plat.link.sound n f = true) (hlt : f.ftype.toNat < 5) (act : State → State) :
    s.receive n f types act = .next (act (s.flowsAt n fun p => p.advanced f s.chip.tick)) := by
  rw [receive_of_receives hup ht, if_neg (by simp [hgood, hlt])]

/-! ## The steps of the flits -/

/-- A data flit's step receives flits of its type and of the reserved ones (R30, R31). -/
def dataTypes (t : BitVec 4) : Bool := t = 1 || decide (5 ≤ t.toNat)

/-- Each flit's step receives its type, and then acts: data enter the inbound buffer, a retry request sends the flits again from the
expected one on, a marker begins retraining, and a timebase flit is followed (R30-R34, R36). -/
theorem exec_idleFlit (n : Nat) (f : Flit) (s : State) : exec (.idleFlit n f) s = s.receive n f (· = 0) id := rfl
theorem exec_dataFlit (n : Nat) (f : Flit) (s : State) : exec (.dataFlit n f) s =
    s.receive n f dataTypes fun u => u.onPort n fun p => { p with inbox := p.inbox ++ f.msgs } := rfl
theorem exec_retryRequest (n : Nat) (f : Flit) (expected : BitVec 16) (s : State) : exec (.retryRequest n f expected) s =
    s.receive n f (· = 2) fun u => u.onPort n fun p =>
      { p with wire := (p.replay.dropWhile fun k => k.seq ≠ expected).reverse ++ p.wire } := rfl
theorem exec_retrainMarker (n : Nat) (f : Flit) (s : State) : exec (.retrainMarker n f) s =
    s.receive n f (· = 3) fun u => u.onPort n fun p => { p with state := .training, since := u.chip.tick } := rfl
theorem exec_timebaseFlit (n : Nat) (f : Flit) (leaderTick : Nat) (s : State) : exec (.timebaseFlit n f leaderTick) s =
    s.receive n f (· = 4) fun u => u.followTime leaderTick := rfl

/-- A row of a flit that is not sound holds if the step receives flits of its type. -/
theorem again_holds {n : Nat} {f : Flit} {i : Instr} {types : BitVec 4 → Bool} {act : State → State} {k : Bool}
    (hexec : ∀ s, exec i s = s.receive n f types act) (hk : k = true → types f.ftype = true) :
    EventRow.holds {
      instr := i, ok := fun s => k && s.plat.link.receives n && !s.plat.link.sound n f
      next := fun s => s.onPort n s.plat.link.complains } := by
  intro s hok
  obtain ⟨⟨htype, hup⟩, hbad⟩ : (k = true ∧ s.plat.link.receives n = true) ∧ s.plat.link.sound n f = false := by simpa using hok
  exact (hexec s).trans (receive_dropped hup (hk htype) (.inl hbad) act)

/-- A step that receives a type of flits takes a sound one, and the flit acts. -/
theorem exec_of_sound {s : State} {n : Nat} {f : Flit} {i : Instr} {types : BitVec 4 → Bool} {act : State → State} {k : BitVec 4}
    (hexec : ∀ s, exec i s = s.receive n f types act) (hk : types k = true) (hlt : k.toNat < 5)
    (hok : (decide (f.ftype = k) && (s.plat.link.receives n && s.plat.link.sound n f)) = true) :
    exec i s = .next (act (s.flowsAt n fun p => p.advanced f s.chip.tick)) := by
  obtain ⟨rfl, hup, hgood⟩ : f.ftype = k ∧ s.plat.link.receives n = true ∧ s.plat.link.sound n f = true := by simpa using hok
  exact (hexec s).trans (receive_taken hup hk hgood hlt act)

/-! ## The timebase (R36) -/

/-- The package leads its pod, or is in none: it follows no timebase. -/
def State.leads (s : State) : Bool := s.chip.members = 0 || s.plat.pod.leader = s.plat.pod.self

/-- The state with a timebase of its own against the leader's; it slews on where it does until it is within 20 ns. -/
def State.follows (s : State) (leader tick : Nat) (slews : Bool) : State :=
  let near := decide (tick ≤ leader + 20) && decide (leader ≤ tick + 20)
  { s with
    chip := { s.chip with tick := tick }
    plat := { s.plat with
      link := { s.plat.link with synced := near, slewing := slews && !near, gain := leader - tick, lag := tick - leader } } }

/-- A leader's timebase stays its own. -/
theorem followTime_of_leads {s : State} (h : s.leads = true) (leader : Nat) : s.followTime leader = s := by
  have hnone : s.leaderOf = none := if_pos h
  simp only [State.followTime, hnone]

/-- A follower takes a later timebase at once, unless it slews. -/
theorem followTime_of_follower {s : State} (h : s.leads = false) (leader : Nat) :
    s.followTime leader = s.follows leader (if s.plat.link.slewing then s.chip.tick else max s.chip.tick leader) s.plat.link.slewing := by
  have hsome : s.leaderOf = some s.plat.pod.leader := if_neg (by rw [← State.leads, h]; exact Bool.false_ne_true)
  simp only [State.followTime, hsome]
  rfl

/-- The timebase of a follower after a sound flit, which leaves the pod and the slewing as they are. -/
theorem followTime_flowsAt (s : State) (n : Nat) (g : Port → Port) (leader : Nat) (h : (!s.leads) = true) :
    (s.flowsAt n g).followTime leader =
      (s.flowsAt n g).follows leader (if s.plat.link.slewing then s.chip.tick else max s.chip.tick leader) s.plat.link.slewing :=
  followTime_of_follower (s := s.flowsAt n g) ((Bool.not_eq_true' _).mp h) leader

/-! ## The rows of the flits -/

/-- Each row of the flits holds. -/
theorem flitRows_hold (n : Nat) (f : Flit) (expected : BitVec 16) (leaderTick : Nat) :
    ∀ q ∈ flitRows n f expected leaderTick, q.holds := by
  intro q hq
  simp only [flitRows, List.mem_cons, List.not_mem_nil, or_false] at hq
  rcases hq with rfl | rfl | rfl | rfl | rfl | rfl | rfl | rfl | rfl | rfl | rfl | rfl | rfl
  -- a flit of each type that is not sound
  · exact again_holds (exec_idleFlit n f) id
  · exact again_holds (exec_dataFlit n f) fun h => by rw [dataTypes, h]; rfl
  · exact again_holds (exec_retryRequest n f expected) id
  · exact again_holds (exec_retrainMarker n f) id
  · exact again_holds (exec_timebaseFlit n f leaderTick) id
  -- a flit of a reserved type
  · intro s hok
    obtain ⟨hle, hup⟩ := Bool.and_eq_true_iff.1 hok
    have htypes : dataTypes f.ftype = true := by rw [dataTypes, hle, Bool.or_true]
    exact (exec_dataFlit n f s).trans (receive_dropped hup htypes (.inr (of_decide_eq_true hle)) _)
  -- a sound flit of each type; the timebase of a leader, of a follower, and of one that slews
  · exact fun _ hok => exec_of_sound (exec_idleFlit n f) rfl (by decide) hok
  · exact fun _ hok => exec_of_sound (exec_dataFlit n f) rfl (by decide) hok
  · exact fun _ hok => exec_of_sound (exec_retryRequest n f expected) rfl (by decide) hok
  · exact fun _ hok => exec_of_sound (exec_retrainMarker n f) rfl (by decide) hok
  · intro s hok
    obtain ⟨hgood, hleads⟩ := Bool.and_eq_true_iff.1 hok
    rw [exec_of_sound (exec_timebaseFlit n f leaderTick) rfl (by decide) hgood]
    exact congrArg _ (followTime_of_leads (s := s.flowsAt n _) hleads leaderTick)
  · intro s hok
    obtain ⟨hrest, hslew⟩ := Bool.and_eq_true_iff.1 hok
    obtain ⟨hgood, hfollows⟩ := Bool.and_eq_true_iff.1 hrest
    have hslew : s.plat.link.slewing = false := (Bool.not_eq_true' _).mp hslew
    rw [exec_of_sound (exec_timebaseFlit n f leaderTick) rfl (by decide) hgood, followTime_flowsAt s n _ leaderTick hfollows, hslew]
    rfl
  · intro s hok
    obtain ⟨hrest, hslew⟩ := Bool.and_eq_true_iff.1 hok
    obtain ⟨hgood, hfollows⟩ := Bool.and_eq_true_iff.1 hrest
    have hslew : s.plat.link.slewing = true := hslew
    rw [exec_of_sound (exec_timebaseFlit n f leaderTick) rfl (by decide) hgood, followTime_flowsAt s n _ leaderTick hfollows, hslew]
    rfl

/-! ## The ports (R32, R34) -/

/-- An up port begins retraining, for sixteen retry requests only once it has sent them (R34). -/
theorem exec_retrain {s : State} {n : Nat} {cause : RetrainCause} (hup : s.plat.link.receives n = true)
    (h : cause = .sixteenRetries → 16 ≤ (s.plat.link.port n).retries) :
    exec (.retrain n cause) s = .next (s.onPort n fun p => { p with state := .training, since := s.chip.tick }) := by
  refine (if_neg ?_ : execRetrain n cause s = _)
  rw [hup]
  simpa using h

/-- Fewer requests do not begin it. -/
theorem exec_retrain_early {s : State} {n : Nat} (h : (s.plat.link.port n).retries < 16) :
    exec (.retrain n .sixteenRetries) s = .next s :=
  (if_pos (by simp [h]) : execRetrain n .sixteenRetries s = _)

/-- A retraining that has completed in time sends the waiting flits again (R34). -/
theorem exec_retrainComplete_of_training {s : State} (hn : s.subject < 8) (ht : (s.plat.link.port s.subject).state = .training)
    (hlate : s.chip.tick - (s.plat.link.port s.subject).since ≤ 5000000) :
    exec .retrainComplete s = .next (s.flowsAt s.subject fun p =>
      { p with state := .up, retries := 0, retry := none, wire := p.replay.reverse ++ p.wire }) := by
  refine (if_neg ?_ : execRetrainComplete s = _).trans (if_neg ?_)
  · simp [ht, hn]
  · simp [Port.overdue, hlate]

/-- One that has taken longer leaves its port down (R34). -/
theorem exec_retrainComplete_of_late {s : State} (hn : s.subject < 8) (ht : (s.plat.link.port s.subject).state = .training)
    (hlate : 5000000 < s.chip.tick - (s.plat.link.port s.subject).since) :
    exec .retrainComplete s = .next (s.dropPort s.subject) := by
  refine (if_neg ?_ : execRetrainComplete s = _).trans (if_pos ?_)
  · simp [ht, hn]
  · simp [Port.overdue, hlate, ht]

/-- A port that does not retrain completes nothing. -/
theorem exec_retrainComplete_of_ne {s : State} (ht : (s.plat.link.port s.subject).state ≠ .training) :
    exec .retrainComplete s = .next s :=
  (if_pos (by simp [ht]) : execRetrainComplete s = _)

/-- A pause that is over lets the port send again (R32). -/
theorem exec_pauseExpiry {s : State} (hn : s.subject < 8) (hp : (s.plat.link.port s.subject).pausedTo ≠ 0)
    (hover : (s.plat.link.port s.subject).pausedTo ≤ s.chip.tick) :
    exec .pauseExpiry s = .next (s.flowsAt s.subject fun p => { p with pausedTo := 0 }) :=
  (if_neg (by simp [hn, hp, hover]) : execPauseExpiry s = _)

/-- Each row of the ports holds. -/
theorem portRows_hold (n : Nat) (cause : RetrainCause) : ∀ q ∈ portRows n cause, q.holds := by
  intro q hq
  simp only [portRows, List.mem_cons, List.not_mem_nil, or_false] at hq
  rcases hq with rfl | rfl | rfl | rfl | rfl | rfl
  all_goals intro s hok
  · obtain ⟨hup, hcause⟩ := Bool.and_eq_true_iff.1 hok
    simp only [Bool.or_eq_true, decide_eq_true_eq] at hcause
    exact exec_retrain hup fun h => hcause.resolve_left (not_not.2 h)
  · obtain ⟨hrest, hearly⟩ := Bool.and_eq_true_iff.1 hok
    obtain rfl : cause = .sixteenRetries := of_decide_eq_true (Bool.and_eq_true_iff.1 hrest).2
    exact exec_retrain_early (of_decide_eq_true hearly)
  all_goals
    simp only [Bool.and_eq_true, decide_eq_true_eq, Bool.not_eq_true', decide_eq_false_iff_not, Nat.not_lt] at hok
  · obtain ⟨⟨⟨rfl, hn⟩, ht⟩, hlate⟩ := hok
    exact exec_retrainComplete_of_training hn ht hlate
  · obtain ⟨⟨⟨rfl, hn⟩, ht⟩, hlate⟩ := hok
    exact exec_retrainComplete_of_late hn ht hlate
  · obtain ⟨⟨rfl, -⟩, ht⟩ := hok
    exact exec_retrainComplete_of_ne ht
  · obtain ⟨⟨⟨rfl, hn⟩, hp⟩, hover⟩ := hok
    exact exec_pauseExpiry hn hp hover

/-! ## Messages that a port has received (R33, R35) -/

/-- The state with a message taken out of a port's inbound buffer. -/
def State.without (s : State) (n : Nat) (m : LinkMsg) : State :=
  s.setLink (s.plat.link.setPort n { s.plat.link.port n with inbox := (s.plat.link.port n).inbox.erase m })

/-- A message for this package acts here. -/
theorem takeMsg_of_here {s : State} {m : LinkMsg} (h : m.dest = s.chip.pkg) (n : Nat) :
    s.takeMsg n m = some ((s.without n m).deliver m) :=
  if_pos h

/-- One that has made two hops is not sent on. -/
theorem takeMsg_of_hops {s : State} {m : LinkMsg} (h : m.dest ≠ s.chip.pkg) (hhop : 2 ≤ m.hop) (n : Nat) :
    s.takeMsg n m = some ((s.without n m).misroute m) :=
  (if_neg h).trans (if_pos hhop)

/-- Any other that has a route goes on where its port has room. -/
theorem takeMsg_of_routed {s : State} {n k : Nat} {m r : LinkMsg} (h : m.dest ≠ s.chip.pkg) (hhop : m.hop < 2)
    (hr : (s.without n m).plat.link.routed { m with hop := m.hop + 1 } = some (k, r)) :
    s.takeMsg n m = if ((s.without n m).plat.link.port k).takes r then
      some ((s.without n m).setLink ((s.without n m).plat.link.queueAt s.chip.tick k r)) else none := by
  unfold State.without at hr ⊢
  simp only [State.takeMsg, if_neg h, if_neg (Nat.not_le.2 hhop), hr]

/-- A message that came before does not act again (R35). -/
theorem deliver_of_mem {s : State} {m : LinkMsg} (h : (m.source, m.ident) ∈ s.plat.link.taken) : s.deliver m = s :=
  if_pos (List.contains_iff_mem.2 h)

/-- A new message acts, and is kept in mind. -/
theorem deliver_of_not_mem {s : State} {m : LinkMsg} (h : (m.source, m.ident) ∉ s.plat.link.taken) :
    (s.deliver m).chip = s.chip.takeBody m.source m.body ∧ (s.deliver m).plat.link.taken = (m.source, m.ident) :: s.plat.link.taken := by
  have hnew : s.deliver m =
      { s.setLink { s.plat.link with taken := (m.source, m.ident) :: s.plat.link.taken } with chip := s.chip.takeBody m.source m.body } :=
    if_neg (mt List.contains_iff_mem.1 h)
  rw [hnew]
  exact ⟨rfl, rfl⟩

/-- A misrouted message is logged and counted, on whichever route its request then goes. -/
theorem misroute_logs (s : State) (m : LinkMsg) :
    (s.misroute m).chip = s.chip.logEvent 33 ∧ (s.misroute m).plat.link.misrouted = s.plat.link.misrouted + 1 := by
  refine ⟨rfl, ?_⟩
  simp only [State.misroute]
  split <;> rfl

/-- A received message goes where `forwards` says. -/
theorem forwards_holds (s : State) (n : Nat) (m : LinkMsg) : s.forwards n m := by
  refine ⟨fun hhere hmem => ?old, fun hhere hnew => ?new, fun haway hhop => ?far, fun haway hhop k r hr => ?on⟩
  case old =>
    rw [takeMsg_of_here hhere, deliver_of_mem (s := s.without n m) hmem]
    rfl
  case new => exact ⟨_, takeMsg_of_here hhere n, deliver_of_not_mem (s := s.without n m) hnew⟩
  case far => exact ⟨_, takeMsg_of_hops haway hhop n, misroute_logs (s.without n m) m⟩
  case on => exact takeMsg_of_routed haway hhop hr

/-- Settles O48: the rows of the flits and of the ports hold, and a received message goes where `forwards` says. -/
theorem linkFlits : Obligations.LinkFlits := by
  refine ⟨fun n f expected leaderTick cause q hq => ?_, forwards_holds⟩
  rcases List.mem_append.1 hq with hq | hq
  · exact flitRows_hold n f expected leaderTick q hq
  · exact portRows_hold n cause q hq

end Sys2Proof.Machine
end

section
/-! PROOFS. Fenced dies and die links, lost packages and returned routes: what each operation of the fencing leaves as it was, what the
fencing of a die, of L-die 1 and of a link leaves behind, and the rows of O59 about them. -/
namespace Sys2Proof.Machine

/-! ## What the operations of a fencing leave as it was -/

/-- A package has the failures, the grids and the blocks of another. -/
def Chip.sameWork (c d : Chip) : Prop := d.ras = c.ras ∧ d.disp.grids = c.disp.grids ∧ d.disp.blocks = c.disp.blocks

/-- What two steps leave as it was is as it was. -/
theorem Chip.sameWork.trans {c d e : Chip} (h : c.sameWork d) (h' : d.sameWork e) : c.sameWork e := by
  obtain ⟨hr, hg, hb⟩ := h
  obtain ⟨hr', hg', hb'⟩ := h'
  exact ⟨hr'.trans hr, hg'.trans hg, hb'.trans hb⟩

/-- Operations one after the other leave the work as it was if each does. -/
theorem sameWork_foldl {α : Type} {f : Chip → α → Chip} (hf : ∀ (c : Chip) (x : α), c.sameWork (f c x)) (l : List α) (c : Chip) :
    c.sameWork (l.foldl f c) :=
  List.foldlRecOn l f (motive := c.sameWork) ⟨rfl, rfl, rfl⟩ fun _ h x _ => h.trans (hf _ x)

/-- A message, a poisoned granule and the discarded memories of a die change no work. -/
theorem sameWork_post (c : Chip) (dest : Nat) (b : PodBody) : c.sameWork (c.post dest b) := ⟨rfl, rfl, rfl⟩
theorem sameWork_setPoison (c : Chip) (loc : Nat) : c.sameWork (c.setPoison loc) := ⟨rfl, rfl, rfl⟩
theorem sameWork_discardDie (c : Chip) (die : Nat) : c.sameWork (c.discardDie die) := ⟨rfl, rfl, rfl⟩

/-- Withdrawn ring requests are marked, and the other packages told (R365). -/
theorem sameWork_withdraw (c : Chip) (which : RingReq → Bool) : c.sameWork (c.withdraw which) :=
  Chip.sameWork.trans ⟨rfl, rfl, rfl⟩ (sameWork_foldl (fun c _ => sameWork_post c _ _) _ _)

/-- A thread that leaves its waits changes no work. -/
theorem sameWork_detach (c : Chip) (id : Nat) : c.sameWork (c.detach id) :=
  Chip.sameWork.trans (d := (c.unpark id).dropResv id) ⟨rfl, rfl, rfl⟩ ((sameWork_withdraw _ _).trans ⟨rfl, rfl, rfl⟩)

/-- The loss of a holder changes memory alone (R35, R77). -/
theorem sameWork_loseHolder (c : Chip) (a : Agent) : c.sameWork (c.loseHolder a) :=
  (sameWork_foldl (fun c _ => sameWork_setPoison c _) _ c).trans ⟨rfl, rfl, rfl⟩

/-- The end of a die's threads changes no work. -/
theorem sameWork_endDieThreads (c : Chip) (die : Nat) : c.sameWork (c.endDieThreads die) :=
  (sameWork_foldl sameWork_detach _ c).trans ⟨rfl, rfl, rfl⟩

/-- Threads that leave their waits stay where they are. -/
theorem threads_detach (c : Chip) (id : Nat) : (c.detach id).threads = c.threads :=
  List.foldlRecOn (motive := fun d : Chip => d.threads = c.threads) _ _ rfl fun _ h _ _ => h

/-- So do several, one after the other. -/
theorem threads_foldl_detach (ids : List Nat) (c : Chip) : (ids.foldl Chip.detach c).threads = c.threads :=
  List.foldlRecOn ids Chip.detach (motive := fun d : Chip => d.threads = c.threads) rfl fun d h id _ => (threads_detach d id).trans h

/-- A lost holder is in no directory entry any more. -/
theorem loseHolder_dir {c : Chip} {a : Agent} {e : DirEntry} (he : e ∈ (c.loseHolder a).mem.dir) : e.owner ≠ some a ∧ a ∉ e.sharers := by
  simp only [Chip.loseHolder, List.mem_filterMap] at he
  obtain ⟨k, -, hk⟩ := he
  split at hk
  next howner =>
    split at hk
    next => cases hk
    next =>
      cases hk
      simp
  next howner =>
    split at hk
    next => cases hk
    next =>
      cases hk
      simp [howner]

/-- A port that goes down changes no more of the chip than the packages without a route (R35). -/
theorem dropPort_chip (s : State) (n : Nat) : ∃ cut, (s.dropPort n).chip = { s.chip with ras := { s.chip.ras with cut := cut } } := ⟨_, rfl⟩

/-! ## What lies on a fenced die -/

/-- The die's threads have ended, and none of its groups and engine operations is left. -/
theorem endDieThreads_clears (c : Chip) (die : Nat) :
    (∀ t ∈ (c.endDieThreads die).threads, t.onCompute = true → t.core / 80 ≠ die) ∧
    (∀ g ∈ (c.endDieThreads die).groups, g.core / 80 ≠ die) ∧ (∀ k ∈ (c.endDieThreads die).eng.copies, k.core / 80 ≠ die) ∧
    (∀ k ∈ (c.endDieThreads die).eng.mats, k.core / 80 ≠ die) := by
  refine ⟨fun t ht hon => ?_, fun g hg => ?_, fun k hk => ?_, fun k hk => ?_⟩
  · simp only [Chip.endDieThreads, List.mem_map, threads_foldl_detach] at ht
    obtain ⟨u, hu, rfl⟩ := ht
    split at hon
    next => cases hon
    next hnot =>
      rw [if_neg hnot]
      intro hdie
      exact hnot (List.contains_iff_mem.2 (List.mem_map.2 ⟨u, List.mem_filter.2 ⟨hu, by simp [hon, hdie]⟩, rfl⟩))
  · exact of_decide_eq_true (List.mem_filter.1 hg).2
  · exact of_decide_eq_true (List.mem_filter.1 hk).2
  · exact of_decide_eq_true (List.mem_filter.1 hk).2

/-- The package after a die is marked as fenced, with both its stacks (R20, R77). -/
def Chip.marksDie (c : Chip) (die : Nat) : Chip :=
  c.setRas { c.ras with dies := c.ras.dies ||| (1#8 <<< die), hbmStacks := c.ras.hbmStacks ||| (3#16 <<< (2 * die)) }

/-- What its grids and tasks had there is taken from it (R170). -/
def Chip.workOffDie (c : Chip) (die : Nat) : Chip :=
  let c := c.loseHolder (.cdie die)
  ((c.disp.grids.map (·.slot)).foldl (fun c g => c.gridOnFencedDie die g) c).tasksOnFencedDie die

/-- The steps in which a die is fenced that was not. -/
theorem fenceDie_of_not_fenced {s : State} {die : Nat} (hd : die < 8) (h : s.chip.ras.dies.getLsbD die = false) :
    s.fenceDie die =
      ({ s with chip := (((s.chip.marksDie die).workOffDie die).endDieThreads die).discardDie die } : State).dropPort die :=
  if_neg (by rw [h, decide_eq_true hd]; exact Bool.false_ne_true)

/-- A die that is fenced already stays so. -/
theorem fenceDie_of_fenced {s : State} {die : Nat} (h : s.chip.ras.dies.getLsbD die = true) : s.fenceDie die = s :=
  if_pos (by simp [h])

/-- Nothing is left of a die whose threads have ended and whose memories are discarded. -/
theorem withoutDie_of_discarded (s : State) (c : Chip) (die : Nat) :
    ({ s with chip := (c.endDieThreads die).discardDie die } : State).withoutDie die := by
  obtain ⟨hthreads, hgroups, hcopies, hmats⟩ := endDieThreads_clears c die
  exact ⟨hthreads, hgroups, hcopies, hmats, fun _ hl => of_decide_eq_true (List.mem_filter.1 hl).2,
    fun _ hl => of_decide_eq_true (List.mem_filter.1 hl).2⟩

/-- A port that goes down brings nothing back. -/
theorem withoutDie_dropPort {s : State} {die : Nat} (h : s.withoutDie die) (n : Nat) : (s.dropPort n).withoutDie die := by
  obtain ⟨cut, hcut⟩ := dropPort_chip s n
  rw [State.withoutDie, hcut]
  exact h

/-- Nothing runs or lies on a die that has just been fenced (R20, R77, R170). -/
theorem fenceDie_withoutDie {s : State} {die : Nat} (hd : die < 8) (h : s.chip.ras.dies.getLsbD die = false) :
    (s.fenceDie die).withoutDie die := by
  rw [fenceDie_of_not_fenced hd h]
  exact withoutDie_dropPort (withoutDie_of_discarded s _ die) die

/-! ## Fences of a package without grids and blocks -/

/-- A package without grids and blocks has none, and the fences of another are kept. -/
def Chip.idleFrom (c d : Chip) : Prop :=
  d.idle = true ∧ d.ras.links = c.ras.links ∧ ∀ k, c.ras.dies.getLsbD k = true → d.ras.dies.getLsbD k = true

/-- Fences kept by two steps are kept. -/
theorem Chip.idleFrom.trans {c d e : Chip} (h : c.idleFrom d) (h' : d.idleFrom e) : c.idleFrom e := by
  obtain ⟨-, hl, hd⟩ := h
  obtain ⟨hi', hl', hd'⟩ := h'
  exact ⟨hi', hl'.trans hl, fun k hk => hd' k (hd k hk)⟩

/-- The same work is as idle. -/
theorem Chip.sameWork.idle {c d : Chip} (h : c.sameWork d) : d.idle = c.idle := by
  obtain ⟨-, hg, hb⟩ := h
  rw [Chip.idle, Chip.idle, hg, hb]

/-- Where there is no grid and no block, a fenced die takes no work. -/
theorem sameWork_workOffDie {c : Chip} (h : c.idle = true) (die : Nat) : c.sameWork (c.workOffDie die) := by
  have hlost := sameWork_loseHolder c (.cdie die)
  obtain ⟨hgrids, hblocks⟩ : (c.loseHolder (.cdie die)).disp.grids = [] ∧ (c.loseHolder (.cdie die)).disp.blocks = [] := by
    simpa [Chip.idle] using hlost.idle.trans h
  have hnone : c.workOffDie die = c.loseHolder (.cdie die) := by
    simp only [Chip.workOffDie, hgrids, List.map_nil, List.foldl_nil, Chip.tasksOnFencedDie, hblocks, List.filter_nil]
  rwa [hnone]

/-- A port that goes down leaves an idle package idle, and its fences as they are. -/
theorem dropPort_of_sameWork {c d : Chip} (h : c.sameWork d) (hi : c.idle = true) (s : State) (n : Nat) :
    (({ s with chip := d } : State).dropPort n).chip.idle = true ∧
    ∃ cut, (({ s with chip := d } : State).dropPort n).chip.ras = { c.ras with cut := cut } := by
  obtain ⟨cut, hcut⟩ := dropPort_chip { s with chip := d } n
  rw [hcut]
  exact ⟨h.idle.trans hi, cut, by rw [← h.1]⟩

/-- The fences of an idle package after a die is fenced that was not. -/
theorem fenceDie_ras_of_idle {s : State} {die : Nat} (hd : die < 8) (h : s.chip.ras.dies.getLsbD die = false) (hi : s.chip.idle = true) :
    (s.fenceDie die).chip.idle = true ∧
    ∃ cut, (s.fenceDie die).chip.ras = { (s.chip.marksDie die).ras with cut := cut } := by
  have hidle : (s.chip.marksDie die).idle = true := hi
  have hwork : (s.chip.marksDie die).sameWork ((((s.chip.marksDie die).workOffDie die).endDieThreads die).discardDie die) :=
    ((sameWork_workOffDie hidle die).trans (sameWork_endDieThreads _ die)).trans (sameWork_discardDie _ die)
  rw [fenceDie_of_not_fenced hd h]
  exact dropPort_of_sameWork hwork hidle s die

/-- A fenced die's bit. -/
theorem getLsbD_marked {die : Nat} (hd : die < 8) (m : BitVec 8) : (m ||| (1#8 <<< die)).getLsbD die = true := by
  simp [hd]

/-- The bits of its stacks. -/
theorem getLsbD_markedStacks {die : Nat} (hd : die < 8) (m : BitVec 16) :
    (m ||| (3#16 <<< (2 * die))).getLsbD (2 * die) = true ∧ (m ||| (3#16 <<< (2 * die))).getLsbD (2 * die + 1) = true := by
  constructor
  · simp; omega
  · simp; omega

/-- An idle package has its fenced die's bit and those of both its stacks. -/
theorem fenceDie_fenced {s : State} {die : Nat} (hd : die < 8) (h : s.chip.ras.dies.getLsbD die = false) (hi : s.chip.idle = true) :
    (s.fenceDie die).chip.ras.fenced die := by
  obtain ⟨-, cut, hras⟩ := fenceDie_ras_of_idle hd h hi
  rw [Ras.fenced, hras]
  exact ⟨getLsbD_marked hd _, getLsbD_markedStacks hd _⟩

/-- Fencing a die of an idle package keeps the fences, and the die's bit is set. -/
theorem fenceDie_of_idle {s : State} {die : Nat} (hd : die < 8) (hi : s.chip.idle = true) :
    s.chip.idleFrom (s.fenceDie die).chip ∧ (s.fenceDie die).chip.ras.dies.getLsbD die = true := by
  cases h : s.chip.ras.dies.getLsbD die with
  | true =>
    rw [fenceDie_of_fenced h]
    exact ⟨⟨hi, rfl, fun _ hk => hk⟩, h⟩
  | false =>
    obtain ⟨hidle, cut, hras⟩ := fenceDie_ras_of_idle hd h hi
    refine ⟨⟨hidle, by rw [hras]; rfl, fun k hk => ?_⟩, (fenceDie_fenced hd h hi).1⟩
    rw [hras]
    exact (BitVec.getLsbD_or ..).trans (by rw [hk, Bool.true_or])

/-- Fencing dies of an idle package one after the other fences each. -/
theorem fenceDies_of_idle {dies : List Nat} (hd : ∀ d ∈ dies, d < 8) {s : State} (hi : s.chip.idle = true) :
    s.chip.idleFrom (dies.foldl (fun s d => s.fenceDie d) s).chip ∧
    ∀ d ∈ dies, (dies.foldl (fun s d => s.fenceDie d) s).chip.ras.dies.getLsbD d = true := by
  induction dies generalizing s with
  | nil => exact ⟨⟨hi, rfl, fun _ hk => hk⟩, fun _ hd => absurd hd List.not_mem_nil⟩
  | cons d r ih =>
    obtain ⟨hfirst, hbit⟩ := fenceDie_of_idle (hd d List.mem_cons_self) hi
    obtain ⟨hrest, hbits⟩ := ih (fun k hk => hd k (List.mem_cons_of_mem _ hk)) hfirst.1
    refine ⟨hfirst.trans hrest, fun k hk => ?_⟩
    rcases List.mem_cons.1 hk with rfl | hk
    · exact hrest.2.2 k hbit
    · exact hbits k hk

/-! ## L-die 1 (R42, R77) -/

/-- A thread of a latency core of L-die 1. -/
def Thread.onLdie1 (t : Thread) : Bool :=
  match t.place with
  | .hart 1 _ => true
  | _ => false

/-- The package without L-die 1. -/
def Chip.withoutLdie1 (c : Chip) : Chip :=
  let d := (c.setRas { c.ras with ldie1 := true }).loseHolder (.ldie 1)
  { d with
    threads := d.threads.filter fun t => !t.onLdie1, harts := d.harts.filter fun h => h.ldie ≠ 1
    pcie := listSet d.pcie 1 { d.pciePort 1 with up := false } }

/-- The root firmware is alone from then on. -/
def State.withoutLdie1 (s : State) : State :=
  { s.setTrust { s.plat.trust with mirrorLost := true } with chip := s.chip.withoutLdie1 }

/-- The steps in which L-die 1 is fenced that was not: bring-up that has not ended stops (R42). -/
theorem fenceLdie1_of_not_fenced {s : State} (h : s.chip.ras.ldie1 = false) : s.fenceLdie1 =
    if (decide (s.plat.trust.stage = 7) && s.plat.trust.stageDone) = true then s.withoutLdie1 else s.withoutLdie1.bootFail s.plat.trust.stage :=
  if_neg (by rw [h]; exact Bool.false_ne_true)

/-- An L-die 1 that is fenced already stays so. -/
theorem fenceLdie1_of_fenced {s : State} (h : s.chip.ras.ldie1 = true) : s.fenceLdie1 = s := if_pos h

/-- Its chip is that without L-die 1, whether bring-up stops or not, and the mirror is lost. -/
theorem fenceLdie1_chip {s : State} (h : s.chip.ras.ldie1 = false) :
    s.fenceLdie1.chip = s.chip.withoutLdie1 ∧ s.fenceLdie1.plat.trust.mirrorLost = true ∧
    (s.fenceLdie1.plat.trust.power = .stopped ∨ s.plat.trust.stage = 7) := by
  rw [fenceLdie1_of_not_fenced h]
  split
  next hover => exact ⟨rfl, rfl, .inr (of_decide_eq_true (Bool.and_eq_true_iff.1 hover).1)⟩
  next => exact ⟨rfl, rfl, .inl rfl⟩

/-- Of the failures, the fence of L-die 1 alone changes. -/
theorem withoutLdie1_ras (c : Chip) : c.withoutLdie1.ras = { c.ras with ldie1 := true } :=
  (sameWork_loseHolder (c.setRas { c.ras with ldie1 := true }) (.ldie 1)).1

/-- No thread of a latency core of L-die 1 is left. -/
theorem withoutLdie1_threads {c : Chip} {u : Thread} (hu : u ∈ c.withoutLdie1.threads) (k : Nat) : u.place ≠ .hart 1 k := by
  intro hplace
  have hoff : (!u.onLdie1) = true := (List.mem_filter.1 hu).2
  simp [Thread.onLdie1, hplace] at hoff

/-- No hart of L-die 1 is left. -/
theorem withoutLdie1_harts {c : Chip} {h : Hart} (hh : h ∈ c.withoutLdie1.harts) : h.ldie ≠ 1 :=
  of_decide_eq_true (List.mem_filter.1 hh).2

/-- An idle package stays so, with its other fences. -/
theorem withoutLdie1_idleFrom {c : Chip} (hi : c.idle = true) : c.idleFrom c.withoutLdie1 := by
  have hidle : (c.setRas { c.ras with ldie1 := true }).idle = true := hi
  have hlost := (sameWork_loseHolder (c.setRas { c.ras with ldie1 := true }) (.ldie 1)).idle.trans hidle
  exact ⟨hlost, by rw [withoutLdie1_ras], fun k hk => by rw [withoutLdie1_ras]; exact hk⟩

/-- So it does whether L-die 1 was fenced already or not. -/
theorem fenceLdie1_idleFrom {s : State} (hi : s.chip.idle = true) : s.chip.idleFrom s.fenceLdie1.chip := by
  cases h : s.chip.ras.ldie1 with
  | true =>
    rw [fenceLdie1_of_fenced h]
    exact ⟨hi, rfl, fun _ hk => hk⟩
  | false =>
    rw [(fenceLdie1_chip h).1]
    exact withoutLdie1_idleFrom hi

/-! ## Die links (R15) -/

/-- An acknowledgement and a refusal change memory alone (R75). -/
theorem sameWork_acknowledge (c : Chip) (a : Agent) (n : Nat) : c.sameWork (c.acknowledge a n) := by
  unfold Chip.acknowledge
  split <;> exact ⟨rfl, rfl, rfl⟩

/-- A request that parks where it used a fenced link changes memory alone. -/
theorem sameWork_interrupt {c d : Chip} {before : Ras} {link : Nat × Nat} {r : Request} {n : Nat}
    (h : c.interrupt before link r n = some d) : c.sameWork d := by
  unfold Chip.interrupt at h
  split at h
  next =>
    split at h
    next => cases h
    next =>
      split at h
      next =>
        cases h
        refine (sameWork_acknowledge c r.agent n).trans ?_
        split <;> exact ⟨rfl, rfl, rfl⟩
      next => cases h
  next => cases h

/-- So do all of them. -/
theorem sameWork_interruptAll (s : State) (before : Ras) (link : Nat × Nat) : s.chip.sameWork (s.interruptAll before link).chip := by
  refine List.foldlRecOn s.agenda _ (motive := fun x : Chip × List (Instr × Nat) => s.chip.sameWork x.1) ⟨rfl, rfl, rfl⟩ fun x h e _ => ?_
  split
  next c hc =>
    obtain ⟨r, -, hr⟩ := Option.bind_eq_some_iff.1 hc
    exact h.trans (sameWork_interrupt hr)
  next => exact h

/-- What the links that are left cut off from L-die 0 is fenced, in an idle package. -/
theorem fenceSevered_of_idle {s : State} (hi : s.chip.idle = true) :
    s.chip.idleFrom s.fenceSevered.chip ∧
    ∀ d, d < 8 → s.chip.ras.severed d = true → s.fenceSevered.chip.ras.dies.getLsbD d = true := by
  obtain ⟨hkeeps, hbits⟩ := fenceDies_of_idle (dies := (List.range 8).filter s.chip.ras.severed)
    (fun d hd => List.mem_range.1 (List.mem_filter.1 hd).1) hi
  have hdies : ∀ d, d < 8 → s.chip.ras.severed d = true → _ := fun d hd hs =>
    hbits d (List.mem_filter.2 ⟨List.mem_range.2 hd, hs⟩)
  simp only [State.fenceSevered]
  split
  next =>
    have hl := fenceLdie1_idleFrom hkeeps.1
    exact ⟨hkeeps.trans hl, fun d hd hs => hl.2.2 d (hdies d hd hs)⟩
  next => exact ⟨hkeeps, hdies⟩

/-- A fenced link is marked so; then the requests under way park, and what is cut off is fenced. -/
theorem exec_dieLinkFenced {a b : Nat} {s : State} (h : (linked a b && !s.chip.ras.cutLink a b) = true) :
    exec (.dieLinkFenced a b) s = .next
      (({ s with chip := s.chip.setRas { s.chip.ras with links := s.chip.ras.links ++ [(min a b, max a b)] } } : State).interruptAll
        s.chip.ras (min a b, max a b)).fenceSevered := by
  obtain ⟨hlinked, hcut⟩ := Bool.and_eq_true_iff.1 h
  refine (if_neg ?_ : execDieLinkFenced a b s = _)
  rw [hlinked, (Bool.not_eq_true' _).mp hcut]
  exact Bool.false_ne_true

/-- Two dies without a link between them, or with a fenced one, stay as they are. -/
theorem exec_dieLinkFenced_of_cut {a b : Nat} {s : State} (h : (!(linked a b && !s.chip.ras.cutLink a b)) = true) :
    exec (.dieLinkFenced a b) s = .next s := by
  refine (if_pos ?_ : execDieLinkFenced a b s = _)
  rwa [Bool.not_and, Bool.not_not] at h

/-- In an idle package the fenced link is then marked, and each die that it cuts off is fenced. -/
theorem interruptAll_fenceSevered_of_idle {s : State} (hi : s.chip.idle = true) (before : Ras) (link : Nat × Nat) :
    (s.interruptAll before link).fenceSevered.chip.ras.links = s.chip.ras.links ∧
    ∀ d, d < 8 → s.chip.ras.severed d = true → (s.interruptAll before link).fenceSevered.chip.ras.dies.getLsbD d = true := by
  have hsame := sameWork_interruptAll s before link
  obtain ⟨⟨-, hlinks, -⟩, hdies⟩ := fenceSevered_of_idle (hsame.idle.trans hi)
  rw [hsame.1] at hlinks hdies
  exact ⟨hlinks, hdies⟩

/-! ## The rows -/

/-- Each row of the fenced dies and die links holds. -/
theorem fenceDieRows_hold (a b : Nat) : ∀ q ∈ fenceDieRows a b, q.holds := by
  intro q hq
  simp only [fenceDieRows, List.mem_cons, List.not_mem_nil, or_false] at hq
  rcases hq with rfl | rfl | rfl | rfl | rfl | rfl
  all_goals intro s hok
  -- a C-die that was not fenced, and one that was
  · obtain ⟨hlt, hnot⟩ := Bool.and_eq_true_iff.1 hok
    have hd : s.subject < 8 := of_decide_eq_true hlt
    have hnot := (Bool.not_eq_true' _).mp hnot
    exact ⟨_, rfl, fenceDie_withoutDie hd hnot, fenceDie_fenced hd hnot⟩
  · exact ⟨_, rfl, fenceDie_of_fenced hok⟩
  -- L-die 1
  · obtain ⟨hchip, hmirror, hstops⟩ := fenceLdie1_chip ((Bool.not_eq_true' _).mp hok)
    refine ⟨_, rfl, ?_, hmirror, fun u hu => ?_, fun h hh => ?_, hstops⟩
    · rw [hchip, withoutLdie1_ras]
    · exact withoutLdie1_threads (hchip ▸ hu)
    · exact withoutLdie1_harts (hchip ▸ hh)
  · exact ⟨_, rfl, fenceLdie1_of_fenced hok⟩
  -- a die link
  · refine ⟨_, exec_dieLinkFenced hok, rfl, fun hi => ?_⟩
    obtain ⟨hlinks, hdies⟩ := interruptAll_fenceSevered_of_idle
      (s := { s with chip := s.chip.setRas { s.chip.ras with links := s.chip.ras.links ++ [(min a b, max a b)] } })
      hi s.chip.ras (min a b, max a b)
    exact ⟨by rw [hlinks]; exact List.mem_append_right _ List.mem_cons_self, hdies⟩
  · exact ⟨_, exec_dieLinkFenced_of_cut hok, rfl⟩

end Sys2Proof.Machine
end

section
/-! PROOFS. Lost ports, packages and links: what a port that goes down, the loss of a package and the return of a route leave behind, and
the obligation O59 from these and the fenced dies. -/
namespace Sys2Proof.Machine

/-! ## Ports of the link -/

/-- Replacing an element is the library's own. -/
theorem listSet_eq_set {α : Type} (l : List α) (n : Nat) (x : α) : listSet l n x = l.set n x := by
  induction l generalizing n with
  | nil => rfl
  | cons y r ih =>
    cases n with
    | zero => rfl
    | succ n => exact congrArg (y :: ·) (ih n)

/-- A port put back is found. -/
theorem port_setPort_self {l : Link} {n : Nat} (h : n < l.ports.length) (p : Port) : (l.setPort n p).port n = p := by
  simp [Link.port, Link.setPort, listSet_eq_set, h]

/-- Every other port is as before. -/
theorem port_setPort_of_ne {k n : Nat} (h : k ≠ n) (l : Link) (p : Port) : (l.setPort k p).port n = l.port n := by
  simp [Link.port, Link.setPort, listSet_eq_set, h]

/-- A route begins at a port that is up (R33, R35). -/
theorem firstUp_up {l : Link} {r : List Nat} {k : Nat} (h : l.firstUp r = some k) : (l.port k).state = .up := by
  unfold Link.firstUp at h
  split at h
  next => cases h
  next p _ =>
    split at h
    next hup => exact Option.some.inj h ▸ hup
    next => cases h

/-- A destination is left for by a port that is up. -/
theorem portTo_up {l : Link} {dest : Nat} {x : Nat × List Nat} (h : l.portTo dest = some x) : (l.port x.1).state = .up := by
  have hgo {r : List Nat} (hr : (l.firstUp r).map (fun p => (p, r)) = some x) : (l.port x.1).state = .up := by
    obtain ⟨k, hk, rfl⟩ := Option.map_eq_some_iff.1 hr
    exact firstUp_up hk
  simp only [Link.portTo] at h
  split at h
  next y hy => exact hgo (Option.some.inj h ▸ hy)
  next => exact hgo h

/-- A message that has a route leaves by a port that is up. -/
theorem routed_up {l : Link} {m m' : LinkMsg} {k : Nat} (h : l.routed m = some (k, m')) : (l.port k).state = .up := by
  simp only [Link.routed] at h
  split at h
  next n hn =>
    cases h
    exact firstUp_up hn
  next =>
    obtain ⟨x, hx, hxk⟩ := Option.map_eq_some_iff.1 h
    cases hxk
    exact portTo_up hx

/-- A message that is sent changes no port that is not up. -/
theorem port_send_of_not_up {l : Link} {n : Nat} (h : (l.port n).state ≠ .up) (now : Nat) (m : LinkMsg) :
    (l.send now m).port n = l.port n := by
  unfold Link.send
  split
  next k m' hr =>
    have hne : k ≠ n := fun hk => h (hk ▸ routed_up hr)
    exact (port_setPort_of_ne hne _ _).trans (port_setPort_of_ne hne _ _)
  next => rfl

/-- Neither do several. -/
theorem port_foldl_send_of_not_up {l : Link} {n : Nat} (h : (l.port n).state ≠ .up) (now : Nat) (ms : List LinkMsg) :
    (ms.foldl (fun l m => l.send now m) l).port n = l.port n :=
  List.foldlRecOn ms _ (motive := fun k : Link => k.port n = l.port n) rfl fun k hk m _ =>
    (port_send_of_not_up (by rw [hk]; exact h) now m).trans hk

/-! ## A port that goes down (R35) -/

/-- What becomes of the routes changes no port and no route. -/
theorem cutRoutes_link (s : State) : s.cutRoutes.plat.link.ports = s.plat.link.ports ∧
    ∀ p, s.cutRoutes.plat.link.portTo p = s.plat.link.portTo p := by
  simp only [State.cutRoutes]
  split
  next => split <;> exact ⟨rfl, fun _ => rfl⟩
  next => exact ⟨rfl, fun _ => rfl⟩

/-- A member of the pod without a route is lost, or counts from some tick as cut off. -/
theorem cutRoutes_cut {s : State} {p : Nat} (hp : p < 32) (hne : p ≠ s.chip.pkg) (hmem : s.chip.members.getLsbD p = true)
    (hroute : s.cutRoutes.plat.link.portTo p = none) (hlost : s.chip.ras.lost.getLsbD p = false) :
    ∃ k, (p, k) ∈ s.cutRoutes.chip.ras.cut := by
  rw [(cutRoutes_link s).2 p] at hroute
  cases hcut : s.chip.ras.cut.any fun k => k.1 = p with
  | true =>
    obtain ⟨k, hk, hkp⟩ := List.any_eq_true.1 hcut
    obtain rfl : k.1 = p := of_decide_eq_true hkp
    exact ⟨k.2, List.mem_append_left _ hk⟩
  | false =>
    have hgone : p ∈ (packagesOf s.chip.members).filter fun p =>
        p ≠ s.chip.pkg && (s.plat.link.portTo p).isNone && !(s.chip.ras.cut.any fun k => k.1 = p) && !s.chip.ras.lost.getLsbD p :=
      List.mem_filter.2 ⟨List.mem_filter.2 ⟨List.mem_range.2 hp, hmem⟩, by rw [hroute, hcut, hlost, decide_eq_true hne]; rfl⟩
    exact ⟨s.chip.tick, List.mem_append_right _ (List.mem_map.2 ⟨p, hgone, rfl⟩)⟩

/-- A port without messages and flits to replay, which is down. -/
def Port.dropped (p : Port) : Port :=
  { p with state := .down, replay := [], queue := [], begun := 0, retry := none, retries := 0, pausedTo := 0 }

/-- The messages that a port holds back or may have to replay. -/
def Port.unsent (p : Port) : List LinkMsg := (p.replay.filter fun f => f.ftype = 1).flatMap (·.msgs) ++ p.queue

/-- The steps in which a port goes down: its messages take other routes. -/
theorem dropPort_eq (s : State) (n : Nat) : s.dropPort n =
    (s.setLink ((s.plat.link.port n).unsent.foldl (fun l m => l.send s.chip.tick m)
      (s.plat.link.setPort n (s.plat.link.port n).dropped))).cutRoutes := rfl

/-- A port that has gone down keeps neither messages nor flits to replay. -/
theorem dropPort_port {s : State} {n : Nat} (hn : n < s.plat.link.ports.length) :
    (s.dropPort n).plat.link.port n = (s.plat.link.port n).dropped := by
  have hself := port_setPort_self hn (s.plat.link.port n).dropped
  rw [dropPort_eq, Link.port, (cutRoutes_link _).1]
  refine (port_foldl_send_of_not_up ?_ s.chip.tick _).trans hself
  rw [hself]
  exact PortState.noConfusion

/-- A retraining port that is not overdue does not go down. -/
theorem exec_portDown_of_le {s : State} (h : s.chip.tick - (s.plat.link.port s.subject).since ≤ 5000000) :
    exec .portDown s = .next s :=
  (if_pos (by simp [Port.overdue, h]) : execPortDown s = _)

/-- An overdue one does. -/
theorem exec_portDown_of_overdue {s : State} (hn : s.subject < 8) (ht : (s.plat.link.port s.subject).state = .training)
    (h : 5000000 < s.chip.tick - (s.plat.link.port s.subject).since) : exec .portDown s = .next (s.dropPort s.subject) :=
  (if_neg (by simp [Port.overdue, hn, ht, h]) : execPortDown s = _)

/-! ## Packages (R35, R36, R170) -/

/-- The first tick from which a package counts as cut off. -/
def Ras.cutSince (r : Ras) (p : Nat) : Option Nat := (r.cut.find? fun k => k.1 = p).map (·.2)

/-- A package that is not cut off, or not for long enough, is not lost. -/
theorem exec_packageLost_early {s : State} (h : ∀ k, s.chip.ras.cutSince s.subject = some k → s.chip.tick - k < 100000000) :
    exec .packageLost s = .next s := by
  change execPackageLost s = _
  unfold execPackageLost
  simp only
  split
  next => rfl
  next k hk => exact if_pos (h k.2 (by rw [Ras.cutSince, hk]; rfl))

/-- The package after another is lost: its copies are poisoned, its work counts as faulted, and what waits for it tries again. -/
def Chip.withoutPackage (c : Chip) (p : Nat) : Chip :=
  let d := (c.setRas { c.ras with lost := withPkg c.ras.lost p, cut := c.ras.cut.filter fun k => k.1 ≠ p }).loseHolder (.pkg p)
  ((d.disp.grids.map (·.slot)).foldl (fun c g => c.lossOfPackage p g) d).wakeParked

/-- A package that has been cut off for 100 ms is lost; no message waits for it any longer. -/
theorem exec_packageLost {s : State} {k : Nat} (hk : s.chip.ras.cutSince s.subject = some k) (h : 100000000 ≤ s.chip.tick - k) :
    exec .packageLost s = .next
      { s.setLink { s.plat.link with stranded := s.plat.link.stranded.filter fun m => m.dest ≠ s.subject } with
        chip := s.chip.withoutPackage s.subject } := by
  obtain ⟨x, hx, rfl⟩ := Option.map_eq_some_iff.1 hk
  change execPackageLost s = _
  simp only [execPackageLost, hx]
  rw [if_neg (Nat.not_lt.2 h)]
  rfl

/-- A package marked as lost has its bit. -/
theorem getLsbD_withPkg {p : Nat} (hp : p < 32) (m : BitVec 32) : (withPkg m p).getLsbD p = true := by
  simp [withPkg, hp]

/-- Where no grid lives, its bit is set, no tick counts for it, and no directory entry names it. -/
theorem withoutPackage_leaves {c : Chip} {p : Nat} (hp : p < 32) (hg : c.disp.grids.isEmpty = true) :
    (c.withoutPackage p).ras.lost.getLsbD p = true ∧ (∀ k ∈ (c.withoutPackage p).ras.cut, k.1 ≠ p) ∧
    ∀ e ∈ (c.withoutPackage p).mem.dir, e.owner ≠ some (.pkg p) ∧ (.pkg p) ∉ e.sharers := by
  obtain ⟨hras, hgrids, -⟩ := sameWork_loseHolder
    (c.setRas { c.ras with lost := withPkg c.ras.lost p, cut := c.ras.cut.filter fun k => k.1 ≠ p }) (.pkg p)
  have hras' : (c.withoutPackage p).ras = { c.ras with lost := withPkg c.ras.lost p, cut := c.ras.cut.filter fun k => k.1 ≠ p } := by
    simp only [Chip.withoutPackage, hgrids, Chip.setRas_disp, List.isEmpty_iff.1 hg]
    exact hras
  refine ⟨?_, fun k hk => ?_, fun e he => ?_⟩
  · rw [hras']
    exact getLsbD_withPkg hp _
  · rw [hras'] at hk
    exact of_decide_eq_true (List.mem_filter.1 hk).2
  · simp only [Chip.withoutPackage, hgrids, Chip.setRas_disp, List.isEmpty_iff.1 hg] at he
    exact loseHolder_dir he

/-- A package that is cut off for less than 100 ms, to which a route may return. -/
def Ras.returns (r : Ras) (p tick : Nat) : Bool := r.cut.any fun k => k.1 = p && decide (tick - k.2 < 100000000)

/-- Threads that waited at a home try again. -/
theorem wakeParked_wait {c : Chip} {u : Thread} (hu : u ∈ c.wakeParked.threads) (l : Nat) : u.wait ≠ .homePark l := by
  obtain ⟨t, -, rfl⟩ := List.mem_map.1 hu
  intro hpark
  split at hpark
  next => cases hpark
  next => cases hpark
  next hnot _ => exact hnot l hpark

/-- A route returns only to a package that is cut off for less than 100 ms. -/
theorem exec_routeReturn_of_not {s : State} (h : s.chip.ras.returns s.subject s.chip.tick = false) : exec .routeReturn s = .next s :=
  (if_pos (by rw [← Ras.returns, h]; rfl) : execRouteReturn s = _)

/-- One that returns lets what waited there try again. -/
theorem exec_routeReturn {s : State} (h : s.chip.ras.returns s.subject s.chip.tick = true) : ∃ t, exec .routeReturn s = .next t ∧
    t.chip = (s.chip.setRas { s.chip.ras with cut := s.chip.ras.cut.filter fun k => k.1 ≠ s.subject }).wakeParked :=
  ⟨_, (if_neg (by rw [← Ras.returns, h]; exact Bool.false_ne_true) : execRouteReturn s = _), rfl⟩

/-! ## The rows -/

/-- Each row of the losses holds. -/
theorem lossRows_hold (n : Nat) : ∀ q ∈ lossRows n, q.holds := by
  intro q hq
  simp only [lossRows, List.mem_cons, List.not_mem_nil, or_false] at hq
  rcases hq with rfl | rfl | rfl | rfl | rfl | rfl
  all_goals intro s hok
  -- a port within 5 ms, and one that goes down
  · simp only [Bool.and_eq_true, decide_eq_true_eq] at hok
    obtain ⟨⟨⟨rfl, -⟩, -⟩, hle⟩ := hok
    exact ⟨s, exec_portDown_of_le hle, rfl⟩
  · simp only [Bool.and_eq_true, decide_eq_true_eq] at hok
    obtain ⟨⟨⟨⟨rfl, hn⟩, ht⟩, hlen⟩, hlate⟩ := hok
    have hport := dropPort_port hlen
    refine ⟨_, exec_portDown_of_overdue hn ht hlate, ?_, ?_, ?_, fun p hp hne hmem hroute hlost => ?_⟩
    · exact congrArg Port.state hport
    · exact congrArg Port.queue hport
    · exact congrArg Port.replay hport
    · rw [dropPort_eq] at hroute ⊢
      exact cutRoutes_cut hp hne hmem hroute hlost
  -- a package that is not lost, and one that is
  · refine ⟨s, exec_packageLost_early fun k hk => ?_, rfl⟩
    dsimp only at hok
    split at hok
    next j hj =>
      obtain rfl : j = k := Option.some.inj (hj.symm.trans hk)
      exact of_decide_eq_true hok
    next hnone => cases hnone.symm.trans hk
  · obtain ⟨hp, hsince⟩ := Bool.and_eq_true_iff.1 hok
    split at hsince
    next k hk =>
      exact ⟨_, exec_packageLost hk (of_decide_eq_true hsince), withoutPackage_leaves (of_decide_eq_true hp),
        fun m hm => of_decide_eq_true (List.mem_filter.1 hm).2⟩
    next => cases hsince
  -- the return of a route
  · obtain ⟨t, hexec, hchip⟩ := exec_routeReturn hok
    refine ⟨t, hexec, fun k hk => ?_, fun u hu l => ?_⟩
    · rw [hchip] at hk
      exact of_decide_eq_true (List.mem_filter.1 hk).2
    · rw [hchip] at hu
      exact wakeParked_wait hu l
  · exact ⟨s, exec_routeReturn_of_not ((Bool.not_eq_true' _).mp hok), rfl⟩

/-- Settles O59: the rows of the fenced dies and those of the losses hold. -/
theorem fencedDiesAndLosses : Obligations.FencedDiesAndLosses := ⟨fenceDieRows_hold, lossRows_hold⟩

end Sys2Proof.Machine
end


section
/-! PROOFS. A DTU whose cores cannot write back does not acknowledge its remote fence, and the refutation of obligation O60 from this:
the row of the acknowledgement names the ring buffers and the walks of R90, but not the write-backs of the cores. -/
namespace Sys2Proof.Machine

/-- A DTU waits with a remote fence while the homes do not take what the cores that held a removed entry have to write back (R90). -/
theorem exec_dtuAcknowledge_of_not_homesTake {s : State} {f : FenceReq}
    (hf : s.chip.xl.fences.find? (fun k => k.die = s.subject) = some f) (hstuck : s.chip.homesTake f.cores = false) :
    exec .dtuAcknowledge s = .next s := by
  change execDtuAcknowledge s = .next s
  simp only [execDtuAcknowledge, hf, hstuck, Bool.not_false, Bool.or_true, if_true]
  rfl

/-- A remote fence of all host address spaces at DTU 0 that removed an entry of core 0. -/
def stuckFence : FenceReq := { die := 0, cores := [0], v := false, vmid := none, asid := none, range := none }

/-- DTU 0 has that fence to acknowledge, and core 0 owns a dirty line whose directory entry cannot be read, so that the line's home does
not take the write-back (R65, R76). -/
def stuckState : State := ({} : State).onChip fun c => { c with
  mem := { c.mem with l1 := [{ core := 0, line := 0, dirty := 1 }], owned := [(0, 0, 0)], dirBad := [0] }
  xl := { c.xl with fences := [stuckFence] } }

/-- The homes do not take core 0's line. -/
theorem stuckState_not_homesTake : stuckState.chip.homesTake stuckFence.cores = false := by decide +kernel

/-- Refutes O60: in a state without ring buffers and walks, the row has DTU 0 acknowledge the fence, which is gone then; but core 0 has
still to write back its line, and R90 (4), as the model has it, keeps the fence waiting. -/
theorem not_translationUnits : ¬ Obligations.TranslationUnits := by
  rintro ⟨-, hack, -⟩
  have hrow := hack 0 _ (List.getElem_mem (l := ackRows 0) (n := 2) (by decide)) stuckState (by decide +kernel)
  have hwaits : exec (ackRows 0)[2].instr stuckState = .next stuckState :=
    exec_dtuAcknowledge_of_not_homesTake (f := stuckFence) rfl stuckState_not_homesTake
  have hstate : stuckState = (ackRows 0)[2].next stuckState := Host.Outcome.next.inj (hwaits.symm.trans hrow)
  have hgone : ((ackRows 0)[2].next stuckState).chip.xl.fences = [] := by decide +kernel
  have hkept : stuckState.chip.xl.fences = [stuckFence] := rfl
  rw [← hstate, hkept] at hgone
  cases hgone

end Sys2Proof.Machine
end

section
/-! PROOFS. Instructions of one thread: a row holds where its operation is not stopped and leaves the row's chip. The safe point, the
return from the hook, the end of a thread and migrate, and the obligation O37 from these. -/
namespace Sys2Proof.Machine

/-! ## Instructions of one thread -/

/-- An operation that is the row's for a thread: it uses the row's slices and no other thread's, nothing stops it once they are usable, and
what it leaves is the row's chip (R203). -/
structure Op.Fits (o : Op) (r : ActRow) (s : State) (i : Issue) (t : Thread) : Prop where
  uses : o.uses = r.uses
  own : o.source [t] 0 t = t
  cross : o.cross = []
  native : (t.onHart && !o.native) = false
  legal : o.legal [t] 0 t = true
  check : o.check s.chip [t] 0 t = none
  chip : (o.run s.chip [t]).finish t.id o = r.chip s i t

/-- An issue of one thread is selected, and its thread is on the chip with which the instruction begins. -/
theorem issue_of_aloneOf {s0 s : State} {i : Issue} {u : Uses} {t : Thread} (h : s0.aloneOf i u s t) : s0.issue = some i := by
  obtain ⟨⟨t0, hissue, -⟩, -⟩ := h
  exact hissue
theorem thread?_of_aloneOf {s0 s : State} {i : Issue} {u : Uses} {t : Thread} (h : s0.aloneOf i u s t) :
    s.chip.thread? t.id = some t := by
  obtain ⟨-, -, -, -, ht, -⟩ := h
  exact ht

/-- A row holds if its instruction is an operation that fits the row wherever the row's conditions hold. -/
theorem alone_of_fits {r : ActRow} (op : Word → Op)
    (hexec : ∀ (s : State) (i : Issue), s.issue = some i → exec r.instr s = .next (s.issueOp (op i.word) none))
    (hfits : ∀ (s : State) (i : Issue) (t : Thread), (r.hart || t.onCompute) = true → r.ok s i t = true → (op i.word).Fits r s i t) :
    r.alone := by
  intro _ s0 i s t hone hplace husable hok
  have hissue := issue_of_aloneOf hone
  have hfit := hfits s i t hplace hok
  rw [← hfit.uses] at hone husable
  rw [hexec s0 i hissue, issueOp_completes hone hfit.native hfit.legal husable hfit.own (by simp [hfit.cross]) hfit.check, hfit.chip]

/-- A thread of a compute core is not on a latency core. -/
theorem onHart_of_onCompute {t : Thread} (h : t.onCompute = true) : t.onHart = false := by
  unfold Thread.onCompute at h
  unfold Thread.onHart
  cases hp : t.place <;> simp_all

/-- Two changes of one thread are one. -/
theorem onThread_onThread (c : Chip) (id : Nat) (f g : Thread → Thread) (hf : ∀ t, (f t).id = t.id) :
    (c.onThread id f).onThread id g = c.onThread id fun t => g (f t) := by
  simp only [Chip.onThread, List.map_map]
  congr 1
  refine List.map_congr_left fun t _ => ?_
  by_cases h : t.id = id <;> simp [h, hf]

/-- What an operation leaves that does not complete itself and writes no register. -/
theorem finish_of_stays {c : Chip} {id : Nat} {o : Op} (ha : o.advance = false) (hw : touchesSp o.uses.writes = false) :
    c.finish id o = c := by
  simp [Chip.finish, ha, hw]

/-! ## The instructions -/

/-- tret, gend and migrate as an issue executes them (R106, R117, R361). -/
def tretOp : Op :=
  { legal := fun _ _ t => t.onCompute && t.hook
    run := fun c ts => ts.foldl (fun c t => c.onThread t.id fun t => { t.leaveHook with arrived := none }) c
    advance := false, len := 4 }
def gendOp (word : Word) : Op :=
  { legal := fun _ _ t => t.block.isSome || t.cancelled
    check := fun _ _ _ t => if t.onHart then none else t.tokenHold
    run := fun c ts => ts.foldl (fun c t => c.gendOne t word) c
    advance := false, len := 4 }
def migrateOp (rd rs1 : BitVec 5) (word : Word) : Op :=
  { uses := { reads := [spanX rs1.toNat], writes := [spanX rd.toNat] }
    run := fun c ts => ts.foldl (fun c t => c.migrateOne t rd.toNat rs1.toNat word) c
    advance := false, len := 4 }

theorem exec_safept (f : Long) (s : State) : exec (.safept f) s = .next (s.issueOp (safeptOp f) none) := rfl
theorem exec_tret (s : State) : exec .tret s = .next (s.issueOp tretOp none) := rfl
theorem exec_gend {s : State} {i : Issue} (h : s.issue = some i) : exec .gend s = .next (s.issueOp (gendOp i.word) none) := by
  change execGend s = _
  simp only [execGend, h]
  rfl
theorem exec_migrate (rd rs1 : BitVec 5) {s : State} {i : Issue} (h : s.issue = some i) :
    exec (.migrate rd rs1) s = .next (s.issueOp (migrateOp rd rs1 i.word) none) := by
  change execMigrate rd rs1 s = _
  simp only [execMigrate, h]
  rfl

/-! ## The rows -/

/-- A safe point without a request completes; with one the thread parks (R224). -/
theorem safept_run (f : Long) (c : Chip) (t : Thread) :
    (safeptOp f).run c [t] = c.onThread t.id fun u => if t.tsafe then (u.retired 8).parkSafe (safeMask f) else u.retired 8 := by
  change (c.onThread t.id fun u => u.retired 8).safePoint t (safeMask f) = _
  unfold Chip.safePoint
  split
  · exact onThread_onThread _ _ _ _ fun _ => rfl
  · rfl

/-- A migrate that does not move completes with its status in rd (R106). -/
theorem migrateOne_of_some {c : Chip} {t : Thread} {rs1 : Nat} {v : Word} (h : c.migrateStatus t (hintOf (readX t.regs rs1)) = some v)
    (rd : Nat) (word : Word) :
    c.migrateOne t rd rs1 word = (c.giveX t rd v (t.poisoned (c.bars t) [spanX rs1])).onThread t.id fun u => u.retired 4 := by
  unfold Chip.migrateOne
  simp only [h]
  rfl

/-- A migrate of a compute-core thread that moves has it wait to depart (R106, R108). -/
theorem migrateOne_of_none {c : Chip} {t : Thread} {rs1 : Nat} (h : c.migrateStatus t (hintOf (readX t.regs rs1)) = none)
    (hc : t.onCompute = true) (rd : Nat) (word : Word) :
    c.migrateOne t rd rs1 word = c.onThread t.id fun u => { u with
      wait := .moving .migrate 0 0 (if (hintOf (readX t.regs rs1)).kind = 3 then (hintOf (readX t.regs rs1)).die else 0)
      waitSince := c.tick, hint := readX t.regs rs1, hintRd := rd } := by
  unfold Chip.migrateOne
  simp only [h]
  unfold Thread.onCompute at hc
  unfold Chip.migrateGo
  split at hc
  next hp => simp only [hp]
  next => cases hc

/-- gend of a compute-core thread spills its window; then a handler is over, and any other thread ends (R157, R228, R361). -/
theorem gendOne_of_onCompute {t : Thread} (hc : t.onCompute = true) (c : Chip) (word : Word) :
    c.gendOne t word = if t.handler then (c.spillWindow t.id).endHandler t false else (c.spillWindow t.id).endThread t.id := by
  unfold Chip.gendOne
  rw [onHart_of_onCompute hc]
  rfl

/-- A row of safept holds if the safe point leaves its chip wherever it does not end a cancelled thread (R224). -/
theorem safept_alone {f : Long} {hart : Bool} {ok : State → Issue → Thread → Bool} {chip : State → Issue → Thread → Chip}
    (hok : ∀ s i t, ok s i t = true → (t.tsafe && t.cancelled) = false)
    (hchip : ∀ s i t, ok s i t = true → (safeptOp f).run s.chip [t] = chip s i t) :
    ActRow.alone { instr := .safept f, hart := hart, ok := ok, chip := chip } := by
  refine alone_of_fits (fun _ => safeptOp f) (fun s _ _ => exec_safept f s) fun s i t _ ht => ⟨rfl, rfl, rfl, ?_, rfl, ?_, ?_⟩
  · exact Bool.and_false _
  · exact if_neg (by rw [hok s i t ht]; exact Bool.false_ne_true)
  · rw [finish_of_stays rfl rfl, hchip s i t ht]

/-- A row of gend holds if it names a thread of a block whose tokens have completed, and the chip that its end leaves (R361). -/
theorem gend_alone {ok : State → Issue → Thread → Bool} {chip : State → Issue → Thread → Chip}
    (hok : ∀ s i t, ok s i t = true → t.block.isSome = true ∧ t.tokensDone = true)
    (hchip : ∀ s i t, t.onCompute = true → ok s i t = true → s.chip.gendOne t i.word = chip s i t) :
    ActRow.alone { instr := .gend, ok := ok, chip := chip } := by
  refine alone_of_fits gendOp (fun s i hi => exec_gend hi) fun s i t (hc : t.onCompute = true) ht => ⟨rfl, rfl, rfl, ?_, ?_, ?_, ?_⟩
  all_goals obtain ⟨hblock, htokens⟩ := hok s i t ht
  · rw [onHart_of_onCompute hc]
    rfl
  · simp [gendOp, hblock]
  · simp [gendOp, Thread.tokenHold, htokens]
  · rw [finish_of_stays rfl rfl]
    exact hchip s i t hc ht

/-- A row of migrate holds if its chip is what migrate leaves, the window following sp (R106, R215). -/
theorem migrate_alone {rd rs1 : BitVec 5} {hart : Bool} {ok : State → Issue → Thread → Bool} {chip : State → Issue → Thread → Chip}
    (hchip : ∀ s i t, (hart || t.onCompute) = true → ok s i t = true →
      (if touchesSp [spanX rd.toNat] then (s.chip.migrateOne t rd.toNat rs1.toNat i.word).windowUpdate t.id
        else s.chip.migrateOne t rd.toNat rs1.toNat i.word) = chip s i t) :
    ActRow.alone { instr := .migrate rd rs1, uses := { reads := [spanX rs1.toNat], writes := [spanX rd.toNat] }, hart := hart, ok := ok
                   chip := chip } := by
  refine alone_of_fits (migrateOp rd rs1) (fun s i hi => exec_migrate rd rs1 hi) fun s i t hplace ht =>
    ⟨rfl, rfl, rfl, ?_, rfl, rfl, hchip s i t hplace ht⟩
  exact Bool.and_false _

/-- A thread past its tret: at tepc, without an active hook (R117). -/
def Thread.unhooked (t : Thread) : Thread :=
  { t with pc := t.tepc, tcause := t.tcause &&& 0x7FFF_FFFF_FFFF_FFFF, instret := t.instret + 1, arrived := none }

/-- The row of tret (R117). -/
def tretRow : ActRow where
  instr := .tret
  ok _ _ t := t.tcause.getLsbD 63
  chip s _ t := s.chip.onThread t.id Thread.unhooked

/-- With an active hook tret leaves what its row says (R117, R357). -/
theorem tretRow_alone : tretRow.alone := by
  refine alone_of_fits (fun _ => tretOp) (fun s _ _ => exec_tret s) fun s i t (hc : t.onCompute = true) (hhook : t.hook = true) =>
    ⟨rfl, rfl, rfl, ?_, ?_, rfl, finish_of_stays rfl rfl⟩
  · rw [onHart_of_onCompute hc]
    rfl
  · simp [tretOp, hc, hhook]

/-- Settles O37: each row is the effect of its instruction's operation. -/
theorem leavingACore : Obligations.LeavingACore := by
  intro f rd rs1 q hq
  simp only [leaveRows, List.mem_cons, List.not_mem_nil, or_false] at hq
  rcases hq with rfl | rfl | rfl | rfl | rfl | rfl | rfl
  -- a safe point without a request, and one where the thread parks
  · refine safept_alone (fun s i t hok => ?_) fun s i t hok => ?_
    all_goals have hreq : t.tsafe = false := by simpa using hok
    · simp [hreq]
    · simp only [safept_run, hreq]
      rfl
  · refine safept_alone (fun s i t hok => ?_) fun s i t hok => ?_
    all_goals obtain ⟨hreq, hlive⟩ : t.tsafe = true ∧ t.cancelled = false := by simpa using hok
    · simp [hlive]
    · simp only [safept_run, hreq]
      rfl
  -- the return from the hook
  · exact tretRow_alone
  -- the end of a thread, and of a handler
  · refine gend_alone (fun s i t hok => ?_) fun s i t hc hok => ?_
    all_goals
      obtain ⟨⟨hblock, htokens⟩, hplain⟩ : (t.block.isSome = true ∧ t.tokensDone = true) ∧ t.handler = false := by simpa using hok
    · exact ⟨hblock, htokens⟩
    · simp [gendOne_of_onCompute hc, hplain]
  · refine gend_alone (fun s i t hok => ?_) fun s i t hc hok => ?_
    all_goals
      obtain ⟨⟨hblock, htokens⟩, hhandler⟩ : (t.block.isSome = true ∧ t.tokensDone = true) ∧ t.handler = true := by simpa using hok
    · exact ⟨hblock, htokens⟩
    · simp [gendOne_of_onCompute hc, hhandler]
  -- a migrate that stays, and one that leaves a compute core
  · refine migrate_alone fun s i t _ hok => ?_
    obtain ⟨v, hv⟩ : ∃ v, s.chip.migrateStatus t (hintOf (readX t.regs rs1.toNat)) = some v := Option.isSome_iff_exists.1 hok
    simp only [migrateOne_of_some hv, hv]
    rfl
  · refine migrate_alone fun s i t (hc : t.onCompute = true) hok => ?_
    have hmoves : s.chip.migrateStatus t (hintOf (readX t.regs rs1.toNat)) = none := Option.isNone_iff_eq_none.1 hok
    simp only [migrateOne_of_none hmoves hc]

end Sys2Proof.Machine
end

section
/-! PROOFS. The route of a trap on a compute core: window growth, the hook, or the default route, and the obligations O18 and O17 from
these. -/
namespace Sys2Proof.Machine

/-- A slot is the place of a thread of a compute core. -/
theorem place_of_onCompute {t : Thread} (h : t.onCompute = true) : ∃ core q ig b, t.place = .slot core q ig b := by
  unfold Thread.onCompute at h
  split at h
  next core q ig b hp => exact ⟨core, q, ig, b, hp⟩
  next => cases h

/-- The footprint that a trap on a slice asks for: the next multiple of 16, at most 512 (R210). -/
theorem roundUp_succ (v : Nat) : roundUp (v + 1) 16 = (v + 16) / 16 * 16 := rfl

/-- A trap on a compute core is absorbed by window growth, or the hook takes it, or it takes its default route (R116, R210). -/
theorem takeTrap_of_onCompute {c : Chip} {t : Thread} (ht : c.thread? t.id = some t) (hc : t.onCompute = true) (cause tval : Nat)
    (word : Word) : c.takeTrap t.id cause tval word =
      if c.grows t cause tval then c.onThread t.id fun u =>
        { u.setFoot (max (min 512 ((tval + 16) / 16 * 16)) u.tfoot) with wait := .ready }
      else if t.hooks cause then c.setThread (t.enterHook cause tval) else c.defaultRoute t cause tval word := by
  obtain ⟨core, q, ig, b, hp⟩ := place_of_onCompute hc
  have hlane : t.lane3 = (core, q, b % 16) := by simp only [Thread.lane3, hp]
  unfold Chip.takeTrap
  simp only [ht, hp, Chip.grows, hlane, roundUp_succ]
  rfl

/-- Where window growth does not absorb a trap, the hook takes it where it takes its cause (R116). -/
theorem takeTrap_of_hooks {c : Chip} {t : Thread} {cause tval : Nat} (ht : c.thread? t.id = some t) (hc : t.onCompute = true)
    (hg : c.grows t cause tval = false) (hh : t.hooks cause = true) (word : Word) :
    c.takeTrap t.id cause tval word = c.setThread (t.enterHook cause tval) := by
  rw [takeTrap_of_onCompute ht hc, hg, hh]
  rfl

/-- Else it takes its default route. -/
theorem takeTrap_of_not_hooks {c : Chip} {t : Thread} {cause tval : Nat} (ht : c.thread? t.id = some t) (hc : t.onCompute = true)
    (hg : c.grows t cause tval = false) (hh : t.hooks cause = false) (word : Word) :
    c.takeTrap t.id cause tval word = c.defaultRoute t cause tval word := by
  rw [takeTrap_of_onCompute ht hc, hg, hh]
  rfl

/-- What the hook takes (R116): a delegated cause, with a hook address and while no hook is active. -/
theorem hooks_iff {t : Thread} {cause : Nat} (h : cause < 64) :
    t.hooks cause = true ↔ t.delegRead.getLsbD cause = true ∧ t.temu ≠ 0 ∧ t.tcause.getLsbD 63 = false := by
  simp [Thread.hooks, Thread.hook, h, and_assoc]

/-- The bit of a mask of one bit. -/
theorem getLsbD_one_shiftLeft {k : Nat} (hk : k < 64) (i : Nat) : (1#64 <<< i).getLsbD k = decide (k = i) := by
  rw [BitVec.getLsbD_shiftLeft, BitVec.getLsbD_one, Bool.eq_iff_iff]
  simp only [Bool.and_eq_true, Bool.not_eq_true', decide_eq_true_eq, decide_eq_false_iff_not]
  omega

/-- The bits of a mask into which the marked numbers of a list go. -/
theorem getLsbD_foldl_mark (p : Nat → Bool) {k : Nat} (hk : k < 64) (l : List Nat) (m : Word) :
    (l.foldl (fun m i => if p i then m ||| (1#64 <<< i) else m) m).getLsbD k = (m.getLsbD k || (l.contains k && p k)) := by
  induction l generalizing m with
  | nil => simp
  | cons i r ih =>
    rw [List.foldl_cons, ih, List.contains_cons]
    by_cases hi : k = i
    · subst hi
      cases hp : p k <;> simp [getLsbD_one_shiftLeft hk]
    · have hmark : (if p i then m ||| (1#64 <<< i) else m).getLsbD k = m.getLsbD k := by
        split <;> simp [getLsbD_one_shiftLeft hk, hi]
      rw [hmark, beq_false_of_ne hi, Bool.false_or]

/-- tdeleg keeps the written bits of the causes that can be delegated (R116, R222). -/
theorem getLsbD_delegMask (v : Word) {k : Nat} (hk : k < 64) : (delegMask v).getLsbD k = (delegable k && v.getLsbD k) := by
  unfold delegMask
  rw [getLsbD_foldl_mark _ hk, List.contains_iff_mem.2 (List.mem_range.2 hk)]
  simp

/-- Settles O18: the three ways of a trap, and the bits of tdeleg. -/
theorem trapRoutes : Obligations.TrapRoutes := by
  intro c t cause tval word ht hc hcause
  refine ⟨fun hg => ?_, fun hg hroute => ?_, fun v => ?_⟩
  · rw [takeTrap_of_onCompute ht hc, if_pos hg]
  · refine takeTrap_of_not_hooks ht hc hg (Bool.eq_false_iff.2 fun hh => ?_) word
    obtain ⟨hdeleg, hemu, hidle⟩ := (hooks_iff hcause).1 hh
    rcases hroute with hactive | hkept | hnone
    · exact absurd (hactive.symm.trans hidle) (by decide)
    · exact absurd (hdeleg.symm.trans hkept) (by decide)
    · exact hemu hnone
  · change (delegMask v ||| (1#64 <<< 50)).getLsbD cause = _
    rw [BitVec.getLsbD_or, getLsbD_delegMask v hcause, getLsbD_one_shiftLeft hcause]
    rfl

/-- Bit 63 and a cause make the value of tcause that the hook leaves (R117). -/
theorem hookCause_eq {cause : Nat} (h : cause < 64) : (1#64 <<< 63) ||| BitVec.ofNat 64 cause = BitVec.ofNat 64 (2 ^ 63 + cause) := by
  have hor : 2 ^ 63 ||| cause = 2 ^ 63 + cause := by
    simpa using (Nat.two_pow_add_eq_or_of_lt (i := 63) (b := cause) (by omega) 1).symm
  rw [← hor, BitVec.ofNat_or]
  rfl

/-- A thread that uses no slices may use them. -/
theorem usable_nothing (t : Thread) (n : Nat) : t.usable n {} = true := Bool.or_true _

/-- With an active hook tret completes, and its thread is past it (R117). -/
theorem exec_tret_thread {s0 s : State} {i : Issue} {t : Thread} (h : s0.aloneOf i {} s t) (hc : t.onCompute = true)
    (hhook : t.tcause.getLsbD 63 = true) : ∃ v, exec .tret s0 = .next v ∧ v.chip.thread? t.id = some t.unhooked := by
  refine ⟨_, tretRow_alone rfl s0 i s t h hc (usable_nothing t _) hhook, ?_⟩
  unfold Chip.thread?
  rw [(unqueue_frame _ t.id).1]
  exact thread?_onThread_self (fun _ => rfl) (thread?_of_aloneOf h)

/-- The mask that clears bit 63 keeps every other bit. -/
theorem getLsbD_clear63 {k : Nat} (hk : k < 63) : (0x7FFF_FFFF_FFFF_FFFF#64).getLsbD k = true := by
  have hmask : 0x7FFF_FFFF_FFFF_FFFF#64 = ~~~(1#64 <<< 63) := by decide
  rw [hmask, BitVec.getLsbD_not, getLsbD_one_shiftLeft (by omega), decide_eq_true (by omega : k < 64), decide_eq_false (by omega)]
  rfl

/-- Settles O17: the hook takes a trap or lets it go its default route, tret returns, and tcause holds bit 63. -/
theorem hookEntryAndReturn : Obligations.HookEntryAndReturn := by
  refine ⟨fun c t ht hc cause tval word hcause hg => ⟨fun hidle hdeleg hemu => ?_, fun hactive => ?_⟩, ?_, fun t v => ?_⟩
  · rw [takeTrap_of_hooks ht hc hg ((hooks_iff hcause).2 ⟨hdeleg, hemu, hidle⟩), Thread.enterHook, hookCause_eq hcause]
  · refine takeTrap_of_not_hooks ht hc hg (Bool.eq_false_iff.2 fun hh => ?_) word
    obtain ⟨-, -, hidle⟩ := (hooks_iff hcause).1 hh
    exact absurd (hactive.symm.trans hidle) (by decide)
  · intro s0 i s t h hc hactive
    obtain ⟨v, hexec, hthread⟩ := exec_tret_thread h hc hactive
    have hcause : t.unhooked.tcause = t.tcause &&& 0x7FFF_FFFF_FFFF_FFFF#64 := rfl
    refine ⟨v, t.unhooked, hexec, hthread, rfl, ?_, fun k hk => ?_⟩
    · rw [hcause, BitVec.getLsbD_and]
      exact Bool.and_false _
    · rw [hcause, BitVec.getLsbD_and, getLsbD_clear63 hk, Bool.and_true]
  · change (v &&& 0x8000_0000_0000_003F).getLsbD 63 = _
    rw [BitVec.getLsbD_and]
    exact Bool.and_true _

end Sys2Proof.Machine
end

section
/-! PROOFS. A system call from a compute core: the batch that it joins, and the obligation O41 from this. -/
namespace Sys2Proof.Machine

/-- ecall as an issue executes it (R116, R118). -/
def ecallOp : Op :=
  { uses := { strict := (List.range 8).map fun i => spanX (10 + i) }
    check := fun c _ _ t => if t.onHart then some (.trap (c.ecallCause t) 0) else c.releaseStop t 4 false
    run := fun c ts => ts.foldl (fun c t => c.joinBatch t) c
    advance := false, len := 4 }

theorem exec_ecall (s : State) : exec .ecall s = .next (s.issueOp ecallOp none) := rfl

/-- A row of ecall holds if its chip is what joining a batch leaves, wherever the release of a compute core's thread may be made
(R118, R119). -/
theorem ecall_alone {ok : State → Issue → Thread → Bool} {chip : State → Issue → Thread → Chip}
    (hok : ∀ s i t, ok s i t = true → (s.chip.releaseStop t 4 false).isNone = true)
    (hchip : ∀ s i t, t.onCompute = true → ok s i t = true → s.chip.joinBatch t = chip s i t) :
    ActRow.alone { instr := .ecall, uses := ecallOp.uses, ok := ok, chip := chip } := by
  refine alone_of_fits (fun _ => ecallOp) (fun s _ _ => exec_ecall s) fun s i t (hc : t.onCompute = true) ht =>
    ⟨rfl, rfl, rfl, ?_, rfl, ?_, ?_⟩
  · exact Bool.and_false _
  · have hrelease : s.chip.releaseStop t 4 false = none := Option.isNone_iff_eq_none.1 (hok s i t ht)
    simp [ecallOp, onHart_of_onCompute hc, hrelease]
  · rw [finish_of_stays rfl rfl]
    exact hchip s i t hc ht

/-- The batch that a thread of a slot opens (R118). -/
def Chip.freshBatch (c : Chip) (core q ig : Nat) (key : Word) (members : List Nat) : Batch :=
  { id := c.eng.next, core := core, qtr := q, ig := ig, key := key, members := members, since := c.tick, closed := false }

/-- A batch with one member more. -/
def Batch.with (b : Batch) (id : Nat) : Batch := { b with members := b.members ++ [id] }

/-- A thread waits in a batch, which is put back with it (R118). -/
def Chip.joins (c : Chip) (b : Batch) (id : Nat) : Chip :=
  ({ c with eng := { c.eng with batches := c.eng.batches.map fun k => if k.id = b.id then b else k } } : Chip).onThread id fun u =>
    { u with wait := .batch b.id, waitSince := c.tick }

/-- Where a batch is open the thread joins it, and the thirty-second member closes it (R118). -/
theorem joinBatch_of_some {c : Chip} {t : Thread} {core q ig bit : Nat} {b : Batch} (hp : t.place = .slot core q ig bit)
    (hb : (c.release t.id 4).openBatch core q ig (readX t.regs 17) = some b) : c.joinBatch t =
      if b.members.length = 31 then ((c.release t.id 4).joins (b.with t.id) t.id).closeBatch b.id
      else (c.release t.id 4).joins (b.with t.id) t.id := by
  unfold Chip.joinBatch
  simp only [hp, hb, List.length_append, List.length_singleton, Nat.reduceEqDiff]
  rfl

/-- Without an open batch the thread opens one. -/
theorem joinBatch_of_none {c : Chip} {t : Thread} {core q ig bit : Nat} (hp : t.place = .slot core q ig bit)
    (hb : (c.release t.id 4).openBatch core q ig (readX t.regs 17) = none) :
    let d := c.release t.id 4
    let b := d.freshBatch core q ig (readX t.regs 17) [t.id]
    c.joinBatch t = ({ d with eng := { d.eng with
      batches := (d.eng.batches.map fun k => if k.id = b.id then b else k) ++ [b], next := d.eng.next + 1 } } : Chip).onThread t.id fun u =>
        { u with wait := .batch b.id, waitSince := d.tick } := by
  intro d b
  have hopens : ({ d with eng := { d.eng with
      batches := d.eng.batches ++ [d.freshBatch core q ig (readX t.regs 17) []], next := d.eng.next + 1 } } : Chip).openBatch core q ig
        (readX t.regs 17) = some (d.freshBatch core q ig (readX t.regs 17) []) := by
    unfold Chip.openBatch at hb ⊢
    rw [List.find?_append, hb]
    simp [Chip.freshBatch]
  unfold Chip.freshBatch at hopens
  unfold Chip.joinBatch
  simp only [hp, hb]
  simp only [d] at hopens
  simp only [hopens, List.nil_append, List.map_append, List.map_singleton]
  rfl

/-- Settles O41: a new batch, one with room for more, and one that its thirty-second member closes. -/
theorem environmentCall : Obligations.EnvironmentCall := by
  intro q hq
  simp only [ecallRows, List.mem_cons, List.not_mem_nil, or_false] at hq
  rcases hq with rfl | rfl | rfl
  all_goals refine ecall_alone (fun s i t hok => (Bool.and_eq_true_iff.1 hok).1) fun s i t hc hok => ?_
  all_goals obtain ⟨core, q, ig, bit, hp⟩ := place_of_onCompute hc
  all_goals simp only [hp] at hok ⊢
  all_goals obtain ⟨-, hopen⟩ := Bool.and_eq_true_iff.1 hok
  case inl =>
    rw [joinBatch_of_none hp (Option.isNone_iff_eq_none.1 hopen)]
    rfl
  case inr.inl =>
    cases hb : (s.chip.release t.id 4).openBatch core q ig (readX t.regs 17) with
    | none => simp [hb] at hopen
    | some b =>
      have hroom : b.members.length < 31 := by simpa [hb] using hopen
      rw [joinBatch_of_some hp hb, if_neg (by omega)]
      rfl
  case inr.inr =>
    cases hb : (s.chip.release t.id 4).openBatch core q ig (readX t.regs 17) with
    | none => simp [hb] at hopen
    | some b =>
      have hlast : b.members.length = 31 := by simpa [hb] using hopen
      rw [joinBatch_of_some hp hb, if_pos hlast]
      rfl

end Sys2Proof.Machine
end

section
/-! PROOFS. Replays of a graph: what an upload, the end of a validation, a kick and the end of a replay do, case by case, and the
obligation O54 from these. -/
namespace Sys2Proof.Machine

/-! ## Uploads and validations (R124, R125) -/

/-- The graph image that a validation copies: nothing where it does not lie in the staging window. -/
def Chip.uploaded (c : Chip) : List Byte :=
  let o := c.dev.grupload
  let n := numOf (c.stage (o + 12) 4)
  if c.staged o 64 && c.staged o n && o % 4096 = 0 then c.stage o n else []

/-- The lowest number that no graph has. -/
def Chip.freeGraph (c : Chip) : Option Nat := (List.range 256).find? fun k => !(c.dev.graphs.any fun g => g.1 = k)

/-- An upload during a validation is ignored; another one starts a validation. -/
theorem exec_grupload_of_eq (v : Word) {s : State} (h : s.chip.dev.grupsts = 1) : exec (.grupload v) s = .next s := if_pos h
theorem exec_grupload_of_ne (v : Word) {s : State} (h : s.chip.dev.grupsts ≠ 1) :
    exec (.grupload v) s = .next (s.onDev fun d => { d with grupload := bits 39 0 v.toNat, grupsts := 1 }) := if_neg h

/-- Without a validation none ends. -/
theorem exec_graphValidationDone_of_ne {s : State} (h : s.chip.dev.grupsts ≠ 1) : exec .graphValidationDone s = .next s := if_pos h

/-- A valid graph takes the lowest free number. -/
theorem exec_graphValidationDone_of_valid {s : State} {rs : List TaskRecord} {k : Nat} (h : s.chip.dev.grupsts = 1)
    (hvalid : s.chip.graphOf s.chip.uploaded = some rs) (hfree : s.chip.freeGraph = some k) :
    exec .graphValidationDone s = .next (s.onDev fun d => { d with
      grupsts := 2, grupnum := BitVec.ofNat 8 k, graphs := d.graphs ++ [(k, s.chip.uploaded)] }) := by
  unfold Chip.freeGraph at hfree
  unfold Chip.uploaded at hvalid
  change execGraphValidationDone s = _
  simp only [execGraphValidationDone, h, hvalid, hfree, ne_eq, not_true_eq_false, if_false]
  rfl

/-- An invalid graph, and one for which no number is free, is rejected. -/
theorem exec_graphValidationDone_of_invalid {s : State} (h : s.chip.dev.grupsts = 1)
    (hbad : s.chip.graphOf s.chip.uploaded = none ∨ s.chip.freeGraph = none) :
    exec .graphValidationDone s = .next (s.onDev fun d => { d with grupsts := 3 }) := by
  unfold Chip.freeGraph Chip.uploaded at hbad
  change execGraphValidationDone s = _
  simp only [execGraphValidationDone, h, ne_eq, not_true_eq_false, if_false]
  split
  next hvalid hfree =>
    rcases hbad with hbad | hbad
    · exact absurd (hvalid.symm.trans hbad) nofun
    · exact absurd (hfree.symm.trans hbad) nofun
  next => rfl

/-! ## Kicks and replays (R126) -/

/-- The MSI of the graph block. -/
def State.graphMsi (s : State) : State := s.onChip fun c => c.sendMsi c.dev.grmsiaddr c.dev.grmsidata

/-- The image of the graph that a kick names, and the code and entry with which the kick is rejected. -/
def Chip.kickedImage (c : Chip) (v : Word) : Option (List Byte) := (c.dev.graphs.find? fun g => g.1 = bits 63 56 v.toNat).map (·.2)
def Chip.kickFails (c : Chip) (v : Word) : Option (Nat × Nat) :=
  c.kickCode (bits 63 56 v.toNat) (bits 55 40 v.toNat) (bits 39 0 v.toNat) (c.kickedImage v)

/-- The entries of the patch table that a kick names. -/
def Chip.kickEntries (c : Chip) (v : Word) : List (List Byte) :=
  let o := bits 39 0 v.toNat
  (List.range (numOf (c.stage (o + 4) 4))).map fun i => c.stage (o + 16 + 16 * i) 16

/-- A kick during a replay is lost. -/
theorem exec_grkick_of_eq (v : Word) {s : State} (h : s.chip.dev.grcode = 1) :
    exec (.grkick v) s = .next (s.onDev fun d => { d with grlost := true }) := if_pos h

/-- A kick that fails leaves its code and its entry. -/
theorem exec_grkick_of_fails {v : Word} {s : State} {x : Nat × Nat} (h : s.chip.dev.grcode ≠ 1) (hx : s.chip.kickFails v = some x) :
    exec (.grkick v) s = .next
      (s.onDev fun d => { d with grcode := BitVec.ofNat 8 x.1, grentry := BitVec.ofNat 16 x.2 }).graphMsi := by
  unfold Chip.kickFails Chip.kickedImage at hx
  change execGrkick v s = _
  simp only [execGrkick, h, hx, if_false]
  rfl

/-- A kick without an image fails. -/
theorem kickedImage_of_passes {c : Chip} {v : Word} (h : c.kickFails v = none) : ∃ img, c.kickedImage v = some img := by
  cases hi : c.kickedImage v with
  | some img => exact ⟨img, rfl⟩
  | none => simp [Chip.kickFails, hi, Chip.kickCode] at h

/-- Any other kick starts its replay. -/
theorem exec_grkick_of_passes {v : Word} {s : State} {img : List Byte} (h : s.chip.dev.grcode ≠ 1) (hpass : s.chip.kickFails v = none)
    (himg : s.chip.kickedImage v = some img) :
    exec (.grkick v) s = .next
      ((s.onDev fun d => { d with grcode := 1, grentry := 0, grlost := false, replay := [], replayFailed := false }).onChip fun c =>
        ({ c with dev := { c.dev with replayRest := c.replayTasks img (s.chip.kickEntries v) ((c.graphOf img).getD []) } } : Chip).replayMore) := by
  unfold Chip.kickFails at hpass
  unfold Chip.kickedImage at hpass himg
  change execGrkick v s = _
  simp only [execGrkick, h, if_false]
  split
  next img' hnone hsome =>
    obtain rfl : img' = img := Option.some.inj (hsome.symm.trans himg)
    rfl
  next hsome => exact absurd (hsome.symm.trans hpass) nofun
  next hnone => exact absurd (hnone.symm.trans himg) nofun

/-- Whether the end of a replay has no effect: none runs, or tasks of it wait or are left in the table. -/
def Chip.noReplayEnds (c : Chip) : Bool :=
  c.dev.grcode ≠ 1 || (c.disp.tasks.any fun k => c.dev.replay.contains (c.taskHandle k)) || !c.dev.replayRest.isEmpty

/-- Without such a task the replay ends with its code. -/
theorem exec_graphReplayDone_of_true {s : State} (h : s.chip.noReplayEnds = true) : exec .graphReplayDone s = .next s := if_pos h
theorem exec_graphReplayDone_of_false {s : State} (h : s.chip.noReplayEnds = false) : exec .graphReplayDone s = .next
    (s.onDev fun d => { d with grcode := if d.replayFailed then 10 else 2, replay := [], replayFailed := false }).graphMsi :=
  if_neg (Bool.not_eq_true _ ▸ h)

/-! ## The rows -/

/-- Settles O54: each row is a case of its step. -/
theorem graphReplays : Obligations.GraphReplays := by
  intro v q hq
  simp only [graphRows, List.mem_cons, List.not_mem_nil, or_false] at hq
  rcases hq with rfl | rfl | rfl | rfl | rfl | rfl | rfl | rfl | rfl | rfl
  all_goals intro s hok
  -- uploads
  · exact exec_grupload_of_eq v (of_decide_eq_true hok)
  · exact exec_grupload_of_ne v (of_decide_eq_true hok)
  -- the end of a validation
  · exact exec_graphValidationDone_of_ne (of_decide_eq_true hok)
  · obtain ⟨hrun, hvalid⟩ := Bool.and_eq_true_iff.1 hok
    obtain ⟨hgraph, hnumber⟩ := Bool.and_eq_true_iff.1 hvalid
    obtain ⟨rs, hrs⟩ := Option.isSome_iff_exists.1 hgraph
    obtain ⟨k, hk⟩ : ∃ k, s.chip.freeGraph = some k := Option.isSome_iff_exists.1 hnumber
    obtain rfl : s.chip.freeGraph.getD 0 = k := by
      rw [hk]
      rfl
    exact exec_graphValidationDone_of_valid (of_decide_eq_true hrun) hrs hk
  · obtain ⟨hrun, hinvalid⟩ := Bool.and_eq_true_iff.1 hok
    have hnot : (!((s.chip.graphOf s.chip.uploaded).isSome && s.chip.freeGraph.isSome)) = true := hinvalid
    refine exec_graphValidationDone_of_invalid (of_decide_eq_true hrun) ?_
    simpa [Classical.or_iff_not_imp_left, ← Option.ne_none_iff_isSome] using hnot
  -- kicks
  · exact exec_grkick_of_eq v (by simpa using hok)
  · obtain ⟨hfree, hcode⟩ := Bool.and_eq_true_iff.1 hok
    obtain ⟨x, hx⟩ : ∃ x, s.chip.kickFails v = some x := Option.isSome_iff_exists.1 hcode
    obtain rfl : (s.chip.kickFails v).getD (0, 0) = x := by
      rw [hx]
      rfl
    exact exec_grkick_of_fails (of_decide_eq_true hfree) hx
  · obtain ⟨hfree, hcode⟩ := Bool.and_eq_true_iff.1 hok
    have hpass : s.chip.kickFails v = none := Option.isNone_iff_eq_none.1 hcode
    obtain ⟨img, himg⟩ := kickedImage_of_passes hpass
    obtain rfl : (s.chip.kickedImage v).getD [] = img := by
      rw [himg]
      rfl
    exact exec_grkick_of_passes (of_decide_eq_true hfree) hpass himg
  -- the end of a replay
  · exact exec_graphReplayDone_of_true hok
  · refine exec_graphReplayDone_of_false ?_
    simpa [Chip.noReplayEnds] using hok

end Sys2Proof.Machine
end

section
/-! PROOFS. Registers of a thread after a write, and the state in which the threads of a block start. -/
namespace Sys2Proof.Machine

/-! ## Reading and writing a register (R206, R295) -/

/-- The bits of slices 16 and above among w bits from a slice upward. -/
theorem testBit_readSlices (r : BitVec 2048) (a w i : Nat) :
    (readSlices r a w).testBit i = (decide (i < w) && (decide (64 ≤ 4 * a + i) && r.getLsbD (4 * a + i))) := by
  rw [readSlices, Nat.testBit_mod_two_pow, Nat.testBit_shiftRight, Nat.testBit_shiftLeft, Nat.testBit_shiftRight]
  by_cases hlo : 64 ≤ 4 * a + i
  · rw [Nat.add_sub_cancel' hlo]
    rfl
  · simp [hlo]

/-- The positions of those bits. -/
theorem testBit_sliceMask (a w j : Nat) :
    (sliceMask a w).testBit j = decide (64 ≤ j ∧ 4 * a ≤ j ∧ j < 4 * a + w) := by
  unfold sliceMask
  simp only [Nat.testBit_shiftLeft, Nat.testBit_shiftRight, Nat.testBit_two_pow_sub_one]
  rw [Bool.eq_iff_iff]
  simp only [Bool.and_eq_true, decide_eq_true_eq]
  omega

/-- The bits of x_k: those of its slices, where they are not slices 0-15. -/
theorem getLsbD_readX (r : BitVec 2048) (k : Nat) {i : Nat} (hi : i < 64) :
    (readX r k).getLsbD i = (decide (64 ≤ 64 * k + i) && r.getLsbD (64 * k + i)) := by
  rw [readX, BitVec.getLsbD_ofNat, testBit_readSlices, show 4 * (16 * k) = 64 * k by omega]
  simp [hi]

/-- The registers after a write of x_k, bit by bit. -/
theorem getLsbD_writeX (r : BitVec 2048) (k : Nat) (v : Word) {j : Nat} (hj : j < 2048) :
    (writeX r k v).getLsbD j = if 64 ≤ j ∧ 64 * k ≤ j ∧ j < 64 * k + 64 then v.getLsbD (j - 64 * k) else r.getLsbD j := by
  rw [writeX, writeSlices, BitVec.getLsbD_or, BitVec.getLsbD_and, BitVec.getLsbD_and, BitVec.getLsbD_not, BitVec.getLsbD_ofNat,
    BitVec.getLsbD_ofNat, testBit_sliceMask, Nat.testBit_shiftLeft, Nat.testBit_mod_two_pow, show 4 * (16 * k) = 64 * k by omega]
  split
  next h =>
    have hbit : j - 64 * k < 64 := by omega
    simp [h, hj, hbit, BitVec.getLsbD]
  next h => simp [h, hj]

/-- A register other than x0 reads what was written to it. -/
theorem readX_writeX_self (r : BitVec 2048) {k : Nat} (hk : k ≠ 0) (hk' : k < 32) (v : Word) : readX (writeX r k v) k = v := by
  refine BitVec.eq_of_getLsbD_eq fun i hi => ?_
  rw [getLsbD_readX _ _ hi, getLsbD_writeX r k v (by omega), if_pos (by omega), Nat.add_sub_cancel_left,
    decide_eq_true (by omega : 64 ≤ 64 * k + i), Bool.true_and]

/-- A write of another register leaves it as it was. -/
theorem readX_writeX_of_ne (r : BitVec 2048) {j k : Nat} (hjk : j ≠ k) (hj : j < 32) (v : Word) : readX (writeX r k v) j = readX r j := by
  refine BitVec.eq_of_getLsbD_eq fun i hi => ?_
  rw [getLsbD_readX _ _ hi, getLsbD_readX _ _ hi, getLsbD_writeX r k v (by omega), if_neg (by omega)]

/-- Registers that are zero read zero. -/
theorem readX_zero (k : Nat) : readX 0 k = 0 := by
  refine BitVec.eq_of_getLsbD_eq fun i hi => ?_
  rw [getLsbD_readX _ _ hi]
  simp

/-! ## The start of a block (R157) -/

/-- What a start leaves as it was before it adds the threads: the threads there, and the package's number. -/
def Chip.sameThreads (c d : Chip) : Prop := d.threads = c.threads ∧ d.pkg = c.pkg

theorem Chip.sameThreads.trans {c d e : Chip} (h : c.sameThreads d) (h' : d.sameThreads e) : c.sameThreads e :=
  ⟨h'.1.trans h.1, h'.2.trans h.2⟩

theorem sameThreads_foldl {α : Type} {f : Chip → α → Chip} (hf : ∀ (c : Chip) (x : α), c.sameThreads (f c x)) (l : List α) (c : Chip) :
    c.sameThreads (l.foldl f c) :=
  List.foldlRecOn l f (motive := c.sameThreads) ⟨rfl, rfl⟩ fun d hd x _ => hd.trans (hf d x)

theorem sameThreads_endLeases (c : Chip) (core : Nat) : c.sameThreads (c.endLeases core) := ⟨rfl, rfl⟩
theorem sameThreads_zeroRange (c : Chip) (lo n : Nat) : c.sameThreads (c.zeroRange lo n) := ⟨rfl, rfl⟩

theorem sameThreads_addGroup (c : Chip) (core q ig : Nat) (gm0 : BitVec 32) : c.sameThreads (c.addGroup core q ig gm0) := ⟨rfl, rfl⟩

theorem sameThreads_addBlock (c : Chip) (b : Block) : c.sameThreads (c.addBlock b) := by
  refine Chip.sameThreads.trans (d := { c with disp := { c.disp with blocks := c.disp.blocks ++ [b], order := c.disp.order + 1 } })
    ⟨rfl, rfl⟩ ?_
  exact sameThreads_foldl (fun d p => sameThreads_addGroup d _ _ _ _) _ _

theorem sameThreads_zeroBlock (c : Chip) (b : Block) : c.sameThreads (c.zeroBlock b) := by
  unfold Chip.zeroBlock
  refine Chip.sameThreads.trans ?ranges (sameThreads_foldl ?core _ _)
  case core => exact fun _ _ => ⟨rfl, rfl⟩
  case ranges =>
    split
    · exact (sameThreads_zeroRange _ _ _).trans (sameThreads_zeroRange _ _ _)
    · exact sameThreads_zeroRange _ _ _

/-- A grid's handle depends on the package's number alone. -/
theorem Chip.sameThreads.gridHandle {c d : Chip} (h : c.sameThreads d) (g : Grid) : d.gridHandle g = c.gridHandle g := by
  unfold Chip.gridHandle Chip.headOf
  rw [h.2]

/-- What the threads of a starting block of a grid depend on (R157). -/
def Chip.gridArgs (c : Chip) (g : Grid) (index : Nat) : StartArgs :=
  { ctx := g.ctx, entry := g.desc.entry, a0 := g.desc.arg, handle := c.gridHandle g, foot := g.desc.foot, roles := g.desc.roles
    prio := g.desc.prio, pkg := c.pkg, sp := fun t => startSp g.desc.stkbase g.desc.stkbytes (g.desc.nthr * index + t + 1) }

/-- The threads of a starting block join those that the package had. -/
theorem startThreads_threads {c d : Chip} (h : c.sameThreads d) (b : Block) (g : Grid) (index : Nat) :
    (d.startThreads b (d.gridArgs g index)).threads =
      c.threads ++ (List.range b.nthr).map fun t => startThreadOf b (c.gridArgs g index) (d.eng.next + t) t := by
  have hargs : d.gridArgs g index = c.gridArgs g index := by rw [Chip.gridArgs, h.gridHandle, h.2, Chip.gridArgs]
  rw [hargs, Chip.startThreads, h.1]

/-- A block that starts is one of the grid's, and its threads start last. -/
theorem startBlock_eq {c d : Chip} {g : Grid} {index member : Nat} {cores : List Nat} {p : Spot}
    (h : c.startBlock g index member cores p = some d) : ∃ (b : Block) (e : Chip),
      (b.index = index ∧ b.nthr = g.desc.nthr ∧ b.swbytes = g.desc.swbytes) ∧ c.sameThreads e ∧
      d = e.startThreads b (e.gridArgs g index) := by
  simp only [Chip.startBlock] at h
  split at h
  next => cases h
  next area _ =>
    refine ⟨_, _, ?fields, ?same, (Option.some.inj h).symm⟩
    case same =>
      refine Chip.sameThreads.trans ?_ (sameThreads_zeroBlock _ _)
      refine Chip.sameThreads.trans ?_ (sameThreads_addBlock _ _)
      exact Chip.sameThreads.trans ⟨rfl, rfl⟩ (sameThreads_foldl sameThreads_endLeases _ _)
    case fields => exact ⟨rfl, rfl, rfl⟩

/-- The registers with which a thread starts: arg in a0, its stack pointer in sp, and zero elsewhere. -/
theorem readX_start (a0 sp : Word) {x : Nat} (hx : x < 32) :
    readX (writeX (writeX 0 10 a0) 2 sp) x = if x = 2 then sp else if x = 10 then a0 else 0 := by
  by_cases h2 : x = 2
  · subst h2
    exact readX_writeX_self _ (by decide) (by decide) sp
  rw [readX_writeX_of_ne _ h2 hx, if_neg h2]
  by_cases h10 : x = 10
  · subst h10
    exact readX_writeX_self _ (by decide) (by decide) a0
  rw [readX_writeX_of_ne _ h10 hx, if_neg h10, readX_zero]

/-- A starting block gives its threads the state of R157. -/
theorem startStates_hold : startStates := by
  intro c d g index member cores p h
  obtain ⟨b, e, ⟨hindex, hnthr, hswbytes⟩, hsame, rfl⟩ := startBlock_eq h
  refine ⟨_, startThreads_threads hsame b g index, by simp [hnthr], fun n u hu => ?_⟩
  obtain ⟨k, hk, rfl⟩ : ∃ k, (List.range b.nthr)[n]? = some k ∧ startThreadOf b (c.gridArgs g index) (e.eng.next + k) k = u := by
    simpa only [List.getElem?_map, Option.map_eq_some_iff] using hu
  obtain rfl : n = k := by
    have hrange := List.getElem?_eq_some_iff.1 hk
    simpa using hrange.2
  have hread (x : Nat) (hx : x < 32) := readX_start g.desc.arg ((c.gridArgs g index).sp n) hx
  refine ⟨rfl, rfl, hindex, rfl, rfl, rfl, rfl, rfl, rfl, rfl, hread 10 (by decide), hread 2 (by decide), fun x hx h2 h10 => ?_, rfl, rfl, rfl,
    rfl, rfl, rfl, rfl, rfl, rfl, rfl, hswbytes, ?_⟩
  · exact (hread x hx).trans (by rw [if_neg h2, if_neg h10])
  · rw [← hindex]
    rfl

end Sys2Proof.Machine
end

section
/-! PROOFS. The places that waiting work takes: work that goes first is the best of its list, the steps that start it, and the obligation
O51 from these and the start state of a block's threads. -/
namespace Sys2Proof.Machine

/-! ## The rank of waiting work (R107, R161, R183) -/

/-- Work goes before other work by higher priority, then kind, then lower age. -/
theorem before_iff {a b : WorkRank} : a.before b = true ↔
    b.prio < a.prio ∨ a.prio = b.prio ∧ (b.kind < a.kind ∨ a.kind = b.kind ∧ a.age < b.age) := by
  simp [WorkRank.before]

theorem before_trans {a b c : WorkRank} (hab : a.before b = true) (hbc : b.before c = true) : a.before c = true := by
  rw [before_iff] at *
  omega

theorem before_asymm {a b : WorkRank} (h : a.before b = true) : b.before a = false := by
  rw [Bool.eq_false_iff]
  intro hba
  rw [before_iff] at *
  omega

/-! ## The best of a list of work -/

/-- The package with some work in its place on a die, where it has one that leaves the held places alone (R162). -/
def Chip.placed (c : Chip) (die : Nat) (item : WorkItem) : Option Chip := (c.tryWork die item).filter (·.keepsHolds)

/-- The better of the best work so far and another one. -/
def Chip.better (c : Chip) (die : Nat) (m : Option (WorkRank × Chip)) (w : WorkRank) : Option (WorkRank × Chip) :=
  match m with
  | some b => if w.before b.1 then (match c.placed die w.item with | some c => some (w, c) | none => m) else m
  | none => (c.placed die w.item).map fun c => (w, c)

theorem bestOf_eq (c : Chip) (die : Nat) (ws : List WorkRank) : c.bestOf die ws = ws.foldl (c.better die) none := rfl

/-- Work with a place is the better one where it goes before the best so far. -/
theorem better_of_before {c d : Chip} {die : Nat} {m : Option (WorkRank × Chip)} {w : WorkRank} (hd : c.placed die w.item = some d)
    (hm : ∀ b, m = some b → w.before b.1 = true) : c.better die m w = some (w, d) := by
  cases m with
  | none => simp [Chip.better, hd]
  | some b => simp [Chip.better, hd, hm b rfl]

/-- The better one is the best so far, or the other one in its place. -/
theorem better_cases (c : Chip) (die : Nat) (m : Option (WorkRank × Chip)) (w : WorkRank) :
    c.better die m w = m ∨ ∃ d, c.placed die w.item = some d ∧ c.better die m w = some (w, d) ∧ ∀ b, m = some b → w.before b.1 = true := by
  cases hd : c.placed die w.item with
  | none =>
    left
    cases m <;> simp [Chip.better, hd]
  | some d =>
    by_cases hm : ∀ b, m = some b → w.before b.1 = true
    · exact .inr ⟨d, rfl, better_of_before hd hm, hm⟩
    · obtain ⟨b, rfl, hb⟩ : ∃ b, m = some b ∧ ¬ w.before b.1 = true := by simpa using hm
      left
      simp [Chip.better, hb]

/-- The best of a list is in it and has a place. -/
theorem bestOf_mem {c d : Chip} {die : Nat} {ws : List WorkRank} {w : WorkRank} (h : c.bestOf die ws = some (w, d)) :
    w ∈ ws ∧ c.placed die w.item = some d := by
  have key : ∀ x, c.bestOf die ws = some x → x.1 ∈ ws ∧ c.placed die x.1.item = some x.2 := by
    rw [bestOf_eq]
    refine List.foldlRecOn ws _ (motive := fun m => ∀ x : WorkRank × Chip, m = some x → x.1 ∈ ws ∧ c.placed die x.1.item = some x.2)
      (fun _ h => nomatch h) fun m hm k hk x hx => ?_
    rcases better_cases c die m k with hsame | ⟨d, hd, hnew, -⟩
    · exact hm x (hsame ▸ hx)
    · obtain rfl : (k, d) = x := Option.some.inj (hnew ▸ hx)
      exact ⟨hk, hd⟩
  exact key _ h

/-- Some work that is not worse than any other with a place stays the best, up to other ranks of its item. -/
theorem foldl_better_of_first {c d : Chip} {die : Nat} {w : WorkRank} {ws : List WorkRank} (hd : c.placed die w.item = some d)
    (hfirst : ∀ k ∈ ws, k.item = w.item ∨ c.placed die k.item = none ∨ w.before k = true) :
    ∃ x, ws.foldl (c.better die) (some (w, d)) = some (x, d) ∧ x.item = w.item := by
  have key : ∃ x, ws.foldl (c.better die) (some (w, d)) = some (x, d) ∧ x.item = w.item ∧ (x = w ∨ x.before w = true) := by
    refine List.foldlRecOn ws _ (motive := fun m => ∃ x, m = some (x, d) ∧ x.item = w.item ∧ (x = w ∨ x.before w = true))
      ⟨w, rfl, rfl, .inl rfl⟩ ?_
    rintro m ⟨x, rfl, hx, hxw⟩ k hk
    rcases better_cases c die (some (x, d)) k with hsame | ⟨e, he, hnew, hbefore⟩
    · exact ⟨x, hsame, hx, hxw⟩
    · have hkx : k.before x = true := hbefore _ rfl
      have hkw : k.before w = true := by
        rcases hxw with rfl | hxw
        · exact hkx
        · exact before_trans hkx hxw
      rcases hfirst k hk with hitem | hnone | hwk
      · obtain rfl : d = e := Option.some.inj (hd.symm.trans (hitem ▸ he))
        exact ⟨k, hnew, hitem, .inr hkw⟩
      · exact absurd (hnone.symm.trans he) nofun
      · exact absurd (hwk.symm.trans (before_asymm hkw)) nofun
  obtain ⟨x, hx, hitem, -⟩ := key
  exact ⟨x, hx, hitem⟩

/-- What goesFirst says: the item has a place, and its first rank goes before every other work that has one. -/
theorem goesFirst_iff {c : Chip} {die : Nat} {ws : List WorkRank} {item : WorkItem} : c.goesFirst die ws item = true ↔
    ∃ w, ws.find? (fun w => w.item = item) = some w ∧ (c.placed die w.item).isSome = true ∧
      ∀ k ∈ ws, k.item = item ∨ c.placed die k.item = none ∨ w.before k = true := by
  unfold Chip.goesFirst
  cases ws.find? fun w => w.item = item with
  | none => simp
  | some w => simp only [Chip.placed, Bool.and_eq_true, List.all_eq_true, Bool.or_eq_true, Bool.not_eq_true', decide_eq_true_eq,
      Option.isSome_eq_false_iff, Option.isNone_iff_eq_none, or_assoc, Option.some.injEq, exists_eq_left']

/-- Work that goes first is the best, and is in its place. -/
theorem bestOf_of_goesFirst {c : Chip} {die : Nat} {ws : List WorkRank} {item : WorkItem} (h : c.goesFirst die ws item = true) :
    ∃ w d, c.bestOf die ws = some (w, d) ∧ w.item = item ∧ c.tryWork die item = some d := by
  obtain ⟨w, hfind, hplace, hfirst⟩ := goesFirst_iff.1 h
  obtain ⟨d, hd⟩ := Option.isSome_iff_exists.1 hplace
  obtain ⟨hw, before, after, rfl, hbefore⟩ := List.find?_eq_some_iff_append.1 hfind
  obtain rfl : w.item = item := of_decide_eq_true hw
  -- whatever is the best of the work before it, w goes before that
  have hmeet : c.better die (c.bestOf die before) w = some (w, d) := by
    refine better_of_before hd fun b hb => ?_
    obtain ⟨hmem, hbd⟩ := bestOf_mem hb
    rcases hfirst b.1 (List.mem_append_left _ hmem) with hitem | hnone | hwb
    · exact absurd (hbefore b.1 hmem) (by simp [hitem])
    · exact absurd (hnone.symm.trans hbd) nofun
    · exact hwb
  obtain ⟨x, hx, hitem⟩ := foldl_better_of_first (ws := after) hd fun k hk => hfirst k (by simp [hk])
  refine ⟨x, d, ?_, hitem, (Option.filter_eq_some_iff.1 hd).1⟩
  rw [bestOf_eq, List.foldl_append, List.foldl_cons, ← bestOf_eq, hmeet, hx]

/-- On a die that is not fenced the best work is that which goes first. -/
theorem bestWork_of_goesFirst {c : Chip} {die : Nat} {item : WorkItem} (hup : c.ras.dies.getLsbD die = false)
    (h : c.goesFirst die (c.waitingWork die) item = true) :
    ∃ w d, c.bestWork die = some (w, d) ∧ w.item = item ∧ c.tryWork die item = some d := by
  obtain ⟨w, d, hbest, hw, hd⟩ := bestOf_of_goesFirst h
  exact ⟨w, d, (if_neg (by simp [hup])).trans hbest, hw, hd⟩

/-- The best work of a die waits there. -/
theorem bestWork_mem {c d : Chip} {die : Nat} {w : WorkRank} (h : c.bestWork die = some (w, d)) : w ∈ c.waitingWork die := by
  unfold Chip.bestWork at h
  split at h
  · cases h
  · exact (bestOf_mem h).1

/-! ## The work that waits -/

/-- Work is a saved block, a ready task, an undealt range, or a move. -/
theorem mem_waitingWork {c : Chip} {die : Nat} {w : WorkRank} (h : w ∈ c.waitingWork die) :
    (∃ b ∈ c.disp.blocks, b.preempt = .saved ∧ w.item = .saved b.id) ∨
    (∃ k ∈ c.disp.tasks, (k.isReady && k.ready && k.write = .none) = true ∧ w.item = .task k.entry) ∨
    (∃ g ∈ c.disp.grids, (c.mayDeal g && (g.rangeOf die).isSome) = true ∧ w.item = .deal g.slot) ∨ ∃ t, w.item = .move t := by
  simp only [Chip.waitingWork, List.mem_append, List.mem_map, List.mem_filter] at h
  rcases h with ((⟨b, ⟨hb, hwaits⟩, rfl⟩ | ⟨k, ⟨hk, hwaits⟩, rfl⟩) | ⟨g, hg, rfl⟩) | ⟨t, -, rfl⟩
  · exact .inl ⟨b, hb, by simp_all, rfl⟩
  · exact .inr (.inl ⟨k, hk, by simp_all, rfl⟩)
  · exact .inr (.inr (.inl ⟨g, hg.1, hg.2, rfl⟩))
  · exact .inr (.inr (.inr ⟨t.id, rfl⟩))

/-- A thread or a block of the chip is found by its own number too. -/
theorem thread?_self {c : Chip} {n : Nat} {t : Thread} (h : c.thread? n = some t) : c.thread? t.id = some t := by
  rwa [thread?_id h]
theorem block?_self {c : Chip} {n : Nat} {b : Block} (h : c.block? n = some b) : c.block? b.id = some b := by
  have hid : b.id = n := by simpa using List.find?_some h
  rwa [hid]

/-- A move takes a place of the die where its spot is (R107). -/
theorem tryWork_move {c : Chip} {t : Thread} {p : Nat × Nat × Nat × Nat} (ht : c.thread? t.id = some t) (hp : c.moveSpot t = some p) :
    c.tryWork (p.1 / 80) (.move t.id) = c.placeMove t := by
  simp only [Chip.tryWork, ht, Option.bind_some, hp, if_true]

/-! ## The steps -/

/-- BLOCK_START makes the best work's start where it is an undealt block (R157, R159). -/
theorem exec_blockStart_of_deal {s : State} {w : WorkRank} {d : Chip} {slot : Nat} (h : s.chip.bestWork s.subject = some (w, d))
    (hw : w.item = .deal slot) : exec .blockStart s = .next { s with chip := d } := by
  change execBlockStart s = _
  simp only [execBlockStart, h, hw]
  rfl

theorem exec_blockStart_of_none {s : State} (h : ∀ w d, s.chip.bestWork s.subject = some (w, d) → ∀ slot, w.item ≠ .deal slot) :
    exec .blockStart s = .next s := by
  change execBlockStart s = _
  unfold execBlockStart
  split
  next w d hbest =>
    split
    next slot hw => exact absurd hw (h w d hbest slot)
    next => rfl
  next => rfl

/-- The work that TASK_DISPATCH looks at: the best of its die, or else the best of the ready tasks of other dies (R183). -/
def Chip.taskWork (c : Chip) (die : Nat) : Option (WorkRank × Chip) := (c.bestWork die).or (c.bestOf die (c.stolenWork die))

theorem exec_taskDispatch_of_task {s : State} {w : WorkRank} {d : Chip} {entry : Nat} (hup : s.chip.ras.dies.getLsbD s.subject = false)
    (h : s.chip.taskWork s.subject = some (w, d)) (hw : w.item = .task entry) : exec .taskDispatch s = .next { s with chip := d } := by
  change execTaskDispatch s = _
  unfold Chip.taskWork at h
  cases hb : s.chip.bestWork s.subject with
  | none =>
    rw [hb, Option.none_or] at h
    simp only [execTaskDispatch, hup, hb, h, hw]
    rfl
  | some x =>
    rw [hb, Option.some_or] at h
    obtain rfl := Option.some.inj h
    simp only [execTaskDispatch, hup, hb, hw]
    rfl

theorem exec_taskDispatch_of_none {s : State} (h : s.chip.ras.dies.getLsbD s.subject = true ∨
    ∀ w d, s.chip.taskWork s.subject = some (w, d) → ∀ entry, w.item ≠ .task entry) : exec .taskDispatch s = .next s := by
  change execTaskDispatch s = _
  simp only [execTaskDispatch]
  split
  next => rfl
  next hup =>
    split
    next w d hbest =>
      have hwork : s.chip.taskWork s.subject = some (w, d) := by
        rw [← hbest]
        unfold Chip.taskWork
        cases s.chip.bestWork s.subject <;> rfl
      split
      next entry hw => exact absurd hw (h.resolve_left hup w d hwork entry)
      next => rfl
    next => rfl

/-- RESTORE makes the best work's start where that is the saved block (R161, R233). -/
theorem exec_restore_of_saved {s : State} {b : Block} {w : WorkRank} {d : Chip} (hb : s.chip.block? s.subject = some b)
    (h : s.chip.bestWork b.saveDie = some (w, d)) (hw : w.item = .saved b.id) : exec .restore s = .next { s with chip := d } := by
  change execRestore s = _
  simp only [execRestore, hb, h, hw]
  simp [done]

theorem exec_restore_of_none {s : State} (h : ∀ b, s.chip.block? s.subject = some b → ∀ w d, s.chip.bestWork b.saveDie = some (w, d) →
    ∀ k, w.item ≠ .saved k) : exec .restore s = .next s := by
  change execRestore s = _
  unfold execRestore
  split
  next => rfl
  next b hb =>
    split
    next w d hbest =>
      split
      next k hw => exact absurd hw (h b hb w d hbest k)
      next => rfl
    next => rfl

/-- Whether a thread waits to be placed (R107). -/
def State.toPlace (s : State) (t : Thread) : Prop :=
  s.chip.thread? s.subject = some t ∧ t.place = .inbound ∧ s.chip.isSpilled .inbound t.id = false

/-- Whether the die that a move names is fenced (R107). -/
def Chip.moveGone (c : Chip) (t : Thread) : Bool := (hintOf t.hint).kind ≠ 0 && c.ras.dies.getLsbD (hintOf t.hint).die

/-- A thread of a cancelled block is placed nowhere any more (R169). -/
theorem exec_threadPlacement_of_cancelled {s : State} {t : Thread} (h : s.toPlace t) (hc : t.cancelled = true) :
    exec .threadPlacement s = .next { s with
      chip := ({ s.chip with threads := s.chip.threads.filter fun (u : Thread) => u.id ≠ t.id } : Chip).unspill .inbound t.id } := by
  obtain ⟨ht, hp, hs⟩ := h
  change execThreadPlacement s = _
  simp [execThreadPlacement, ht, hp, hs, hc, done]

/-- A thread of a block returns where its block has a place for it (R109). -/
theorem exec_threadPlacement_of_block {s : State} {t : Thread} (h : s.toPlace t) (hc : t.cancelled = false) (hb : t.block.isSome = true) :
    exec .threadPlacement s = .next { s with chip := (s.chip.placeMove t).getD s.chip } := by
  obtain ⟨ht, hp, hs⟩ := h
  change execThreadPlacement s = _
  cases hm : s.chip.placeMove t <;> simp [execThreadPlacement, ht, hp, hs, hc, hb, hm, done]

/-- A move to a fenced die goes back (R107). -/
theorem exec_threadPlacement_of_gone {s : State} {t : Thread} (h : s.toPlace t) (hc : t.cancelled = false) (hb : t.block.isNone = true)
    (hg : s.chip.moveGone t = true) : exec .threadPlacement s = .next { s with chip := s.chip.returnMove t } := by
  obtain ⟨ht, hp, hs⟩ := h
  obtain ⟨hk, hd⟩ : (hintOf t.hint).kind ≠ 0 ∧ s.chip.ras.dies.getLsbD (hintOf t.hint).die = true := by simpa [Chip.moveGone] using hg
  change execThreadPlacement s = _
  simp [execThreadPlacement, ht, hp, hs, hc, Option.isNone_iff_eq_none.1 hb, hk, hd, done]

/-- Any other move is placed where it goes first on the die that has a place for it (R107). -/
theorem exec_threadPlacement_of_first {s : State} {t : Thread} {p : Nat × Nat × Nat × Nat} (h : s.toPlace t)
    (hc : t.cancelled = false) (hb : t.block.isNone = true) (hg : s.chip.moveGone t = false) (hspot : s.chip.moveSpot t = some p)
    (hup : s.chip.ras.dies.getLsbD (p.1 / 80) = false)
    (hfirst : s.chip.goesFirst (p.1 / 80) (s.chip.waitingWork (p.1 / 80)) (.move t.id) = true) :
    ∃ d, s.chip.placeMove t = some d ∧ exec .threadPlacement s = .next { s with chip := d } := by
  obtain ⟨ht, hp, hs⟩ := h
  obtain ⟨w, d, hbest, hw, hd⟩ := bestWork_of_goesFirst hup hfirst
  rw [tryWork_move (thread?_self ht) hspot] at hd
  refine ⟨d, hd, ?_⟩
  unfold Chip.moveGone at hg
  change execThreadPlacement s = _
  simp only [execThreadPlacement, ht, hp, hs, hc, Option.isNone_iff_eq_none.1 hb, hg, hspot, hbest, hw]
  rfl

/-- Without a place it waits. -/
theorem exec_threadPlacement_of_none {s : State} {t : Thread} (h : s.toPlace t) (hc : t.cancelled = false) (hb : t.block.isNone = true)
    (hg : s.chip.moveGone t = false) (hspot : s.chip.moveSpot t = none) : exec .threadPlacement s = .next s := by
  obtain ⟨ht, hp, hs⟩ := h
  unfold Chip.moveGone at hg
  change execThreadPlacement s = _
  simp only [execThreadPlacement, ht, hp, hs, hc, Option.isNone_iff_eq_none.1 hb, hg, hspot]
  rfl

/-! ## The rows -/

/-- Without an undealt range of its die no block starts there. -/
theorem bestWork_ne_deal {c d : Chip} {die : Nat} {w : WorkRank}
    (h : ∀ g ∈ c.disp.grids, (c.mayDeal g && (g.rangeOf die).isSome) = false) (hbest : c.bestWork die = some (w, d)) (slot : Nat) :
    w.item ≠ .deal slot := by
  intro hw
  rcases mem_waitingWork (bestWork_mem hbest) with ⟨b, -, -, hi⟩ | ⟨k, -, -, hi⟩ | ⟨g, hg, hdeals, -⟩ | ⟨t, hi⟩
  · cases hw.symm.trans hi
  · cases hw.symm.trans hi
  · exact absurd (hdeals.symm.trans (h g hg)) (by decide)
  · cases hw.symm.trans hi

/-- Without a saved block none is restored. -/
theorem bestWork_ne_saved {c d : Chip} {die : Nat} {w : WorkRank} (h : ∀ b ∈ c.disp.blocks, b.preempt ≠ .saved)
    (hbest : c.bestWork die = some (w, d)) (k : Nat) : w.item ≠ .saved k := by
  intro hw
  rcases mem_waitingWork (bestWork_mem hbest) with ⟨b, hb, hsaved, -⟩ | ⟨k, -, -, hi⟩ | ⟨g, -, -, hi⟩ | ⟨t, hi⟩
  · exact h b hb hsaved
  · cases hw.symm.trans hi
  · cases hw.symm.trans hi
  · cases hw.symm.trans hi

/-- Without a ready task none is dispatched. -/
theorem taskWork_ne_task {c d : Chip} {die : Nat} {w : WorkRank}
    (h : ∀ k ∈ c.disp.tasks, (k.isReady && k.ready && k.write = .none) = false) (hbest : c.taskWork die = some (w, d)) (entry : Nat) :
    w.item ≠ .task entry := by
  intro hw
  rcases Option.or_eq_some_iff.1 hbest with hown | ⟨-, hstolen⟩
  · rcases mem_waitingWork (bestWork_mem hown) with ⟨b, -, -, hi⟩ | ⟨k, hk, hready, -⟩ | ⟨g, -, -, hi⟩ | ⟨t, hi⟩
    · cases hw.symm.trans hi
    · exact absurd (hready.symm.trans (h k hk)) (by decide)
    · cases hw.symm.trans hi
    · cases hw.symm.trans hi
  · have hmem := (bestOf_mem hstolen).1
    unfold Chip.stolenWork at hmem
    split at hmem
    · cases hmem
    · obtain ⟨k, hk, -⟩ := List.mem_map.1 hmem
      obtain ⟨hk, hready⟩ := List.mem_filter.1 hk
      exact absurd (hready.symm.trans (h k hk)) (by decide)

/-- Work that goes first among the ready tasks of other dies is what TASK_DISPATCH starts (R183). -/
theorem taskWork_of_stolen {c : Chip} {die : Nat} {item : WorkItem} (hidle : (c.waitingWork die).isEmpty = true)
    (h : c.goesFirst die (c.stolenWork die) item = true) :
    ∃ w d, c.taskWork die = some (w, d) ∧ w.item = item ∧ c.tryWork die item = some d := by
  obtain ⟨w, d, hbest, hw, hd⟩ := bestOf_of_goesFirst h
  have hnone : c.bestWork die = none := by
    simp [Chip.bestWork, List.isEmpty_iff.1 hidle, bestOf_eq]
  exact ⟨w, d, by rw [Chip.taskWork, hnone, Option.none_or, hbest], hw, hd⟩

/-- The thread that a row of the places names. -/
def State.named (s : State) : Thread := (s.chip.thread? s.subject).getD {}

/-- In a row that has it wait to be placed, it does. -/
theorem toPlace_of_waits {s : State}
    (h : ((s.chip.thread? s.subject).isSome && s.named.place = .inbound && !s.chip.isSpilled .inbound s.named.id) = true) :
    s.toPlace s.named := by
  obtain ⟨hp, hs⟩ := Bool.and_eq_true_iff.1 h
  obtain ⟨hsome, hp⟩ := Bool.and_eq_true_iff.1 hp
  obtain ⟨t, ht⟩ := Option.isSome_iff_exists.1 hsome
  have hnamed : s.named = t := by rw [State.named, ht, Option.getD_some]
  exact ⟨hnamed ▸ ht, of_decide_eq_true hp, (Bool.not_eq_true' _).mp hs⟩

/-- What the rows of a thread that is not cancelled say of it, beyond a condition of their own. -/
theorem placed_of_row {s : State} {block own : Bool} (h : (((s.chip.thread? s.subject).isSome && s.named.place = .inbound &&
    !s.chip.isSpilled .inbound s.named.id && !s.named.cancelled && block) && own) = true) :
    s.toPlace s.named ∧ s.named.cancelled = false ∧ block = true ∧ own = true := by
  obtain ⟨hblock, hown⟩ := Bool.and_eq_true_iff.1 h
  obtain ⟨hlive, hblock⟩ := Bool.and_eq_true_iff.1 hblock
  obtain ⟨hwaits, hlive⟩ := Bool.and_eq_true_iff.1 hlive
  exact ⟨toPlace_of_waits hwaits, (Bool.not_eq_true' _).mp hlive, hblock, hown⟩

/-- The rows of the places hold. -/
theorem placeRows_hold (slot entry : Nat) : ∀ q ∈ placeRows slot entry, q.holds := by
  intro q hq
  simp only [placeRows, List.mem_cons, List.not_mem_nil, or_false] at hq
  rcases hq with rfl | rfl | rfl | rfl | rfl | rfl | rfl | rfl | rfl | rfl | rfl | rfl | rfl
  all_goals intro s hok
  -- undealt blocks
  · obtain ⟨hup, hfirst⟩ := Bool.and_eq_true_iff.1 hok
    obtain ⟨w, d, hbest, hw, hd⟩ := bestWork_of_goesFirst ((Bool.not_eq_true' _).mp hup) hfirst
    exact ⟨_, exec_blockStart_of_deal hbest hw, d, hd, rfl⟩
  · have hnone : ∀ g ∈ s.chip.disp.grids, (s.chip.mayDeal g && (g.rangeOf s.subject).isSome) = false := by
      intro g hg
      exact (Bool.not_eq_true' _).mp (List.all_eq_true.1 hok g hg)
    exact ⟨s, exec_blockStart_of_none fun w d hbest => bestWork_ne_deal hnone hbest, rfl⟩
  -- ready tasks
  · obtain ⟨hup, hfirst⟩ := Bool.and_eq_true_iff.1 hok
    obtain ⟨w, d, hbest, hw, hd⟩ := bestWork_of_goesFirst ((Bool.not_eq_true' _).mp hup) hfirst
    have hwork : s.chip.taskWork s.subject = some (w, d) := by rw [Chip.taskWork, hbest, Option.some_or]
    exact ⟨_, exec_taskDispatch_of_task ((Bool.not_eq_true' _).mp hup) hwork hw, d, hd, rfl⟩
  · obtain ⟨hidle, hfirst⟩ := Bool.and_eq_true_iff.1 hok
    obtain ⟨hup, hidle⟩ := Bool.and_eq_true_iff.1 hidle
    obtain ⟨w, d, hwork, hw, hd⟩ := taskWork_of_stolen hidle hfirst
    exact ⟨_, exec_taskDispatch_of_task ((Bool.not_eq_true' _).mp hup) hwork hw, d, hd, rfl⟩
  · refine ⟨s, exec_taskDispatch_of_none ?_, rfl⟩
    rcases Bool.or_eq_true_iff.1 hok with hdown | hnone
    · exact .inl (by simpa using hdown)
    · refine .inr fun w d hwork => taskWork_ne_task (fun k hk => ?_) hwork
      exact (Bool.not_eq_true' _).mp (List.all_eq_true.1 hnone k hk)
  -- saved blocks
  · obtain ⟨hsaved, hfirst⟩ := Bool.and_eq_true_iff.1 hok
    obtain ⟨hsome, hup⟩ := Bool.and_eq_true_iff.1 hsaved
    obtain ⟨b, hb⟩ := Option.isSome_iff_exists.1 hsome
    simp only [hb, Option.getD_some] at hup hfirst ⊢
    obtain ⟨w, d, hbest, hw, hd⟩ := bestWork_of_goesFirst ((Bool.not_eq_true' _).mp hup) hfirst
    have hplace : s.chip.restoreWhole b = some d := by
      rwa [Chip.tryWork, block?_self hb] at hd
    exact ⟨_, exec_restore_of_saved hb hbest hw, d, hplace, rfl⟩
  · have hnone : ∀ b ∈ s.chip.disp.blocks, b.preempt ≠ .saved := fun b hb => of_decide_eq_true (List.all_eq_true.1 hok b hb)
    exact ⟨s, exec_restore_of_none fun b _ w d hbest => bestWork_ne_saved hnone hbest, rfl⟩
  -- moving threads
  · obtain ⟨hwaits, hc⟩ := Bool.and_eq_true_iff.1 hok
    refine ⟨_, exec_threadPlacement_of_cancelled (toPlace_of_waits hwaits) hc, fun u => ?_, rfl⟩
    exact List.mem_filter.trans (and_congr_right fun _ => decide_eq_true_iff)
  · obtain ⟨hwaits, hlive, hblock, hsome⟩ := placed_of_row hok
    obtain ⟨d, hd⟩ := Option.isSome_iff_exists.1 hsome
    refine ⟨_, exec_threadPlacement_of_block hwaits hlive hblock, d, hd, ?_⟩
    exact congrArg (fun m : Option Chip => { s with chip := m.getD s.chip }) hd
  · obtain ⟨hwaits, hlive, hblock, hnone⟩ := placed_of_row hok
    refine ⟨_, exec_threadPlacement_of_block hwaits hlive hblock, ?_⟩
    exact congrArg (fun m : Option Chip => { s with chip := m.getD s.chip }) (Option.isNone_iff_eq_none.1 hnone)
  · obtain ⟨hwaits, hlive, hblock, hgone⟩ := placed_of_row hok
    exact ⟨_, exec_threadPlacement_of_gone hwaits hlive hblock hgone, _, rfl, rfl⟩
  · obtain ⟨hup, hfirst⟩ := Bool.and_eq_true_iff.1 hok
    obtain ⟨hspot, hup⟩ := Bool.and_eq_true_iff.1 hup
    obtain ⟨hhere, hspot⟩ := Bool.and_eq_true_iff.1 hspot
    obtain ⟨hwaits, hlive, hblock, hhere⟩ := placed_of_row hhere
    obtain ⟨p, hp⟩ : ∃ p, s.chip.moveSpot s.named = some p := Option.isSome_iff_exists.1 hspot
    have hdie : ((s.chip.moveSpot s.named).map (·.1 / 80)).getD 0 = p.1 / 80 := by
      rw [hp]
      rfl
    obtain ⟨d, hd, hexec⟩ := exec_threadPlacement_of_first hwaits hlive hblock ((Bool.not_eq_true' _).mp hhere) hp
      (hdie ▸ (Bool.not_eq_true' _).mp hup) (hdie ▸ hfirst)
    exact ⟨_, hexec, d, hd, rfl⟩
  · obtain ⟨hhere, hspot⟩ := Bool.and_eq_true_iff.1 hok
    obtain ⟨hwaits, hlive, hblock, hhere⟩ := placed_of_row hhere
    exact ⟨s, exec_threadPlacement_of_none hwaits hlive hblock ((Bool.not_eq_true' _).mp hhere) (Option.isNone_iff_eq_none.1 hspot), rfl⟩

/-- Settles O51: the rows of the places, and the start state of a block's threads. -/
theorem placement : Obligations.Placement := ⟨placeRows_hold, startStates_hold⟩

end Sys2Proof.Machine
end

section
/-! PROOFS. The refutations of obligations O39 and O50: an interrupt 0 that goes to VS mode, whose vector the statement places elsewhere than
the model, and a departure that finds its arrival ring unusable, which the model logs and the row of the step does not. -/
namespace Sys2Proof.Machine

/-! ## Interrupt 0 of a virtual hart -/

/-- A virtual hart whose M and HS modes delegate interrupt 0, with a vectored table of VS mode at 0. -/
def delegatingHart : Hart := { ldie := 0, core := 0, virt := true, mideleg := 1, hideleg := 1, vstvec := 1 }

/-- A thread in S mode there. -/
def delegatingThread : Thread := { id := 5, place := .hart 0 0, mode := .s }

def delegatingChip : Chip := { threads := [delegatingThread], harts := [delegatingHart] }

/-- Interrupt 0, whose number in VS mode is one less: its bit 63 is gone. -/
def interrupt0 : Word := 0x8000_0000_0000_0000

/-- The model takes that interrupt at the table's start, since the cause of VS mode is no interrupt's. -/
theorem hartFault_interrupt0_pc :
    ((delegatingChip.hartFault delegatingThread interrupt0 0 0 false).thread? 5).map (·.pc) = some 0 := by decide +kernel

/-- Refutes O39: hartEntry has a vectored trap go past the table's start by four times the cause of VS mode, whenever the cause is an
interrupt's. For interrupt 0 the cause of VS mode is 2^63 - 1, and the pc would be -4. -/
theorem not_hartTraps : ¬ Obligations.HartTraps := by
  rintro ⟨hentry, -⟩
  obtain ⟨-, -, hvs⟩ := hentry delegatingChip delegatingThread 0 0 delegatingHart interrupt0 0 0 false rfl rfl rfl
  obtain ⟨st, hgoes, -⟩ := hvs ⟨by decide, by decide⟩ ⟨rfl, by decide⟩
  have hpc := congrArg (fun c : Chip => (c.thread? 5).map (·.pc)) hgoes
  rw [hartFault_interrupt0_pc] at hpc
  have hvector : some (0 : Word) = some 0xFFFF_FFFF_FFFF_FFFC := hpc
  exact absurd hvector (by decide)

/-! ## A departure to an unusable arrival ring -/

/-- A thread on its way to L-die 0, whose arrival ring lies where no memory is (R112, R408). -/
def stuckDeparture : State := ({} : State).onChip fun c => { c with
  threads := [{ id := 5, place := .outbound 0, wait := .moving .migrate 0 0 0 }]
  dev := { c.dev with arbase := [0x0080_0000_0000_0000, 0] } }

/-- The step finds the ring unusable for the first time, which the management error log records (R408). -/
theorem stuckDeparture_logs : ∃ u, exec .arrivalRingWrite stuckDeparture = .next u ∧ u.chip.ras.log = [408] :=
  ⟨_, rfl, by decide +kernel⟩

/-- Refutes O50: in the row of an arrival ring that is not ready the step changes nothing; but a ring that becomes unusable is logged. -/
theorem not_serviceAndMoves : ¬ Obligations.ServiceAndMoves := by
  intro h
  have hrow := h 0 0 0 0 _ (List.getElem_mem (l := serviceRows 0 0 0 ++ moveRows 0) (n := 12) (by decide)) stuckDeparture (by decide +kernel)
  obtain ⟨u, hexec, hlog⟩ := stuckDeparture_logs
  obtain rfl : u = stuckDeparture := Host.Outcome.next.inj (hexec.symm.trans hrow)
  exact absurd hlog (by decide)

end Sys2Proof.Machine
end

section
/-! PROOFS. The age of ready tasks and the end of a task: what each step does, the settlements that follow a completion, and the
obligation O53 from these. -/
namespace Sys2Proof.Machine

/-! ## Ageing (R184) -/

/-- Whether a ready task only ages: its level then is below 48, or it has a place on some die. -/
def Chip.onlyAges (c : Chip) (k : Task) : Bool :=
  decide ((c.ageTask k).level < 48) || (List.range 8).any fun d => ((c.setTask (c.ageTask k)).taskSpot (c.ageTask k) d).isSome

/-- A task that is not ready does not age. -/
theorem exec_taskAging_of_not_ready {s : State} {k : Task} (h : s.chip.task? s.subject = some k) (hr : (k.isReady && k.ready) = false) :
    exec .taskAging s = .next s := by
  change execTaskAging s = _
  simp only [execTaskAging, h, hr]
  rfl

/-- A ready task that is not urgent, or has a place, rises a level where its wait was long enough. -/
theorem exec_taskAging_of_patient {s : State} {k : Task} (h : s.chip.task? s.subject = some k) (hr : (k.isReady && k.ready) = true)
    (honly : s.chip.onlyAges k = true) :
    exec .taskAging s = .next (s.onChip fun c => c.setTask (s.chip.ageTask k)) := by
  unfold Chip.onlyAges at honly
  change execTaskAging s = _
  simp only [execTaskAging, h, hr, honly]
  rfl

/-- From level 48 on a ready task without a place has, beyond that, the block of its victim requested, if there is one. -/
theorem exec_taskAging_of_urgent {s : State} {k : Task} (h : s.chip.task? s.subject = some k) (hr : (k.isReady && k.ready) = true)
    (honly : s.chip.onlyAges k = false) :
    exec .taskAging s = .next (s.onChip fun c =>
      match (c.setTask (s.chip.ageTask k)).victim (s.chip.ageTask k).level with
      | none => c.setTask (s.chip.ageTask k)
      | some v => (c.setTask (s.chip.ageTask k)).requestBlock v.id) := by
  unfold Chip.onlyAges at honly
  change execTaskAging s = _
  simp only [execTaskAging, h, hr, honly, State.onChip]
  cases (s.chip.setTask (s.chip.ageTask k)).victim (s.chip.ageTask k).level <;> rfl

/-! ## Settlement (R180, R181) -/

/-- The first task that is due to settle is the first completed one that is confirmed. -/
theorem dueToSettle_eq (c : Chip) :
    c.dueToSettle = c.disp.tasks.find? fun k => k.state = .completed && !k.settled && c.confirmed k := by
  unfold Chip.dueToSettle Chip.confirmed
  congr 1
  funext k
  rw [Bool.and_assoc]
  congr 3
  funext r
  cases r.bound with
  | none => rfl
  | some v => cases h : c.writerOf r.base v <;> simp [h]

/-- Where no task is due to settle none settles; else the first does, and then those that it confirms. -/
theorem settleAll_of_none {c : Chip} (h : c.dueToSettle = none) (n : Nat) : c.settleAll (n + 1) = c := by
  rw [dueToSettle_eq] at h
  simp only [Chip.settleAll, h]
theorem settleAll_of_some {c : Chip} {k : Task} (h : c.dueToSettle = some k) (n : Nat) :
    c.settleAll (n + 1) = (c.settle k.entry 1).settleAll n := by
  rw [dueToSettle_eq] at h
  simp only [Chip.settleAll, h]

/-- A task that is due has not settled yet. -/
theorem settled_of_dueToSettle {c : Chip} {k : Task} (h : c.dueToSettle = some k) : k.settled = false := by
  rw [dueToSettle_eq] at h
  obtain ⟨⟨-, hk⟩, -⟩ : (k.state = .completed ∧ k.settled = false) ∧ c.confirmed k = true := by simpa using List.find?_some h
  exact hk

/-- An unsettled task settles as completed: a replay does not fail, and its versions are committed where no later writer has been
(R174, R179, R180). -/
theorem settle_eq_settles {c : Chip} {k : Task} (h : c.task? k.entry = some k) (hk : k.settled = false) :
    c.settle k.entry 1 = c.settles k := by
  unfold Chip.settle Chip.settles
  simp only [h, hk, ne_eq, not_true_eq_false, decide_false, Bool.and_false, Bool.false_eq_true, if_false, if_true, ← Nat.not_le, ite_not]
  rfl

/-! ## Completion (R147, R178, R185) -/

/-- The end of a task's threads in the model's operations: its block gone, its writers noted, its successors promoted and freed. -/
theorem taskEnds_eq (c : Chip) (k : Task) (b : Block) : c.taskEnds k b =
    let d := ((if 2 ≤ k.cscope then c.writeBackAll b.core else c).dropBlock b).noteWriters k b.core
    let after (j : Task) : Task :=
      if j.edges.contains k.entry && k.cscope < 2 then { j with promote := j.promote ++ [b.core] } else j
    (({ d with disp := { d.disp with tasks := d.disp.tasks.map after } } : Chip).setTask { k with state := .completed }).dropEdges k.entry := by
  have hrelease : (if k.cscope < 2 then c else c.writeBackAll b.core) = if 2 ≤ k.cscope then c.writeBackAll b.core else c := by
    simp only [← Nat.not_lt, ite_not]
  simp only [Chip.taskEnds, hrelease]
  rfl

/-- A task completes: its threads' end, then every settlement that is due. -/
theorem completeTask_eq (c : Chip) (k : Task) (b : Block) :
    c.completeTask k b = (c.taskEnds k b).settleAll ((c.taskEnds k b).disp.tasks.length + 1) := by
  rw [taskEnds_eq]
  simp only [Chip.completeTask, Chip.dropEdges, Chip.setTask, List.length_map]

/-! ## The rows -/

/-- The block of a task (R185). -/
def Chip.blockOfTask (c : Chip) (entry : Nat) : Option Block := c.disp.blocks.find? fun b => b.isTask && b.owner = entry

/-- A task that is not over does not complete. -/
theorem exec_taskCompletion_of_not_over {s : State} {k : Task} {b : Block} (h : s.chip.task? s.subject = some k)
    (hb : s.chip.blockOfTask s.subject = some b) (hover : (s.chip.taskOver b && b.resident) = false) :
    exec .taskCompletion s = .next s := by
  unfold Chip.blockOfTask at hb
  change execTaskCompletion s = _
  have hno : (!s.chip.taskOver b || !b.resident) = true := by
    rw [← Bool.not_and, hover]
    rfl
  simp only [execTaskCompletion, h, hb, hno]
  rfl

/-- What a task that is over leaves, by where it stood. -/
theorem exec_taskCompletion_of_over {s : State} {k : Task} {b : Block} (h : s.chip.task? s.subject = some k)
    (hb : s.chip.blockOfTask s.subject = some b) (hover : (s.chip.taskOver b && b.resident) = true) :
    exec .taskCompletion s = .next (s.onChip fun c => match k.state with
      | .running => c.completeTask k b
      | .aborted | .failed => ((c.writeBackAll b.core).dropBlock b).freeTask k.entry
      | _ => c) := by
  unfold Chip.blockOfTask at hb
  change execTaskCompletion s = _
  have hyes : (!s.chip.taskOver b || !b.resident) = false := by
    rw [← Bool.not_and, hover]
    rfl
  simp only [execTaskCompletion, h, hb, hyes]
  cases k.state <;> rfl

/-- Settles O53: each row is a case of its step. -/
theorem taskEvents : Obligations.TaskEvents := by
  intro q hq
  simp only [taskEventRows, List.mem_cons, List.not_mem_nil, or_false] at hq
  rcases hq with rfl | rfl | rfl | rfl | rfl | rfl | rfl
  all_goals
    intro s hok
    cases hk : s.chip.task? s.subject with
    | none => simp [hk] at hok
    | some k => ?_
  all_goals simp only [hk, Option.getD_some, Option.isSome_some, Bool.true_and, Bool.and_eq_true, Option.any_eq_true] at hok ⊢
  -- ageing: of a task that is not ready, of one that is placed or not urgent, and of an urgent one without a place
  · exact exec_taskAging_of_not_ready hk (Bool.eq_false_of_not_eq_true' hok)
  · obtain ⟨hready, hpatient⟩ := hok
    exact exec_taskAging_of_patient hk (Bool.and_eq_true_iff.2 hready) hpatient
  · obtain ⟨⟨hready, hurgent⟩, hnowhere⟩ := hok
    refine exec_taskAging_of_urgent hk (Bool.and_eq_true_iff.2 hready) (Bool.or_eq_false_iff.2 ⟨?_, Bool.eq_false_of_not_eq_true' hnowhere⟩)
    exact decide_eq_false (Nat.not_lt.2 (of_decide_eq_true hurgent))
  -- completion: of a task that is not over
  · obtain ⟨hblock, hnot⟩ := hok
    obtain ⟨b, hb⟩ := Option.isSome_iff_exists.1 hblock
    rw [hb] at hnot
    exact exec_taskCompletion_of_not_over hk hb (Bool.eq_false_of_not_eq_true' hnot)
  -- of one that ran, with nothing due to settle, and with settlements
  · obtain ⟨⟨⟨b, hb, hover⟩, hran⟩, hnone⟩ := hok
    simp only [hb, Option.getD_some] at hnone ⊢
    rw [exec_taskCompletion_of_over hk hb (Bool.and_eq_true_iff.2 hover), of_decide_eq_true hran]
    simp only [State.onChip, completeTask_eq, settleAll_of_none (Option.isNone_iff_eq_none.1 hnone)]
  · obtain ⟨⟨⟨b, hb, hover⟩, hran⟩, k', hdue, hfound⟩ := hok
    simp only [hb, Option.getD_some] at hdue hfound ⊢
    rw [exec_taskCompletion_of_over hk hb (Bool.and_eq_true_iff.2 hover), of_decide_eq_true hran]
    simp only [State.onChip, completeTask_eq, settleAll_of_some hdue, hdue, Option.getD_some,
      settle_eq_settles (of_decide_eq_true hfound) (settled_of_dueToSettle hdue)]
  -- of an aborted or failed one
  · obtain ⟨⟨b, hb, hover⟩, hdead⟩ := hok
    simp only [hb, Option.getD_some]
    rw [exec_taskCompletion_of_over hk hb (Bool.and_eq_true_iff.2 hover)]
    rcases Bool.or_eq_true_iff.1 hdead with hstate | hstate
    all_goals rw [of_decide_eq_true hstate]

end Sys2Proof.Machine
end

section
/-! PROOFS. The refutation of obligation O36: fen changes the token slots of every thread that has its thread's number, each thread's own
in the model, and the row of fen puts the first one's slots in their place. The statement does not ask that numbers differ. -/
namespace Sys2Proof.Machine

/-! ## Two threads of one number -/

/-- A fence without classes, whose token goes to slice 16 (R327, R337), and its row. -/
def openingFence : Long := ⟨16, 0, 4, 0, 12, false⟩
def openingFenceRow : ActRow := (fenceRows openingFence 0)[0]

/-- A thread of core 0 with four free token slots, and one of the same number without slots. -/
def fencingThread : Thread := { id := 5, place := .slot 0 0 0 0, tfoot := 32 }
def slotlessThread : Thread := { fencingThread with tokens := [] }

/-- Both on a chip, where the number is about to issue. -/
def sharedNumber : State :=
  { ({} : State).onChip fun c => { c with threads := [fencingThread, slotlessThread] } with issue := some { parts := [5], pc := 0 } }

/-- How many token slots each thread of a chip has. -/
def Chip.slotCounts (c : Chip) : List Nat := c.threads.map (·.tokens.length)

/-- A row of a thread of a compute core has its conditions met, and its chip some numbers of token slots. -/
def ActRow.leavesSlots (r : ActRow) (counts : List Nat) (x : Issue × State × Thread) : Bool :=
  let (i, s, t) := x
  t.onCompute && t.usable (s.chip.bars t) r.uses && r.ok s i t && decide (((r.chip s i t).unqueue t.id).slotCounts = counts)

/-- What that says of the row. -/
theorem leavesSlots_iff (r : ActRow) (counts : List Nat) (i : Issue) (s : State) (t : Thread) :
    r.leavesSlots counts (i, s, t) = true ↔ t.onCompute = true ∧ t.usable (s.chip.bars t) r.uses = true ∧ r.ok s i t = true ∧
      ((r.chip s i t).unqueue t.id).slotCounts = counts := by
  simp only [ActRow.leavesSlots, Bool.and_eq_true, decide_eq_true_eq, and_assoc]

/-- The row has the second thread receive four slots; the model leaves it without. -/
theorem openingFenceRow_leaves :
    (sharedNumber.soleOf openingFenceRow.uses).any (openingFenceRow.leavesSlots [4, 4]) = true := by decide +kernel
theorem exec_openingFence : ∃ u, exec (.fen openingFence) sharedNumber = .next u ∧ u.chip.slotCounts = [4, 0] :=
  ⟨_, rfl, by decide +kernel⟩

/-- Refutes O36: the second thread of the number has no slots after fen, and four after its row. -/
theorem not_splitPhaseFences : ¬ Obligations.SplitPhaseFences := by
  intro h
  obtain ⟨⟨i, s, t⟩, hsole, hleaves⟩ := (Option.any_eq_true ..).1 openingFenceRow_leaves
  obtain ⟨hcore, husable, hok, hrow⟩ := (leavesSlots_iff ..).1 hleaves
  have hnext := h openingFence 0 openingFenceRow (List.getElem_mem _) rfl sharedNumber i s t
    (State.soleOf_aloneOf _ _ i s t hsole) hcore husable hok
  obtain ⟨u, hexec, hslots⟩ := exec_openingFence
  obtain rfl := Host.Outcome.next.inj (hexec.symm.trans hnext)
  exact absurd (hrow.symm.trans hslots) (by decide)

end Sys2Proof.Machine
end

section
/-! PROOFS. What a store leaves unchanged: a write through the directory, with the write-backs that it causes, changes memory and the
failures' log alone. -/
namespace Sys2Proof.Machine

/-- Two chips that differ in their memory and in the state of failures alone. -/
def Chip.sameButMem (c d : Chip) : Prop := d = { c with mem := d.mem, ras := d.ras }

theorem Chip.sameButMem.rfl {c : Chip} : c.sameButMem c := by cases c; exact Eq.refl _
theorem Chip.sameButMem.trans {c d e : Chip} (h : c.sameButMem d) (h' : d.sameButMem e) : c.sameButMem e := by
  unfold Chip.sameButMem at *
  rw [h', h]

theorem sameButMem_foldl {α : Type} {f : Chip → α → Chip} (hf : ∀ (c : Chip) (x : α), c.sameButMem (f c x)) (l : List α) (c : Chip) :
    c.sameButMem (l.foldl f c) :=
  List.foldlRecOn l f (motive := c.sameButMem) .rfl fun d hd x _ => hd.trans (hf d x)

theorem sameButMem_ite {p : Prop} [Decidable p] {c d e : Chip} (hd : c.sameButMem d) (he : c.sameButMem e) :
    c.sameButMem (if p then d else e) := by split <;> assumption

/-! ## Lines -/

theorem sameButMem_putByte (c : Chip) (loc : Nat) (b : Byte) : c.sameButMem (c.putByte loc b) :=
  sameButMem_ite (Eq.refl _) (Eq.refl _)

theorem sameButMem_putBytes (bs : List Byte) (c : Chip) (loc : Nat) : c.sameButMem (c.putBytes loc bs) := by
  induction bs generalizing c loc with
  | nil => exact .rfl
  | cons b r ih => exact (sameButMem_putByte c loc b).trans (ih _ _)

theorem sameButMem_putMasked (c : Chip) (line : Nat) (d : BitVec 512) (mask : BitVec 64) (n : Nat) :
    c.sameButMem (c.putMasked line d mask n) := by
  induction n generalizing c with
  | zero => exact .rfl
  | succ n ih => exact (sameButMem_ite (sameButMem_putByte c _ _) .rfl).trans (ih _)

theorem sameButMem_pushLine (c : Chip) (core line : Nat) : c.sameButMem (c.pushLine core line) := by
  unfold Chip.pushLine
  split
  next => exact .rfl
  next l hl =>
    extract_lets put clean bad marked kept asks taken told
    have hput : c.sameButMem put := sameButMem_putMasked c line l.data l.dirty 64
    have hclean : put.sameButMem clean := sameButMem_ite (Eq.refl _) .rfl
    have hmarked : clean.sameButMem marked := sameButMem_ite (Eq.refl _) .rfl
    have htaken : marked.sameButMem taken := Eq.refl _
    have htold : taken.sameButMem told := sameButMem_ite (Eq.refl _) .rfl
    exact ((((hput.trans hclean).trans hmarked).trans htaken).trans htold).trans (Eq.refl _)

theorem sameButMem_flushLine (n : Nat) (busy : List (Nat × Nat)) (c : Chip) (core line : Nat) :
    c.sameButMem (Chip.flushLine n busy c core line) := by
  induction n generalizing busy c core line with
  | zero => exact .rfl
  | succ n ih =>
    rw [Chip.flushLine]
    split
    next => exact .rfl
    next l hl =>
      refine sameButMem_ite .rfl ?_
      extract_lets busy ls e first c1 owners c2 before
      have h1 : c.sameButMem c1 := sameButMem_foldl (fun d k => ih busy d core k) first c
      have h2 : c1.sameButMem c2 := sameButMem_foldl (fun d k => ih busy d k line) owners c1
      exact (h1.trans h2).trans (sameButMem_ite .rfl (sameButMem_pushLine c2 core line))

theorem sameButMem_recallFrom (c : Chip) (line : Nat) (p : Nat → Bool) : c.sameButMem (c.recallFrom line p) :=
  sameButMem_foldl (fun d k => sameButMem_flushLine _ [] d k line) _ c

theorem sameButMem_dirWrite (c : Chip) (a : Agent) (line : Nat) : c.sameButMem (c.dirWrite a line) := by
  unfold Chip.dirWrite
  split
  next => exact Eq.refl _
  next e he =>
    exact (sameButMem_foldl (fun d o => sameButMem_ite .rfl (sameButMem_recallFrom d line (behind o))) (e.owner.toList ++ e.sharers) c).trans
      (Eq.refl _)

/-! ## Stores -/

theorem sameButMem_breakResv (c : Chip) (loc : Nat) (but : Option Nat) : c.sameButMem (c.breakResv loc but) := Eq.refl _

theorem sameButMem_homeStore (c : Chip) (a : Agent) (l : Nat) (bs : List Byte) : c.sameButMem (c.homeStore a l bs) := by
  have hrebuilt : c.sameButMem (c.rebuildEntry (l / 64)) := sameButMem_ite (Eq.refl _) .rfl
  have hrecalled := hrebuilt.trans (sameButMem_recallFrom (c.rebuildEntry (l / 64)) (l / 64) fun _ => true)
  have htaken := hrecalled.trans (sameButMem_dirWrite ((c.rebuildEntry (l / 64)).recallLine (l / 64)) a (l / 64))
  have hbroken := htaken.trans (sameButMem_breakResv _ l none)
  exact (hbroken.trans (sameButMem_putBytes bs _ l)).trans (Eq.refl _)

theorem sameButMem_targetStore (c : Chip) (a : Agent) (g : Target) (bs : List Byte) : c.sameButMem (c.targetStore a g bs) := by
  cases g with
  | main l => exact (sameButMem_homeStore c a l bs).trans (Eq.refl _)
  | onDie l => exact ((sameButMem_breakResv c l none).trans (sameButMem_putBytes bs _ l)).trans (Eq.refl _)
  | _ => exact .rfl

/-- A store of an agent leaves every other part of the chip (R23, R145). -/
theorem sameButMem_agentStore (c : Chip) (a : Agent) (pa : Nat) (bs : List Byte) : c.sameButMem (c.agentStore a pa bs) :=
  sameButMem_foldl (fun d _ => sameButMem_targetStore d a _ _) _ c

/-- What such a change leaves: the time, the package, the blocks, and so the bars of a thread. -/
theorem Chip.sameButMem.tick {c d : Chip} (h : c.sameButMem d) : d.tick = c.tick := by rw [h]
theorem Chip.sameButMem.pkg {c d : Chip} (h : c.sameButMem d) : d.pkg = c.pkg := by rw [h]
theorem Chip.sameButMem.bars {c d : Chip} (h : c.sameButMem d) (t : Thread) : d.bars t = c.bars t := by rw [h]; rfl

end Sys2Proof.Machine
end

section
/-! PROOFS. Requests about grids and tasks by one thread: what each of them leaves, case by case, and the obligation O38 from these. -/
namespace Sys2Proof.Machine

/-! ## Short forms of one thread -/

/-- A short form that completes, as an issue executes it: the slices it uses, what stops its thread, and its act on the thread (R203,
R344). -/
def shortOp (uses : Uses) (stop : Chip → Thread → Option Stop) (act : Chip → Thread → Chip) : Op :=
  { uses := uses, check := fun c _ _ t => stop c t, run := fun c ts => ts.foldl act c, len := 4 }

/-- A row of a short form holds if nothing stops its thread wherever its condition holds, and its chip is the act's with the thread gone
on. -/
theorem shortRow_alone {instr : Instr} {uses : Uses} {ok : State → Issue → Thread → Bool} {chip : State → Issue → Thread → Chip}
    {stop : Word → Chip → Thread → Option Stop} {act : Chip → Thread → Chip}
    (hexec : ∀ (s : State) (i : Issue), s.issue = some i → exec instr s = .next (s.issueOp (shortOp uses (stop i.word) act) none))
    (hstop : ∀ s i t, ok s i t = true → stop i.word s.chip t = none)
    (hact : ∀ s i t, s.chip.thread? t.id = some t → ok s i t = true → (act s.chip t).goOn t.id 4 uses.writes = chip s i t) :
    ActRow.alone { instr := instr, uses := uses, hart := true, ok := ok, chip := chip } := by
  intro _ s0 i s t hone _ husable hok
  have hdone := issueOp_completes (o := shortOp uses (stop i.word) act) hone (Bool.and_false _) rfl husable rfl
    (fun _ hp => absurd hp List.not_mem_nil) (hstop s i t hok)
  rw [finish_goOn rfl] at hdone
  rw [hexec s0 i (issue_of_aloneOf hone), hdone]
  exact congrArg (fun c : Chip => Host.Outcome.next { s with chip := c.unqueue t.id }) (hact s i t (thread?_of_aloneOf hone) hok)

/-- What a short form with rs1, and one with rs2 too, reads and writes: only poison in rs1 stops it. -/
def usesX (rd rs1 : BitVec 5) : Uses := { strict := [spanX rs1.toNat], writes := [spanX rd.toNat] }
def usesXX (rd rs1 rs2 : BitVec 5) : Uses := { usesX rd rs1 with reads := [spanX rs2.toNat] }

/-- A result given to a thread that goes on is its answer. -/
theorem goOn_giveX (c : Chip) (t : Thread) (rd : BitVec 5) (v : Word) (poison : Bool) :
    (c.giveX t rd.toNat v poison).goOn t.id 4 [spanX rd.toNat] = c.answerX t rd v poison := rfl

/-! ## spawn (R152, R153, R358) -/

theorem exec_spawn (rd rs1 : BitVec 5) {s : State} {i : Issue} (h : s.issue = some i) :
    exec (.spawn rd rs1) s = .next (s.issueOp (shortOp (usesX rd rs1)
      (fun c t => c.spawnStop t i.word (readX t.regs rs1.toNat).toNat)
      fun c t => match c.thread? t.id with
        | some t => c.spawnOne t rd.toNat (readX t.regs rs1.toNat).toNat
        | none => c) none) := by
  change execSpawn rd rs1 s = _
  simp only [execSpawn, h]
  rfl

/-- A row of spawn holds if it asks that nothing stops the spawn, and its chip is what the spawn leaves. -/
theorem spawn_alone {rd rs1 : BitVec 5} {ok : State → Issue → Thread → Bool} {chip : State → Issue → Thread → Chip}
    (hstop : ∀ s i t, ok s i t = true → (s.chip.spawnStop t i.word (readX t.regs rs1.toNat).toNat).isNone = true)
    (hact : ∀ s i t, ok s i t = true →
      (s.chip.spawnOne t rd.toNat (readX t.regs rs1.toNat).toNat).goOn t.id 4 [spanX rd.toNat] = chip s i t) :
    ActRow.alone { instr := .spawn rd rs1, uses := usesX rd rs1, hart := true, ok := ok, chip := chip } := by
  refine shortRow_alone (stop := fun word c t => c.spawnStop t word (readX t.regs rs1.toNat).toNat) (fun s i h => exec_spawn rd rs1 h)
    (fun s i t h => Option.isNone_iff_eq_none.1 (hstop s i t h)) fun s i t ht h => ?_
  simp only [ht]
  exact hact s i t h

/-- The package when a call has left the dispatcher's queue and its thread has released at pod scope (R146, R147). -/
def Chip.sent (c : Chip) (t : Thread) : Chip := (c.callDone t.id).release t.id 5

/-- What a spawn at va reads as its descriptor. -/
def Chip.spawnRead (c : Chip) (t : Thread) (va : Nat) : List Byte × Chip := (c.sent t).descRead t va

theorem spawnOne_of_misaligned {va : Nat} (h : va % 64 ≠ 0) (c : Chip) (t : Thread) (rd : Nat) :
    c.spawnOne t rd va = (c.sent t).giveX t rd (-1) false := if_pos h
theorem spawnOne_of_status {c : Chip} {t : Thread} {va : Nat} {v : Word} (h : va % 64 = 0)
    (hv : (c.spawnRead t va).2.spawnStatus (descOf (c.spawnRead t va).1) = some v) (rd : Nat) :
    c.spawnOne t rd va = (c.spawnRead t va).2.giveX t rd v false := by
  unfold Chip.spawnRead Chip.sent at *
  simp only [Chip.spawnOne, h, hv, ne_eq, not_true_eq_false, if_false]
theorem spawnOne_of_enters {c : Chip} {t : Thread} {va : Nat} (h : va % 64 = 0)
    (hv : (c.spawnRead t va).2.spawnStatus (descOf (c.spawnRead t va).1) = none) (rd : Nat) :
    c.spawnOne t rd va =
      ((c.spawnRead t va).2.enterGrid t (descOf (c.spawnRead t va).1)).2.giveX t rd
        ((c.spawnRead t va).2.enterGrid t (descOf (c.spawnRead t va).1)).1 false := by
  unfold Chip.spawnRead Chip.sent at *
  simp only [Chip.spawnOne, h, hv, ne_eq, not_true_eq_false, if_false]

/-- The lowest free slot of the grid table is one of this package's own. -/
theorem freeSlot_lt (c : Chip) : c.freeSlot < 4096 := by
  unfold Chip.freeSlot
  cases h : (List.range 4096).find? fun s => !(c.disp.grids.any fun g => g.slot = s) with
  | none => decide
  | some n => exact List.mem_range.1 (List.mem_of_find?_eq_some h)

/-- The other packages of a grid hear of it with the handle that it has before the messages. -/
theorem gridHandle_post (c : Chip) (dest : Nat) (b : PodBody) (g : Grid) : (c.post dest b).gridHandle g = c.gridHandle g := rfl
theorem foldl_post_gridHandle (g : Grid) (b : Nat → PodBody) (l : List Nat) (c : Chip) :
    l.foldl (fun d p => d.post p (b (d.gridHandle g).toNat)) c = l.foldl (fun d p => d.post p (b (c.gridHandle g).toNat)) c := by
  induction l generalizing c with
  | nil => simp only [List.foldl_nil]
  | cons p r ih => simp only [List.foldl_cons, ih, gridHandle_post]
theorem tellOthers_eq (c : Chip) (g : Grid) (b : Nat → PodBody) :
    c.tellOthers g b = (c.partners g).foldl (fun d p => d.post p (b (c.gridHandle g).toNat)) c := foldl_post_gridHandle g b _ c

/-- The other packages of a grid that this package heads. -/
theorem partners_of_home {g : Grid} (h : g.remote = false) (c : Chip) : c.partners g = (g.desc.named c.pkg).filter (· ≠ c.pkg) := by
  simp only [Chip.partners, Chip.headOf, h, Bool.false_eq_true, if_false]

/-- A spawner's record is a store: the package's number stays. -/
theorem pkg_keepSpawner (c : Chip) (t : Thread) (who seq : Nat) : (c.keepSpawner t who seq).pkg = c.pkg := by
  unfold Chip.keepSpawner
  split
  next =>
    extract_lets d h
    split
    · rfl
    · exact (sameButMem_agentStore ..).pkg
  next => rfl

theorem spawns_eq (c : Chip) (t : Thread) :
    c.spawns t = ((c.spawnerOf t).1, (c.spawnerOf t).2.keepSpawner t (c.spawnerOf t).1 (t.spawnSeq + 1)) := by
  unfold Chip.spawns Chip.spawnerOf
  by_cases h : t.spawner = 0 <;> simp [h]

/-- A grid enters the table, and the other packages that it names hear of it (R152, R153, R158, R164). -/
theorem enterGrid_eq (c : Chip) (t : Thread) (d : Descriptor) :
    let gen := nextGen (assocGet c.disp.gridGens c.freeSlot 0)
    let x := c.spawns t
    let g : Grid := {
      slot := c.freeSlot, gen := gen, desc := d, ctx := c.ctxOf t, spawner := x.1, seq := t.spawnSeq, order := c.disp.order
      gated := d.flags.testBit 1, gateSince := c.tick }
    let e : Chip := { x.2 with disp := { x.2.disp with
      grids := x.2.disp.grids ++ [g], gridGens := assocSet x.2.disp.gridGens c.freeSlot gen, order := x.2.disp.order + 1 } }
    c.enterGrid t d = (e.gridHandle g, ((d.named c.pkg).filter (· ≠ c.pkg)).foldl
      (fun f p => f.post p (.offer (e.gridHandle g).toNat d.bytes g.ctx.bytes g.spawner g.seq)) e) := by
  intro gen x g e
  have hhome : g.remote = false := by
    have hslot := freeSlot_lt c
    rw [Grid.remote, decide_eq_false_iff_not, Nat.not_le]
    simp only [g]
    omega
  have hpkg : e.pkg = c.pkg := by
    simp only [e, x, spawns_eq, pkg_keepSpawner, Chip.spawnerOf]
    split <;> rfl
  have htold := tellOthers_eq e g (.offer · d.bytes g.ctx.bytes g.spawner g.seq)
  rw [partners_of_home hhome, hpkg] at htold
  rw [← htold]
  simp only [Chip.enterGrid, e, g, x, gen, spawns_eq]

/-! ## gcancel and gstat (R168, R359, R360) -/

theorem exec_gcancel (rd rs1 rs2 : BitVec 5) (s : State) :
    exec (.gcancel rd rs1 rs2) s = .next (s.issueOp (shortOp (usesXX rd rs1 rs2) (fun _ _ => none)
      fun c t => (c.gcancelOne t (readX t.regs rs1.toNat) (readX t.regs rs2.toNat)).2.giveX t rd.toNat
        (c.gcancelOne t (readX t.regs rs1.toNat) (readX t.regs rs2.toNat)).1 (t.poisoned (c.bars t) [spanX rs2.toNat])) none) := rfl
theorem exec_gstat (rd rs1 rs2 : BitVec 5) (s : State) :
    exec (.gstat rd rs1 rs2) s = .next (s.issueOp (shortOp (usesXX rd rs1 rs2) (fun _ _ => none)
      fun c t => (c.drew (if c.elsewhere (readX t.regs rs1.toNat) false then 8 else 0)).giveX t rd.toNat
        (c.gstatOne t (readX t.regs rs1.toNat) (readX t.regs rs2.toNat)) (t.poisoned (c.bars t) [spanX rs2.toNat])) none) := rfl

/-- A row of gcancel holds if its chip answers what gcancel returns, in the package that it leaves. -/
theorem gcancel_alone {rd rs1 rs2 : BitVec 5} {ok : State → Issue → Thread → Bool} {chip : State → Issue → Thread → Chip}
    (hact : ∀ s i t, ok s i t = true → ∃ r, s.chip.gcancelOne t (readX t.regs rs1.toNat) (readX t.regs rs2.toNat) = r ∧
      r.2.answerX t rd r.1 (t.poisoned (s.chip.bars t) [spanX rs2.toNat]) = chip s i t) :
    ActRow.alone { instr := .gcancel rd rs1 rs2, uses := usesXX rd rs1 rs2, hart := true, ok := ok, chip := chip } := by
  refine shortRow_alone (stop := fun _ _ _ => none) (fun s _ _ => exec_gcancel rd rs1 rs2 s) (fun _ _ _ _ => rfl) fun s i t _ h => ?_
  obtain ⟨r, rfl, hr⟩ := hact s i t h
  exact hr

/-- A row of gstat holds if its chip answers what gstat returns, with the free values drawn that it takes. -/
theorem gstat_alone {rd rs1 rs2 : BitVec 5} {ok : State → Issue → Thread → Bool} {chip : State → Issue → Thread → Chip}
    (hact : ∀ s i t, ok s i t = true → (s.chip.drew (if s.chip.elsewhere (readX t.regs rs1.toNat) false then 8 else 0)).answerX t rd
      (s.chip.gstatOne t (readX t.regs rs1.toNat) (readX t.regs rs2.toNat)) (t.poisoned (s.chip.bars t) [spanX rs2.toNat]) = chip s i t) :
    ActRow.alone { instr := .gstat rd rs1 rs2, uses := usesXX rd rs1 rs2, hart := true, ok := ok, chip := chip } :=
  shortRow_alone (stop := fun _ _ _ => none) (fun s _ _ => exec_gstat rd rs1 rs2 s) (fun _ _ _ _ => rfl) fun s i t _ h => hact s i t h

/-- A second operand above 1 has a bit other than bit 0, which alone is set in 1. -/
theorem ushiftRight_one_ne_zero_iff (w : Word) : w >>> 1 ≠ 0 ↔ 1 < w.toNat := by
  bv_omega
theorem getLsbD_zero_of_le_one {w : Word} (h : w.toNat ≤ 1) : w.getLsbD 0 = decide (w.toNat = 1) := by
  simp only [BitVec.getLsbD, Nat.testBit_zero]
  congr 1
  simp only [eq_iff_iff]
  omega

theorem gcancelOne_of_elsewhere {c : Chip} {h : Word} (he : c.elsewhere h false = true) (t : Thread) (how : Word) :
    c.gcancelOne t h how = (c.freeOf [-1, if 1 < how.toNat then -2 else 0], c.callAway t h (.gcancel how)) := by
  simp only [Chip.gcancelOne, he, if_true, ushiftRight_one_ne_zero_iff]
theorem gcancelOne_of_none {c : Chip} {t : Thread} {h : Word} (he : c.elsewhere h false = false)
    (hg : c.gridOfSpace (c.ctxOf t) h = none) (how : Word) : c.gcancelOne t h how = (-1, c) := by
  simp only [Chip.gcancelOne, he, Bool.false_eq_true, if_false, Chip.gcancelHere, hg]
theorem gcancelOne_of_some {c : Chip} {t : Thread} {h : Word} {g : Grid} (he : c.elsewhere h false = false)
    (hg : c.gridOfSpace (c.ctxOf t) h = some g) (how : Word) :
    c.gcancelOne t h how = if 1 < how.toNat then (-2, c) else (0, if how.toNat = 1 then c.cancelHard g.slot else c.cancelSoft g.slot) := by
  simp only [Chip.gcancelOne, he, Bool.false_eq_true, if_false, Chip.gcancelHere, hg, ushiftRight_one_ne_zero_iff]
  split
  · rfl
  · rw [getLsbD_zero_of_le_one (by omega)]
    simp only [decide_eq_true_eq]

theorem gstatOne_of_elsewhere {c : Chip} {h : Word} (he : c.elsewhere h false = true) (t : Thread) (which : Word) :
    c.gstatOne t h which = if 2 < which.toNat then c.freeOf [-1, -2] else c.freeWord := if_pos he
theorem gstatOne_of_here {c : Chip} {h : Word} (he : c.elsewhere h false = false) (t : Thread) (which : Word) :
    c.gstatOne t h which = c.gstatHere (c.ctxOf t) h which := if_neg (Bool.not_eq_true _ ▸ he)

/-! ## tsub (R175-R178, R362) -/

theorem exec_tsub (rd rs1 : BitVec 5) (s : State) :
    exec (.tsub rd rs1) s = .next (s.issueOp (shortOp (usesX rd rs1)
      (fun c t => c.tsubStop t (readX t.regs rs1.toNat).toNat)
      fun c t => match c.thread? t.id with
        | some t => c.tsubOne t rd.toNat (readX t.regs rs1.toNat).toNat
        | none => c) none) := rfl

/-- A row of tsub holds if it asks that nothing stops the submission, and its chip is what the submission leaves. -/
theorem tsub_alone {rd rs1 : BitVec 5} {ok : State → Issue → Thread → Bool} {chip : State → Issue → Thread → Chip}
    (hstop : ∀ s i t, ok s i t = true → (s.chip.tsubStop t (readX t.regs rs1.toNat).toNat).isNone = true)
    (hact : ∀ s i t, ok s i t = true →
      (s.chip.tsubOne t rd.toNat (readX t.regs rs1.toNat).toNat).goOn t.id 4 [spanX rd.toNat] = chip s i t) :
    ActRow.alone { instr := .tsub rd rs1, uses := usesX rd rs1, hart := true, ok := ok, chip := chip } := by
  refine shortRow_alone (stop := fun _ c t => c.tsubStop t (readX t.regs rs1.toNat).toNat) (fun s _ _ => exec_tsub rd rs1 s)
    (fun s i t h => Option.isNone_iff_eq_none.1 (hstop s i t h)) fun s i t ht h => ?_
  simp only [ht]
  exact hact s i t h

/-- What a tsub at va reads as its task record. -/
def Chip.tsubRead (c : Chip) (t : Thread) (va : Nat) : TaskRecord × Chip :=
  (taskRecordOf ((c.sent t).taskRead t va).1, ((c.sent t).taskRead t va).2)

theorem tsubOne_of_misaligned {va : Nat} (h : va % 64 ≠ 0) (c : Chip) (t : Thread) (rd : Nat) :
    c.tsubOne t rd va = (c.sent t).giveX t rd (-1) false := if_pos h
theorem tsubOne_of_status {c : Chip} {t : Thread} {va : Nat} {v : Word} (h : va % 64 = 0)
    (hv : (c.tsubRead t va).2.taskStatus (c.tsubRead t va).1 = some v) (rd : Nat) :
    c.tsubOne t rd va = (c.tsubRead t va).2.giveX t rd v false := by
  unfold Chip.tsubRead Chip.sent at *
  simp only [Chip.tsubOne, h, hv, ne_eq, not_true_eq_false, if_false]
theorem tsubOne_of_enters {c : Chip} {t : Thread} {va e : Nat} (h : va % 64 = 0)
    (hv : (c.tsubRead t va).2.taskStatus (c.tsubRead t va).1 = none) (he : (c.tsubRead t va).2.freeEntry = some e) (rd : Nat) :
    let y := (c.tsubRead t va).2.enterTask
      { (c.tsubRead t va).1.task with ctx := (c.sent t).ctxOf t, subDie := (c.sent t).dieOf t } e
    c.tsubOne t rd va = y.2.giveX t rd y.1 false := by
  unfold Chip.tsubRead Chip.sent at *
  simp only [Chip.tsubOne, h, hv, he, ne_eq, not_true_eq_false, if_false]

/-! ## tcomm and tabort (R181, R182, R362) -/

theorem exec_tcomm (rd rs1 : BitVec 5) (s : State) :
    exec (.tcomm rd rs1) s = .next (s.issueOp (shortOp (usesX rd rs1) (fun _ _ => none)
      fun c t => (c.tcommOne t (readX t.regs rs1.toNat)).2.giveX t rd.toNat (c.tcommOne t (readX t.regs rs1.toNat)).1 false) none) := rfl
theorem exec_tabort (rd rs1 : BitVec 5) (s : State) :
    exec (.tabort rd rs1) s = .next (s.issueOp (shortOp (usesX rd rs1) (fun _ _ => none)
      fun c t => c.tabortOne t rd.toNat (readX t.regs rs1.toNat)) none) := rfl

/-- A row of tcomm holds if its chip answers what tcomm returns, in the package that it leaves. -/
theorem tcomm_alone {rd rs1 : BitVec 5} {ok : State → Issue → Thread → Bool} {chip : State → Issue → Thread → Chip}
    (hact : ∀ s i t, ok s i t = true →
      ∃ r, s.chip.tcommOne t (readX t.regs rs1.toNat) = r ∧ r.2.answerX t rd r.1 false = chip s i t) :
    ActRow.alone { instr := .tcomm rd rs1, uses := usesX rd rs1, hart := true, ok := ok, chip := chip } := by
  refine shortRow_alone (stop := fun _ _ _ => none) (fun s _ _ => exec_tcomm rd rs1 s) (fun _ _ _ _ => rfl) fun s i t _ h => ?_
  obtain ⟨r, rfl, hr⟩ := hact s i t h
  exact hr

/-- A row of tabort holds if its chip is what tabort leaves, with the thread gone on. -/
theorem tabort_alone {rd rs1 : BitVec 5} {ok : State → Issue → Thread → Bool} {chip : State → Issue → Thread → Chip}
    (hact : ∀ s i t, ok s i t = true →
      (s.chip.tabortOne t rd.toNat (readX t.regs rs1.toNat)).goOn t.id 4 [spanX rd.toNat] = chip s i t) :
    ActRow.alone { instr := .tabort rd rs1, uses := usesX rd rs1, hart := true, ok := ok, chip := chip } :=
  shortRow_alone (stop := fun _ _ _ => none) (fun s _ _ => exec_tabort rd rs1 s) (fun _ _ _ _ => rfl) fun s i t _ h => hact s i t h

theorem tcommOne_of_elsewhere {c : Chip} {h : Word} (he : c.elsewhere h true = true) (t : Thread) :
    c.tcommOne t h = (c.freeOf [0, -1, -2], c.callAway t h .tcomm) := if_pos he
theorem tcommOne_of_none {c : Chip} {t : Thread} {h : Word} (he : c.elsewhere h true = false)
    (hk : c.taskOfSpace (c.ctxOf t) h = none) : c.tcommOne t h = (-1, c) := by
  simp only [Chip.tcommOne, he, Bool.false_eq_true, if_false, Chip.tcommHere, hk]
theorem tcommOne_of_plain {c : Chip} {t : Thread} {h : Word} {k : Task} (he : c.elsewhere h true = false)
    (hk : c.taskOfSpace (c.ctxOf t) h = some k) (hs : k.spec = false) : c.tcommOne t h = (-2, c) := by
  simp only [Chip.tcommOne, he, Bool.false_eq_true, if_false, Chip.tcommHere, hk, hs]
  rfl
theorem tcommOne_of_spec {c : Chip} {t : Thread} {h : Word} {k : Task} (he : c.elsewhere h true = false)
    (hk : c.taskOfSpace (c.ctxOf t) h = some k) (hs : k.spec = true) :
    c.tcommOne t h = (0, (c.setTask { k with commit := true }).settleAll (c.disp.tasks.length + 1)) := by
  simp only [Chip.tcommOne, he, Bool.false_eq_true, if_false, Chip.tcommHere, hk, hs]
  rfl

theorem tabortOne_of_elsewhere {c : Chip} {h : Word} (he : c.elsewhere h true = true) (t : Thread) (rd : Nat) :
    c.tabortOne t rd h = (c.callAway t h .tabort).giveX t rd (c.freeOf [0, -1, -2]) false := if_pos he
theorem tabortOne_of_none {c : Chip} {t : Thread} {h : Word} (he : c.elsewhere h true = false)
    (hk : c.taskOfSpace (c.ctxOf t) h = none) (rd : Nat) : c.tabortOne t rd h = c.giveX t rd (-1) false := by
  simp only [Chip.tabortOne, he, Bool.false_eq_true, if_false, Chip.tabortHere, hk]
theorem tabortOne_of_plain {c : Chip} {t : Thread} {h : Word} {k : Task} (he : c.elsewhere h true = false)
    (hk : c.taskOfSpace (c.ctxOf t) h = some k) (hs : k.spec = false) (rd : Nat) : c.tabortOne t rd h = c.giveX t rd (-2) false := by
  simp only [Chip.tabortOne, he, Bool.false_eq_true, if_false, Chip.tabortHere, hk, hs]
  rfl
theorem tabortOne_of_spec {c : Chip} {t : Thread} {h : Word} {k : Task} (he : c.elsewhere h true = false)
    (hk : c.taskOfSpace (c.ctxOf t) h = some k) (hs : k.spec = true) (rd : Nat) :
    c.tabortOne t rd h = (c.giveX t rd 0 false).abortTask k.entry false := by
  simp only [Chip.tabortOne, he, Bool.false_eq_true, if_false, Chip.tabortHere, hk, hs]
  rfl

/-! ## The rows -/

/-- The conditions of a row about a handle of this package: it names nothing of the caller, or something for which more holds. -/
theorem here_missing {α : Type} {e : Bool} {o : Option α} (h : (!e && o.isNone) = true) : e = false ∧ o = none := by
  simpa using h
theorem here_found {α : Type} {e q : Bool} {o : Option α} (h : (!e && o.isSome && q) = true) :
    e = false ∧ (∃ a, o = some a) ∧ q = true := by
  simpa [Option.isSome_iff_exists, and_assoc] using h

theorem gridRows_alone (rd rs1 rs2 : BitVec 5) : ∀ q ∈ gridRows rd rs1 rs2, q.alone := by
  intro q hq
  simp only [gridRows, List.mem_cons, List.not_mem_nil, or_false] at hq
  rcases hq with rfl | rfl | rfl | rfl | rfl | rfl | rfl | rfl | rfl
  -- a spawn of a misaligned descriptor, one with a negative status, and one that enters its grid
  · refine spawn_alone (fun s i t hok => (Bool.and_eq_true_iff.1 hok).2) fun s i t hok => ?_
    rw [spawnOne_of_misaligned (of_decide_eq_true (Bool.and_eq_true_iff.1 hok).1)]
    rfl
  · refine spawn_alone (fun s i t hok => ?_) fun s i t hok => ?_
    all_goals
      obtain ⟨hcalled, hstatus⟩ := Bool.and_eq_true_iff.1 hok
      obtain ⟨haligned, hopen⟩ := Bool.and_eq_true_iff.1 hcalled
    · exact hopen
    · obtain ⟨v, hv⟩ : ∃ v, (s.chip.spawnRead t (readX t.regs rs1.toNat).toNat).2.spawnStatus
          (descOf (s.chip.spawnRead t (readX t.regs rs1.toNat).toNat).1) = some v := Option.isSome_iff_exists.1 hstatus
      rw [spawnOne_of_status (of_decide_eq_true haligned) hv, goOn_giveX, ← Option.getD_some (a := v) (b := 0), ← hv]
      rfl
  · refine spawn_alone (fun s i t hok => ?_) fun s i t hok => ?_
    all_goals
      obtain ⟨hcalled, hstatus⟩ := Bool.and_eq_true_iff.1 hok
      obtain ⟨haligned, hopen⟩ := Bool.and_eq_true_iff.1 hcalled
    · exact hopen
    · rw [spawnOne_of_enters (of_decide_eq_true haligned) (Option.isNone_iff_eq_none.1 hstatus), goOn_giveX]
      simp only [enterGrid_eq, Chip.spawnRead, Chip.descRead, Chip.sent]
  -- a cancellation: no grid, a wrong selector, hard or soft, and one sent to another package
  · refine gcancel_alone fun s i t hok => ?_
    obtain ⟨hhere, hnone⟩ := here_missing hok
    exact ⟨_, gcancelOne_of_none hhere hnone _, rfl⟩
  · refine gcancel_alone fun s i t hok => ?_
    obtain ⟨hhere, ⟨g, hg⟩, hselector⟩ := here_found hok
    refine ⟨_, gcancelOne_of_some hhere hg _, ?_⟩
    rw [if_pos (of_decide_eq_true hselector)]
  · refine gcancel_alone fun s i t hok => ?_
    obtain ⟨hhere, ⟨g, hg⟩, hselector⟩ := here_found hok
    refine ⟨_, gcancelOne_of_some hhere hg _, ?_⟩
    simp only [if_neg (Nat.not_lt.2 (of_decide_eq_true hselector)), hg, Option.getD_some]
  · exact gcancel_alone fun s i t hok => ⟨_, gcancelOne_of_elsewhere hok _ _, rfl⟩
  -- a status: of another package's grid, and of one here
  · refine gstat_alone fun s i t hok => ?_
    rw [if_pos hok, gstatOne_of_elsewhere hok]
    rfl
  · refine gstat_alone fun s i t hok => ?_
    have hhere := Bool.eq_false_of_not_eq_true' hok
    simp only [hhere, Bool.false_eq_true, if_false, gstatOne_of_here hhere]
    rfl

theorem taskRows_alone (rd rs1 : BitVec 5) : ∀ q ∈ taskRows rd rs1, q.alone := by
  intro q hq
  simp only [taskRows, List.mem_cons, List.not_mem_nil, or_false] at hq
  rcases hq with rfl | rfl | rfl | rfl | rfl | rfl | rfl | rfl | rfl | rfl | rfl
  -- a submission of a misaligned record, one with a negative status, and one that enters its task
  · refine tsub_alone (fun s i t hok => (Bool.and_eq_true_iff.1 hok).2) fun s i t hok => ?_
    rw [tsubOne_of_misaligned (of_decide_eq_true (Bool.and_eq_true_iff.1 hok).1)]
    rfl
  · refine tsub_alone (fun s i t hok => ?_) fun s i t hok => ?_
    all_goals
      obtain ⟨hcalled, hstatus⟩ := Bool.and_eq_true_iff.1 hok
      obtain ⟨haligned, hopen⟩ := Bool.and_eq_true_iff.1 hcalled
    · exact hopen
    · obtain ⟨v, hv⟩ : ∃ v, (s.chip.tsubRead t (readX t.regs rs1.toNat).toNat).2.taskStatus
          (s.chip.tsubRead t (readX t.regs rs1.toNat).toNat).1 = some v := Option.isSome_iff_exists.1 hstatus
      rw [tsubOne_of_status (of_decide_eq_true haligned) hv, goOn_giveX, ← Option.getD_some (a := v) (b := 0), ← hv]
      rfl
  · refine tsub_alone (fun s i t hok => ?_) fun s i t hok => ?_
    all_goals
      obtain ⟨hchecked, hentry⟩ := Bool.and_eq_true_iff.1 hok
      obtain ⟨hcalled, hstatus⟩ := Bool.and_eq_true_iff.1 hchecked
      obtain ⟨haligned, hopen⟩ := Bool.and_eq_true_iff.1 hcalled
    · exact hopen
    · obtain ⟨e, he⟩ : ∃ e, (s.chip.tsubRead t (readX t.regs rs1.toNat).toNat).2.freeEntry = some e :=
        Option.isSome_iff_exists.1 hentry
      rw [tsubOne_of_enters (of_decide_eq_true haligned) (Option.isNone_iff_eq_none.1 hstatus) he, goOn_giveX,
        ← Option.getD_some (a := e) (b := 0), ← he]
      rfl
  -- a commit: of another package's task, of no task, of one that is not speculative, and of one that is
  · exact tcomm_alone fun s i t hok => ⟨_, tcommOne_of_elsewhere hok _, rfl⟩
  · refine tcomm_alone fun s i t hok => ?_
    obtain ⟨hhere, hnone⟩ := here_missing hok
    exact ⟨_, tcommOne_of_none hhere hnone, rfl⟩
  · refine tcomm_alone fun s i t hok => ?_
    obtain ⟨hhere, ⟨k, hk⟩, hplain⟩ := here_found hok
    simp only [hk, Option.getD_some, Bool.not_eq_true'] at hplain
    exact ⟨_, tcommOne_of_plain hhere hk hplain, rfl⟩
  · refine tcomm_alone fun s i t hok => ?_
    obtain ⟨hhere, ⟨k, hk⟩, hspec⟩ := here_found hok
    simp only [hk, Option.getD_some] at hspec ⊢
    exact ⟨_, tcommOne_of_spec hhere hk hspec, rfl⟩
  -- an abort, by the same cases
  · exact tabort_alone fun s i t hok => congrArg (·.goOn t.id 4 [spanX rd.toNat]) (tabortOne_of_elsewhere hok _ _)
  · refine tabort_alone fun s i t hok => ?_
    obtain ⟨hhere, hnone⟩ := here_missing hok
    rw [tabortOne_of_none hhere hnone]
    rfl
  · refine tabort_alone fun s i t hok => ?_
    obtain ⟨hhere, ⟨k, hk⟩, hplain⟩ := here_found hok
    simp only [hk, Option.getD_some, Bool.not_eq_true'] at hplain
    rw [tabortOne_of_plain hhere hk hplain]
    rfl
  · refine tabort_alone fun s i t hok => ?_
    obtain ⟨hhere, ⟨k, hk⟩, hspec⟩ := here_found hok
    simp only [hk, Option.getD_some] at hspec ⊢
    rw [tabortOne_of_spec hhere hk hspec]
    rfl

/-- Settles O38: the rows of the grids and those of the tasks hold. -/
theorem gridAndTaskRequests : Obligations.GridAndTaskRequests := ⟨gridRows_alone, taskRows_alone⟩

end Sys2Proof.Machine
end

section
/-! PROOFS. The fields of a record: a little-endian field of a byte string that is put together of numbers, of zeros and of records of
one length (R3). -/
namespace Sys2Proof.Machine

/-! ## Numbers in bytes -/

@[simp] theorem length_bytesOf (v n : Nat) : (bytesOf v n).length = n := by
  induction n generalizing v with
  | zero => rfl
  | succ n ih => simp [bytesOf, ih]

theorem drop_bytesOf (v n o : Nat) : (bytesOf v n).drop o = bytesOf (v / 2 ^ (8 * o)) (n - o) := by
  induction o generalizing v n with
  | zero => simp
  | succ o ih =>
    cases n with
    | zero => simp [bytesOf]
    | succ n =>
      rw [bytesOf, List.drop_succ_cons, ih, Nat.div_div_eq_div_mul, Nat.add_sub_add_right]
      congr 2
      rw [show 8 * (o + 1) = 8 + 8 * o by omega, pow_add]
      rfl

theorem take_bytesOf (v : Nat) {n k : Nat} (h : k ≤ n) : (bytesOf v n).take k = bytesOf v k := by
  induction k generalizing v n with
  | zero => rfl
  | succ k ih =>
    obtain ⟨n, rfl⟩ : ∃ m, n = m + 1 := ⟨n - 1, by omega⟩
    rw [bytesOf, bytesOf, List.take_succ_cons, ih _ (by omega)]

/-- The number of n bytes of a number is that number modulo 256^n. -/
theorem numOf_bytesOf (v n : Nat) : numOf (bytesOf v n) = v % 2 ^ (8 * n) := by
  induction n generalizing v with
  | zero => simp [bytesOf, numOf, Nat.mod_one]
  | succ n ih =>
    rw [bytesOf, numOf, ih, BitVec.toNat_ofNat, show 8 * (n + 1) = 8 + 8 * n by omega, pow_add, Nat.mod_mul]
    rfl

theorem numOf_zeros (n : Nat) : numOf (List.replicate n 0) = 0 := by
  induction n with
  | zero => rfl
  | succ n ih => rw [List.replicate_succ, numOf, ih]; rfl

/-! ## Fields -/

/-- A field within the bytes of one number. -/
theorem recField_bytesOf (v : Nat) {n o k : Nat} (h : o + k ≤ n) : recField (bytesOf v n) o k = v / 2 ^ (8 * o) % 2 ^ (8 * k) := by
  rw [recField, drop_bytesOf, take_bytesOf _ (by omega), numOf_bytesOf]

/-- A field of zeros. -/
theorem recField_zeros (n o k : Nat) : recField (List.replicate n 0) o k = 0 := by
  rw [recField, List.drop_replicate, List.take_replicate, numOf_zeros]

/-- A field of a string in two parts, in the first of them, and past it. -/
theorem recField_append_left {a : List Byte} {o k : Nat} (h : o + k ≤ a.length) (b : List Byte) :
    recField (a ++ b) o k = recField a o k := by
  rw [recField, recField, List.drop_append_of_le_length (by omega), List.take_append_of_le_length (by simp; omega)]
theorem recField_append_right {a : List Byte} {o : Nat} (h : a.length ≤ o) (b : List Byte) (k : Nat) :
    recField (a ++ b) o k = recField b (o - a.length) k := by
  rw [recField, recField, List.drop_append, List.drop_eq_nil_of_le h, List.nil_append]

theorem recField_append_add {a : List Byte} {n : Nat} (h : a.length = n) (b : List Byte) (o k : Nat) :
    recField (a ++ b) (n + o) k = recField b o k := by
  rw [recField_append_right (by omega), h, Nat.add_sub_cancel_left]

/-- The same where the first part is a number or zeros. -/
theorem recField_bytesOf_append (v : Nat) {n o k : Nat} (h : o + k ≤ n) (b : List Byte) :
    recField (bytesOf v n ++ b) o k = v / 2 ^ (8 * o) % 2 ^ (8 * k) := by
  rw [recField_append_left (by simpa using h), recField_bytesOf _ h]
theorem recField_past_bytesOf (v : Nat) {n o : Nat} (h : n ≤ o) (b : List Byte) (k : Nat) :
    recField (bytesOf v n ++ b) o k = recField b (o - n) k := by
  rw [recField_append_right (by simpa using h), length_bytesOf]
theorem recField_zeros_append {n o k : Nat} (h : o + k ≤ n) (b : List Byte) : recField (List.replicate n 0 ++ b) o k = 0 := by
  rw [recField_append_left (by simpa using h), recField_zeros]
theorem recField_past_zeros {n o : Nat} (h : n ≤ o) (b : List Byte) (k : Nat) :
    recField (List.replicate n 0 ++ b) o k = recField b (o - n) k := by
  rw [recField_append_right (by simpa using h), List.length_replicate]

/-! ## Tables of records of one length -/

theorem length_flatMap_of_length {α : Type} {f : α → List Byte} {m : Nat} (hf : ∀ a, (f a).length = m) (l : List α) :
    (l.flatMap f).length = m * l.length := by
  simp [List.length_flatMap, hf, Nat.mul_comm]

/-- From entry k on, a table is that entry and those behind it. -/
theorem drop_flatMap {α : Type} {f : α → List Byte} {m : Nat} (hf : ∀ a, (f a).length = m) {l : List α} {k : Nat} {a : α}
    (h : l[k]? = some a) (b : List Byte) :
    (l.flatMap f ++ b).drop (m * k) = f a ++ ((l.drop (k + 1)).flatMap f ++ b) := by
  obtain ⟨hk, rfl⟩ := List.getElem?_eq_some_iff.1 h
  have hsplit : l = l.take k ++ l[k] :: l.drop (k + 1) := by simp
  have hlen : ((l.take k).flatMap f).length = m * k := by simp [length_flatMap_of_length hf, Nat.min_eq_left hk.le]
  calc (l.flatMap f ++ b).drop (m * k)
      = ((l.take k).flatMap f ++ ((l[k] :: l.drop (k + 1)).flatMap f ++ b)).drop ((l.take k).flatMap f).length := by
        rw [hlen, ← List.append_assoc, ← List.flatMap_append, ← hsplit]
    _ = f l[k] ++ ((l.drop (k + 1)).flatMap f ++ b) := by rw [List.drop_left, List.flatMap_cons, List.append_assoc]

/-- A field of entry k of a table. -/
theorem recField_flatMap {α : Type} {f : α → List Byte} {m : Nat} (hf : ∀ a, (f a).length = m) {l : List α} {k : Nat} {a : α}
    (h : l[k]? = some a) {o j : Nat} (hj : o + j ≤ m) (b : List Byte) :
    recField (l.flatMap f ++ b) (m * k + o) j = recField (f a) o j := by
  rw [recField, ← List.drop_drop, drop_flatMap hf h]
  exact recField_append_left (by rw [hf]; exact hj) _

/-! ## Layouts -/

/-- A layout, field by field. -/
theorem laidOut_iff {bs : List Byte} {n : Nat} {fields : List (Nat × Nat × Nat)} :
    laidOut bs n fields ↔ bs.length = n ∧ ∀ f ∈ fields, recField bs f.1 f.2.1 = f.2.2 % 2 ^ (8 * f.2.1) := Iff.rfl

end Sys2Proof.Machine
end

section
/-! PROOFS. The steps of a grid: reports of capacities, the sluice, reports of retired blocks, completion, and the time that a cancelled
thread is given. -/
namespace Sys2Proof.Machine

/-! ## Reports of capacities (R158) -/

/-- Whether every package that a grid names has reported its capacity, now or before; this one need not. -/
def Chip.allReported (c : Chip) (g : Grid) (caps : List (Nat × Nat)) : Bool :=
  (g.desc.named c.pkg).all fun p => p = c.pkg || caps.any (fun k => k.1 = p) || g.reported.any fun k => k.1 = p

/-- What a report of capacities does about a known grid. -/
theorem exec_capacityReport {s : State} {slot : Nat} {g : Grid} (h : s.chip.grid? slot = some g) (caps : List (Nat × Nat)) :
    exec (.capacityReport slot caps) s = .next (s.onChip fun c =>
      if g.cut then c
      else if g.remote then c.tellHead g (.capacity · (c.capacity g))
      else if c.allReported g caps && g.retryAt = 0 then c.cutGrid g caps
      else c) := by
  have hreported : s.chip.allReported g caps =
      (g.desc.named s.chip.pkg).all fun p => p = s.chip.pkg || (caps ++ g.reported).any fun k => k.1 = p := by
    simp only [Chip.allReported, List.any_append, Bool.or_assoc]
  change execCapacityReport slot caps s = _
  simp only [execCapacityReport, h, State.onChip, hreported]
  split
  · rfl
  split
  · rfl
  split <;> rfl

/-! ## The sluice (R162) -/

/-- Whether a grid of the sluice is at the head of the line: cut, its retry not outstanding, no earlier one before it. -/
def Chip.sluiceWaits (c : Chip) (g : Grid) : Bool :=
  !g.remote && g.gated && g.cut && g.retryAt = 0 &&
    !(c.disp.grids.any fun (e : Grid) => e.gated && e.cut && !e.remote && e.retryAt = 0 && decide (e.order < g.order)) && c.turnOf g &&
    !c.sluiceBlocks g

/-- The package with a gang grid's share started, if the answers are all yes and its places are there. -/
def Chip.sluiceShare (c : Chip) (g : Grid) (answers : List Bool) : Option Chip :=
  if answers.all id && !c.disp.grids.any (·.holds) then (c.placeShare g).filter (·.keepsHolds) else none

/-- The sluice's own test of a grid is the opposite. -/
theorem sluiceWaits_eq (c : Chip) (g : Grid) : (g.remote || !g.gated || !g.cut || decide (g.retryAt ≠ 0) ||
    (c.disp.grids.any fun e => e.gated && e.cut && !e.remote && e.retryAt = 0 && decide (e.order < g.order)) ||
    !c.turnOf g || c.sluiceBlocks g) = !c.sluiceWaits g := by
  simp only [Chip.sluiceWaits, Bool.not_and, Bool.not_not, ne_eq, decide_not]

/-- Without its turn or the answers a grid is not committed. -/
theorem exec_sluiceCommit_of_not_asked {s : State} {slot : Nat} {g : Grid} {answers : List Bool} (h : s.chip.grid? slot = some g)
    (hno : (s.chip.sluiceWaits g && (s.chip.answersOf g answers).isSome) = false) : exec (.sluiceCommit slot answers) s = .next s := by
  change execSluiceCommit slot answers s = _
  simp only [execSluiceCommit, h]
  rw [sluiceWaits_eq]
  cases hwaits : s.chip.sluiceWaits g with
  | false => rfl
  | true =>
    have hnone : s.chip.answersOf g answers = none := by simpa [hwaits] using hno
    simp only [hnone]
    rfl

/-- With them its share starts and it begins everywhere, or it is refused where its share has no place here. -/
theorem exec_sluiceCommit_of_share {s : State} {slot : Nat} {g : Grid} {answers : List Bool} {as : List Bool} {d : Chip}
    (h : s.chip.grid? slot = some g) (hwaits : s.chip.sluiceWaits g = true) (has : s.chip.answersOf g answers = some as)
    (hshare : s.chip.sluiceShare g as = some d) :
    exec (.sluiceCommit slot answers) s = .next (s.onChip fun _ => d.tellOthers g .begin_) := by
  unfold Chip.sluiceShare at hshare
  change execSluiceCommit slot answers s = _
  simp only [execSluiceCommit, h, has]
  rw [sluiceWaits_eq, hwaits]
  simp only [hshare, Bool.not_true, Bool.false_eq_true, if_false]
  rfl
theorem exec_sluiceCommit_of_no_share {s : State} {slot : Nat} {g : Grid} {answers : List Bool} {as : List Bool}
    (h : s.chip.grid? slot = some g) (hwaits : s.chip.sluiceWaits g = true) (has : s.chip.answersOf g answers = some as)
    (hshare : s.chip.sluiceShare g as = none) :
    exec (.sluiceCommit slot answers) s = .next (s.onChip (·.refuseCommit g)) := by
  unfold Chip.sluiceShare at hshare
  change execSluiceCommit slot answers s = _
  simp only [execSluiceCommit, h, has]
  rw [sluiceWaits_eq, hwaits]
  simp only [hshare, Bool.not_true, Bool.false_eq_true, if_false]
  rfl

/-- Whether the time has come to ask again for a refused commit. -/
def Chip.retryDue (c : Chip) (g : Grid) : Bool := g.gated && g.retryAt ≠ 0 && decide (g.retryAt ≤ c.tick)

/-- A refused commit is asked for again when its time has come. -/
theorem exec_sluiceRetry {s : State} {g : Grid} (h : s.chip.grid? s.subject = some g) :
    exec .sluiceRetry s = .next (s.onChip fun c =>
      if c.retryDue g then
        if g.begun then (c.setGrid { g with retryAt := 0 }).tellOthers g .commit else c.setGrid { g with retryAt := 0 }
      else c) := by
  have hdue : (!g.gated || decide (g.retryAt = 0) || decide (s.chip.tick < g.retryAt)) = !s.chip.retryDue g := by
    simp only [Chip.retryDue, Bool.not_and, ne_eq, decide_not, Bool.not_not, ← Nat.not_le]
  change execSluiceRetry s = _
  simp only [execSluiceRetry, h, State.onChip]
  rw [hdue]
  cases s.chip.retryDue g <;> rfl

/-! ## Reports of retired blocks (R165, R170) -/

/-- The runs of blocks with an outcome that a grid's part here reports to its head. -/
def Grid.runsWith (g : Grid) (o : Nat) : List (Nat × Nat) :=
  runsOf ((g.unreported.filter fun r => r.2 = o).foldl (fun l r => setInsert r.1 l) [])
def Chip.tellRuns (c : Chip) (g : Grid) (o : Nat) : Chip :=
  (g.runsWith o).foldl (fun c r => c.tellHead g (.retired · r.1 (r.1 + r.2) o)) c

/-- What a report of retired blocks does: at the head, with a lost head, and else. -/
theorem exec_retirementReport {s : State} {g : Grid} (h : s.chip.grid? s.subject = some g) :
    exec .retirementReport s = .next (s.onChip fun c =>
      if !g.remote then c.setGrid (g.unreported.foldl (fun (g : Grid) r => g.account r.1 r.2) { g with unreported := [] })
      else if c.headLost g then
        if c.disp.blocks.any fun b => !b.isTask && b.owner = g.slot then c
        else { c with disp := { c.disp with grids := c.disp.grids.filter fun k => k.slot ≠ g.slot } }
      else ((((c.tellRuns g 0).tellRuns g 1).tellRuns g 2).tellHead g (.undealt · (g.dieRanges.map fun r => (r.lo, r.hi)))).setGrid
        { g with unreported := [] }) := by
  change execRetirementReport s = _
  simp only [execRetirementReport, h, State.onChip]
  split
  · rfl
  split <;> rfl

/-! ## Completion (R165, R410) -/

/-- The status record written, where there is one to write, and then the completion word. -/
def Chip.storesStatus (c : Chip) (g : Grid) : (Unit ⊕ (Nat × WalkFault)) × Chip :=
  if g.statusDone || g.desc.srec = 0 then (.inl (), c) else c.headStore g.ctx g.desc.srec.toNat (c.statusRecord g g.outcome)
def Chip.storesWord (c : Chip) (g : Grid) : (Unit ⊕ (Nat × WalkFault)) × Chip :=
  (c.storesStatus g).2.headStore g.ctx g.desc.cword.toNat g.word

/-- The fault of a write of the head, if it has one. -/
def writeFault (r : (Unit ⊕ (Nat × WalkFault)) × Chip) : Option (Nat × WalkFault) :=
  match r.1 with
  | .inl _ => none
  | .inr f => some f

/-- What the head's writes leave: one that faults parks, the word behind the record; with both written the grid leaves the table. -/
theorem headFinish_eq {c : Chip} {slot : Nat} {g : Grid} (h : c.grid? slot = some g) :
    c.headFinish slot = match writeFault (c.storesStatus g) with
      | some f =>
        let r := (c.storesStatus g).2.parkHead g.ctx f slot (.statusParked 0 0)
        r.2.setGrid { g with write := r.1 }
      | none => match writeFault (c.storesWord g) with
        | some f =>
          let r := (c.storesWord g).2.parkHead g.ctx f slot (.wordParked 0 0)
          r.2.setGrid { g with statusDone := true, write := r.1 }
        | none => (c.storesWord g).2.dropGrid slot := by
  unfold Chip.headFinish Chip.storesWord Chip.storesStatus
  simp only [h]
  by_cases hdone : (g.statusDone || g.desc.srec = 0) = true
  · simp only [hdone, if_true]
    generalize c.headStore g.ctx g.desc.cword.toNat g.word = word
    obtain ⟨r, d⟩ := word
    cases r <;> rfl
  · simp only [hdone, Bool.false_eq_true, if_false]
    generalize c.headStore g.ctx g.desc.srec.toNat (c.statusRecord g g.outcome) = status
    obtain ⟨r, d⟩ := status
    cases r with
    | inr f => rfl
    | inl _ =>
      dsimp only
      generalize d.headStore g.ctx g.desc.cword.toNat g.word = word
      obtain ⟨r, e⟩ := word
      cases r <;> rfl

/-- A record that faults parks; a word that faults parks with the record done; with both written the grid leaves the table. -/
theorem headFinish_of_status_fault {c : Chip} {slot : Nat} {g : Grid} (h : c.grid? slot = some g)
    (hf : (writeFault (c.storesStatus g)).isSome = true) :
    c.headFinish slot =
      let r := (c.storesStatus g).2.parkHead g.ctx ((writeFault (c.storesStatus g)).getD (0, ⟨0, 0, 0⟩)) slot (.statusParked 0 0)
      r.2.setGrid { g with write := r.1 } := by
  obtain ⟨f, hf⟩ := Option.isSome_iff_exists.1 hf
  simp only [headFinish_eq h, hf, Option.getD_some]
theorem headFinish_of_word_fault {c : Chip} {slot : Nat} {g : Grid} (h : c.grid? slot = some g)
    (hs : (writeFault (c.storesStatus g)).isNone = true) (hf : (writeFault (c.storesWord g)).isSome = true) :
    c.headFinish slot =
      let r := (c.storesWord g).2.parkHead g.ctx ((writeFault (c.storesWord g)).getD (0, ⟨0, 0, 0⟩)) slot (.wordParked 0 0)
      r.2.setGrid { g with statusDone := true, write := r.1 } := by
  obtain ⟨f, hf⟩ := Option.isSome_iff_exists.1 hf
  simp only [headFinish_eq h, Option.isNone_iff_eq_none.1 hs, hf, Option.getD_some]
theorem headFinish_of_stored {c : Chip} {slot : Nat} {g : Grid} (h : c.grid? slot = some g)
    (hs : (writeFault (c.storesStatus g)).isNone = true) (hw : (writeFault (c.storesWord g)).isNone = true) :
    c.headFinish slot = (c.storesWord g).2.dropGrid slot := by
  simp only [headFinish_eq h, Option.isNone_iff_eq_none.1 hs, Option.isNone_iff_eq_none.1 hw]

/-- A grid that is over, whose writes do not wait, and that this package heads is finished. -/
def Grid.finishes (g : Grid) : Bool := g.complete && g.write = .none && !g.remote
theorem exec_gridCompletion_of_over {s : State} {g : Grid} (h : s.chip.grid? s.subject = some g) (hover : g.finishes = true) :
    exec .gridCompletion s = .next (s.onChip fun _ => s.chip.headFinish s.subject) := by
  unfold Grid.finishes at hover
  change execGridCompletion s = _
  simp only [execGridCompletion, h, hover]
  rfl
theorem exec_gridCompletion_of_not_over {s : State} {g : Grid} (h : s.chip.grid? s.subject = some g) (hover : g.finishes = false) :
    exec .gridCompletion s = .next s := by
  unfold Grid.finishes at hover
  change execGridCompletion s = _
  simp only [execGridCompletion, h, hover]
  rfl

/-! ## The rows -/

/-- A grid that the table holds is the one that its rows speak of. -/
theorem grid?_getD {c : Chip} {n : Nat} (h : (c.grid? n).isSome = true) : c.grid? n = some ((c.grid? n).getD default) := by
  obtain ⟨g, hg⟩ := Option.isSome_iff_exists.1 h
  rw [hg]
  rfl

/-- A commit's rows ask that the table holds the grid, that its turn has come, and that the answers are there. -/
def Chip.commitAsked (c : Chip) (slot : Nat) (answers : List Bool) : Bool :=
  let g := (c.grid? slot).getD default
  (c.grid? slot).isSome && !g.remote && g.gated && g.cut && g.retryAt = 0 &&
    !(c.disp.grids.any fun (e : Grid) => e.gated && e.cut && !e.remote && e.retryAt = 0 && decide (e.order < g.order)) && c.turnOf g &&
    !c.sluiceBlocks g && (c.answersOf g answers).isSome
theorem commitAsked_eq (c : Chip) (slot : Nat) (answers : List Bool) :
    c.commitAsked slot answers = ((c.grid? slot).isSome &&
      (c.sluiceWaits ((c.grid? slot).getD default) && (c.answersOf ((c.grid? slot).getD default) answers).isSome)) := by
  simp only [Chip.commitAsked, Chip.sluiceWaits, Bool.and_assoc]
theorem commitAsked_iff {c : Chip} {slot : Nat} {answers : List Bool} : c.commitAsked slot answers = true ↔ (c.grid? slot).isSome = true ∧
    c.sluiceWaits ((c.grid? slot).getD default) = true ∧ (c.answersOf ((c.grid? slot).getD default) answers).isSome = true := by
  simp only [commitAsked_eq, Bool.and_eq_true]

/-- Rows of the steps of grids (R158, R162, R165, R170, R410). -/
theorem gridEventRows_hold (slot : Nat) (caps : List (Nat × Nat)) (answers : List Bool) :
    ∀ q ∈ gridEventRows slot caps answers, q.holds := by
  intro q hq
  simp only [gridEventRows, List.mem_cons, List.not_mem_nil, or_false] at hq
  rcases hq with rfl | rfl | rfl | rfl | rfl | rfl | rfl | rfl | rfl | rfl | rfl | rfl | rfl | rfl | rfl | rfl | rfl | rfl
  all_goals intro s hok
  -- reports of capacities
  · simp only [Bool.and_eq_true, Bool.not_eq_true', decide_eq_true_eq] at hok
    obtain ⟨⟨⟨⟨hknown, hhome⟩, hnew⟩, hreported⟩, hready⟩ := hok
    refine (exec_capacityReport (grid?_getD hknown) caps).trans ?_
    simp only [State.onChip, Chip.allReported, hnew, hhome, hreported, hready, Bool.false_eq_true, if_false, decide_true, Bool.and_self,
      if_true]
  · simp only [Bool.and_eq_true, Bool.or_eq_true, Bool.not_eq_true', decide_eq_true_eq] at hok
    obtain ⟨⟨hknown, hhome⟩, (hcut | hsilent) | hretry⟩ := hok
    all_goals refine (exec_capacityReport (grid?_getD hknown) caps).trans ?_
    · simp only [State.onChip, hcut, if_true]
    · simp only [State.onChip, Chip.allReported, hhome, hsilent, Bool.false_eq_true, if_false, Bool.false_and, ite_self]
    · simp only [State.onChip, hhome, hretry, Bool.false_eq_true, if_false, decide_false, Bool.and_false, ite_self]
  · simp only [Bool.and_eq_true, Bool.not_eq_true'] at hok
    obtain ⟨⟨hknown, haway⟩, hnew⟩ := hok
    refine (exec_capacityReport (grid?_getD hknown) caps).trans ?_
    simp only [State.onChip, hnew, haway, Bool.false_eq_true, if_false, if_true]
  · simp only [Bool.and_eq_true] at hok
    obtain ⟨⟨hknown, haway⟩, hcut⟩ := hok
    refine (exec_capacityReport (grid?_getD hknown) caps).trans ?_
    simp only [State.onChip, hcut, if_true]
  -- commits of the sluice
  · obtain ⟨hasks, hshare⟩ := Bool.and_eq_true_iff.1 hok
    obtain ⟨hknown, hwaits, hanswers⟩ := commitAsked_iff.1 hasks
    obtain ⟨as, has⟩ := Option.isSome_iff_exists.1 hanswers
    obtain ⟨d, hd⟩ := Option.isSome_iff_exists.1 hshare
    simp only [has, Option.getD_some] at hd
    refine (exec_sluiceCommit_of_share (grid?_getD hknown) hwaits has hd).trans ?_
    simp only [has, Option.getD_some, hd]
  · obtain ⟨hasks, hshare⟩ := Bool.and_eq_true_iff.1 hok
    obtain ⟨hknown, hwaits, hanswers⟩ := commitAsked_iff.1 hasks
    obtain ⟨as, has⟩ := Option.isSome_iff_exists.1 hanswers
    have hd := Option.isNone_iff_eq_none.1 hshare
    simp only [has, Option.getD_some] at hd
    exact exec_sluiceCommit_of_no_share (grid?_getD hknown) hwaits has hd
  · obtain ⟨hknown, hasks⟩ := Bool.and_eq_true_iff.1 hok
    refine exec_sluiceCommit_of_not_asked (grid?_getD hknown) ?_
    have hno : s.chip.commitAsked slot answers = false := Bool.eq_false_of_not_eq_true' hasks
    rwa [commitAsked_eq, hknown, Bool.true_and] at hno
  -- retries of the sluice
  · simp only [Bool.and_eq_true, Bool.not_eq_true', decide_eq_true_eq] at hok
    obtain ⟨⟨⟨⟨hknown, hgated⟩, hretry⟩, hdue⟩, hfresh⟩ := hok
    refine (exec_sluiceRetry (grid?_getD hknown)).trans ?_
    simp only [State.onChip, Chip.retryDue, hgated, hretry, ne_eq, not_false_eq_true, hdue, hfresh, Bool.false_eq_true, if_false,
      decide_true, Bool.and_self, if_true]
  · simp only [Bool.and_eq_true, decide_eq_true_eq] at hok
    obtain ⟨⟨⟨⟨hknown, hgated⟩, hretry⟩, hdue⟩, hbegun⟩ := hok
    refine (exec_sluiceRetry (grid?_getD hknown)).trans ?_
    simp only [State.onChip, Chip.retryDue, hgated, hretry, ne_eq, not_false_eq_true, hdue, hbegun, decide_true, Bool.and_self, if_true]
  · simp only [Bool.and_eq_true, Bool.not_eq_true', decide_eq_true_eq] at hok
    obtain ⟨⟨⟨hknown, hgated⟩, hretry⟩, hearly⟩ := hok
    refine (exec_sluiceRetry (grid?_getD hknown)).trans ?_
    have hnot : s.chip.retryDue ((s.chip.grid? s.subject).getD default) = false := by
      simpa only [hknown, Bool.true_and, Chip.retryDue] using hearly
    simp only [State.onChip, hnot, Bool.false_eq_true, if_false]
  -- reports of retired blocks
  · simp only [Bool.and_eq_true, Bool.not_eq_true'] at hok
    obtain ⟨hknown, hhome⟩ := hok
    refine (exec_retirementReport (grid?_getD hknown)).trans ?_
    simp only [State.onChip, hhome, Bool.not_false, if_true]
  · simp only [Bool.and_eq_true] at hok
    obtain ⟨⟨⟨hknown, haway⟩, hlost⟩, hleft⟩ := hok
    refine (exec_retirementReport (grid?_getD hknown)).trans ?_
    simp only [State.onChip, haway, hlost, hleft, Bool.not_true, Bool.false_eq_true, if_false, if_true]
  · simp only [Bool.and_eq_true, Bool.not_eq_true'] at hok
    obtain ⟨⟨⟨hknown, haway⟩, hlost⟩, hgone⟩ := hok
    refine (exec_retirementReport (grid?_getD hknown)).trans ?_
    simp only [State.onChip, haway, hlost, hgone, Bool.not_true, Bool.false_eq_true, if_false, if_true]
  · simp only [Bool.and_eq_true, Bool.not_eq_true'] at hok
    obtain ⟨⟨hknown, haway⟩, hheard⟩ := hok
    refine (exec_retirementReport (grid?_getD hknown)).trans ?_
    simp only [State.onChip, haway, hheard, Bool.not_true, Bool.false_eq_true, if_false]
    rfl
  -- completion
  · obtain ⟨hknown, hover⟩ := Bool.and_eq_true_iff.1 hok
    exact exec_gridCompletion_of_not_over (grid?_getD hknown) (Bool.eq_false_of_not_eq_true' hover)
  · obtain ⟨hover, hfault⟩ := Bool.and_eq_true_iff.1 hok
    obtain ⟨hknown, hover⟩ := Bool.and_eq_true_iff.1 hover
    refine (exec_gridCompletion_of_over (grid?_getD hknown) hover).trans ?_
    rw [headFinish_of_status_fault (grid?_getD hknown) hfault]
    rfl
  · obtain ⟨hdone, hfault⟩ := Bool.and_eq_true_iff.1 hok
    obtain ⟨hover, hstored⟩ := Bool.and_eq_true_iff.1 hdone
    obtain ⟨hknown, hover⟩ := Bool.and_eq_true_iff.1 hover
    refine (exec_gridCompletion_of_over (grid?_getD hknown) hover).trans ?_
    rw [headFinish_of_word_fault (grid?_getD hknown) hstored hfault]
    rfl
  · obtain ⟨hdone, hword⟩ := Bool.and_eq_true_iff.1 hok
    obtain ⟨hover, hstored⟩ := Bool.and_eq_true_iff.1 hdone
    obtain ⟨hknown, hover⟩ := Bool.and_eq_true_iff.1 hover
    refine (exec_gridCompletion_of_over (grid?_getD hknown) hover).trans ?_
    rw [headFinish_of_stored (grid?_getD hknown) hstored hword]
    rfl

/-- Whether the time of a cancelled thread of a block of a kind is over. -/
def Chip.lateToEnd (c : Chip) (id : Nat) (task : Bool) : Bool := match c.thread? id with
  | none => false
  | some t => match c.blockOf t with
    | some b => t.cancelled && t.onCompute && b.isTask = task && decide (100000 ≤ c.tick - t.cancelSince)
    | none => false
theorem cancelTimeout_eq (c : Chip) (id : Nat) (task : Bool) :
    c.cancelTimeout id task = if c.lateToEnd id task then c.endThread id else c := by
  unfold Chip.cancelTimeout Chip.lateToEnd
  cases c.thread? id with
  | none => rfl
  | some t => cases h : c.blockOf t <;> simp [h]

/-- What the two steps do with a thread whose time may be over. -/
theorem cancelTimeout_next (s : State) (task : Bool) :
    { s with chip := s.chip.cancelTimeout s.subject task } =
      if s.chip.lateToEnd s.subject task then s.onChip fun c => c.endThread s.subject else s := by
  rw [cancelTimeout_eq]
  split <;> rfl

/-- Rows of the time that a cancelled thread is given (R168, R182). -/
theorem timeoutRows_hold : ∀ q ∈ timeoutRows, q.holds := by
  intro q hq
  simp only [timeoutRows, List.mem_cons, List.not_mem_nil, or_false] at hq
  rcases hq with rfl | rfl
  · intro s _
    exact congrArg Host.Outcome.next (cancelTimeout_next s false)
  · intro s _
    exact congrArg Host.Outcome.next (cancelTimeout_next s true)

end Sys2Proof.Machine
end

section
/-! PROOFS. Stealing (R160): the largest range, the highest indices of some ranges, and what the steps move. -/
namespace Sys2Proof.Machine

/-- The first success of a choice that some items are barred from is that of the first item that is not barred and succeeds. -/
theorem findSome?_ite {α β : Type} {barred p : α → Bool} {f : α → Option β} {l : List α}
    (h : ∀ x ∈ l, p x = (!barred x && (f x).isSome)) :
    (l.findSome? fun x => if barred x then none else f x) = (l.find? p).bind f := by
  induction l with
  | nil => rfl
  | cons x l ih =>
    have hx := h x List.mem_cons_self
    specialize ih fun y hy => h y (List.mem_cons_of_mem x hy)
    rw [List.findSome?_cons, List.find?_cons, hx, ih]
    cases barred x with
    | true => rfl
    | false => cases hf : f x with
      | none => rfl
      | some y => exact hf.symm

/-! ## The largest range -/

/-- The indices of a range. -/
def Range.size (r : Range) : Nat := r.hi - r.lo

/-- A range that stealing takes rather than another: it is larger, or as large and of no higher number. -/
def Range.leads (r k : Range) : Prop := k.size < r.size ∨ (k.size = r.size ∧ r.who ≤ k.who)
theorem Range.leads.refl (r : Range) : r.leads r := .inr ⟨rfl, Nat.le_refl _⟩
theorem Range.leads.trans {a b k : Range} (hab : a.leads b) (hbk : b.leads k) : a.leads k := by
  unfold Range.leads at *
  omega

/-- The choice between the largest range so far and another. -/
def largerOf (m : Option Range) (r : Range) : Option Range := match m with
  | none => some r
  | some b => if b.hi - b.lo < r.hi - r.lo || (b.hi - b.lo = r.hi - r.lo && r.who < b.who) then some r else m
theorem largestRange_eq (unit : Nat) (rs : List Range) :
    largestRange unit rs = (rs.filter fun r => unit < r.hi - r.lo).foldl largerOf none := rfl

/-- The choice is one of the two, and leads both. -/
theorem largerOf_some (b r : Range) : ∃ a, largerOf (some b) r = some a ∧ (a = b ∨ a = r) ∧ a.leads b ∧ a.leads r := by
  by_cases hlt : (decide (b.hi - b.lo < r.hi - r.lo) || (decide (b.hi - b.lo = r.hi - r.lo) && decide (r.who < b.who))) = true
  · refine ⟨r, if_pos hlt, .inr rfl, ?_, Range.leads.refl r⟩
    simp only [Bool.or_eq_true, Bool.and_eq_true, decide_eq_true_eq] at hlt
    unfold Range.leads Range.size
    omega
  · refine ⟨b, if_neg hlt, .inl rfl, Range.leads.refl b, ?_⟩
    simp only [Bool.or_eq_true, Bool.and_eq_true, decide_eq_true_eq] at hlt
    unfold Range.leads Range.size
    omega

/-- From a range on, the fold gives one of the ranges, which leads them all. -/
theorem foldl_largerOf_some (l : List Range) (b : Range) :
    ∃ a, l.foldl largerOf (some b) = some a ∧ a ∈ b :: l ∧ ∀ k ∈ b :: l, a.leads k := by
  induction l generalizing b with
  | nil => exact ⟨b, rfl, List.mem_cons_self, by simp [Range.leads.refl]⟩
  | cons r l ih =>
    obtain ⟨m, hm, hone, hb, hr⟩ := largerOf_some b r
    obtain ⟨a, ha, hmem, hlead⟩ := ih m
    refine ⟨a, by rw [List.foldl_cons, hm, ha], ?_, ?_⟩
    · rcases hone with rfl | rfl <;> simp only [List.mem_cons] at hmem ⊢ <;> tauto
    · have hams : a.leads m := hlead m List.mem_cons_self
      intro k hk
      rcases List.mem_cons.1 hk with rfl | hk
      · exact hams.trans hb
      · rcases List.mem_cons.1 hk with rfl | hk
        · exact hams.trans hr
        · exact hlead k (List.mem_cons_of_mem m hk)

/-- There is a largest range where one has more than a unit. -/
theorem isSome_largestRange (unit : Nat) (rs : List Range) : (largestRange unit rs).isSome = rs.any fun r => decide (unit < r.size) := by
  rw [largestRange_eq, Bool.eq_iff_iff, List.any_eq_true]
  cases hl : rs.filter fun r => unit < r.hi - r.lo with
  | nil =>
    have hsmall : ∀ r ∈ rs, ¬ decide (unit < r.size) = true := List.filter_eq_nil_iff.1 hl
    exact iff_of_false (by simp) fun ⟨r, hr, hbig⟩ => hsmall r hr hbig
  | cons r l =>
    obtain ⟨a, ha, -, -⟩ := foldl_largerOf_some l r
    have hr : r ∈ rs.filter fun r => unit < r.hi - r.lo := hl ▸ List.mem_cons_self
    obtain ⟨hmem, hbig⟩ := List.mem_filter.1 hr
    exact ⟨fun _ => ⟨r, hmem, hbig⟩, fun _ => by rw [List.foldl_cons]; exact ha ▸ rfl⟩

/-- The largest range is one of them, has more than a unit, and leads them all. -/
theorem largestRange_some {unit : Nat} {rs : List Range} {r : Range} (h : largestRange unit rs = some r) :
    r ∈ rs ∧ unit < r.size ∧ ∀ k ∈ rs, r.leads k := by
  rw [largestRange_eq] at h
  cases hl : rs.filter fun r => unit < r.hi - r.lo with
  | nil => rw [hl] at h; simp at h
  | cons b l =>
    obtain ⟨a, ha, hmem, hlead⟩ := foldl_largerOf_some l b
    rw [hl, List.foldl_cons] at h
    obtain rfl : a = r := Option.some.inj (ha.symm.trans h)
    rw [← hl] at hmem hlead
    obtain ⟨hmem, hbig⟩ := List.mem_filter.1 hmem
    have hbig : unit < a.size := of_decide_eq_true hbig
    refine ⟨hmem, hbig, fun k hk => ?_⟩
    by_cases hk' : unit < k.size
    · exact hlead k (List.mem_filter.2 ⟨hk, decide_eq_true hk'⟩)
    · exact .inl (by omega)

/-! ## The lowest range of a die -/

/-- A fold whose every step finds something finds something in a list that is not empty. -/
theorem isSome_foldl_of_isSome {α β : Type} {f : Option β → α → Option β} (hf : ∀ m x, (f m x).isSome = true) (l : List α)
    (m : Option β) :
    (l.foldl f m).isSome = (m.isSome || !l.isEmpty) := by
  induction l generalizing m with
  | nil => simp
  | cons x l ih => simp [ih, hf]

/-- A die has a range of a grid where one of its ranges holds something. -/
theorem isSome_rangeOf (g : Grid) (die : Nat) :
    (g.rangeOf die).isSome = g.dieRanges.any fun r => r.who = die && decide (r.lo < r.hi) := by
  refine (isSome_foldl_of_isSome (fun m x => ?_) _ none).trans ?_
  · cases m with
    | none => rfl
    | some k => dsimp only; split <;> rfl
  · rw [Option.isSome_none, Bool.false_or, Bool.eq_iff_iff, Bool.not_eq_true', List.isEmpty_eq_false_iff, List.any_eq_true]
    exact not_iff_comm.1 (by simp [List.filter_eq_nil_iff])

/-! ## The highest indices of some ranges -/

theorem indicesIn_eq (rs : List Range) : indicesIn rs = (rs.map Range.size).sum := by
  rw [List.sum_eq_foldl, List.foldl_map]
  rfl
theorem indicesIn_cons (r : Range) (rs : List Range) : indicesIn (r :: rs) = r.size + indicesIn rs := by
  simp only [indicesIn_eq, List.map_cons, List.sum_cons]
theorem covers_cons {r : Range} {rs : List Range} {i : Nat} : covers (r :: rs) i ↔ (r.lo ≤ i ∧ i < r.hi) ∨ covers rs i := by
  simp only [covers, List.mem_cons, exists_eq_or_imp]
theorem covers_congr {rs ks : List Range} (h : rs.Perm ks) (i : Nat) : covers rs i ↔ covers ks i := by
  simp only [covers, h.mem_iff]

/-- A range goes between those above it and those below it. -/
def putRange (l : List Range) (r : Range) : List Range := (l.filter fun k => r.lo < k.lo) ++ [r] ++ l.filter fun k => k.lo < r.lo

/-- Where no range starts with it, all the others stay, and what falls from the top still does. -/
theorem putRange_perm {l : List Range} {r : Range} (h : ∀ k ∈ l, k.lo ≠ r.lo) : (putRange l r).Perm (r :: l) := by
  have hbelow : (l.filter fun k => k.lo < r.lo) = l.filter fun k => !decide (r.lo < k.lo) :=
    List.filter_congr fun k hk => by
      have := h k hk
      rw [Bool.eq_iff_iff, Bool.not_eq_true', decide_eq_true_eq, decide_eq_false_iff_not]
      omega
  unfold putRange
  rw [hbelow, List.append_assoc, List.singleton_append]
  exact List.perm_middle.trans ((List.filter_append_perm _ l).cons r)
theorem putRange_falling {l : List Range} (r : Range) (h : l.Pairwise fun a b => b.lo < a.lo) :
    (putRange l r).Pairwise fun a b => b.lo < a.lo := by
  unfold putRange
  simp only [List.append_assoc, List.singleton_append, List.pairwise_append, List.pairwise_cons, List.mem_filter, List.mem_cons,
    decide_eq_true_eq]
  refine ⟨h.filter _, ⟨fun k hk => hk.2, h.filter _⟩, fun a ha b hb => ?_⟩
  rcases hb with rfl | hb
  · exact ha.2
  · exact Nat.lt_trans hb.2 ha.2

/-- Ranges that start at different indices, put in their places one after another, are all there, the highest first. -/
theorem foldl_putRange {rs l : List Range} (hrs : rs.Pairwise fun a b => a.lo ≠ b.lo) (hl : l.Pairwise fun a b => b.lo < a.lo)
    (hnew : ∀ r ∈ rs, ∀ k ∈ l, k.lo ≠ r.lo) :
    (rs.foldl putRange l).Perm (rs ++ l) ∧ (rs.foldl putRange l).Pairwise fun a b => b.lo < a.lo := by
  induction rs generalizing l with
  | nil => exact ⟨.refl _, hl⟩
  | cons r rs ih =>
    obtain ⟨hr, hrs⟩ := List.pairwise_cons.1 hrs
    have hput := putRange_perm (hnew r List.mem_cons_self)
    obtain ⟨hperm, hfall⟩ := ih hrs (putRange_falling r hl) fun a ha k hk => by
      rcases List.mem_cons.1 (hput.mem_iff.1 hk) with rfl | hk
      · exact hr a ha
      · exact hnew a (List.mem_cons_of_mem r ha) k hk
    exact ⟨(hperm.trans (hput.append_left rs)).trans List.perm_middle, hfall⟩

/-- Ranges with something in them that lie one below another. -/
def stacked (rs : List Range) : Prop := (∀ r ∈ rs, r.lo < r.hi) ∧ rs.Pairwise fun a b => b.hi ≤ a.lo

/-- Ranges apart, put in their places, are stacked. -/
theorem stacked_of_apart {rs : List Range} (h : apart rs = true) :
    (rs.foldl putRange []).Perm rs ∧ stacked (rs.foldl putRange []) := by
  simp only [apart, Bool.and_eq_true, List.all_eq_true, decide_eq_true_eq] at h
  obtain ⟨hfull, hapart⟩ := h
  have hstarts : rs.Pairwise fun a b => a.lo ≠ b.lo := hapart.imp_of_mem fun {a b} ha hb hab => by
    have := hfull a ha
    have := hfull b hb
    omega
  obtain ⟨hperm, hfall⟩ := foldl_putRange hstarts (l := []) List.Pairwise.nil (by simp)
  rw [List.append_nil] at hperm
  have hfull' : ∀ r ∈ rs.foldl putRange [], r.lo < r.hi := fun r hr => hfull r (hperm.mem_iff.1 hr)
  refine ⟨hperm, hfull', ?_⟩
  have hapart' := (hperm.pairwise_iff (R := fun a b : Range => a.hi ≤ b.lo ∨ b.hi ≤ a.lo) Or.symm).2 hapart
  exact (hapart'.and hfall).imp_of_mem fun {a b} ha hb hab => by
    have := hfull' a ha
    have := hfull' b hb
    omega

/-- What stays of some ranges, and what is taken, when so many indices are taken from them in turn. -/
def keptOf : List Range → Nat → List Range
  | [], _ => []
  | r :: rs, n => { r with hi := r.hi - min n r.size } :: keptOf rs (n - min n r.size)
def takenOf : List Range → Nat → List Range
  | [], _ => []
  | r :: rs, n => if min n r.size = 0 then takenOf rs (n - min n r.size)
    else { r with lo := r.hi - min n r.size } :: takenOf rs (n - min n r.size)

/-- One step of the taking, and the steps one after another. -/
def takeStep (x : List Range × List Range × Nat) (r : Range) : List Range × List Range × Nat :=
  let k := min x.2.2 (r.hi - r.lo)
  (x.1 ++ [{ r with hi := r.hi - k }], if k = 0 then x.2.1 else x.2.1 ++ [{ r with lo := r.hi - k }], x.2.2 - k)
theorem foldl_takeStep (rs a b : List Range) (n : Nat) :
    ∃ m, rs.foldl takeStep (a, b, n) = (a ++ keptOf rs n, b ++ takenOf rs n, m) := by
  induction rs generalizing a b n with
  | nil => exact ⟨n, by simp [keptOf, takenOf]⟩
  | cons r rs ih =>
    obtain ⟨m, hm⟩ := ih (takeStep (a, b, n) r).1 (takeStep (a, b, n) r).2.1 (takeStep (a, b, n) r).2.2
    refine ⟨m, hm.trans ?_⟩
    by_cases hk : min n r.size = 0
    · simp only [takeStep, keptOf, takenOf, List.append_assoc, List.singleton_append, if_pos hk,
        if_pos (show min n (r.hi - r.lo) = 0 from hk)]
      rfl
    · simp only [takeStep, keptOf, takenOf, List.append_assoc, List.singleton_append, if_neg hk,
        if_neg (show ¬ min n (r.hi - r.lo) = 0 from hk)]
      rfl
theorem takeTop_eq (rs : List Range) (n : Nat) :
    takeTop rs n = ((keptOf (rs.foldl putRange []) n).filter (fun r => r.lo < r.hi), takenOf (rs.foldl putRange []) n) := by
  obtain ⟨m, hm⟩ := foldl_takeStep (rs.foldl putRange []) [] [] n
  change (List.filter _ (List.foldl takeStep _ (rs.foldl putRange [])).1, (List.foldl takeStep _ (rs.foldl putRange [])).2.1) = _
  rw [hm]
  rfl

theorem takenOf_zero (rs : List Range) : takenOf rs 0 = [] := by
  induction rs with
  | nil => rfl
  | cons r rs ih => simp [takenOf, ih]

/-- So many indices are taken, or all. -/
theorem indicesIn_takenOf (rs : List Range) (n : Nat) : indicesIn (takenOf rs n) = min n (indicesIn rs) := by
  induction rs generalizing n with
  | nil => simp [takenOf, indicesIn_eq]
  | cons r rs ih =>
    rw [takenOf, indicesIn_cons]
    split
    next hnone => rw [ih]; omega
    next hsome =>
      rw [indicesIn_cons, ih]
      unfold Range.size at *
      dsimp only
      omega

/-- What stays of a range starts where it did, and what stays or is taken was there. -/
theorem start_of_mem_keptOf {rs : List Range} {n : Nat} {r : Range} (h : r ∈ keptOf rs n) :
    ∃ k ∈ rs, k.who = r.who ∧ k.lo = r.lo := by
  induction rs generalizing n with
  | nil => exact absurd h List.not_mem_nil
  | cons k rs ih =>
    rcases List.mem_cons.1 h with rfl | h
    · exact ⟨k, List.mem_cons_self, rfl, rfl⟩
    · obtain ⟨a, ha, hsame⟩ := ih h
      exact ⟨a, List.mem_cons_of_mem k ha, hsame⟩
theorem covers_keptOf_or_takenOf {rs : List Range} (n : Nat) (i : Nat) :
    covers rs i ↔ covers (keptOf rs n) i ∨ covers (takenOf rs n) i := by
  induction rs generalizing n with
  | nil => simp [keptOf, takenOf, covers]
  | cons r rs ih =>
    have hrest := ih (n - min n r.size)
    rw [covers_cons, keptOf, covers_cons, takenOf]
    split
    next hnone => simp only [hrest, hnone, Nat.sub_zero, or_assoc]
    next hsome =>
      have hcut : (r.lo ≤ i ∧ i < r.hi) ↔ (r.lo ≤ i ∧ i < r.hi - min n r.size) ∨ (r.hi - min n r.size ≤ i ∧ i < r.hi) := by
        unfold Range.size at *
        omega
      rw [hrest, covers_cons, hcut]
      tauto

/-- Of stacked ranges the highest indices are taken. -/
theorem lt_of_covers_keptOf {rs : List Range} (h : stacked rs) {n i j : Nat} (hi : covers (keptOf rs n) i) (hj : covers (takenOf rs n) j) :
    i < j := by
  induction rs generalizing n with
  | nil => exact absurd hi (by simp [keptOf, covers])
  | cons r rs ih =>
    obtain ⟨hfull, hstack⟩ := h
    obtain ⟨hbelow, hstack⟩ := List.pairwise_cons.1 hstack
    have hbelow : ∀ m, covers rs m → m < r.lo := fun m ⟨k, hk, hm⟩ => Nat.lt_of_lt_of_le hm.2 (hbelow k hk)
    have hrest := @ih ⟨fun k hk => hfull k (List.mem_cons_of_mem r hk), hstack⟩ (n - min n r.size)
    have hkept : covers (keptOf rs (n - min n r.size)) i → i < r.lo := fun h => hbelow i ((covers_keptOf_or_takenOf _ i).2 (.inl h))
    have hlast : covers (takenOf rs (n - min n r.size)) j → r.hi - min n r.size ≤ r.lo := fun h => by
      rcases Nat.eq_zero_or_pos (n - min n r.size) with hzero | hmore
      · rw [hzero, takenOf_zero] at h
        exact absurd h (by simp [covers])
      · unfold Range.size at *
        omega
    rw [keptOf, covers_cons] at hi
    rw [takenOf] at hj
    dsimp only at hi
    split at hj
    · rcases hi with hi | hi
      · have := hlast hj
        omega
      · exact hrest hi hj
    · rw [covers_cons] at hj
      dsimp only at hj
      rcases hi with hi | hi <;> rcases hj with hj | hj
      · omega
      · have := hlast hj
        omega
      · have := hkept hi
        have := hfull r List.mem_cons_self
        unfold Range.size at hj
        omega
      · exact hrest hi hj

/-- Empty ranges hold no index. -/
theorem covers_filter (rs : List Range) (i : Nat) : covers (rs.filter fun r => r.lo < r.hi) i ↔ covers rs i := by
  constructor
  · rintro ⟨r, hr, hi⟩
    exact ⟨r, List.mem_of_mem_filter hr, hi⟩
  · rintro ⟨r, hr, hi⟩
    exact ⟨r, List.mem_filter.2 ⟨hr, decide_eq_true (Nat.lt_of_le_of_lt hi.1 hi.2)⟩, hi⟩

/-- Of ranges that lie apart the highest indices are taken. -/
theorem takesTop_takeTop {rs : List Range} (h : apart rs = true) {n : Nat} (hn : n ≤ indicesIn rs) :
    takesTop rs (takeTop rs n).1 (takeTop rs n).2 n := by
  obtain ⟨hperm, hstack⟩ := stacked_of_apart h
  rw [takeTop_eq]
  refine ⟨fun i => ?_, fun i j hi hj => ?_, ?_, fun r hr => ?_⟩
  · rw [covers_filter, ← covers_keptOf_or_takenOf, covers_congr hperm]
  · exact lt_of_covers_keptOf hstack ((covers_filter _ i).1 hi) hj
  · have hsame : indicesIn (rs.foldl putRange []) = indicesIn rs := by
      simp only [indicesIn_eq, (hperm.map Range.size).sum_eq]
    rw [indicesIn_takenOf, hsame, Nat.min_eq_left hn]
  · obtain ⟨k, hk, hstart⟩ := start_of_mem_keptOf (List.mem_of_mem_filter hr)
    exact ⟨k, hperm.mem_iff.1 hk, hstart⟩

/-! ## A die takes from another die -/

/-- The upper half of so many indices, in whole units. -/
def Grid.half (g : Grid) (n : Nat) : Nat := n / g.desc.demand.unit / 2 * g.desc.demand.unit
theorem Grid.half_le (g : Grid) (n : Nat) : g.half n ≤ n :=
  (Nat.mul_le_mul_right _ (Nat.div_le_self _ 2)).trans (Nat.div_mul_le_self n _)

/-- Whether a die takes undealt indices of a grid from another die: its range is exhausted, it has room, and a range can be split. -/
def Chip.hungry (c : Chip) (die : Nat) (g : Grid) : Bool :=
  (g.dieRanges.all fun r => r.who ≠ die || decide (r.hi ≤ r.lo)) && !c.ras.dies.getLsbD die && (c.dieSpFit g die).isSome &&
    (c.unitSpot g.desc.demand die).isSome && g.dieRanges.any fun r => decide (g.desc.demand.unit < r.hi - r.lo)

/-- A die's range is exhausted where none of its ranges holds anything. -/
theorem not_isSome_rangeOf (g : Grid) (die : Nat) :
    (!(g.rangeOf die).isSome) = g.dieRanges.all fun r => r.who ≠ die || decide (r.hi ≤ r.lo) := by
  simp only [isSome_rangeOf, List.not_any_eq_all_not, Bool.not_and, ← decide_not, Nat.not_lt, ne_eq]

/-- A die's steal is of the first grid that it is hungry for. -/
theorem stealDie_eq (c : Chip) (die : Nat) :
    c.stealDie die = ((c.dealable.find? (c.hungry die)).bind fun g => c.giveRange g g.desc.demand.unit die).getD c := by
  unfold Chip.stealDie
  rw [findSome?_ite (p := c.hungry die) fun g _ => ?_]
  have hsplit : (c.giveRange g g.desc.demand.unit die).isSome = g.dieRanges.any fun r => decide (g.desc.demand.unit < r.size) := by
    unfold Chip.giveRange
    rw [Option.isSome_map, isSome_largestRange]
  rw [hsplit]
  unfold Chip.hungry
  simp only [← not_isSome_rangeOf, Bool.not_or, Option.not_isNone]
  rfl

/-! ## The head moves indices from package to package -/

/-- The packages of a grid but one; what each has undealt; and whether one has more than a unit. -/
def Chip.othersOf (c : Chip) (g : Grid) (p : Nat) : List Nat := (c.pkg :: c.partners g).filter (· ≠ p)
def Chip.shareOf (c : Chip) (g : Grid) (p : Nat) : List Range := if p = c.pkg then g.dieRanges else g.elsewhere.filter fun r => r.who = p
def Chip.rich (c : Chip) (g : Grid) (p : Nat) : Bool := (c.othersOf g p).any fun q => decide (g.desc.demand.unit < indicesIn (c.shareOf g q))

/-- A package from which the head takes: it has the most undealt. -/
def Chip.richest (c : Chip) (g : Grid) (p q : Nat) : Prop := q ∈ c.othersOf g p ∧
  (∀ k ∈ c.othersOf g p, indicesIn (c.shareOf g k) < indicesIn (c.shareOf g q) ∨
    (indicesIn (c.shareOf g k) = indicesIn (c.shareOf g q) ∧ q ≤ k)) ∧ g.desc.demand.unit < indicesIn (c.shareOf g q)

/-- The package after the move of half of what another one has. -/
def Chip.movesHalf (c : Chip) (g : Grid) (p q : Nat) : Chip :=
  let x := takeTop (c.shareOf g q) (g.half (indicesIn (c.shareOf g q)))
  if q = c.pkg then
    let theirs := x.2.map fun r => { r with who := p }
    let d := c.setGrid { g with dieRanges := x.1, pkgRanges := g.pkgRanges ++ theirs, elsewhere := g.elsewhere ++ theirs }
    theirs.foldl (fun d r => d.post p (.share (c.gridHandle g).toNat r.lo r.hi)) d
  else (c.setGrid { g with elsewhere := (g.elsewhere.filter fun r => r.who ≠ q) ++ x.1 }).post q (.giveUp (c.gridHandle g).toNat p)

/-- The head has something to move where another package has more than a unit. -/
theorem isSome_stealFor (c : Chip) (g : Grid) (p : Nat) : (c.stealFor g p).isSome = c.rich g p := by
  unfold Chip.stealFor
  rw [Option.isSome_map, isSome_largestRange]
  exact List.any_map

/-- It moves half of what the richest has. -/
theorem stealFor_of_rich {c : Chip} {g : Grid} {p : Nat} (h : c.rich g p = true) :
    ∃ q, c.richest g p q ∧ c.stealFor g p = some (c.movesHalf g p q) := by
  rw [← isSome_stealFor, Chip.stealFor, Option.isSome_map] at h
  obtain ⟨r, hr⟩ := Option.isSome_iff_exists.1 h
  obtain ⟨hmem, hbig, hlead⟩ := largestRange_some hr
  obtain ⟨q, hq, rfl⟩ := List.mem_map.1 hmem
  refine ⟨q, ⟨hq, fun k hk => hlead _ (List.mem_map.2 ⟨k, hk, rfl⟩), hbig⟩, ?_⟩
  unfold Chip.stealFor
  refine (congrArg (Option.map _) hr).trans ?_
  rw [Option.map_some]
  unfold Chip.movesHalf Chip.shareOf
  by_cases hown : q = c.pkg
  · simp only [if_pos hown]
    rfl
  · simp only [if_neg hown]
    rfl

/-- A grid of which this package has no undealt index, and may ask the head for some. -/
def Chip.asksHead (c : Chip) (g : Grid) : Bool :=
  g.dieRanges.isEmpty && (g.desc.named (c.headOf g)).contains c.pkg && (g.remote || c.rich g c.pkg)
/-- A grid that this package heads, of which another one has no undealt index. -/
def Chip.askedBy (c : Chip) (p : Nat) (g : Grid) : Bool :=
  !g.remote && (g.desc.named c.pkg).contains p && p ≠ c.pkg && !(g.elsewhere.any fun r => r.who = p) && c.rich g p

theorem stealHere_eq (c : Chip) :
    c.stealHere = ((c.dealable.find? c.asksHead).bind fun g => if g.remote then some (c.tellHead g .ask) else c.stealFor g c.pkg).getD c := by
  unfold Chip.stealHere
  rw [findSome?_ite (p := c.asksHead) fun g _ => ?_]
  unfold Chip.asksHead
  simp only [apply_ite Option.isSome, isSome_stealFor, Bool.not_or, Bool.not_not]
  cases g.remote <;> simp
theorem stealThere_eq (c : Chip) (p : Nat) :
    c.stealThere p = (((c.disp.grids.filter (·.open)).find? (c.askedBy p)).bind fun g => c.stealFor g p).getD c := by
  unfold Chip.stealThere
  rw [findSome?_ite (p := c.askedBy p) fun g _ => ?_]
  rw [isSome_stealFor]
  unfold Chip.askedBy
  simp only [Bool.not_or, Bool.not_not, ne_eq, decide_not]

/-! ## The rows -/

/-- What a steal of a die leaves. -/
theorem giveRange_of_hungry {c : Chip} {die : Nat} {g : Grid} (h : c.hungry die g = true) :
    ∃ r, r ∈ g.dieRanges ∧ g.desc.demand.unit < r.size ∧ (∀ k ∈ g.dieRanges, r.leads k) ∧
      c.giveRange g g.desc.demand.unit die = some (c.setGrid { g with dieRanges :=
        (g.dieRanges.map fun k => if k = r then { k with hi := k.hi - g.half r.size } else k) ++
          [{ who := die, lo := r.hi - g.half r.size, hi := r.hi }] }) := by
  unfold Chip.hungry at h
  have hsome := (isSome_largestRange g.desc.demand.unit g.dieRanges).trans (Bool.and_eq_true_iff.1 h).2
  obtain ⟨r, hr⟩ := Option.isSome_iff_exists.1 hsome
  obtain ⟨hmem, hbig, hlead⟩ := largestRange_some hr
  refine ⟨r, hmem, hbig, hlead, ?_⟩
  unfold Chip.giveRange
  rw [hr]
  rfl

/-- What a move of the head leaves, in the words of its row. -/
theorem movesHalf_spec (s : State) (g : Grid) (p q : Nat) : ∃ left taken,
    (apart (s.chip.shareOf g q) = true → takesTop (s.chip.shareOf g q) left taken (g.half (indicesIn (s.chip.shareOf g q)))) ∧
    (q = s.chip.pkg → (s.onChip fun c => c.movesHalf g p q) = s.onChip fun c =>
      let theirs := taken.map fun r => { r with who := p }
      let d := c.setGrid { g with dieRanges := left, pkgRanges := g.pkgRanges ++ theirs, elsewhere := g.elsewhere ++ theirs }
      theirs.foldl (fun d r => d.post p (.share (c.gridHandle g).toNat r.lo r.hi)) d) ∧
    (q ≠ s.chip.pkg → (s.onChip fun c => c.movesHalf g p q) = s.onChip fun c =>
      (c.setGrid { g with elsewhere := (g.elsewhere.filter fun r => r.who ≠ q) ++ left }).post q (.giveUp (c.gridHandle g).toNat p)) := by
  refine ⟨_, _, fun hapart => takesTop_takeTop hapart (g.half_le _), fun hown => ?_, fun hother => ?_⟩
  · exact congrArg (fun d => { s with chip := d }) (if_pos hown)
  · exact congrArg (fun d => { s with chip := d }) (if_neg hother)

/-- A die, this package, or another one takes. -/
def Chip.stealOf (c : Chip) (n : Nat) : Chip := if n < 8 then c.stealDie n else if n < 16 then c.stealHere else c.stealThere (n - 16)
theorem exec_steal (s : State) : exec .steal s = .next { s with chip := s.chip.stealOf s.subject } := rfl
theorem stealOf_die {c : Chip} {n : Nat} (h : n < 8) : c.stealOf n = c.stealDie n := if_pos h
theorem stealOf_here {c : Chip} {n : Nat} (hno : ¬ n < 8) (h : n < 16) : c.stealOf n = c.stealHere := (if_neg hno).trans (if_pos h)
theorem stealOf_there {c : Chip} {n : Nat} (hno : ¬ n < 8) (h : ¬ n < 16) : c.stealOf n = c.stealThere (n - 16) :=
  (if_neg hno).trans (if_neg h)

/-- A number that is this package's, and one of another package. -/
theorem isPackage_iff {n : Nat} : (!decide (n < 8) && decide (n < 16)) = true ↔ ¬ n < 8 ∧ n < 16 := by
  simp only [Bool.and_eq_true, Bool.not_eq_true', decide_eq_true_eq, decide_eq_false_iff_not]
theorem isOther_iff {n : Nat} : (!decide (n < 8) && !(!decide (n < 8) && decide (n < 16))) = true ↔ ¬ n < 8 ∧ ¬ n < 16 := by
  simp only [Bool.and_eq_true, Bool.not_eq_true', decide_eq_false_iff_not, Bool.and_eq_false_imp]
  tauto

/-- Rows of stealing. -/
theorem stealFacts_hold : ∀ q ∈ stealFacts, q.holds := by
  intro q hq
  simp only [stealFacts, List.mem_cons, List.not_mem_nil, or_false] at hq
  rcases hq with rfl | rfl | rfl | rfl | rfl | rfl | rfl
  all_goals intro s hok
  all_goals refine ⟨_, exec_steal s, ?_⟩
  · obtain ⟨hdie, htaker⟩ := Bool.and_eq_true_iff.1 hok
    obtain ⟨g, hg⟩ := Option.isSome_iff_exists.1 htaker
    obtain ⟨r, hr, hbig, hlead, hgive⟩ := giveRange_of_hungry (List.find?_some hg)
    refine ⟨g, r, hg, hr, hbig, hlead, ?_⟩
    have hg : s.chip.dealable.find? (s.chip.hungry s.subject) = some g := hg
    rw [stealOf_die (of_decide_eq_true hdie), stealDie_eq, hg, Option.bind_some, hgive, Option.getD_some]
    rfl
  · obtain ⟨hdie, htaker⟩ := Bool.and_eq_true_iff.1 hok
    have hg : s.chip.dealable.find? (s.chip.hungry s.subject) = none := Option.isNone_iff_eq_none.1 htaker
    rw [stealOf_die (of_decide_eq_true hdie), stealDie_eq, hg]
    rfl
  · obtain ⟨hpkg, hasker⟩ := Bool.and_eq_true_iff.1 hok
    obtain ⟨hno, hin⟩ := isPackage_iff.1 hpkg
    have hg : s.chip.dealable.find? s.chip.asksHead = none := Option.isNone_iff_eq_none.1 hasker
    rw [stealOf_here hno hin, stealHere_eq, hg]
    rfl
  · obtain ⟨hpkg, hasker⟩ := Bool.and_eq_true_iff.1 hok
    obtain ⟨hno, hin⟩ := isPackage_iff.1 hpkg
    obtain ⟨g, hg, hremote⟩ := (Option.any_eq_true _ _).1 hasker
    refine ⟨g, hg, ?_⟩
    have hg : s.chip.dealable.find? s.chip.asksHead = some g := hg
    rw [stealOf_here hno hin, stealHere_eq, hg, Option.bind_some, if_pos hremote, Option.getD_some]
    unfold Chip.tellHead Chip.headOf
    rw [if_pos hremote]
    rfl
  · obtain ⟨hpkg, hasker⟩ := Bool.and_eq_true_iff.1 hok
    obtain ⟨hno, hin⟩ := isPackage_iff.1 hpkg
    obtain ⟨g, hg, hhome⟩ := (Option.any_eq_true _ _).1 hasker
    have hhome : ¬ g.remote = true := by simpa using hhome
    have hasks : s.chip.asksHead g = true := List.find?_some hg
    have hrich : s.chip.rich g s.chip.pkg = true := by
      unfold Chip.asksHead at hasks
      simpa [hhome] using (Bool.and_eq_true_iff.1 hasks).2
    obtain ⟨q, hq, hmoves⟩ := stealFor_of_rich hrich
    refine ⟨g, hg, q, hq.1, hq.2.1, hq.2.2, ?_⟩
    have hg : s.chip.dealable.find? s.chip.asksHead = some g := hg
    have hchip : s.chip.stealOf s.subject = s.chip.movesHalf g s.chip.pkg q := by
      rw [stealOf_here hno hin, stealHere_eq, hg, Option.bind_some, if_neg hhome, hmoves, Option.getD_some]
    rw [hchip]
    exact movesHalf_spec s g s.chip.pkg q
  · obtain ⟨hthere, hasked⟩ := Bool.and_eq_true_iff.1 hok
    obtain ⟨hno, hnot⟩ := isOther_iff.1 hthere
    have hg : (s.chip.disp.grids.filter (·.open)).find? (s.chip.askedBy (s.subject - 16)) = none := Option.isNone_iff_eq_none.1 hasked
    rw [stealOf_there hno hnot, stealThere_eq, hg]
    rfl
  · obtain ⟨hthere, hasked⟩ := Bool.and_eq_true_iff.1 hok
    obtain ⟨hno, hnot⟩ := isOther_iff.1 hthere
    obtain ⟨g, hg⟩ := Option.isSome_iff_exists.1 hasked
    have hasked : s.chip.askedBy (s.subject - 16) g = true := List.find?_some hg
    have hrich : s.chip.rich g (s.subject - 16) = true := (Bool.and_eq_true_iff.1 hasked).2
    obtain ⟨q, hq, hmoves⟩ := stealFor_of_rich hrich
    refine ⟨g, hg, q, hq.1, hq.2.1, hq.2.2, ?_⟩
    have hg : (s.chip.disp.grids.filter (·.open)).find? (s.chip.askedBy (s.subject - 16)) = some g := hg
    have hchip : s.chip.stealOf s.subject = s.chip.movesHalf g (s.subject - 16) q := by
      rw [stealOf_there hno hnot, stealThere_eq, hg, Option.bind_some, hmoves, Option.getD_some]
    rw [hchip]
    exact movesHalf_spec s g (s.subject - 16) q

end Sys2Proof.Machine
end

section
/-! PROOFS. What the head of a grid writes at completion: the completion word, the runs of completed blocks and the status record
(R165, R166). -/
namespace Sys2Proof.Machine

/-! ## The completion word -/

theorem word_laidOut (g : Grid) : laidOut g.word 8 [(0, 4, g.completed.length), (4, 3, 0), (7, 1, g.outcome)] := by
  have htop : g.outcome * 2 ^ 24 / 2 ^ (8 * 3) % 2 ^ (8 * 1) = g.outcome % 2 ^ (8 * 1) := by omega
  have hzero : g.outcome * 2 ^ 24 % 2 ^ (8 * 3) = 0 := by omega
  refine laidOut_iff.2 ⟨by simp [Grid.word], ?_⟩
  simp (disch := decide) only [List.forall_mem_cons, List.not_mem_nil, false_implies, implies_true, Grid.word, recField_bytesOf_append,
    recField_past_bytesOf, recField_bytesOf, Nat.reduceSub, Nat.mul_zero, pow_zero, Nat.div_one, Nat.zero_mod, htop, hzero, and_self]

theorem outcome_eq (g : Grid) : g.outcome = if g.soft || g.hard then 3 else if g.faulted = [] then 1 else 2 := by
  unfold Grid.outcome
  simp only [List.isEmpty_iff]

/-! ## Runs of a rising list -/

/-- Runs of something each, that cover a list, with a gap before each but the first. -/
structure RunsOf (l : List Nat) (rs : List (Nat × Nat)) : Prop where
  covers : ∀ i, i ∈ l ↔ ∃ r ∈ rs, r.1 ≤ i ∧ i < r.1 + r.2
  gaps : rs.Pairwise fun a b => a.1 + a.2 < b.1
  full : ∀ r ∈ rs, 0 < r.2

/-- A lower index joins the first run where it is next to it, and is a run of its own else. -/
theorem RunsOf.join {i n : Nat} {l : List Nat} {k : List (Nat × Nat)} (h : RunsOf l ((i + 1, n) :: k)) :
    RunsOf (i :: l) ((i, n + 1) :: k) := by
  obtain ⟨hcovers, hgaps, hfull⟩ := h
  simp only [List.pairwise_cons, List.mem_cons, exists_eq_or_imp, forall_eq_or_imp] at hcovers hgaps hfull
  refine ⟨fun j => ?_, ?_, ?_⟩
  · have hfirst : (i ≤ j ∧ j < i + (n + 1)) ↔ j = i ∨ (i + 1 ≤ j ∧ j < i + 1 + n) := by omega
    simp only [List.mem_cons, exists_eq_or_imp, hcovers, hfirst, or_assoc]
  · refine List.pairwise_cons.2 ⟨fun b hb => ?_, hgaps.2⟩
    have := hgaps.1 b hb
    omega
  · exact List.forall_mem_cons.2 ⟨Nat.succ_pos n, hfull.2⟩
theorem RunsOf.cons {i : Nat} {l : List Nat} {rs : List (Nat × Nat)} (h : RunsOf l rs) (hlow : ∀ r ∈ rs, i + 1 < r.1) :
    RunsOf (i :: l) ((i, 1) :: rs) := by
  obtain ⟨hcovers, hgaps, hfull⟩ := h
  refine ⟨fun j => ?_, List.pairwise_cons.2 ⟨hlow, hgaps⟩, List.forall_mem_cons.2 ⟨Nat.one_pos, hfull⟩⟩
  have hfirst : (i ≤ j ∧ j < i + 1) ↔ j = i := by omega
  simp only [List.mem_cons, exists_eq_or_imp, hcovers, hfirst]

theorem runsOf_spec {l : List Nat} (h : l.Pairwise (· < ·)) : RunsOf l (runsOf l) := by
  induction l with
  | nil => exact ⟨by simp [runsOf], List.Pairwise.nil, by simp [runsOf]⟩
  | cons i l ih =>
    obtain ⟨hi, hl⟩ := List.pairwise_cons.1 h
    specialize ih hl
    unfold runsOf
    cases hruns : runsOf l with
    | nil => exact (hruns ▸ ih).cons (by simp)
    | cons r k =>
      obtain ⟨a, n⟩ := r
      rw [hruns] at ih
      have hpos : 0 < n := ih.full _ List.mem_cons_self
      have ha : i < a := hi a ((ih.covers a).2 ⟨(a, n), List.mem_cons_self, Nat.le_refl a, by dsimp only; omega⟩)
      dsimp only
      split
      next hnext => exact (hnext ▸ ih).join
      next hgap =>
        refine ih.cons (List.forall_mem_cons.2 ⟨by dsimp only; omega, fun b hb => ?_⟩)
        have : a + n < b.1 := (List.pairwise_cons.1 ih.gaps).1 b hb
        omega

/-! ## The status record -/

/-- A table of records of one length, and zeros up to its size. -/
def padded (bs : List Byte) (n : Nat) : List Byte := bs ++ List.replicate (n - bs.length) 0
theorem length_padded {bs : List Byte} {n : Nat} (h : bs.length ≤ n) : (padded bs n).length = n := by
  simp [padded]
  omega

/-- A field of an entry that the table has, and one of an entry past its end. -/
theorem recField_padded {α : Type} {f : α → List Byte} {m : Nat} (hf : ∀ a, (f a).length = m) {l : List α} {k : Nat} {a : α}
    (h : l[k]? = some a) {o j : Nat} (hj : o + j ≤ m) (n : Nat) : recField (padded (l.flatMap f) n) (m * k + o) j = recField (f a) o j :=
  recField_flatMap hf h hj _
theorem recField_padded_past {α : Type} {f : α → List Byte} {m : Nat} (hf : ∀ a, (f a).length = m) {l : List α} {k : Nat}
    (h : l.length ≤ k) (o j n : Nat) : recField (padded (l.flatMap f) n) (m * k + o) j = 0 := by
  have hpast : (l.flatMap f).length ≤ m * k + o := by
    rw [length_flatMap_of_length hf]
    exact (Nat.mul_le_mul_left m h).trans (Nat.le_add_right _ _)
  rw [padded, recField_append_right hpast, recField_zeros]

/-- The 32 bytes before the tables, the table of causes, and the bytes of a run. -/
def Chip.statusHead (c : Chip) (g : Grid) (state : Nat) : List Byte :=
  bytesOf (c.gridHandle g).toNat 8 ++ (bytesOf state 1 ++
  (bytesOf (g.flags ||| (if 64 < (runsOf g.completed).length then 8 else 0)).toNat 1 ++ (bytesOf (min 8 g.reports.length) 1 ++
  (bytesOf (min 64 (runsOf g.completed).length) 1 ++ (bytesOf 0 4 ++ (bytesOf g.completed.length 4 ++ (bytesOf g.cancelled.length 4 ++
  (bytesOf g.neverStarted 4 ++ bytesOf g.faulted.length 4))))))))
def Grid.causeBytes (g : Grid) (k : Nat) : List Byte := bytesOf (min (assocGet g.causes k 0) 0xFFFF_FFFF) 4
def runBytes (r : Nat × Nat) : List Byte := bytesOf r.1 4 ++ bytesOf r.2 4

@[simp] theorem length_statusHead (c : Chip) (g : Grid) (state : Nat) : (c.statusHead g state).length = 32 := by
  simp [Chip.statusHead]
@[simp] theorem length_causeBytes (g : Grid) (k : Nat) : (g.causeBytes k).length = 4 := length_bytesOf _ 4
@[simp] theorem length_runBytes (r : Nat × Nat) : (runBytes r).length = 8 := by simp [runBytes]
@[simp] theorem length_faultReport (r : FaultReport) : r.bytes.length = 32 := by simp [FaultReport.bytes]

/-- The tables of causes, of reports and of runs. -/
def Grid.causeTable (g : Grid) : List Byte := (List.range 64).flatMap g.causeBytes
def Grid.reportTable (g : Grid) : List Byte := padded ((g.reports.take 8).flatMap (·.bytes)) 256
def Grid.runTable (g : Grid) : List Byte := padded (((runsOf g.completed).take 64).flatMap runBytes) 512

@[simp] theorem length_causeTable (g : Grid) : g.causeTable.length = 256 := by
  rw [Grid.causeTable, length_flatMap_of_length (length_causeBytes g), List.length_range]
@[simp] theorem length_reportTable (g : Grid) : g.reportTable.length = 256 := by
  refine length_padded ?_
  rw [length_flatMap_of_length length_faultReport, List.length_take]
  omega
@[simp] theorem length_runTable (g : Grid) : g.runTable.length = 512 := by
  refine length_padded ?_
  rw [length_flatMap_of_length length_runBytes, List.length_take]
  omega

theorem statusRecord_eq (c : Chip) (g : Grid) (state : Nat) :
    c.statusRecord g state = c.statusHead g state ++ (g.causeTable ++ (g.reportTable ++ g.runTable)) := by
  unfold Chip.statusRecord Chip.statusHead Grid.causeTable Grid.reportTable Grid.runTable
  extract_lets runs pad
  have hpad : pad = padded := rfl
  clear_value pad
  subst hpad
  repeat rw [List.append_assoc]
  rfl

theorem length_statusRecord (c : Chip) (g : Grid) (state : Nat) : (c.statusRecord g state).length = 1056 := by
  simp [statusRecord_eq]

/-- The fields before the tables. -/
theorem statusRecord_head_laidOut (c : Chip) (g : Grid) (state : Nat) :
    laidOut (c.statusRecord g state) 1056 [(0, 8, (c.gridHandle g).toNat), (8, 1, state),
      (9, 1, (g.flags ||| (if 64 < (runsOf g.completed).length then 8 else 0)).toNat), (0xA, 1, min 8 g.reports.length),
      (0xB, 1, min 64 (runsOf g.completed).length), (0xC, 4, 0), (0x10, 4, g.completed.length), (0x14, 4, g.cancelled.length),
      (0x18, 4, g.neverStarted), (0x1C, 4, g.faulted.length)] := by
  refine laidOut_iff.2 ⟨length_statusRecord c g state, ?_⟩
  simp (disch := decide) only [List.forall_mem_cons, List.not_mem_nil, false_implies, implies_true, statusRecord_eq, Chip.statusHead,
    List.append_assoc, recField_bytesOf_append, recField_past_bytesOf, Nat.reduceSub, Nat.mul_zero, pow_zero, Nat.div_one, and_self]

/-- An entry of the table of causes, of reports, and of runs. -/
theorem statusRecord_cause (c : Chip) (g : Grid) (state : Nat) {k : Nat} (hk : k < 64) :
    recField (c.statusRecord g state) (0x20 + 4 * k) 4 = min (assocGet g.causes k 0) 0xFFFF_FFFF % 2 ^ (8 * 4) := by
  rw [statusRecord_eq, recField_append_add (length_statusHead c g state)]
  refine (recField_flatMap (length_causeBytes g) (List.getElem?_range hk) (o := 0) (by decide) _).trans ?_
  rw [Grid.causeBytes, recField_bytesOf _ (by decide), Nat.mul_zero, pow_zero, Nat.div_one]
theorem statusRecord_past_reports (c : Chip) (g : Grid) (state o j : Nat) :
    recField (c.statusRecord g state) (0x220 + o) j = recField g.runTable o j := by
  rw [statusRecord_eq, show 0x220 + o = 32 + (256 + (256 + o)) by omega, recField_append_add (length_statusHead c g state),
    recField_append_add (length_causeTable g), recField_append_add (length_reportTable g)]
theorem recField_runTable (g : Grid) {k : Nat} (hk : k < 64) {o j : Nat} (hj : o + j ≤ 8) :
    recField g.runTable (8 * k + o) j = recField (runBytes ((runsOf g.completed).getD k (0, 0))) o j := by
  by_cases hin : k < (runsOf g.completed).length
  · have hget : ((runsOf g.completed).take 64)[k]? = some ((runsOf g.completed).getD k (0, 0)) := by
      rw [List.getElem?_take_of_lt hk, List.getD_eq_getElem?_getD, List.getElem?_eq_getElem hin, Option.getD_some]
    exact recField_padded length_runBytes hget hj 512
  · have hpast : ((runsOf g.completed).take 64).length ≤ k := by
      rw [List.length_take]
      omega
    rw [List.getD_eq_default _ _ (by omega)]
    exact (recField_padded_past length_runBytes hpast o j 512).trans (recField_zeros 8 o j).symm
theorem statusRecord_report (c : Chip) (g : Grid) (state : Nat) {k : Nat} (hk : k < 8) {r : FaultReport} (h : g.reports[k]? = some r) :
    ((c.statusRecord g state).drop (0x120 + 32 * k)).take 32 = r.bytes := by
  have hget : (g.reports.take 8)[k]? = some r := by rw [List.getElem?_take_of_lt hk, h]
  have hfront : (c.statusHead g state ++ g.causeTable).length = 0x120 := by simp
  rw [statusRecord_eq, ← List.append_assoc, ← hfront, List.drop_append, List.drop_eq_nil_of_le (Nat.le_add_right _ _), List.nil_append,
    Nat.add_sub_cancel_left, Grid.reportTable, padded, List.append_assoc, drop_flatMap length_faultReport hget]
  exact List.take_left' (length_faultReport r)

theorem faultReport_laidOut (r : FaultReport) : laidOut r.bytes 32 [(0, 8, r.tval.toNat), (8, 8, r.pc.toNat), (0x10, 4, r.block),
    (0x14, 2, r.thread), (0x16, 1, r.cause), (0x17, 1, r.pkg), (0x18, 8, r.tick)] := by
  refine laidOut_iff.2 ⟨length_faultReport r, ?_⟩
  simp (disch := decide) only [List.forall_mem_cons, List.not_mem_nil, false_implies, implies_true, FaultReport.bytes, List.append_assoc,
    recField_bytesOf_append, recField_past_bytesOf, recField_bytesOf, Nat.reduceSub, Nat.mul_zero, pow_zero, Nat.div_one, and_self]

/-- What the head writes (R165, R166). -/
theorem gridRecords_hold : gridRecords := by
  refine ⟨fun g => ⟨word_laidOut g, outcome_eq g⟩, fun l hl => ⟨(runsOf_spec hl).covers, (runsOf_spec hl).gaps⟩,
    fun c g state => ?_⟩
  refine ⟨statusRecord_head_laidOut c g state, fun k hk => laidOut_iff.2 ⟨length_statusRecord c g state, ?_⟩, fun k r hk hr => ?_⟩
  · simp only [List.forall_mem_cons, List.not_mem_nil, false_implies, implies_true, and_true]
    refine ⟨statusRecord_cause c g state hk, ?_, ?_⟩
    · rw [statusRecord_past_reports]
      refine (recField_runTable g hk (o := 0) (by decide)).trans ?_
      rw [runBytes, recField_bytesOf_append _ (by decide), Nat.mul_zero, pow_zero, Nat.div_one]
    · rw [show 0x224 + 8 * k = 0x220 + (8 * k + 4) by omega, statusRecord_past_reports, recField_runTable g hk (by decide), runBytes,
        recField_past_bytesOf _ (by decide), recField_bytesOf _ (by decide), Nat.sub_self, Nat.mul_zero, pow_zero, Nat.div_one]
  · rw [statusRecord_report c g state hk hr]
    exact faultReport_laidOut r

/-- Settles O52: the rows of the steps, what a steal moves, and the layouts of what the head writes. -/
theorem gridEvents : Obligations.GridEvents := by
  unfold Obligations.GridEvents
  refine ⟨fun slot caps answers q hq => ?_, stealFacts_hold, gridRecords_hold⟩
  exact (List.mem_append.1 hq).elim (gridEventRows_hold slot caps answers q) (timeoutRows_hold q)

end Sys2Proof.Machine
end

section
/-! PROOFS. The steps of a pre-emption: the request, the forced stop, the save, handlers, starving lanes (R163, R212, R224-R229, R236) and
yields (R171). -/
namespace Sys2Proof.Machine

/-! ## Blocks put back -/

/-- A block put back is found by its number. -/
theorem block?_setBlock {c : Chip} {b k : Block} (h : c.block? b.id = some k) : (c.setBlock b).block? b.id = some b := by
  have hmem := List.mem_of_find?_eq_some h
  have hid : k.id = b.id := of_decide_eq_true (List.find?_some (p := fun k : Block => k.id = b.id) h)
  unfold Chip.block? Chip.setBlock
  cases hfound : (c.disp.blocks.map fun k => if k.id = b.id then b else k).find? (·.id = b.id) with
  | none => exact absurd (List.find?_eq_none.1 hfound b (List.mem_map.2 ⟨k, hmem, if_pos hid⟩)) (by simp)
  | some a =>
    obtain ⟨j, -, rfl⟩ := List.mem_map.1 (List.mem_of_find?_eq_some hfound)
    have ha : (if j.id = b.id then b else j).id = b.id := of_decide_eq_true (List.find?_some (p := fun k : Block => k.id = b.id) hfound)
    by_cases hj : j.id = b.id
    · rw [if_pos hj]
    · rw [if_neg hj] at ha
      exact absurd ha hj

/-- Of two blocks of one number put back the later stays. -/
theorem setBlock_setBlock (c : Chip) {a b : Block} (h : a.id = b.id) : (c.setBlock a).setBlock b = c.setBlock b := by
  have hmap : (c.disp.blocks.map fun k => if k.id = a.id then a else k).map (fun k => if k.id = b.id then b else k) =
      c.disp.blocks.map fun k => if k.id = b.id then b else k := by
    rw [List.map_map]
    refine List.map_congr_left fun k _ => ?_
    by_cases hk : k.id = b.id <;> simp [h, hk]
  unfold Chip.setBlock
  rw [hmap]

/-- The blocks that rows speak of. -/
theorem block?_getD {c : Chip} {n : Nat} (h : (c.block? n).isSome = true) : c.block? n = some ((c.block? n).getD default) := by
  obtain ⟨b, hb⟩ := Option.isSome_iff_exists.1 h
  rw [hb]
  rfl

/-! ## Requests and the forced stop -/

/-- When a block has been asked, when its handler began, and since when it is restored. -/
def Block.askedAt (b : Block) : Option Nat := match b.preempt with | .requested n => some n | _ => none
def Block.handlerSince (b : Block) : Option Nat := match b.preempt with | .handler n => some n | _ => none
def Block.restoringSince (b : Block) : Option Nat := match b.preempt with | .restoring n => some n | _ => none

theorem askedAt_eq_some {b : Block} {n : Nat} : b.askedAt = some n ↔ b.preempt = .requested n := by
  unfold Block.askedAt
  cases b.preempt <;> simp

theorem exec_preemptionRequest {s : State} {b : Block} (h : s.chip.block? s.subject = some b) :
    exec .preemptionRequest s = .next (if b.askedAt.isSome then s.onChip (·.arriveRequest b.id) else s) := by
  change execPreemptionRequest s = _
  unfold execPreemptionRequest Block.askedAt
  simp only [h]
  cases b.preempt <;> rfl

/-- The threads of a block that have not parked. -/
def Chip.unparked (c : Chip) (b : Block) : List Thread := c.threads.filter fun t => t.ofBlock b.id && t.onCompute && t.wait ≠ .safePark

theorem allParked_eq (c : Chip) (b : Block) : c.allParked b = (c.unparked b).isEmpty := by
  rw [Bool.eq_iff_iff, List.isEmpty_iff, Chip.unparked, List.filter_eq_nil_iff, Chip.allParked, List.all_eq_true]
  refine forall₂_congr fun t _ => ?_
  cases t.ofBlock b.id && t.onCompute <;> simp

/-- Whether a block's threads have had their time to park. -/
def Chip.lateToPark (c : Chip) (b : Block) : Bool := decide (100000 ≤ c.tick - b.askedAt.getD 0)

theorem exec_preemptionWatchdog {s : State} {b : Block} (h : s.chip.block? s.subject = some b) (hasked : b.askedAt.isSome = true) :
    exec .preemptionWatchdog s = .next (if !s.chip.lateToPark b || (s.chip.unparked b).isEmpty then s else s.onChip fun c =>
      ((s.chip.unparked b).foldl (fun c t => match c.thread? t.id with | some t => c.watchdogStop t | none => c)
        (c.arriveRequest b.id)).setBlock { b with watchdog := true }) := by
  obtain ⟨n, hn⟩ := Option.isSome_iff_exists.1 hasked
  have hlate : (!s.chip.lateToPark b) = decide (s.chip.tick - n < 100000) := by
    rw [Chip.lateToPark, hn, Option.getD_some, ← decide_not, decide_eq_decide, Nat.not_le]
  change execPreemptionWatchdog s = _
  unfold execPreemptionWatchdog
  simp only [h, askedAt_eq_some.1 hn]
  rw [hlate]
  exact (apply_ite Host.Outcome.next ..).symm

/-! ## Saves -/

/-- What the threads of a gang grid's part here find when a block of it is saved: the grid enters its sluice again where that was the
last. -/
theorem gangSaved_eq (c : Chip) (b : Block) : (if b.isTask then c else c.gangSaved b.owner) =
    match (if b.isTask then none else (c.grid? b.owner).filter fun g => g.evicted && !g.remote && !g.gated &&
      c.disp.blocks.all fun k => k.isTask || k.owner ≠ b.owner || k.preempt = .saved) with
    | some g => (c.partners g).foldl (fun (d : Chip) p => d.post p (.commit (c.gridHandle g).toNat))
        (c.setGrid { g with gated := true, evicted := false, gateSince := c.tick, retryAt := 0, answers := [] })
    | none => c := by
  cases b.isTask with
  | true => rfl
  | false =>
    simp only [Bool.false_eq_true, if_false]
    unfold Chip.gangSaved
    cases hg : c.grid? b.owner with
    | none => rfl
    | some g =>
      have hleft : (!g.evicted || g.remote || g.gated || c.disp.blocks.any fun k => !k.isTask && k.owner = b.owner && k.preempt ≠ .saved) =
          !(g.evicted && !g.remote && !g.gated && c.disp.blocks.all fun k => k.isTask || k.owner ≠ b.owner || k.preempt = .saved) := by
        simp only [Bool.not_and, Bool.not_not, List.not_all_eq_any_not, Bool.not_or, ne_eq, decide_not]
      dsimp only
      rw [hleft, Option.filter_some, tellOthers_eq]
      cases g.evicted && !g.remote && !g.gated && c.disp.blocks.all fun k => k.isTask || k.owner ≠ b.owner || k.preempt = .saved <;> rfl

theorem savedOf_eq (c : Chip) (b : Block) : c.savedOf b = c.saveBlock b := (gangSaved_eq _ b).symm

/-- Whether a block is to be saved, and whether a thread of it runs its handler first. -/
def Block.saves (b : Block) : Bool := b.askedAt.isSome || b.preempt = .saving
def Chip.handles (c : Chip) (b : Block) : Bool := b.askedAt.isSome && b.preh ≠ 0 && (c.elected b).isSome

/-- The thread that runs the handler of a block that has one. -/
def Chip.handlerThread (c : Chip) (b : Block) : Option Thread := if b.preh = 0 then none else c.elected b
theorem handles_eq (c : Chip) (b : Block) : c.handles b = (b.askedAt.isSome && (c.handlerThread b).isSome) := by
  unfold Chip.handles Chip.handlerThread
  by_cases h : b.preh = 0
  · rw [if_pos h, h]
    simp
  · rw [if_neg h]
    simp only [ne_eq, h, not_false_eq_true, decide_true, Bool.and_true]

/-- The step of a block that has been asked, and of one whose handler has run. -/
theorem saveStep_of_requested {c : Chip} {b : Block} {n : Nat} (h : b.preempt = .requested n) :
    c.saveStep b = if (c.unparked b).isEmpty then match c.handlerThread b with
        | some t => ((c.writeRecord b t).onThread t.id fun t => t.runHandler (c.bars t) b.preh 0).setBlock
            { b with preempt := .handler c.tick }
        | none => if c.drained b then c.saveBlock b else c
      else c := by
  unfold Chip.saveStep
  simp only [h, allParked_eq]
  cases (c.unparked b).isEmpty <;> rfl
theorem saveStep_of_saving {c : Chip} {b : Block} (h : b.preempt = .saving) :
    c.saveStep b = if (c.unparked b).isEmpty && c.drained b then c.saveBlock b else c := by
  unfold Chip.saveStep
  simp only [h, allParked_eq]

/-- A block that is to be saved has been asked, or its handler has run. -/
theorem saves_cases {b : Block} (h : b.saves = true) : (∃ n, b.preempt = .requested n) ∨ b.preempt = .saving := by
  rcases (Bool.or_eq_true _ _).mp h with hasked | hsaving
  · obtain ⟨n, hn⟩ := Option.isSome_iff_exists.1 hasked
    exact .inl ⟨n, askedAt_eq_some.1 hn⟩
  · exact .inr (of_decide_eq_true hsaving)
theorem handlerThread_of_not_handles {c : Chip} {b : Block} {n : Nat} (h : b.preempt = .requested n) (hh : c.handles b = false) :
    c.handlerThread b = none := by
  rw [handles_eq, askedAt_eq_some.2 h] at hh
  simpa using hh

/-- It is not saved then, and a saved one is not to be. -/
theorem not_saved_of_saves {b : Block} (h : b.saves = true) : decide (b.preempt = .saved) = false := by
  rcases saves_cases h with ⟨n, hn⟩ | hn <;> rw [hn] <;> rfl
theorem not_saves_of_saved {b : Block} (h : b.preempt = .saved) : b.saves = false := by
  unfold Block.saves Block.askedAt
  rw [h]
  rfl

/-- A block that is not to be saved, or whose threads or work go on, stays as it is. -/
theorem saveStep_of_not_saves {c : Chip} {b : Block} (h : b.saves = false) : c.saveStep b = c := by
  unfold Block.saves Block.askedAt at h
  unfold Chip.saveStep
  cases hp : b.preempt <;> simp_all
theorem saveStep_of_waits {c : Chip} {b : Block} (hs : b.saves = true)
    (h : (!(c.unparked b).isEmpty || (!c.handles b && !c.drained b)) = true) : c.saveStep b = c := by
  rcases saves_cases hs with ⟨n, hn⟩ | hn
  · rw [saveStep_of_requested hn]
    cases hparked : (c.unparked b).isEmpty with
    | false => rfl
    | true =>
      obtain ⟨hh, hd⟩ : c.handles b = false ∧ c.drained b = false := by simpa [hparked] using h
      simp [handlerThread_of_not_handles hn hh, hd]
  · rw [saveStep_of_saving hn, if_neg]
    intro hboth
    obtain ⟨hparked, hd⟩ := Bool.and_eq_true_iff.1 hboth
    simp [hparked, hd] at h

/-- Parked threads, and no handler to run or one that has run: the block is saved. -/
theorem saveStep_of_saves {c : Chip} {b : Block} (hs : b.saves = true) (hparked : (c.unparked b).isEmpty = true)
    (hh : c.handles b = false) (hd : c.drained b = true) : c.saveStep b = c.savedOf b := by
  rw [savedOf_eq]
  rcases saves_cases hs with ⟨n, hn⟩ | hn
  · rw [saveStep_of_requested hn, if_pos hparked, handlerThread_of_not_handles hn hh]
    exact if_pos hd
  · rw [saveStep_of_saving hn, hparked, hd]
    rfl

/-- The words in which the rows say that a block is saved now. -/
def Chip.savesNow (c : Chip) (n : Nat) : Bool :=
  let b := (c.block? n).getD default
  (c.block? n).isSome && b.saves && (c.unparked b).isEmpty && !c.handles b && c.drained b
theorem saveStep_of_savesNow {c : Chip} {n : Nat} (h : c.savesNow n = true) : (c.block? n).isSome = true ∧
    c.saveStep ((c.block? n).getD default) = c.savedOf ((c.block? n).getD default) := by
  simp only [Chip.savesNow, Bool.and_eq_true, Bool.not_eq_true'] at h
  obtain ⟨⟨⟨⟨hknown, hsaves⟩, hparked⟩, hruns⟩, hdrained⟩ := h
  exact ⟨hknown, saveStep_of_saves hsaves hparked hruns hdrained⟩

/-- Parked threads and a handler: the elected thread's record is written first, then its slot runs the handler. -/
theorem saveStep_of_handles {c : Chip} {b : Block} (hparked : (c.unparked b).isEmpty = true) (hh : c.handles b = true) :
    c.saveStep b = ((c.writeRecord b ((c.elected b).getD {})).onThread ((c.elected b).getD {}).id
      fun t => t.runHandler (c.bars t) b.preh 0).setBlock { b with preempt := .handler c.tick } := by
  unfold Chip.handles at hh
  simp only [Bool.and_eq_true, decide_eq_true_eq] at hh
  obtain ⟨⟨hasked, hpreh⟩, helected⟩ := hh
  obtain ⟨n, hn⟩ := Option.isSome_iff_exists.1 hasked
  obtain ⟨t, ht⟩ := Option.isSome_iff_exists.1 helected
  have hthread : c.handlerThread b = some t := (if_neg hpreh).trans ht
  rw [saveStep_of_requested (askedAt_eq_some.1 hn), if_pos hparked, hthread, ht]
  rfl

/-- The step, without and with a place that a yield frees. -/
theorem exec_preemptionSave_of_not_yields {s : State} {b : Block} (h : s.chip.block? s.subject = some b)
    (hy : (b.yieldFor && ((s.chip.saveStep b).block? b.id).any fun b => b.preempt = .saved) = false) :
    exec .preemptionSave s = .next { s with chip := s.chip.saveStep b } := by
  change execPreemptionSave s = _
  simp only [execPreemptionSave, h, hy]
  rfl
theorem exec_preemptionSave_of_yields {s : State} {b : Block} (h : s.chip.block? s.subject = some b)
    (hy : (b.yieldFor && ((s.chip.saveStep b).block? b.id).any fun b => b.preempt = .saved) = true) :
    exec .preemptionSave s = .next { s with chip := (s.chip.saveStep b).yieldPlace b } := by
  change execPreemptionSave s = _
  simp only [execPreemptionSave, h, hy]
  rfl

/-- A block whose handler starts is not saved. -/
theorem block?_handlerStart {c : Chip} {b : Block} {n : Nat} (h : c.block? n = some b) (t : Thread) (f : Thread → Thread) (k : Nat) :
    (((c.writeRecord b t).onThread t.id f).setBlock { b with preempt := .handler k }).block? b.id =
      some { b with preempt := .handler k } := by
  have hsame : c.sameButMem (c.writeRecord b t) := sameButMem_agentStore ..
  have hfound : ((c.writeRecord b t).onThread t.id f).block? b.id = some b := by
    rw [hsame]
    exact block?_self h
  exact block?_setBlock (b := { b with preempt := .handler k }) hfound

/-- Where the step changes nothing the block is as it was. -/
theorem exec_preemptionSave_of_unchanged {s : State} {b : Block} (h : s.chip.block? s.subject = some b) (hstep : s.chip.saveStep b = s.chip)
    (hy : (b.yieldFor && decide (b.preempt = .saved)) = false) : exec .preemptionSave s = .next s := by
  rw [exec_preemptionSave_of_not_yields h (by rwa [hstep, block?_self h]), hstep]

theorem writeRecord_eq (c : Chip) (b : Block) (t : Thread) : c.writeRecord b t =
    c.agentStore (.cdie (b.core / 80)) (b.saveBase + b.area.threads + 512 * t.ttid) (c.saveRecord b t) := by
  rw [Nat.add_assoc]
  rfl

/-- The handler's start, in the words of its row: the store changes neither the time nor the bars of a thread. -/
theorem handlerStart_eq (c : Chip) (b : Block) (t : Thread) :
    ((c.writeRecord b t).onThread t.id fun t => t.runHandler (c.bars t) b.preh 0).setBlock { b with preempt := .handler c.tick } =
      ((c.writeRecord b t).onThread t.id fun u => u.runHandler ((c.writeRecord b t).bars u) b.preh 0).setBlock
        { b with preempt := .handler (c.writeRecord b t).tick } := by
  have hsame : c.sameButMem (c.writeRecord b t) := sameButMem_agentStore ..
  have hrun : (fun u : Thread => u.runHandler (c.bars u) b.preh 0) = fun u => u.runHandler ((c.writeRecord b t).bars u) b.preh 0 :=
    funext fun u => by rw [hsame.bars]
  rw [hrun, hsame.tick]

/-! ## Handlers past their time, and starving lanes -/

/-- The thread of a block that runs its handler. -/
def Chip.handlerOf (c : Chip) (b : Block) : Option Thread := c.threads.find? fun t => t.ofBlock b.id && t.handler

/-- What becomes of a handler that has run since a time. -/
def State.handlerLate (s : State) (b : Block) (since : Nat) : State :=
  if 1000000 ≤ s.chip.tick - since then s.onChip fun c => c.endHandler ((s.chip.handlerOf b).getD {}) true else s

theorem exec_preemptionHandlerTimeout {s : State} {b : Block} (h : s.chip.block? s.subject = some b)
    (hheld : b.handlerSince.isSome = true) (hrunning : (s.chip.handlerOf b).isSome = true) :
    exec .preemptionHandlerTimeout s = .next (s.handlerLate b (b.handlerSince.getD 0)) := by
  obtain ⟨n, hn⟩ := Option.isSome_iff_exists.1 hheld
  obtain ⟨t, ht⟩ := Option.isSome_iff_exists.1 hrunning
  have hp : b.preempt = .handler n := by
    unfold Block.handlerSince at hn
    cases hp : b.preempt <;> simp_all
  rw [State.handlerLate, hn, ht]
  unfold Chip.handlerOf at ht
  change execPreemptionHandlerTimeout s = _
  simp only [execPreemptionHandlerTimeout, h, hp, ht]
  exact (apply_ite Host.Outcome.next ..).symm
theorem exec_restoreHandlerTimeout {s : State} {b : Block} (h : s.chip.block? s.subject = some b)
    (hheld : b.restoringSince.isSome = true) (hrunning : (s.chip.handlerOf b).isSome = true) :
    exec .restoreHandlerTimeout s = .next (s.handlerLate b (b.restoringSince.getD 0)) := by
  obtain ⟨n, hn⟩ := Option.isSome_iff_exists.1 hheld
  obtain ⟨t, ht⟩ := Option.isSome_iff_exists.1 hrunning
  have hp : b.preempt = .restoring n := by
    unfold Block.restoringSince at hn
    cases hp : b.preempt <;> simp_all
  rw [State.handlerLate, hn, ht]
  unfold Chip.handlerOf at ht
  change execRestoreHandlerTimeout s = _
  simp only [execRestoreHandlerTimeout, h, hp, ht]
  exact (apply_ite Host.Outcome.next ..).symm

/-- The threads of a lane, the waits that hold one, and the lane's block that has to go: the lowest priority, then the youngest. -/
def Chip.laneThreads (c : Chip) (core quarter lane : Nat) : List Thread :=
  c.threads.filter fun t => t.onCompute && t.lane3 == (core, quarter, lane)
def Thread.stuck (t : Thread) : Bool := match t.wait with
  | .slices _ => true | .group _ _ => true | .barrier _ _ _ => true | .ring _ => true | .tile _ _ => true | .token _ => true | _ => false
def lowerBlock (m : Option Block) (b : Block) : Option Block := match m with
  | none => some b
  | some k => if b.prio < k.prio || (b.prio = k.prio && k.started < b.started) then some b else some k
def Chip.laneLoser (c : Chip) (core quarter lane : Nat) : Option Block :=
  (c.disp.blocks.filter fun b => (c.laneThreads core quarter lane).any fun t => t.ofBlock b.id).foldl lowerBlock none

/-- Whether a lane starves: it has a request, none has been met for 10 µs, and all its threads wait. -/
def Chip.starves (c : Chip) (core quarter lane : Nat) : Bool :=
  (c.laneHead core quarter lane).isSome && (c.laneThreads core quarter lane).all Thread.stuck &&
    decide (10000 ≤ c.tick - max ((c.laneHead core quarter lane).getD {}).waitSince (assocGet c.laneMet (core, quarter, lane) 0))

theorem exec_sliceStarvation (s : State) (core quarter lane : Nat) : exec (.sliceStarvation core quarter lane) s = .next
    (if s.chip.starves core quarter lane then
      match s.chip.laneLoser core quarter lane with | none => s | some b => s.onChip fun c => c.requestBlock b.id
    else s) := by
  change execSliceStarvation core quarter lane s = _
  unfold execSliceStarvation
  cases hhead : s.chip.laneHead core quarter lane with
  | none =>
    have hno : s.chip.starves core quarter lane = false := by rw [Chip.starves, hhead]; rfl
    rw [hno]
    simp only [hhead]
    rfl
  | some t =>
    have hnot : (decide (s.chip.tick - max t.waitSince (assocGet s.chip.laneMet (core, quarter, lane) 0) < 10000) ||
        !(s.chip.laneThreads core quarter lane).all Thread.stuck) = !s.chip.starves core quarter lane := by
      simp only [Chip.starves, hhead, Option.isSome_some, Bool.true_and, Option.getD_some, Bool.not_and, ← decide_not, Nat.not_le,
        Bool.or_comm]
    simp only [hhead]
    cases hstarves : s.chip.starves core quarter lane with
    | false => exact if_pos (hnot.trans (congrArg Bool.not hstarves))
    | true =>
      refine (if_neg (Bool.eq_false_iff.1 (hnot.trans (congrArg Bool.not hstarves)))).trans ?_
      rw [if_pos rfl]
      change (match s.chip.laneLoser core quarter lane with
        | none => done s
        | some b => done { s with chip := s.chip.requestBlock b.id }) = _
      cases s.chip.laneLoser core quarter lane <;> rfl

/-! ## Yields -/

/-- The grid of a block, and its resident threads. -/
def Chip.blockGrid (c : Chip) (b : Block) : Option Grid := if b.isTask then none else c.grid? b.owner
def Chip.threadsOn (c : Chip) (b : Block) : List Thread := c.threads.filter fun t => t.ofBlock b.id && t.onCompute

/-- Whether a block's threads have all waited longer than its grid's yield time, and whether another block of the grid waits here. -/
def Chip.idles (c : Chip) (b : Block) (g : Grid) : Bool :=
  !c.isGang b && b.preempt = .none && !b.cancelled && !(c.threadsOn b).isEmpty &&
    (c.threadsOn b).all fun t => t.yields c.tick g.desc.yieldTicks
def Chip.hasMore (c : Chip) (b : Block) (g : Grid) : Bool := (c.mayDeal g && !g.dieRanges.isEmpty) ||
  c.disp.blocks.any fun k => !k.isTask && k.owner = b.owner && k.preempt = .saved && k.saveDie = b.core / 80

theorem exec_yieldEviction_of_no_grid {s : State} {b : Block} (h : s.chip.block? s.subject = some b) (hg : s.chip.blockGrid b = none) :
    exec .yieldEviction s = .next s := by
  change execYieldEviction s = _
  unfold Chip.blockGrid at hg
  simp only [execYieldEviction, h, hg]
  rfl

/-- A request for a block of no gang that has none takes effect at once. -/
theorem requestBlock_of_idles {c : Chip} {b : Block} {g : Grid} (h : c.block? b.id = some b) (hi : c.idles b g = true) :
    c.requestBlock b.id = c.setBlock { b with preempt := .requested c.tick } := by
  simp only [Chip.idles, Bool.and_eq_true, Bool.not_eq_true', decide_eq_true_eq] at hi
  obtain ⟨⟨⟨⟨hgang, hnone⟩, hkept⟩, -⟩, -⟩ := hi
  simp only [Chip.requestBlock, Chip.requestOne, h, hgang, hnone, hkept]
  rfl

theorem exec_yieldEviction {s : State} {b : Block} {g : Grid} (h : s.chip.block? s.subject = some b) (hg : s.chip.blockGrid b = some g) :
    exec .yieldEviction s = .next (if s.chip.idles b g then
        if s.chip.hasMore b g then s.onChip fun c => c.setBlock { b with preempt := .requested c.tick, yieldFor := true }
        else if g.open && (g.remote || !g.elsewhere.isEmpty) then s.onChip fun c => c.askFor g else s
      else s) := by
  have hstays : (s.chip.isGang b || b.preempt ≠ .none || b.cancelled || (s.chip.threadsOn b).isEmpty ||
      !(s.chip.threadsOn b).all fun t => t.yields s.chip.tick g.desc.yieldTicks) = !s.chip.idles b g := by
    simp only [Chip.idles, Bool.not_and, Bool.not_not, ne_eq, decide_not]
  have hself := block?_self h
  unfold Chip.blockGrid at hg
  change execYieldEviction s = _
  simp only [execYieldEviction, h, hg]
  cases hidles : s.chip.idles b g with
  | false => exact if_pos (hstays.trans (congrArg Bool.not hidles))
  | true =>
    refine (if_neg (Bool.eq_false_iff.1 (hstays.trans (congrArg Bool.not hidles)))).trans ?_
    rw [if_pos rfl]
    cases hmore : s.chip.hasMore b g with
    | false =>
      refine (if_pos (congrArg Bool.not hmore)).trans ?_
      cases g.open && (g.remote || !g.elsewhere.isEmpty) <;> rfl
    | true =>
      refine (if_neg (Bool.eq_false_iff.1 (congrArg Bool.not hmore))).trans ?_
      have hput : (s.chip.setBlock { b with preempt := .requested s.chip.tick }).block? b.id =
        some { b with preempt := .requested s.chip.tick } := block?_setBlock (b := { b with preempt := .requested s.chip.tick }) hself
      rw [requestBlock_of_idles hself hidles]
      simp only [hput, setBlock_setBlock]
      rfl

/-! ## The rows -/

/-- Rows of pre-emption. -/
theorem preemptRows_hold (h : Word) (core quarter lane : Nat) : ∀ q ∈ preemptRows h core quarter lane, q.holds := by
  intro q hq
  simp only [preemptRows, List.mem_cons, List.not_mem_nil, or_false] at hq
  rcases hq with rfl | rfl | rfl | rfl | rfl | rfl | rfl | rfl | rfl | rfl | rfl | rfl | rfl | rfl | rfl
  all_goals intro s hok
  · rfl
  -- requests
  · obtain ⟨hknown, hasked⟩ := Bool.and_eq_true_iff.1 hok
    exact (exec_preemptionRequest (block?_getD hknown)).trans (congrArg Host.Outcome.next (if_pos hasked))
  · obtain ⟨hknown, hasked⟩ := Bool.and_eq_true_iff.1 hok
    refine (exec_preemptionRequest (block?_getD hknown)).trans (congrArg Host.Outcome.next (if_neg ?_))
    have hnone : ((s.chip.block? s.subject).getD default).askedAt = none := Option.isNone_iff_eq_none.1 hasked
    rw [hnone]
    exact Bool.false_ne_true
  -- the forced stop
  · obtain ⟨hasks, htime⟩ := Bool.and_eq_true_iff.1 hok
    obtain ⟨hknown, hasked⟩ := Bool.and_eq_true_iff.1 hasks
    exact (exec_preemptionWatchdog (block?_getD hknown) hasked).trans (congrArg Host.Outcome.next (if_pos htime))
  · obtain ⟨hlate, hunparked⟩ := Bool.and_eq_true_iff.1 hok
    obtain ⟨hasks, hlate⟩ := Bool.and_eq_true_iff.1 hlate
    obtain ⟨hknown, hasked⟩ := Bool.and_eq_true_iff.1 hasks
    refine (exec_preemptionWatchdog (block?_getD hknown) hasked).trans (congrArg Host.Outcome.next (if_neg ?_))
    have hlate : s.chip.lateToPark ((s.chip.block? s.subject).getD default) = true := hlate
    rw [hlate, Bool.not_true, Bool.false_or]
    exact Bool.eq_false_iff.1 (Bool.not_eq_true' _ ▸ hunparked)
  -- saves
  · obtain ⟨hidle, hyield⟩ := Bool.and_eq_true_iff.1 hok
    obtain ⟨hidle, hsaving⟩ := Bool.and_eq_true_iff.1 hidle
    obtain ⟨hknown, hasked⟩ := Bool.and_eq_true_iff.1 hidle
    refine exec_preemptionSave_of_unchanged (block?_getD hknown) (saveStep_of_not_saves ?_) (Bool.not_eq_true' _ ▸ hyield)
    exact Bool.or_eq_false_iff.2 ⟨Bool.not_eq_true' _ ▸ hasked, decide_eq_false (of_decide_eq_true hsaving)⟩
  · obtain ⟨hsaves, hwaits⟩ := Bool.and_eq_true_iff.1 hok
    obtain ⟨hknown, hsaves⟩ := Bool.and_eq_true_iff.1 hsaves
    refine exec_preemptionSave_of_unchanged (block?_getD hknown) (saveStep_of_waits hsaves hwaits) ?_
    rw [not_saved_of_saves hsaves, Bool.and_false]
  · obtain ⟨hparked, hruns⟩ := Bool.and_eq_true_iff.1 hok
    obtain ⟨hasks, hparked⟩ := Bool.and_eq_true_iff.1 hparked
    obtain ⟨hknown, hasked⟩ := Bool.and_eq_true_iff.1 hasks
    have hstep := saveStep_of_handles hparked hruns
    refine (exec_preemptionSave_of_not_yields (block?_getD hknown) ?_).trans ?_
    · rw [hstep, block?_handlerStart (block?_getD hknown)]
      exact Bool.and_false _
    · rw [hstep, handlerStart_eq, writeRecord_eq]
      rfl
  · obtain ⟨hsaves, hkeeps⟩ := Bool.and_eq_true_iff.1 hok
    obtain ⟨hknown, hstep⟩ := saveStep_of_savesNow hsaves
    refine (exec_preemptionSave_of_not_yields (block?_getD hknown) ?_).trans ?_
    · rw [show ((s.chip.block? s.subject).getD default).yieldFor = false from Bool.not_eq_true' _ ▸ hkeeps, Bool.false_and]
    · rw [hstep]
      rfl
  · obtain ⟨hyields, hsaved⟩ := Bool.and_eq_true_iff.1 hok
    obtain ⟨hsaves, hyields⟩ := Bool.and_eq_true_iff.1 hyields
    obtain ⟨hknown, hstep⟩ := saveStep_of_savesNow hsaves
    refine (exec_preemptionSave_of_yields (block?_getD hknown) ?_).trans ?_
    · rw [hstep]
      exact Bool.and_eq_true_iff.2 ⟨hyields, hsaved⟩
    · rw [hstep]
      rfl
  · obtain ⟨hyields, hsaved⟩ := Bool.and_eq_true_iff.1 hok
    obtain ⟨hknown, hyields⟩ := Bool.and_eq_true_iff.1 hyields
    have hstep := saveStep_of_not_saves (c := s.chip) (not_saves_of_saved (of_decide_eq_true hsaved))
    refine (exec_preemptionSave_of_yields (block?_getD hknown) ?_).trans ?_
    · rw [hstep, block?_self (block?_getD hknown)]
      exact Bool.and_eq_true_iff.2 ⟨hyields, hsaved⟩
    · rw [hstep]
      rfl
  -- handlers past their time
  · obtain ⟨hheld, hrunning⟩ := Bool.and_eq_true_iff.1 hok
    obtain ⟨hknown, hheld⟩ := Bool.and_eq_true_iff.1 hheld
    exact exec_preemptionHandlerTimeout (block?_getD hknown) hheld hrunning
  · obtain ⟨hheld, hrunning⟩ := Bool.and_eq_true_iff.1 hok
    obtain ⟨hknown, hheld⟩ := Bool.and_eq_true_iff.1 hheld
    exact exec_restoreHandlerTimeout (block?_getD hknown) hheld hrunning
  -- starving lanes
  · have hnot : s.chip.starves core quarter lane = false := Bool.not_eq_true' _ ▸ hok
    rw [exec_sliceStarvation, hnot]
    rfl
  · have hstarves : s.chip.starves core quarter lane = true := hok
    rw [exec_sliceStarvation, hstarves]
    rfl

/-- The grid that the rows of yields speak of. -/
theorem blockGrid_getD {c : Chip} {b : Block} (h : (c.blockGrid b).isSome = true) :
    c.blockGrid b = some ((c.blockGrid b).getD default) := by
  obtain ⟨g, hg⟩ := Option.isSome_iff_exists.1 h
  rw [hg]
  rfl

/-- A wait in which a thread may make room for another block; the words in which the rows say that a block idles. -/
def Thread.waitsLong (t : Thread) : Bool := match t.wait with
  | .barrier _ _ _ => true | .group _ _ => true | .ring _ => true | .tile _ _ => true | .token _ => true | _ => false
theorem yields_eq (t : Thread) (now ticks : Nat) : t.yields now ticks = (decide (ticks < now - t.waitSince) && t.waitsLong) :=
  Bool.and_comm ..
def Chip.idleAt (c : Chip) (n : Nat) : Bool :=
  let b := (c.block? n).getD default
  (c.block? n).isSome && (c.blockGrid b).isSome && !c.isGang b && b.preempt = .none && !b.cancelled && !(c.threadsOn b).isEmpty &&
    (c.threadsOn b).all fun t =>
      decide (((c.blockGrid b).getD default).desc.yieldTicks < c.tick - t.waitSince) && t.waitsLong
theorem idleAt_eq (c : Chip) (n : Nat) : c.idleAt n = ((c.block? n).isSome &&
    ((c.blockGrid ((c.block? n).getD default)).isSome &&
      c.idles ((c.block? n).getD default) ((c.blockGrid ((c.block? n).getD default)).getD default))) := by
  simp only [Chip.idleAt, Chip.idles, yields_eq, Bool.and_assoc]
theorem idleAt_iff {c : Chip} {n : Nat} : c.idleAt n = true ↔ (c.block? n).isSome = true ∧
    (c.blockGrid ((c.block? n).getD default)).isSome = true ∧
      c.idles ((c.block? n).getD default) ((c.blockGrid ((c.block? n).getD default)).getD default) = true := by
  simp only [idleAt_eq, Bool.and_eq_true]

/-- What the step does with a block that idles, and with another one. -/
theorem exec_yieldEviction_of_idle {s : State} (h : s.chip.idleAt s.subject = true) {b : Block} {g : Grid}
    (hb : b = (s.chip.block? s.subject).getD default) (hg : g = (s.chip.blockGrid b).getD default) :
    exec .yieldEviction s = .next (
      if s.chip.hasMore b g then s.onChip fun c => c.setBlock { b with preempt := .requested c.tick, yieldFor := true }
      else if g.open && (g.remote || !g.elsewhere.isEmpty) then s.onChip fun c => c.askFor g else s) := by
  subst hg hb
  obtain ⟨hknown, hgrid, hidles⟩ := idleAt_iff.1 h
  exact (exec_yieldEviction (block?_getD hknown) (blockGrid_getD hgrid)).trans (congrArg Host.Outcome.next (if_pos hidles))
theorem exec_yieldEviction_of_not_idle {s : State} (hknown : (s.chip.block? s.subject).isSome = true)
    (h : s.chip.idleAt s.subject = false) : exec .yieldEviction s = .next s := by
  rw [idleAt_eq, hknown, Bool.true_and] at h
  cases hgrid : (s.chip.blockGrid ((s.chip.block? s.subject).getD default)).isSome with
  | false => exact exec_yieldEviction_of_no_grid (block?_getD hknown) (Option.not_isSome_iff_eq_none.1 (Bool.eq_false_iff.1 hgrid))
  | true =>
    rw [hgrid, Bool.true_and] at h
    exact (exec_yieldEviction (block?_getD hknown) (blockGrid_getD hgrid)).trans
      (congrArg Host.Outcome.next (if_neg (Bool.eq_false_iff.1 h)))

/-- Rows of the yields. -/
theorem yieldRows_hold : ∀ q ∈ yieldRows, q.holds := by
  intro q hq
  simp only [yieldRows, List.mem_cons, List.not_mem_nil, or_false] at hq
  rcases hq with rfl | rfl | rfl | rfl
  all_goals intro s hok
  · obtain ⟨hknown, hno⟩ := Bool.and_eq_true_iff.1 hok
    exact exec_yieldEviction_of_not_idle hknown (Bool.not_eq_true' _ ▸ hno)
  · obtain ⟨hidle, hmore⟩ := Bool.and_eq_true_iff.1 hok
    exact (exec_yieldEviction_of_idle hidle rfl rfl).trans (congrArg Host.Outcome.next (if_pos hmore))
  · obtain ⟨hidle, helse⟩ := Bool.and_eq_true_iff.1 hok
    obtain ⟨hidle, hnone⟩ := Bool.and_eq_true_iff.1 hidle
    refine (exec_yieldEviction_of_idle hidle rfl rfl).trans (congrArg Host.Outcome.next ?_)
    exact (if_neg (Bool.eq_false_iff.1 (Bool.not_eq_true' _ ▸ hnone))).trans (if_pos helse)
  · obtain ⟨hidle, hno⟩ := Bool.and_eq_true_iff.1 hok
    obtain ⟨hidle, hnone⟩ := Bool.and_eq_true_iff.1 hidle
    refine (exec_yieldEviction_of_idle hidle rfl rfl).trans (congrArg Host.Outcome.next ?_)
    exact (if_neg (Bool.eq_false_iff.1 (Bool.not_eq_true' _ ▸ hnone))).trans (if_neg (Bool.eq_false_iff.1 (Bool.not_eq_true' _ ▸ hno)))

end Sys2Proof.Machine
end

section
/-! PROOFS. The layout of a save area (R110, R230-R232): its sections, its header, and the records of an issue group, a tile and a
thread. -/
namespace Sys2Proof.Machine

/-! ## The sections -/

theorem area_sections (b : Block) : b.area.groups = 64 ∧ b.area.tiles = b.area.groups + 64 * (b.demand 16).n ∧
    b.area.bars = b.area.tiles + roundUp (32 * b.tiles.length) 64 ∧ b.area.threads = b.area.bars + roundUp (8 * b.nbar) 64 ∧
    b.area.lanes = b.area.threads + 512 * b.nthr ∧ b.area.sp = b.area.lanes + roundUp (b.lsbytes * b.nthr) 64 ∧
    b.area.acc = b.area.sp + (if b.preh = 0 then roundUp b.spbytes 64 else 0) ∧
    b.area.wb = b.area.acc + (if b.preh = 0 then (if b.twin then 2 else 1) * b.accbytes else 0) := by
  have hhandler : ∀ x : Nat, (if (b.demand 16).handler then 0 else x) = if b.preh = 0 then x else 0 := fun x => by
    by_cases h : b.preh = 0 <;> simp [Block.demand, h]
  exact ⟨rfl, rfl, rfl, rfl, rfl, rfl, congrArg _ (hhandler _), congrArg _ (hhandler _)⟩

/-! ## The header and the record of a tile -/

theorem areaHeader_laidOut (c : Chip) (b : Block) (h : Word) : laidOut (c.areaHeader b h) 64 [(0, 8, h.toNat), (8, 4, b.index),
    (0xC, 2, b.nthr), (0xE, 1, (b.demand 16).n),
    (0xF, 1, flag b.twin + 2 * flag (b.preh ≠ 0) + 4 * flag b.watchdog + 8 * flag (c.isGang b) + 16 * flag b.handlerFailed +
      32 * flag b.detecting),
    (0x10, 1, b.core / 80), (0x11, 1, b.member), (0x12, 1, b.groupLog),
    (0x13, 1, (c.threads.filter fun t => t.ofBlock b.id && t.away).length), (0x14, 4, b.saveSize), (0x18, 8, c.tick), (0x20, 32, 0)] := by
  refine laidOut_iff.2 ⟨by simp [Chip.areaHeader], ?_⟩
  simp (disch := decide) only [List.forall_mem_cons, List.not_mem_nil, false_implies, implies_true, Chip.areaHeader, List.append_assoc,
    recField_bytesOf_append, recField_past_bytesOf, recField_zeros, Nat.reduceSub, Nat.mul_zero, pow_zero, Nat.div_one, Nat.zero_mod,
    and_self]

theorem tileRecord_laidOut (k : Tile) : laidOut (tileRecord k) 32 [(0, 4, k.base), (4, 2, k.rows), (6, 2, k.rowBytes), (8, 1, k.swz),
    (9, 1, k.state.code + 4 * flag k.phase), (0xA, 2, 0), (0xC, 4, if k.state = .filling then k.issued else 0),
    (0x10, 4, if k.state = .filling then k.pending else 0), (0x14, 12, 0)] := by
  refine laidOut_iff.2 ⟨by simp [tileRecord], ?_⟩
  simp (disch := decide) only [List.forall_mem_cons, List.not_mem_nil, false_implies, implies_true, tileRecord, List.append_assoc,
    recField_bytesOf_append, recField_past_bytesOf, recField_bytesOf, Nat.reduceSub, Nat.mul_zero, pow_zero, Nat.div_one, and_self]

/-! ## The record of an issue group -/

/-- A mask with the bits of the numbers below n that have a property. -/
def markedBits (p : Nat → Bool) (n : Nat) : Nat := (List.range n).foldl (fun m k => if p k then m + 2 ^ k else m) 0

theorem markedBits_succ (p : Nat → Bool) (n : Nat) : markedBits p (n + 1) = if p n then markedBits p n + 2 ^ n else markedBits p n := by
  simp only [markedBits, List.range_succ, List.foldl_append, List.foldl_cons, List.foldl_nil]

theorem markedBits_lt (p : Nat → Bool) (n : Nat) : markedBits p n < 2 ^ n := by
  induction n with
  | zero => exact Nat.one_pos
  | succ n ih =>
    rw [markedBits_succ, pow_succ]
    split <;> omega

theorem testBit_markedBits (p : Nat → Bool) (n k : Nat) : (markedBits p n).testBit k = (decide (k < n) && p k) := by
  induction n with
  | zero => simp [markedBits]
  | succ n ih =>
    have hadd : markedBits p n + 2 ^ n = 2 ^ n ||| markedBits p n := by
      rw [Nat.add_comm, ← Nat.mul_one (2 ^ n), Nat.two_pow_add_eq_or_of_lt (markedBits_lt p n)]
    rw [markedBits_succ]
    split
    next hp =>
      rw [hadd, Nat.testBit_or, Nat.testBit_two_pow, ih]
      rcases Nat.lt_trichotomy k n with hk | rfl | hk
      · simp [hk, Nat.lt_succ_of_lt hk, Nat.ne_of_gt hk]
      · simp [hp]
      · simp [Nat.ne_of_lt hk, show ¬ k < n by omega, show ¬ k < n + 1 by omega]
    next hp =>
      rw [ih]
      rcases Nat.lt_trichotomy k n with hk | rfl | hk
      · simp [hk, Nat.lt_succ_of_lt hk]
      · simp [hp]
      · simp [show ¬ k < n by omega, show ¬ k < n + 1 by omega]

/-- The threads of a block that are in a place of an issue group and have not ended. -/
def Chip.occupies (c : Chip) (b : Block) (i k : Nat) : Bool :=
  c.threads.any fun t => t.ofBlock b.id && t.ttid = 32 * i + k && t.place ≠ .ended
def maskBytes (gm : List (BitVec 32)) (k : Nat) : List Byte := bytesOf (gm.getD k 0).toNat 4
theorem length_maskBytes (gm : List (BitVec 32)) (k : Nat) : (maskBytes gm k).length = 4 := length_bytesOf _ 4

theorem groupRecord_eq {c : Chip} {b : Block} {i : Nat} {p : Nat × Nat × Nat} {g : IssueGroup} (h : c.ig? p.1 p.2.1 p.2.2 = some g) :
    c.groupRecord b i p = (List.range 12).flatMap (maskBytes g.gm) ++
      (bytesOf (markedBits (c.occupies b i) 32) 4 ++ (bytesOf i 1 ++ List.replicate 11 0)) := by
  unfold Chip.groupRecord
  simp only [h, List.append_assoc]
  rfl

theorem length_maskTable (gm : List (BitVec 32)) : ((List.range 12).flatMap (maskBytes gm)).length = 48 := by
  rw [length_flatMap_of_length (length_maskBytes gm), List.length_range]

theorem length_groupRecord {c : Chip} {b : Block} {i : Nat} {p : Nat × Nat × Nat} {g : IssueGroup} (h : c.ig? p.1 p.2.1 p.2.2 = some g) :
    (c.groupRecord b i p).length = 64 := by
  rw [groupRecord_eq h, List.length_append, length_maskTable]
  simp

theorem groupRecord_mask {c : Chip} {b : Block} {i : Nat} {p : Nat × Nat × Nat} {g : IssueGroup} (h : c.ig? p.1 p.2.1 p.2.2 = some g)
    {k : Nat} (hk : k < 12) : recField (c.groupRecord b i p) (4 * k) 4 = (g.gm.getD k 0).toNat % 2 ^ (8 * 4) := by
  rw [groupRecord_eq h]
  refine (recField_flatMap (length_maskBytes g.gm) (List.getElem?_range hk) (o := 0) (by decide) _).trans ?_
  rw [maskBytes, recField_bytesOf _ (by decide), Nat.mul_zero, pow_zero, Nat.div_one]
theorem groupRecord_past_masks {c : Chip} {b : Block} {i : Nat} {p : Nat × Nat × Nat} {g : IssueGroup} (h : c.ig? p.1 p.2.1 p.2.2 = some g)
    (o j : Nat) : recField (c.groupRecord b i p) (48 + o) j =
      recField (bytesOf (markedBits (c.occupies b i) 32) 4 ++ (bytesOf i 1 ++ List.replicate 11 0)) o j := by
  rw [groupRecord_eq h, recField_append_add (length_maskTable g.gm)]

theorem groupRecord_laidOut {c : Chip} {b : Block} {i : Nat} {p : Nat × Nat × Nat} {g : IssueGroup} (h : c.ig? p.1 p.2.1 p.2.2 = some g)
    {k : Nat} (hk : k < 12) : laidOut (c.groupRecord b i p) 64 [(4 * k, 4, (g.gm.getD k 0).toNat), (0x34, 1, i), (0x35, 11, 0)] := by
  refine laidOut_iff.2 ⟨length_groupRecord h, ?_⟩
  simp only [List.forall_mem_cons, List.not_mem_nil, false_implies, implies_true, and_true]
  refine ⟨groupRecord_mask h hk, (groupRecord_past_masks h 4 1).trans ?_, (groupRecord_past_masks h 5 11).trans ?_⟩
  all_goals simp (disch := decide) only [recField_bytesOf_append, recField_past_bytesOf, recField_zeros, Nat.reduceSub, Nat.mul_zero,
    pow_zero, Nat.div_one, Nat.zero_mod]

theorem groupRecord_occupancy {c : Chip} {b : Block} {i : Nat} {p : Nat × Nat × Nat} {g : IssueGroup} (h : c.ig? p.1 p.2.1 p.2.2 = some g)
    {k : Nat} (hk : k < 32) : (recField (c.groupRecord b i p) 0x30 4).testBit k = true ↔
      ∃ t ∈ c.threads, t.ofBlock b.id = true ∧ t.ttid = 32 * i + k ∧ t.place ≠ .ended := by
  have hfield : recField (c.groupRecord b i p) 0x30 4 = markedBits (c.occupies b i) 32 := by
    refine (groupRecord_past_masks h 0 4).trans ?_
    rw [recField_bytesOf_append _ (by decide), Nat.mul_zero, pow_zero, Nat.div_one, Nat.mod_eq_of_lt (markedBits_lt _ 32)]
  rw [hfield, testBit_markedBits, decide_eq_true hk, Bool.true_and, Chip.occupies, List.any_eq_true]
  simp only [Bool.and_eq_true, decide_eq_true_eq, and_assoc]

/-! ## The record of a thread -/

/-- The registers of a record, x1 to x31: stored or zero. -/
def Thread.storedReg (t : Thread) (stored : BitVec 32) (k : Nat) : List Byte :=
  bytesOf (if stored.getLsbD (k + 1) then (readX t.regs (k + 1)).toNat else 0) 8
theorem length_storedReg (t : Thread) (stored : BitVec 32) (k : Nat) : (t.storedReg stored k).length = 8 := length_bytesOf _ 8
def Thread.storedRegs (t : Thread) (stored : BitVec 32) : List Byte := (List.range 31).flatMap (t.storedReg stored)

theorem length_storedRegs (t : Thread) (stored : BitVec 32) : (t.storedRegs stored).length = 248 := by
  unfold Thread.storedRegs
  rw [length_flatMap_of_length (length_storedReg t stored), List.length_range]

theorem recField_past_storedRegs (t : Thread) (stored : BitVec 32) {o : Nat} (h : 248 ≤ o) (r : List Byte) (k : Nat) :
    recField (t.storedRegs stored ++ r) o k = recField r (o - 248) k := by
  rw [recField_append_right (by rw [length_storedRegs]; exact h), length_storedRegs]

/-- The fields of a record behind its pc and its registers. -/
def recordRest (t : Thread) (a : RecordArgs) : List Byte :=
  bytesOf t.fcsr.toNat 8 ++ (bytesOf t.tflags.toNat 8 ++ (bytesOf t.tmode.toNat 8 ++ (bytesOf t.trng.toNat 8 ++ (
  bytesOf t.temu.toNat 8 ++ (bytesOf t.delegRead.toNat 8 ++ (bytesOf t.tepc.toNat 8 ++ (bytesOf t.tcause.toNat 8 ++ (
  bytesOf t.tval.toNat 8 ++ (bytesOf a.poisonMask 8 ++ (
  bytesOf a.ctx.satp.toNat 8 ++ (bytesOf a.ctx.vsatp.toNat 8 ++ (bytesOf a.ctx.hgatp.toNat 8 ++ (bytesOf a.ctx.flags 8 ++ (
  bytesOf t.osid.toNat 8 ++ (bytesOf t.tgrid.toNat 8 ++ (bytesOf t.tblk 8 ++ (bytesOf (t.ttid + t.trole * 2 ^ 32) 8 ++ (
  bytesOf a.foot 4 ++ (bytesOf a.reason 1 ++ (bytesOf a.cause 1 ++ (bytesOf a.flags 1 ++ (bytesOf 0 1 ++ (
  bytesOf a.live 4 ++ (bytesOf a.locator 4 ++ (bytesOf a.tval.toNat 8 ++ (bytesOf (spawnerTag t) 8 ++ (bytesOf 0 16 ++
  bytesOf a.slices.toNat 64)))))))))))))))))))))))))))
theorem recordBytes_eq (t : Thread) (a : RecordArgs) :
    recordBytes t a = bytesOf t.pc.toNat 8 ++ (t.storedRegs a.stored ++ recordRest t a) := by
  unfold recordBytes Thread.storedRegs recordRest
  extract_lets x
  repeat rw [List.append_assoc]
  rfl
theorem length_recordBytes (t : Thread) (a : RecordArgs) : (recordBytes t a).length = 512 := by
  simp [recordBytes_eq, recordRest, length_storedRegs]

theorem recordBytes_laidOut (t : Thread) (a : RecordArgs) : laidOut (recordBytes t a) 512 [(0, 8, t.pc.toNat), (0x100, 8, t.fcsr.toNat),
    (0x108, 8, t.tflags.toNat), (0x110, 8, t.tmode.toNat), (0x118, 8, t.trng.toNat), (0x120, 8, t.temu.toNat),
    (0x128, 8, t.delegRead.toNat), (0x130, 8, t.tepc.toNat), (0x138, 8, t.tcause.toNat), (0x140, 8, t.tval.toNat),
    (0x150, 8, a.ctx.satp.toNat), (0x158, 8, a.ctx.vsatp.toNat), (0x160, 8, a.ctx.hgatp.toNat), (0x170, 8, t.osid.toNat),
    (0x178, 8, t.tgrid.toNat), (0x180, 8, t.tblk), (0x190, 4, a.foot), (0x194, 1, a.reason), (0x195, 1, a.cause), (0x196, 1, a.flags),
    (0x197, 1, 0), (0x198, 4, a.live), (0x19C, 4, a.locator), (0x1A0, 8, a.tval.toNat), (0x1C0, 64, a.slices.toNat)] := by
  refine laidOut_iff.2 ⟨length_recordBytes t a, ?_⟩
  simp (disch := decide) only [List.forall_mem_cons, List.not_mem_nil, false_implies, implies_true, recordBytes_eq, recordRest,
    recField_bytesOf_append, recField_past_bytesOf, recField_bytesOf, recField_past_storedRegs, Nat.reduceSub, Nat.mul_zero, pow_zero,
    Nat.div_one, Nat.zero_mod, and_self]
theorem recordBytes_register (t : Thread) (a : RecordArgs) {k : Nat} (hk : 0 < k) (hk' : k < 32) :
    recField (recordBytes t a) (8 * k) 8 = (if a.stored.getLsbD k then (readX t.regs k).toNat else 0) % 2 ^ (8 * 8) := by
  obtain ⟨n, rfl⟩ : ∃ n, k = n + 1 := ⟨k - 1, by omega⟩
  rw [recordBytes_eq, show 8 * (n + 1) = 8 + (8 * n + 0) by omega, recField_append_add (length_bytesOf _ 8), Thread.storedRegs,
    recField_flatMap (length_storedReg t a.stored) (List.getElem?_range (by omega)) (by decide), Thread.storedReg,
    recField_bytesOf _ (by decide), Nat.mul_zero, pow_zero, Nat.div_one]

/-- The record of a thread that has no slot: eight bytes with a reason and flags, and the locator of its place. -/
def Block.blankRecord (b : Block) (t : Thread) (reason : List Byte) : List Byte :=
  List.replicate 0x194 0 ++ (reason ++ (bytesOf (b.locator t.ttid) 4 ++ List.replicate 0x60 0))
theorem length_blankRecord (b : Block) (t : Thread) {reason : List Byte} (h : reason.length = 8) :
    (b.blankRecord t reason).length = 512 := by
  simp only [Block.blankRecord, List.length_append, List.length_replicate, h, length_bytesOf]
theorem saveRecord_of_ended {t : Thread} (h : t.place = .ended) (c : Chip) (b : Block) :
    c.saveRecord b t = b.blankRecord t (bytesOf 7 1 ++ bytesOf 0 7) := by
  rw [show bytesOf 7 1 ++ bytesOf 0 7 = bytesOf (7 + 0 * 2 ^ 16) 8 by decide]
  simp only [Chip.saveRecord, h, List.append_assoc]
  rfl
theorem saveRecord_of_away {t : Thread} (h : t.away = true) (c : Chip) (b : Block) :
    c.saveRecord b t = b.blankRecord t (bytesOf 6 1 ++ (bytesOf 0 1 ++ (bytesOf 8 1 ++ bytesOf 0 5))) := by
  have hplace : t.place = .os ∨ t.place = .inbound ∨ ∃ o, t.place = .outbound o := by
    unfold Thread.away at h
    cases hp : t.place <;> simp [hp] at h ⊢
  rw [show bytesOf 6 1 ++ (bytesOf 0 1 ++ (bytesOf 8 1 ++ bytesOf 0 5)) = bytesOf (6 + 8 * 2 ^ 16) 8 by decide]
  rcases hplace with hp | hp | ⟨o, hp⟩
  all_goals
    simp only [Chip.saveRecord, hp, List.append_assoc]
    rfl

theorem endedRecord_laidOut (b : Block) (t : Thread) : laidOut (b.blankRecord t (bytesOf 7 1 ++ bytesOf 0 7)) 512 [(0, 0x194, 0),
    (0x194, 1, 7), (0x195, 7, 0), (0x19C, 4, b.locator t.ttid), (0x1A0, 0x60, 0)] := by
  refine laidOut_iff.2 ⟨length_blankRecord b t (by simp), ?_⟩
  simp (disch := decide) only [List.forall_mem_cons, List.not_mem_nil, false_implies, implies_true, Block.blankRecord, List.append_assoc,
    recField_bytesOf_append, recField_past_bytesOf, recField_zeros, recField_zeros_append, recField_past_zeros, Nat.reduceSub,
    Nat.mul_zero, pow_zero, Nat.div_one, Nat.zero_mod, and_self]
theorem awayRecord_laidOut (b : Block) (t : Thread) :
    laidOut (b.blankRecord t (bytesOf 6 1 ++ (bytesOf 0 1 ++ (bytesOf 8 1 ++ bytesOf 0 5)))) 512 [(0, 0x194, 0), (0x194, 1, 6),
      (0x195, 1, 0), (0x196, 1, 8), (0x197, 5, 0), (0x19C, 4, b.locator t.ttid), (0x1A0, 0x60, 0)] := by
  refine laidOut_iff.2 ⟨length_blankRecord b t (by simp), ?_⟩
  simp (disch := decide) only [List.forall_mem_cons, List.not_mem_nil, false_implies, implies_true, Block.blankRecord, List.append_assoc,
    recField_bytesOf_append, recField_past_bytesOf, recField_zeros, recField_zeros_append, recField_past_zeros, Nat.reduceSub,
    Nat.mul_zero, pow_zero, Nat.div_one, Nat.zero_mod, and_self]

/-- What the record of a thread in its slot says of it. -/
def Chip.slotArgs (c : Chip) (b : Block) (t : Thread) : RecordArgs :=
  let arr := match t.arrived with | some p => 64 + 128 * flag p | none => 0
  let p := t.savedPoison (c.bars t) t.live
  let mask := (List.range 32).foldl (fun m k => if (p.extractLsb' (16 * k) 16) ≠ 0 then m + 2 ^ k else m) 0
  { reason := 6, cause := t.parkCause, flags := t.parkFlags.toNat % 64 + arr, tval := t.parkTval, live := t.live.toNat
    locator := b.locator t.ttid, stored := t.live, poisonMask := mask, slices := p, ctx := t.ctx, foot := t.tfoot }
theorem saveRecord_of_onCompute {t : Thread} (h : t.onCompute = true) (c : Chip) (b : Block) :
    c.saveRecord b t = recordBytes t (c.slotArgs b t) := by
  obtain ⟨k, q, i, l, hp⟩ : ∃ k q i l, t.place = .slot k q i l := by
    unfold Thread.onCompute at h
    cases hp : t.place <;> simp [hp] at h ⊢
  simp only [Chip.saveRecord, hp]
  rfl

theorem areaLayout_holds : areaLayout := by
  refine ⟨area_sections, areaHeader_laidOut, fun c b i p g hg _ => ⟨fun k hk => groupRecord_laidOut hg hk,
    fun k hk => groupRecord_occupancy hg hk⟩, tileRecord_laidOut,
    fun c b t => ⟨fun hslot => ?_, fun hended => ?_, fun haway => ?_⟩⟩
  · rw [saveRecord_of_onCompute hslot]
    refine ⟨recordBytes_laidOut t (c.slotArgs b t), fun k hk hk' => laidOut_iff.2 ⟨length_recordBytes t _, ?_⟩⟩
    simp only [List.forall_mem_cons, List.not_mem_nil, false_implies, implies_true, and_true]
    exact recordBytes_register t (c.slotArgs b t) hk hk'
  · rw [saveRecord_of_ended hended]
    exact endedRecord_laidOut b t
  · rw [saveRecord_of_away haway]
    exact awayRecord_laidOut b t

end Sys2Proof.Machine
end

section
/-! PROOFS. What a restore gives a thread back from its record (R79, R215, R232, R234), and what it gives a block (R225, R233). -/
namespace Sys2Proof.Machine

/-! ## Registers and poisoned bars -/

/-- The registers of a record up to a number, one after another. -/
theorem readX_foldl_writeX (v : Nat → Word) {n : Nat} (hn : n < 32) {k : Nat} (hk : 0 < k) (hk' : k ≤ n) (r : BitVec 2048) :
    readX ((List.range n).foldl (fun r j => writeX r (j + 1) (v (j + 1))) r) k = v k := by
  induction n with
  | zero => omega
  | succ n ih =>
    rw [List.range_succ, List.foldl_append, List.foldl_cons, List.foldl_nil]
    by_cases h : k = n + 1
    · subst h
      exact readX_writeX_self _ (by omega) (by omega) _
    · rw [readX_writeX_of_ne _ h (by omega)]
      exact ih (by omega) (by omega)

theorem readX_recRegs (bs : List Byte) {k : Nat} (hk : 0 < k) (hk' : k < 32) :
    readX (recRegs bs) k = BitVec.ofNat 64 (recField bs (8 * k) 8) :=
  readX_foldl_writeX (fun k => BitVec.ofNat 64 (recField bs (8 * k) 8)) (n := 31) (by decide) hk (by omega) 0

/-- The bits of a mask into which the numbers go that the marked members of a list map to. -/
theorem getLsbD_foldl_markAt (p : Nat → Bool) (f : Nat → Nat) {n : Nat} (hn : n < 64) (l : List Nat) (m : BitVec 64) :
    (l.foldl (fun m a => if p a then m ||| (1#64 <<< f a) else m) m).getLsbD n = true ↔
      m.getLsbD n = true ∨ ∃ a ∈ l, p a = true ∧ f a = n := by
  induction l generalizing m with
  | nil => simp
  | cons a l ih =>
    rw [List.foldl_cons, ih]
    cases hp : p a with
    | false => simp [hp]
    | true => simp [hp, getLsbD_one_shiftLeft hn, or_assoc, eq_comm (a := n)]

theorem getLsbD_barsOf (t : Thread) (b slices : Nat) {n : Nat} (hn : n < 64) : (t.barsOf b slices).getLsbD n = true ↔
    ∃ a, 16 ≤ a ∧ a < t.tfoot ∧ slices.testBit a = true ∧ barOf t.p0 b a = n := by
  unfold Thread.barsOf
  by_cases hzero : slices = 0
  · simp [hzero]
  · rw [if_neg hzero, getLsbD_foldl_markAt _ _ hn]
    simp only [show (0 : BitVec 64).getLsbD n = false from BitVec.getLsbD_zero, Bool.false_eq_true, false_or, List.mem_range,
      Bool.and_eq_true, decide_eq_true_eq]
    exact exists_congr fun a => by tauto

/-! ## The record of a thread -/

theorem loadRecord_eq (t : Thread) (bs : List Byte) :
    t.loadRecord bs = { t with
      pc := BitVec.ofNat 64 (recField bs 0 8), regs := recRegs bs, fcsr := BitVec.ofNat 8 (recField bs 0x100 8)
      tflags := BitVec.ofNat 64 (recField bs 0x108 8) &&& 15, tmode := BitVec.ofNat 64 (recField bs 0x110 8) &&& 7
      trng := if BitVec.ofNat 64 (recField bs 0x118 8) = 0 then 1 else BitVec.ofNat 64 (recField bs 0x118 8)
      temu := BitVec.ofNat 64 (recField bs 0x120 8) &&& ~~~1, tdeleg := delegMask (BitVec.ofNat 64 (recField bs 0x128 8))
      tepc := BitVec.ofNat 64 (recField bs 0x130 8) &&& ~~~1
      tcause := BitVec.ofNat 64 (recField bs 0x138 8) &&& 0x8000_0000_0000_003F, tval := BitVec.ofNat 64 (recField bs 0x140 8) } := by
  unfold Thread.loadRecord
  extract_lets w u
  have hrange : List.range 8 = [0, 1, 2, 3, 4, 5, 6, 7] := rfl
  simp only [hrange, List.foldl_cons, List.foldl_nil, Nat.reduceMul, Nat.reduceAdd, Thread.writeX8]
  rfl

/-- A thread with the state of a record, with nothing outstanding: its window empty at its sp, no token, no fault that parked it. -/
def Thread.reloaded (t : Thread) (bs : List Byte) (n : Nat) : Thread :=
  let u := { t.loadRecord bs with
    tfoot := recField bs 0x190 4, arrived := recArrived bs, corrupt := 0, barPoison := 0, fresh := 0, ctx := recCtx bs }
  let lo := roundDown (readX u.regs 2).toNat 64
  { u with
    barPoison := u.barsOf n (recField bs 0x1C0 64), parkFlags := 0, parkCause := 0, parkTval := 0, live := 0
    tokens := noTokens, win := { u.win with lo := lo, hi := lo, units := [] } }
theorem reload_eq (c : Chip) (b : Block) (t : Thread) :
    c.reload b t = t.reloaded (c.areaRead b (b.area.threads + 512 * t.ttid) 512) (barSize b.detecting) := rfl

theorem recordReloads_holds : recordReloads := by
  intro c b t bs w u
  have hu : u = t.reloaded bs (barSize b.detecting) := reload_eq c b t
  clear_value u bs
  subst hu
  unfold Thread.reloaded
  rw [loadRecord_eq]
  simp only [Thread.writeX8, true_and, and_true]
  have hbit (k : Nat) (hk : k < 64) : (recField bs 0x168 8).testBit k = (w 0x168).getLsbD k := by
    rw [BitVec.getLsbD_ofNat, decide_eq_true hk, Bool.true_and]
  exact ⟨rfl, fun k hk hk' => readX_recRegs bs hk hk', rfl, rfl, rfl, rfl, rfl, rfl, rfl, rfl, rfl, rfl, rfl, hbit 0 (by decide),
    hbit 1 (by decide), rfl, fun n hn => getLsbD_barsOf _ _ _ hn, rfl⟩

/-! ## The restore of a block -/

/-- How a thread of a restored block comes back: a saved one in its own place of the block, with its record and lane store; an ended one
stays ended, and an away one holds its slot. -/
def Chip.comesBack (c : Chip) (b : Block) (t : Thread) : Thread :=
  let p := b.slotOf t.ttid
  if !t.ofBlock b.id || t.place = .ended then t
  else if t.place = .saved then
    { c.reloadLane b (c.reload b { t with place := .slot p.1 p.2.1 p.2.2.1 p.2.2.2, age := 0 }) with
      place := .slot p.1 p.2.1 p.2.2.1 p.2.2.2, wait := .safePark }
  else { t with held := some p }
/-- The model's own case split on its place says the same. -/
theorem comesBack_eq (c : Chip) (b : Block) (t : Thread) :
    (if !t.ofBlock b.id then t
    else
      let p := b.slotOf t.ttid
      match t.place with
      | .saved =>
        let u := { t with place := .slot p.1 p.2.1 p.2.2.1 p.2.2.2, age := 0 }
        { c.reloadLane b (c.reload b u) with place := u.place, wait := .safePark }
      | .ended => t
      | _ => { t with held := some p }) = c.comesBack b t := by
  unfold Chip.comesBack
  cases t.ofBlock b.id with
  | false => rfl
  | true =>
    cases hp : t.place <;> rfl

/-- With its threads back, a block's elected thread runs the restore handler, or all go on. -/
def Chip.runsOrResumes (c : Chip) (b : Block) : Chip :=
  match (if b.resh = 0 then none else c.elected b) with
  | some t => c.onThread t.id fun t => t.runHandler (c.bars t) b.resh (if b.handlerFailed then 2 else 1)
  | none => c.resumeBlock b
theorem runsOrResumes_of_none {c : Chip} {b : Block} (h : b.resh = 0 ∨ c.elected b = none) : c.runsOrResumes b = c.resumeBlock b := by
  unfold Chip.runsOrResumes
  rcases h with h | h
  · rw [if_pos h]
  · rw [h, ite_self]
theorem runsOrResumes_of_some {c : Chip} {b : Block} {t : Thread} (h : b.resh ≠ 0) (ht : c.elected b = some t) :
    c.runsOrResumes b = c.onThread t.id fun t => t.runHandler (c.bars t) b.resh (if b.handlerFailed then 2 else 1) := by
  unfold Chip.runsOrResumes
  rw [if_neg h, ht]

/-- A restore handler's start: a0 is 1, or 2 after a handler that failed. -/
theorem runHandler_restored (t : Thread) (n : Nat) (entry : Word) (failed : Bool) :
    t.runHandler n entry (if failed then 2 else 1) =
      { t.apply n { sets := [(160, 64, if failed then 2 else 1), (176, 64, t.tblk)] } with
        handler := true, wait := .ready, pc := entry, mode := .u, reqPending := false, arrived := none } := by
  cases failed <;> rfl

theorem restoreGives_holds : restoreGives := by
  intro c b0 cores p a b placed loaded word masked ready slot back whole ids resumed asked
  have hform : c.restoreBlock b0 cores p = whole.runsOrResumes b :=
    congrArg (fun f : Thread → Thread => Chip.runsOrResumes { ready with threads := ready.threads.map f } b) (funext (comesBack_eq ready b))
  refine ⟨fun hnone => ?_, fun t hresh ht => ?_⟩
  · exact (hform.trans (runsOrResumes_of_none (b := b) hnone)).trans rfl
  · refine (hform.trans (runsOrResumes_of_some (b := b) hresh ht)).trans ?_
    exact congrArg (whole.onThread t.id) (funext fun u => runHandler_restored u (whole.bars u) b0.resh b0.handlerFailed)

/-- Settles O55: the rows of the steps, the layout of a save area, and what a restore gives back to a thread and to a block. -/
theorem preemption : Obligations.Preemption := by
  unfold Obligations.Preemption
  refine ⟨fun h core quarter lane q hq => ?_, areaLayout_holds, recordReloads_holds, restoreGives_holds⟩
  exact (List.mem_append.1 hq).elim (preemptRows_hold h core quarter lane q) (yieldRows_hold q)

end Sys2Proof.Machine
end
